-- ==== Sys2Proof/Word.lean ====
section
/-! DEFINITION. The widths the manual gives its values (R41), and nothing else. -/

namespace Sys2Proof

/-- One byte of memory, of lane memory or of skim space. -/
abbrev Byte := BitVec 8

/-- One lane register, or one 32-bit instruction word. -/
abbrev Word := BitVec 32

/-- One scalar register, CSR or address. -/
abbrev DWord := BitVec 64

end Sys2Proof
end

