-- ==== Sys2Proof/Config.lean ====
section
/-! DEFINITION. What the manual leaves open and the model leaves free: constants with no body, of which nothing can be proved.
Each is named in the assumption log. -/

namespace Sys2Proof.Config

/-- Core cycles that pass before the n-th look at a clock, of `rdcyc` or of the watchdog (R82, R325): free, log entry 2. -/
opaque stepCycles : Nat → Nat

/-- The n-th byte that another pod device or the host returns for a read the device sends it (R189, R367): free, log entry 6. -/
opaque outsideByte : Nat → Byte

/-- The n-th choice among permitted outcomes that no operand of a step carries: free, log entry 5. -/
opaque freeChoice : Nat → Bool

/-- The n-th value that the manual calls for and does not state: free, log entry 16. -/
opaque openValue : Nat → BitVec 64

/-- SHAKE256 of a byte string, 512 bits (R376, R379): an outside function, log entry 7. -/
opaque shake256 : List Byte → BitVec 512

/-- Falcon-1024 verification of a signature over a message under the vendor key whose digest the fuses hold (R377): log entry 7. -/
opaque falconVerify : BitVec 512 → List Byte → List Byte → Bool

/-- The identity key's signature over a digest (R379): log entry 7. -/
opaque falconSign : BitVec 512 → List Byte

/-- The digest of the identity public key that the fuses hold (R379): log entry 7. -/
opaque identityDigest : BitVec 512

/-- The digest of the vendor public key that the fuses hold (R377): log entry 7. -/
opaque vendorDigest : BitVec 512

/-- The digest of the body of the image with which the part was delivered (R379): log entry 22. -/
opaque deliveredDigest : BitVec 512

/-- The pod device index of this device (`sys.where` 21..16, R308), set by the pod's wiring: log entry 9. -/
opaque deviceIndex : BitVec 6

/-- The L2 set of a 512-byte line within its home slice, modulo 1,024 (R10, R212): the index function is not stated, log entry 11. -/
opaque l2Set : Nat → Nat

/-- The L1 set of a 128-byte line for a carve-out option, modulo the sets of that option (R14, R193): not stated, log entry 11. -/
opaque l1Set : Nat → Nat → Nat

/-- The host's page that Address Translation Services gives for a PASID and a 4 KiB page of bus addresses (R16, R189): an outside function,
log entry 6. -/
opaque atsPage : Nat → Nat → Nat

/-- The send allowances above two that firmware sets at the n-th bring-up, by class, ingress and destination (R354): its choice, log
entry 23. -/
opaque allowances : Nat → List (Nat × Nat)

end Sys2Proof.Config
end

