-- ==== Sys2Proof/Syntax.lean ====
section
/-! DEFINITION. The abstract syntax: one constructor of `Instr` per row of the opcode table. Rows 0 to 128 are scalar words
(R18, R56, R57), rows 129 to 228 are lane words (R28, R37, R58), rows 229 on are the device's own steps (spec/95), which have no
encoding and carry as operands the units they act on. -/

namespace Sys2Proof

/-- A 13-bit immediate or word offset, with the payload of the extension word that follows where there is one (R20, R21). -/
structure Imm where
  /-- bits 12..0 of the first word -/
  lo : BitVec 13
  /-- the extension word's payload -/
  ext : Option (BitVec 24)
  deriving DecidableEq, Repr

/-- A lane word's source field by kind (R30, Table 4). An unused field is `v 0`, all of whose bits are zero. -/
inductive Src where
  /-- kind 00: lane register -/
  | v (r : BitVec 9)
  /-- kind 01: signed literal -/
  | lit (x : BitVec 9)
  /-- kind 10: broadcast scalar register -/
  | s (r : BitVec 6)
  /-- kind 11: read queue q0 to q3 -/
  | q (n : BitVec 2)
  deriving DecidableEq, Repr

/-- A lane word's destination field (R29). A word that writes nothing has `v 0`. -/
inductive Dst where
  /-- kind 0: lane register -/
  | v (r : BitVec 9)
  /-- kind 1, index 0x001 to 0x007: mask register -/
  | m (k : BitVec 3)
  /-- kind 1, index 0x014 to 0x017: scatter queue q(4 + n) -/
  | q (n : BitVec 2)
  /-- kind 1, index 0x020, 0x021: accumulator plane -/
  | a (n : BitVec 1)
  deriving DecidableEq, Repr

/-- The fields of a full lane word (R28, Table 3) but for its opcode, which the constructor of `Instr` names. -/
structure LaneWord where
  /-- M, the switch marker (R34) -/
  mark : Bool
  /-- the guard field (R32) -/
  guard : BitVec 4
  /-- the retain field (R33) -/
  retain : BitVec 2
  dst : Dst
  a : Src
  b : Src
  c : Src
  /-- class modifiers, bits 33..0 (R35) -/
  mods : BitVec 34
  deriving DecidableEq, Repr

/-- The fields of one half of a pair word but for its opcode (R37, Table 6). -/
structure Half where
  dst : BitVec 9
  a : Src
  b : Src
  /-- 0 none, else m1 to m7 -/
  guard : BitVec 3
  /-- bits 3..2 type, bits 1..0 the conversion of `cvt` -/
  mods : BitVec 4
  deriving DecidableEq, Repr

/-- The operations that a half of a pair word may name (R37, R58 "Pair" column). -/
inductive PairOp where
  | mov | add | sub | mul | and | or | xor | andn | shl | shr | sra | min | max | abs | neg
  | fadd | fsub | fmul | fmin | fmax | fabs | fneg | rcp | rsqrt | cvt
  deriving DecidableEq, Repr

/-- How an operation with a pair code stands in a lane word: as a full word, or as half X of a pair word whose half Y is `yop y`. -/
inductive LaneForm where
  | full (w : LaneWord)
  | pair (mark : Bool) (x : Half) (yop : PairOp) (y : Half)
  deriving DecidableEq, Repr

/-- What a request from a host link or a peer port asks for (R16, R367). -/
inductive BusOp where
  | read (n : Nat)
  | write (bytes : List Byte)
  /-- FetchAdd, 64 bits when `wide` -/
  | fetchAdd (wide : Bool) (v : DWord)
  | cas (wide : Bool) (old new : DWord)
  | swap (wide : Bool) (v : DWord)
  deriving DecidableEq, Repr

/-- A request with the device physical address it names. -/
structure BusReq where
  addr : Nat
  op : BusOp
  deriving DecidableEq, Repr

/-- The instructions and device steps: one constructor per row of the opcode table. -/
inductive Instr where
  | add (d : BitVec 6) (a : BitVec 6) (b : BitVec 6) -- ADD R63
  | sub (d : BitVec 6) (a : BitVec 6) (b : BitVec 6) -- SUB R63
  | and (d : BitVec 6) (a : BitVec 6) (b : BitVec 6) -- AND R63
  | or (d : BitVec 6) (a : BitVec 6) (b : BitVec 6) -- OR R63
  | xor (d : BitVec 6) (a : BitVec 6) (b : BitVec 6) -- XOR R63
  | andn (d : BitVec 6) (a : BitVec 6) (b : BitVec 6) -- ANDN R63
  | shl (d : BitVec 6) (a : BitVec 6) (b : BitVec 6) -- SHL R63
  | shr (d : BitVec 6) (a : BitVec 6) (b : BitVec 6) -- SHR R63
  | sra (d : BitVec 6) (a : BitVec 6) (b : BitVec 6) -- SRA R63
  | mul (d : BitVec 6) (a : BitVec 6) (b : BitVec 6) -- MUL R63
  | mulh (d : BitVec 6) (a : BitVec 6) (b : BitVec 6) -- MULH R63
  | mulhn (d : BitVec 6) (a : BitVec 6) (b : BitVec 6) -- MULHN R63
  | div (d : BitVec 6) (a : BitVec 6) (b : BitVec 6) -- DIV R64
  | divn (d : BitVec 6) (a : BitVec 6) (b : BitVec 6) -- DIVN R64
  | rem (d : BitVec 6) (a : BitVec 6) (b : BitVec 6) -- REM R64
  | remn (d : BitVec 6) (a : BitVec 6) (b : BitVec 6) -- REMN R64
  | min (d : BitVec 6) (a : BitVec 6) (b : BitVec 6) -- MIN R63
  | max (d : BitVec 6) (a : BitVec 6) (b : BitVec 6) -- MAX R63
  | minn (d : BitVec 6) (a : BitVec 6) (b : BitVec 6) -- MINN R63
  | maxn (d : BitVec 6) (a : BitVec 6) (b : BitVec 6) -- MAXN R63
  | slt (d : BitVec 6) (a : BitVec 6) (b : BitVec 6) -- SLT R63
  | sltn (d : BitVec 6) (a : BitVec 6) (b : BitVec 6) -- SLTN R63
  | seq (d : BitVec 6) (a : BitVec 6) (b : BitVec 6) -- SEQ R63
  | clz (d : BitVec 6) (a : BitVec 6) -- CLZ R63
  | ctz (d : BitVec 6) (a : BitVec 6) -- CTZ R63
  | pop (d : BitVec 6) (a : BitVec 6) -- POP R63
  | addw (d : BitVec 6) (a : BitVec 6) (b : BitVec 6) -- ADDW R63
  | subw (d : BitVec 6) (a : BitVec 6) (b : BitVec 6) -- SUBW R63
  | addi (d : BitVec 6) (a : BitVec 6) (i : Imm) -- ADDI R65
  | andi (d : BitVec 6) (a : BitVec 6) (i : Imm) -- ANDI R65
  | ori (d : BitVec 6) (a : BitVec 6) (i : Imm) -- ORI R65
  | xori (d : BitVec 6) (a : BitVec 6) (i : Imm) -- XORI R65
  | shli (d : BitVec 6) (a : BitVec 6) (n : BitVec 6) -- SHLI R66
  | shri (d : BitVec 6) (a : BitVec 6) (n : BitVec 6) -- SHRI R66
  | srai (d : BitVec 6) (a : BitVec 6) (n : BitVec 6) -- SRAI R66
  | slti (d : BitVec 6) (a : BitVec 6) (i : Imm) -- SLTI R65
  | sltni (d : BitVec 6) (a : BitVec 6) (i : Imm) -- SLTNI R65
  | muli (d : BitVec 6) (a : BitVec 6) (i : Imm) -- MULI R65
  | pca (d : BitVec 6) (i : Imm) -- PCA R65
  | beq (a : BitVec 6) (b : BitVec 6) (o : Imm) -- BEQ R67
  | bne (a : BitVec 6) (b : BitVec 6) (o : Imm) -- BNE R67
  | blt (a : BitVec 6) (b : BitVec 6) (o : Imm) -- BLT R67
  | bge (a : BitVec 6) (b : BitVec 6) (o : Imm) -- BGE R67
  | bltn (a : BitVec 6) (b : BitVec 6) (o : Imm) -- BLTN R67
  | bgen (a : BitVec 6) (b : BitVec 6) (o : Imm) -- BGEN R67
  | j (o : BitVec 25) -- J R68
  | call (o : BitVec 25) -- CALL R68
  | jlr (d : BitVec 6) (a : BitVec 6) (i : Imm) -- JLR R68
  | loop (a : BitVec 6) (o : Imm) -- LOOP R69
  | lexec (a : BitVec 6) (i : Imm) -- LEXEC R74
  | lexecC (c : BitVec 6) (a : BitVec 6) (i : Imm) -- LEXEC_C R75
  | lany (d : BitVec 6) (k : BitVec 3) -- LANY R77
  | lall (d : BitVec 6) (k : BitVec 3) -- LALL R77
  | lcount (d : BitVec 6) (k : BitVec 3) -- LCOUNT R77
  | lsync -- LSYNC R79
  | lread (d : BitVec 6) (a : BitVec 6) (n : BitVec 9) -- LREAD R78
  | exit -- EXIT R81
  | rdcyc (d : BitVec 6) -- RDCYC R82
  | csrr (d : BitVec 6) (c : BitVec 12) -- CSRR R83
  | csrw (a : BitVec 6) (c : BitVec 12) -- CSRW R83
  | scw (d : BitVec 6) (a : BitVec 6) (t : BitVec 2) -- SCW R100
  | xcnt (d : BitVec 6) (k : BitVec 2) (f : BitVec 4) -- XCNT R107
  | xclr (k : BitVec 2) (f : BitVec 4) -- XCLR R108
  | dLd (n : BitVec 4) (a : BitVec 6) (i : Imm) -- D_LD R137
  | dSt (n : BitVec 4) (a : BitVec 6) (i : Imm) -- D_ST R137
  | dMov (n : BitVec 4) (m : BitVec 4) -- D_MOV R137
  | dSet (n : BitVec 4) (a : BitVec 6) (f : BitVec 7) -- D_SET R137
  | dGet (d : BitVec 6) (m : BitVec 4) (f : BitVec 7) -- D_GET R137
  | accClr (n : BitVec 1) -- ACC_CLR R170
  | accAnc (n : BitVec 1) (a : BitVec 6) -- ACC_ANC R171
  | ldb (d : BitVec 6) (a : BitVec 6) (i : Imm) -- LDB R197
  | ldbn (d : BitVec 6) (a : BitVec 6) (i : Imm) -- LDBN R197
  | ldh (d : BitVec 6) (a : BitVec 6) (i : Imm) -- LDH R197
  | ldhn (d : BitVec 6) (a : BitVec 6) (i : Imm) -- LDHN R197
  | ldw (d : BitVec 6) (a : BitVec 6) (i : Imm) -- LDW R197
  | ldwn (d : BitVec 6) (a : BitVec 6) (i : Imm) -- LDWN R197
  | ldd (d : BitVec 6) (a : BitVec 6) (i : Imm) -- LDD R197
  | stb (d : BitVec 6) (a : BitVec 6) (i : Imm) -- STB R197
  | sth (d : BitVec 6) (a : BitVec 6) (i : Imm) -- STH R197
  | stw (d : BitVec 6) (a : BitVec 6) (i : Imm) -- STW R197
  | std (d : BitVec 6) (a : BitVec 6) (i : Imm) -- STD R197
  | atomAdd (d : BitVec 6) (a : BitVec 6) (b : BitVec 6) (w : Bool) (o : BitVec 2) -- ATOM_ADD R206
  | atomAnd (d : BitVec 6) (a : BitVec 6) (b : BitVec 6) (w : Bool) (o : BitVec 2) -- ATOM_AND R206
  | atomOr (d : BitVec 6) (a : BitVec 6) (b : BitVec 6) (w : Bool) (o : BitVec 2) -- ATOM_OR R206
  | atomXor (d : BitVec 6) (a : BitVec 6) (b : BitVec 6) (w : Bool) (o : BitVec 2) -- ATOM_XOR R206
  | atomMin (d : BitVec 6) (a : BitVec 6) (b : BitVec 6) (w : Bool) (o : BitVec 2) -- ATOM_MIN R206
  | atomMax (d : BitVec 6) (a : BitVec 6) (b : BitVec 6) (w : Bool) (o : BitVec 2) -- ATOM_MAX R206
  | atomMinn (d : BitVec 6) (a : BitVec 6) (b : BitVec 6) (w : Bool) (o : BitVec 2) -- ATOM_MINN R206
  | atomMaxn (d : BitVec 6) (a : BitVec 6) (b : BitVec 6) (w : Bool) (o : BitVec 2) -- ATOM_MAXN R206
  | atomSwap (d : BitVec 6) (a : BitVec 6) (b : BitVec 6) (w : Bool) (o : BitVec 2) -- ATOM_SWAP R206
  | atomCas (d : BitVec 6) (a : BitVec 6) (b : BitVec 6) (w : Bool) (o : BitVec 2) -- ATOM_CAS R206
  | ldv (d : BitVec 6) (a : BitVec 6) (i : Imm) -- LDV R210
  | fence (k : BitVec 2) (s : BitVec 3) -- FENCE R211
  | pfence (p : BitVec 3) -- PFENCE R211
  | pinL2 (d : BitVec 6) (a : BitVec 6) -- PIN_L2 R212
  | unpinL2 (a : BitVec 6) -- UNPIN_L2 R212
  | pref (l : BitVec 1) (a : BitVec 6) (i : Imm) -- PREF R214
  | cpPlane (d : BitVec 6) (a : BitVec 6) (b : BitVec 6) (n : BitVec 4) (c : BitVec 3) -- CP_PLANE R243
  | cpPlaneSw (d : BitVec 6) (a : BitVec 6) (b : BitVec 6) (n : BitVec 4) (c : BitVec 3) -- CP_PLANE_SW R249
  | cpStore (d : BitVec 6) (a : BitVec 6) (b : BitVec 6) (n : BitVec 4) (c : BitVec 3) -- CP_STORE R243
  | cpSkim (d : BitVec 6) (a : BitVec 6) (b : BitVec 6) (n : BitVec 4) (c : BitVec 3) -- CP_SKIM R243
  | cpFill (d : BitVec 6) (a : BitVec 6) (b : BitVec 6) (n : BitVec 4) (c : BitVec 3) -- CP_FILL R243
  | cpWait (a : BitVec 6) -- CP_WAIT R250
  | cpTest (d : BitVec 6) (a : BitVec 6) -- CP_TEST R251
  | cpRetry (a : BitVec 6) -- CP_RETRY R252
  | srBind (n : BitVec 3) (a : BitVec 6) (i : Imm) -- SR_BIND R256
  | srStop (n : BitVec 3) -- SR_STOP R257
  | taskPush (d : BitVec 6) (a : BitVec 6) (b : BitVec 6) -- TASK_PUSH R280
  | crewBar (a : BitVec 6) -- CREW_BAR R283
  | crewArrive (a : BitVec 6) -- CREW_ARRIVE R283
  | crewWait (a : BitVec 6) -- CREW_WAIT R283
  | qnt -- QNT R300
  | phaseEnd -- PHASE_END R303
  | sigWait (d : BitVec 6) (a : BitVec 6) (b : BitVec 6) (c : BitVec 2) -- SIG_WAIT R282
  | sigAdd (d : BitVec 6) (a : BitVec 6) (b : BitVec 6) -- SIG_ADD R281
  | sys (i : BitVec 13) -- SYS R316
  | brk (i : BitVec 13) -- BRK R316
  | eret -- ERET R314
  | tlbAll -- TLB_ALL R321
  | tlbVa (a : BitVec 6) -- TLB_VA R321
  | tlbCtx (a : BitVec 6) -- TLB_CTX R321
  | cacheWb (a : BitVec 6) (b : BitVec 6) -- CACHE_WB R322
  | cacheInv (a : BitVec 6) (b : BitVec 6) -- CACHE_INV R322
  | cacheWbinv (a : BitVec 6) (b : BitVec 6) -- CACHE_WBINV R322
  | fq (d : BitVec 6) (i : BitVec 13) -- FQ R323
  | step -- STEP R324
  | ipref (k : BitVec 1) (a : BitVec 6) (i : Imm) -- IPREF R340
  | pfenceCode -- PFENCE_CODE R338
  | cst4 (d : BitVec 6) (a : BitVec 6) (b : BitVec 6) -- CST4 R365
  | mov (f : LaneForm) -- MOV R122
  | laneAdd (f : LaneForm) -- LANE_ADD R122
  | laneSub (f : LaneForm) -- LANE_SUB R122
  | laneMul (f : LaneForm) -- LANE_MUL R122
  | laneMulh (w : LaneWord) -- LANE_MULH R122
  | mad (w : LaneWord) -- MAD R122
  | laneAnd (f : LaneForm) -- LANE_AND R122
  | laneOr (f : LaneForm) -- LANE_OR R122
  | laneXor (f : LaneForm) -- LANE_XOR R122
  | laneAndn (f : LaneForm) -- LANE_ANDN R122
  | laneShl (f : LaneForm) -- LANE_SHL R122
  | laneShr (f : LaneForm) -- LANE_SHR R122
  | laneSra (f : LaneForm) -- LANE_SRA R122
  | laneMin (f : LaneForm) -- LANE_MIN R122
  | laneMax (f : LaneForm) -- LANE_MAX R122
  | abs (f : LaneForm) -- ABS R122
  | neg (f : LaneForm) -- NEG R122
  | laneClz (w : LaneWord) -- LANE_CLZ R122
  | lanePop (w : LaneWord) -- LANE_POP R122
  | laneDiv (w : LaneWord) -- LANE_DIV R124
  | laneRem (w : LaneWord) -- LANE_REM R124
  | bfx (w : LaneWord) -- BFX R123
  | bfi (w : LaneWord) -- BFI R123
  | cmp (w : LaneWord) -- CMP R125
  | mand (w : LaneWord) -- MAND R126
  | mor (w : LaneWord) -- MOR R126
  | mxor (w : LaneWord) -- MXOR R126
  | mnot (w : LaneWord) -- MNOT R126
  | mset (w : LaneWord) -- MSET R126
  | mget (w : LaneWord) -- MGET R126
  | rng (w : LaneWord) -- RNG R129
  | lid (w : LaneWord) -- LID R131
  | rdx (w : LaneWord) -- RDX R132
  | wrx (w : LaneWord) -- WRX R132
  | bmix (w : LaneWord) -- BMIX R133
  | fadd (f : LaneForm) -- FADD R127
  | fsub (f : LaneForm) -- FSUB R127
  | fmul (f : LaneForm) -- FMUL R127
  | fma (w : LaneWord) -- FMA R127
  | fmin (f : LaneForm) -- FMIN R127
  | fmax (f : LaneForm) -- FMAX R127
  | fabs (f : LaneForm) -- FABS R127
  | fneg (f : LaneForm) -- FNEG R127
  | fcmp (w : LaneWord) -- FCMP R125
  | fdiv (w : LaneWord) -- FDIV R127
  | rcp (f : LaneForm) -- RCP R128
  | rsqrt (f : LaneForm) -- RSQRT R128
  | sqrt (w : LaneWord) -- SQRT R128
  | exp2 (w : LaneWord) -- EXP2 R128
  | log2 (w : LaneWord) -- LOG2 R128
  | sin (w : LaneWord) -- SIN R128
  | cos (w : LaneWord) -- COS R128
  | tanh (w : LaneWord) -- TANH R128
  | cvt (f : LaneForm) -- CVT R96
  | pack (w : LaneWord) -- PACK R97
  | unpack (w : LaneWord) -- UNPACK R97
  | mkscale (w : LaneWord) -- MKSCALE R98
  | unscale (w : LaneWord) -- UNSCALE R99
  | shift (w : LaneWord) -- SHIFT R149
  | rot (w : LaneWord) -- ROT R149
  | spread (w : LaneWord) -- SPREAD R151
  | foldSum (w : LaneWord) -- FOLD_SUM R152
  | foldMax (w : LaneWord) -- FOLD_MAX R152
  | foldMin (w : LaneWord) -- FOLD_MIN R152
  | scan (w : LaneWord) -- SCAN R153
  | refold (w : LaneWord) -- REFOLD R155
  | ptrans (w : LaneWord) -- PTRANS R156
  | pick (w : LaneWord) -- PICK R157
  | pAdd (w : LaneWord) -- P_ADD R158
  | pMul (w : LaneWord) -- P_MUL R158
  | pFma (w : LaneWord) -- P_FMA R158
  | pMax (w : LaneWord) -- P_MAX R158
  | pMin (w : LaneWord) -- P_MIN R158
  | rotL1 (w : LaneWord) -- ROT_L1 R150
  | foldSq (w : LaneWord) -- FOLD_SQ R154
  | dot (w : LaneWord) -- DOT R172
  | dotSp (w : LaneWord) -- DOT_SP R173
  | sweep (w : LaneWord) -- SWEEP R176
  | sweepSp (w : LaneWord) -- SWEEP_SP R177
  | spack (w : LaneWord) -- SPACK R174
  | resolve (w : LaneWord) -- RESOLVE R178
  | accCmp (w : LaneWord) -- ACC_CMP R179
  | accMerge (w : LaneWord) -- ACC_MERGE R183
  | accSave (w : LaneWord) -- ACC_SAVE R181
  | accLoad (w : LaneWord) -- ACC_LOAD R182
  | accFlags (w : LaneWord) -- ACC_FLAGS R180
  | dotI4 (w : LaneWord) -- DOT_I4 R185
  | ldLm (w : LaneWord) -- LD_LM R201
  | stLm (w : LaneWord) -- ST_LM R201
  | ldG (w : LaneWord) -- LD_G R202
  | stG (w : LaneWord) -- ST_G R202
  | ldRo (w : LaneWord) -- LD_RO R202
  | ldSk (w : LaneWord) -- LD_SK R205
  | stSk (w : LaneWord) -- ST_SK R205
  | latom (w : LaneWord) -- LATOM R208
  | atomRsum (w : LaneWord) -- ATOM_RSUM R209
  | qpeek (w : LaneWord) -- QPEEK R262
  | qskip (w : LaneWord) -- QSKIP R262
  | lnop (w : LaneWord) -- LNOP R317
  | lbrk (w : LaneWord) -- LBRK R318
  | laneRunStart -- LANE_RUN_START R341
  | uncheckedResultReturn (k : Nat) -- UNCHECKED_RESULT_RETURN R118
  | descriptorCommandApply -- DESCRIPTOR_COMMAND_APPLY R137
  | accControlApply -- ACC_CONTROL_APPLY R171
  | copyCommandAccept -- COPY_COMMAND_ACCEPT R245
  | srBindAccept -- SR_BIND_ACCEPT R256
  | srStopAccept -- SR_STOP_ACCEPT R257
  | scoreboardEntryGrant (core : Nat) -- SCOREBOARD_ENTRY_GRANT R237
  | copyLineLand (ticket line : Nat) -- COPY_LINE_LAND R248
  | copyOperationComplete (ticket : Nat) -- COPY_OPERATION_COMPLETE R240
  | boundSweepStart -- BOUND_SWEEP_START R249
  | sweepComplete (k : Nat) -- SWEEP_COMPLETE R176
  | streamValueFetch (q lane : Nat) -- STREAM_VALUE_FETCH R256
  | streamScatterDrain (q lane : Nat) -- STREAM_SCATTER_DRAIN R259
  | pageRequestResponse (sector k : Nat) (ok : Bool) -- PAGE_REQUEST_RESPONSE R326
  | pageWalkComplete (core k : Nat) -- PAGE_WALK_COMPLETE R347
  | icacheFill (core k : Nat) -- ICACHE_FILL R336
  | laneBlockFill (core k : Nat) -- LANE_BLOCK_FILL R337
  | unverifiedBlockRefetch (core block : Nat) -- UNVERIFIED_BLOCK_REFETCH R339
  | trowelTranslationComplete (sector : Nat) (declined : Bool) -- TROWEL_TRANSLATION_COMPLETE R341
  | traceInstall (sector k : Nat) -- TRACE_INSTALL R342
  | scalarLoadReturn (k : Nat) -- SCALAR_LOAD_RETURN R197
  | storeQueueDrain -- STORE_QUEUE_DRAIN R224
  | storeAck (core k : Nat) -- STORE_ACK R211
  | homeWrite (k : Nat) -- HOME_WRITE R358
  | invalidationAck (k sector : Nat) -- INVALIDATION_ACK R358
  | installAck (k : Nat) -- INSTALL_ACK R359
  | guestCopyInstall (k : Nat) -- GUEST_COPY_INSTALL R356
  | replicaInstall (k : Nat) -- REPLICA_INSTALL R357
  | probe (k : Nat) -- PROBE R361
  | forwardedLineArrival (k : Nat) -- FORWARDED_LINE_ARRIVAL R362
  | atomicUnitOperation (k : Nat) -- ATOMIC_UNIT_OPERATION R363
  | packetDelivery (k : Nat) -- PACKET_DELIVERY R350
  | hostLinkRequest (link : Nat) (req : BusReq) -- HOST_LINK_REQUEST R16
  | peerRequestArrival (src : Nat) (req : BusReq) -- PEER_REQUEST_ARRIVAL R367
  | peerRequestTimeout (k : Nat) -- PEER_REQUEST_TIMEOUT R369
  | linkOutOfService (kind num : Nat) -- LINK_OUT_OF_SERVICE R352
  | linkBackInService (kind num : Nat) -- LINK_BACK_IN_SERVICE R352
  | dramRetrainEnd (channel : Nat) -- DRAM_RETRAIN_END R380
  | refreshWindow (channel : Nat) -- REFRESH_WINDOW R194
  | refreshStateChange (region : Nat) (celsius : Int) -- REFRESH_STATE_CHANGE R194
  | thermalAllowanceUpdate (core : Nat) -- THERMAL_ALLOWANCE_UPDATE R289
  | logicAllowanceSet (cluster : Nat) (celsius : Int) -- LOGIC_ALLOWANCE_SET R381
  | powerAllowanceStep (watts : Nat) -- POWER_ALLOWANCE_STEP R381
  | countDelivery (core : Nat) -- COUNT_DELIVERY R106
  | eventRecordWrite (kind num : Nat) -- EVENT_RECORD_WRITE R371
  | queueNotify (sector k : Nat) -- QUEUE_NOTIFY R267
  | taskPacketPop (sector k : Nat) -- TASK_PACKET_POP R273
  | bulkCopyPacket (sector k : Nat) -- BULK_COPY_PACKET R268
  | bulkCopyComplete (sector k : Nat) (choice : Nat) -- BULK_COPY_COMPLETE R268
  | signalPacket (sector k : Nat) -- SIGNAL_PACKET R265
  | taskPushSlotWrite -- TASK_PUSH_SLOT_WRITE R280
  | candidateAging (sector k : Nat) (cycles : Nat) -- CANDIDATE_AGING R285
  | crewPlace (sector : Nat) -- CREW_PLACE R286
  | waveStart (crew : Nat) -- WAVE_START R274
  | barrierGenerationComplete (crew b : Nat) -- BARRIER_GENERATION_COMPLETE R283
  | sigWaitWake -- SIG_WAIT_WAKE R282
  | quantumCountExpiry -- QUANTUM_COUNT_EXPIRY R295
  | quantumCommit (crew : Nat) -- QUANTUM_COMMIT R298
  | waveFree -- WAVE_FREE R81
  | crewRetire (crew : Nat) -- CREW_RETIRE R276
  | phaseAdvance (ctx : Nat) -- PHASE_ADVANCE R303
  | trapEntry -- TRAP_ENTRY R310
  | watchdog -- WATCHDOG R325
  | clusterReset (cluster trigger : Nat) -- CLUSTER_RESET R372
  | resetSweepEnd (cluster : Nat) -- RESET_SWEEP_END R372
  | deviceReset -- DEVICE_RESET R375
  | sectorFirmwareSwitch (sector : Nat) -- SECTOR_FIRMWARE_SWITCH R378
  | rngCounterReset -- RNG_COUNTER_RESET R130
  | xthrWrite (v : BitVec 64) -- XTHR_WRITE R110
  | queueRegister (v : BitVec 64) -- QUEUE_REGISTER R264
  | queueUnregister (v : BitVec 64) -- QUEUE_UNREGISTER R264
  | ctxctlWrite (v : BitVec 64) -- CTXCTL_WRITE R293
  | ctxskimWrite (v : BitVec 64) -- CTXSKIM_WRITE R309
  | fqvalWrite (v : BitVec 64) -- FQVAL_WRITE R323
  | apctlWrite (v : BitVec 64) -- APCTL_WRITE R366
  | eventRingConfig (size : Bool) (v : BitVec 64) -- EVENT_RING_CONFIG R382
  | mgRegisterWrite (reg : Nat) (v : BitVec 64) -- MG_REGISTER_WRITE R382
  | stageImage -- STAGE_IMAGE R383
  | activate -- ACTIVATE R378
  | attest -- ATTEST R379
  | retrainDramChannel -- RETRAIN_DRAM_CHANNEL R380
  | retrainLink -- RETRAIN_LINK R380
  | resetCluster -- RESET_CLUSTER R383
  | retireCore -- RETIRE_CORE R380
  | retireCluster -- RETIRE_CLUSTER R380
  | setPeerRoute -- SET_PEER_ROUTE R383
  | refreshWindowEnd (channel : Nat) -- REFRESH_WINDOW_END R194
  | uncorrectableErrorPoison (unit num addr : Nat) -- UNCORRECTABLE_ERROR_POISON R203
  | dramRegionAtRating (region : Nat) (celsius : Int) -- DRAM_REGION_AT_RATING R381
  deriving DecidableEq, Repr

end Sys2Proof
end

