-- ==== Sys2Proof/WellFormed.lean ====
section
/-! DEFINITION. Which terms of `Instr` stand for an instruction of this part: the field rules of R19, R29 to R38 and of each
entry. A lane word that fails its check is one that the manual says traps ILLEGAL; the pair rules of R38, which trap PAIRRULE, are
the separate check `pairRule`. -/

namespace Sys2Proof

/-! Fields of the class modifiers (R35, R145 Table 3, R167 Table 2, R198 Table 3). -/

/-- Bits `lo + n - 1 .. lo` of the modifiers. -/
def LaneWord.fld (w : LaneWord) (lo n : Nat) : BitVec n := w.mods.extractLsb' lo n

/-- Bit `k` of the modifiers. -/
def LaneWord.bit (w : LaneWord) (k : Nat) : Bool := w.mods.getLsbD k

/-- The type field of every class but 101 (R35). -/
def LaneWord.ty (w : LaneWord) : Nat := (w.fld 30 4).toNat

/-- The type field of class 101 (R198). -/
def LaneWord.tyM (w : LaneWord) : Nat := (w.fld 25 4).toNat

/-- Whether the field is all-zero bits, as R30 asks of one the opcode does not use. -/
def Src.isZero : Src → Bool
  | .v r => r == 0
  | _ => false

/-- Kind 00. -/
def Src.isV : Src → Bool
  | .v _ => true
  | _ => false

/-- Kind 01. -/
def Src.isLit : Src → Bool
  | .lit _ => true
  | _ => false

/-- Kind 10. -/
def Src.isS : Src → Bool
  | .s _ => true
  | _ => false

/-- Kind 11. -/
def Src.isQ : Src → Bool
  | .q _ => true
  | _ => false

/-- What an entry allows in a source field. -/
inductive SrcUse where
  /-- not used: zero (R30) -/
  | none
  /-- any kind -/
  | any
  /-- kind 00 only -/
  | reg
  /-- a uniform slot: kind 10 or 01 (R31) -/
  | uniform
  /-- kind 00, 01 or 10 -/
  | noQ
  /-- kind 00 or 10 -/
  | regS
  /-- kind 00, 10 or 11 -/
  | noLit
  /-- kind 11 only -/
  | qOnly
  /-- judged by the entry's own check -/
  | entry
  deriving DecidableEq, Repr

/-- Whether a source field obeys what the entry allows (R30, R31). -/
def SrcUse.ok : SrcUse → Src → Bool
  | .none, x => x.isZero
  | .any, _ => true
  | .reg, x => x.isV
  | .uniform, x => x.isS || x.isLit
  | .noQ, x => !x.isQ
  | .regS, x => x.isV || x.isS
  | .noLit, x => !x.isLit
  | .qOnly, x => x.isQ
  | .entry, _ => true

/-- What an entry allows in the destination field (R29). -/
inductive DstUse where
  /-- nothing written: zero -/
  | none
  /-- a lane register -/
  | v
  /-- a lane register or a scatter queue -/
  | vq
  /-- m1 to m7 -/
  | m
  /-- a0 or a1 -/
  | a
  /-- judged by the entry's own check -/
  | entry
  deriving DecidableEq, Repr

/-- Whether the destination field obeys what the entry allows (R29). -/
def DstUse.ok : DstUse → Dst → Bool
  | .none, d => d == .v 0
  | .v, .v _ => true
  | .vq, .v _ => true
  | .vq, .q _ => true
  | .m, .m k => k != 0
  | .a, .a _ => true
  | .entry, .m k => k != 0
  | .entry, _ => true
  | _, _ => false

/-- One row of the table of field rules: the types the opcode lists (R58), where its type field stands, what each operand field
may hold, and which modifier bits besides the type the entry uses. -/
structure LaneSpec where
  tys : List Nat
  dst : DstUse
  a : SrcUse
  b : SrcUse
  c : SrcUse
  /-- modifier bits the entry uses besides the type field -/
  used : BitVec 34
  /-- lowest bit of the type field: 30, or 25 in class 101 -/
  tyLo : Nat
  deriving DecidableEq, Repr

/-- The mask of bits `hi .. lo`. -/
def bitsFromTo (hi lo : Nat) : BitVec 34 := BitVec.ofNat 34 ((2 ^ (hi + 1 - lo) - 1) * 2 ^ lo)

/-- A row of classes 000 to 100, 110 and 111. -/
def row (tys : List Nat) (dst : DstUse) (a b c : SrcUse) (used : BitVec 34) : LaneSpec := ⟨tys, dst, a, b, c, used, 30⟩

/-- A row of class 101. -/
def rowM (tys : List Nat) (dst : DstUse) (a b c : SrcUse) (used : BitVec 34) : LaneSpec := ⟨tys, dst, a, b, c, used, 25⟩

/-- Types that hold every plane format (Table 13, "any"; R145 excludes type 0). -/
def anyTy : List Nat := [1, 2, 3, 4, 5, 6, 7, 8, 9]

/-- The `.sat` bit of R35. -/
def mSat : BitVec 34 := bitsFromTo 27 27

/-- The rounding field of R35. -/
def mRnd : BitVec 34 := bitsFromTo 29 28

/-- dD, dA of a plane word (R145). -/
def mDA : BitVec 34 := bitsFromTo 29 22

/-- The axis bit of a plane word. -/
def mAxis : BitVec 34 := bitsFromTo 13 13

/-- The rounding field of a plane word. -/
def mPRnd : BitVec 34 := bitsFromTo 12 11

/-- Scope and order of class 101. -/
def mOrd : BitVec 34 := bitsFromTo 33 29

/-- Count and offset of class 101. -/
def mCntOff : BitVec 34 := bitsFromTo 24 5

/-- The table of field rules, by lane opcode (R58 Table 13 and the entries). -/
def laneSpec : Nat → Option LaneSpec
  | 0x000 => some (row [0, 1, 2, 3] .vq .any .none .none (0)) -- MOV
  | 0x001 => some (row [1, 2] .vq .any .any .none (mSat)) -- LANE_ADD
  | 0x002 => some (row [1, 2] .vq .any .any .none (mSat)) -- LANE_SUB
  | 0x003 => some (row [1, 2] .vq .any .any .none (mSat)) -- LANE_MUL
  | 0x004 => some (row [1, 2] .vq .any .any .none (0)) -- LANE_MULH
  | 0x005 => some (row [1, 2] .vq .any .any .any (mSat)) -- MAD
  | 0x006 => some (row [0] .vq .any .any .none (0)) -- LANE_AND
  | 0x007 => some (row [0] .vq .any .any .none (0)) -- LANE_OR
  | 0x008 => some (row [0] .vq .any .any .none (0)) -- LANE_XOR
  | 0x009 => some (row [0] .vq .any .any .none (0)) -- LANE_ANDN
  | 0x00A => some (row [0] .vq .any .any .none (0)) -- LANE_SHL
  | 0x00B => some (row [0] .vq .any .any .none (0)) -- LANE_SHR
  | 0x00C => some (row [0] .vq .any .any .none (0)) -- LANE_SRA
  | 0x00D => some (row [1, 2] .vq .any .any .none (0)) -- LANE_MIN
  | 0x00E => some (row [1, 2] .vq .any .any .none (0)) -- LANE_MAX
  | 0x00F => some (row [1] .vq .any .none .none (mSat)) -- ABS
  | 0x010 => some (row [1] .vq .any .none .none (mSat)) -- NEG
  | 0x011 => some (row [0] .vq .any .none .none (0)) -- LANE_CLZ
  | 0x012 => some (row [0] .vq .any .none .none (0)) -- LANE_POP
  | 0x013 => some (row [1, 2] .vq .any .any .none (0)) -- LANE_DIV
  | 0x014 => some (row [1, 2] .vq .any .any .none (0)) -- LANE_REM
  | 0x015 => some (row [1, 2] .vq .any .any .none (0)) -- BFX
  | 0x016 => some (row [0] .vq .any .any .any (0)) -- BFI
  | 0x017 => some (row [1, 2] .m .any .any .none (bitsFromTo 26 24)) -- CMP
  | 0x018 => some (row [0] .m .none .none .none (bitsFromTo 26 21)) -- MAND
  | 0x019 => some (row [0] .m .none .none .none (bitsFromTo 26 21)) -- MOR
  | 0x01A => some (row [0] .m .none .none .none (bitsFromTo 26 21)) -- MXOR
  | 0x01B => some (row [0] .m .none .none .none (bitsFromTo 26 24)) -- MNOT
  | 0x01C => some (row [0] .m .any .none .none (0)) -- MSET
  | 0x01D => some (row [0] .v .none .none .none (bitsFromTo 26 24)) -- MGET
  | 0x01E => some (row [2, 3] .vq .none .none .none (0)) -- RNG
  | 0x01F => some (row [0] .vq .none .none .none (bitsFromTo 26 24)) -- LID
  | 0x020 => some (row [0] .vq .any .none .none (bitsFromTo 26 18)) -- RDX
  | 0x021 => some (row [0] .v .any .any .none (0)) -- WRX
  | 0x022 => some (row [0] .vq .any .any .none (0)) -- BMIX
  | 0x100 => some (row [3, 4, 5] .vq .any .any .none (mRnd ||| mSat)) -- FADD
  | 0x101 => some (row [3, 4, 5] .vq .any .any .none (mRnd ||| mSat)) -- FSUB
  | 0x102 => some (row [3, 4, 5] .vq .any .any .none (mRnd ||| mSat)) -- FMUL
  | 0x103 => some (row [3, 4, 5] .vq .any .any .any (mRnd ||| mSat)) -- FMA
  | 0x104 => some (row [3, 4, 5] .vq .any .any .none (0)) -- FMIN
  | 0x105 => some (row [3, 4, 5] .vq .any .any .none (0)) -- FMAX
  | 0x106 => some (row [3, 4, 5] .vq .any .none .none (0)) -- FABS
  | 0x107 => some (row [3, 4, 5] .vq .any .none .none (0)) -- FNEG
  | 0x108 => some (row [3, 4, 5] .m .any .any .none (bitsFromTo 26 24)) -- FCMP
  | 0x109 => some (row [3] .vq .any .any .none (mRnd ||| mSat)) -- FDIV
  | 0x110 => some (row [3] .vq .any .none .none (mRnd)) -- RCP
  | 0x111 => some (row [3] .vq .any .none .none (mRnd)) -- RSQRT
  | 0x112 => some (row [3] .vq .any .none .none (mRnd)) -- SQRT
  | 0x113 => some (row [3] .vq .any .none .none (0)) -- EXP2
  | 0x114 => some (row [3] .vq .any .none .none (0)) -- LOG2
  | 0x115 => some (row [3] .vq .any .none .none (0)) -- SIN
  | 0x116 => some (row [3] .vq .any .none .none (0)) -- COS
  | 0x117 => some (row [3] .vq .any .none .none (0)) -- TANH
  | 0x200 => some (row anyTy .v .any .none .none (bitsFromTo 29 21)) -- CVT
  | 0x201 => some (row [4, 5, 6, 7, 8, 9] .vq .reg .none .none (bitsFromTo 29 23)) -- PACK
  | 0x202 => some (row [4, 5, 6, 7, 8, 9] .v .noLit .none .none (bitsFromTo 26 23)) -- UNPACK
  | 0x203 => some (row [6, 7, 8, 9] .vq .any .none .none (mRnd ||| mSat)) -- MKSCALE
  | 0x204 => some (row [0] .vq .any .none .none (0)) -- UNSCALE
  | 0x300 => some (row anyTy .none .uniform .none .none (mDA ||| mAxis)) -- SHIFT
  | 0x301 => some (row anyTy .none .uniform .none .none (mDA ||| mAxis)) -- ROT
  | 0x302 => some (row anyTy .none .uniform .none .none (mDA ||| mAxis)) -- SPREAD
  | 0x303 => some (row [1, 3, 4, 5] .none .none .none .none (mDA ||| mAxis ||| mPRnd)) -- FOLD_SUM
  | 0x304 => some (row [1, 2, 3, 4, 5] .none .none .none .none (mDA ||| mAxis)) -- FOLD_MAX
  | 0x305 => some (row [1, 2, 3, 4, 5] .none .none .none .none (mDA ||| mAxis)) -- FOLD_MIN
  | 0x306 => some (row [1, 3, 4, 5] .none .none .none .none (mDA ||| mAxis ||| mPRnd)) -- SCAN
  | 0x307 => some (row anyTy .none .none .none .none (mDA)) -- REFOLD
  | 0x308 => some (row anyTy .none .none .none .none (mDA)) -- PTRANS
  | 0x309 => some (row anyTy .none .none .none .none (bitsFromTo 29 18 ||| mAxis)) -- PICK
  | 0x30A => some (row [1, 3, 4, 5] .none .none .none .none (bitsFromTo 29 18 ||| bitsFromTo 12 10)) -- P_ADD
  | 0x30B => some (row [1, 3, 4, 5] .none .none .none .none (bitsFromTo 29 18 ||| bitsFromTo 12 10)) -- P_MUL
  | 0x30C => some (row [3, 4, 5] .none .none .none .none (bitsFromTo 29 14 ||| bitsFromTo 12 10)) -- P_FMA
  | 0x30D => some (row [1, 3, 4, 5] .none .none .none .none (bitsFromTo 29 18)) -- P_MAX
  | 0x30E => some (row [1, 3, 4, 5] .none .none .none .none (bitsFromTo 29 18)) -- P_MIN
  | 0x30F => some (row anyTy .none .uniform .none .none (mDA ||| mAxis)) -- ROT_L1
  | 0x3E0 => some (row [3] .none .none .none .none (mDA ||| mAxis ||| mPRnd)) -- FOLD_SQ
  | 0x400 => some (row [4, 5, 6, 7, 8, 9] .a .reg .reg .entry (bitsFromTo 19 11)) -- DOT
  | 0x401 => some (row [6, 7, 9] .a .reg .reg .regS (bitsFromTo 19 11)) -- DOT_SP
  | 0x402 => some (row [4, 5, 6, 7, 8, 9] .a .entry .none .none (bitsFromTo 19 8)) -- SWEEP
  | 0x403 => some (row [6, 7, 9] .a .entry .none .none (bitsFromTo 19 4)) -- SWEEP_SP
  | 0x404 => some (row [6, 7, 9] .v .reg .none .none (bitsFromTo 23 21)) -- SPACK
  | 0x405 => some (row [3, 4, 5] .entry .entry .none .none (bitsFromTo 29 24 ||| bitsFromTo 20 4)) -- RESOLVE
  | 0x406 => some (row [0] .v .none .none .none (bitsFromTo 24 20)) -- ACC_CMP
  | 0x407 => some (row [0] .a .entry .none .none (bitsFromTo 24 24 ||| bitsFromTo 20 4)) -- ACC_MERGE
  | 0x408 => some (row [0] .none .uniform .none .none (bitsFromTo 24 24 ||| bitsFromTo 19 4)) -- ACC_SAVE
  | 0x409 => some (row [0] .a .uniform .none .none (bitsFromTo 19 4)) -- ACC_LOAD
  | 0x40A => some (row [0] .v .none .none .none (bitsFromTo 25 21)) -- ACC_FLAGS
  | 0x40B => some (row [0] .a .reg .reg .none (0)) -- DOT_I4
  | 0x500 => some (rowM [0, 4, 5, 9] .v .noQ .none .none (mCntOff)) -- LD_LM
  | 0x501 => some (rowM [0, 4, 5, 9] .none .noQ .entry .none (mCntOff)) -- ST_LM
  | 0x502 => some (rowM [0, 4, 5, 9] .v .uniform .any .none (mOrd ||| mCntOff)) -- LD_G
  | 0x503 => some (rowM [0, 4, 5, 9] .none .uniform .any .entry (mOrd ||| mCntOff)) -- ST_G
  | 0x504 => some (rowM [0, 4, 5, 9] .v .uniform .any .none (mOrd ||| mCntOff)) -- LD_RO
  | 0x505 => some (rowM [0] .v .uniform .any .none (mOrd ||| mCntOff)) -- LD_SK
  | 0x506 => some (rowM [0] .none .uniform .any .entry (mOrd ||| mCntOff)) -- ST_SK
  | 0x507 => some (rowM [1, 2, 3] .vq .uniform .any .any (mOrd ||| bitsFromTo 20 0)) -- LATOM
  | 0x508 => some (rowM [0] .none .uniform .any .uniform (mOrd ||| bitsFromTo 20 5)) -- ATOM_RSUM
  | 0x600 => some (row [0] .vq .qOnly .none .none (0)) -- QPEEK
  | 0x601 => some (row [0] .none .qOnly .uniform .none (0)) -- QSKIP
  | 0x700 => some (row [0] .none .none .none .none (0)) -- LNOP
  | 0x701 => some (row [0] .none .none .none .none (bitsFromTo 12 0)) -- LBRK
  | _ => none

/-- The lane opcode and the fields of a full lane word (R58). -/
def Instr.laneFull : Instr → Option (Nat × LaneWord)
  | .mov (.full w) => some (0x000, w)
  | .laneAdd (.full w) => some (0x001, w)
  | .laneSub (.full w) => some (0x002, w)
  | .laneMul (.full w) => some (0x003, w)
  | .laneMulh w => some (0x004, w)
  | .mad w => some (0x005, w)
  | .laneAnd (.full w) => some (0x006, w)
  | .laneOr (.full w) => some (0x007, w)
  | .laneXor (.full w) => some (0x008, w)
  | .laneAndn (.full w) => some (0x009, w)
  | .laneShl (.full w) => some (0x00A, w)
  | .laneShr (.full w) => some (0x00B, w)
  | .laneSra (.full w) => some (0x00C, w)
  | .laneMin (.full w) => some (0x00D, w)
  | .laneMax (.full w) => some (0x00E, w)
  | .abs (.full w) => some (0x00F, w)
  | .neg (.full w) => some (0x010, w)
  | .laneClz w => some (0x011, w)
  | .lanePop w => some (0x012, w)
  | .laneDiv w => some (0x013, w)
  | .laneRem w => some (0x014, w)
  | .bfx w => some (0x015, w)
  | .bfi w => some (0x016, w)
  | .cmp w => some (0x017, w)
  | .mand w => some (0x018, w)
  | .mor w => some (0x019, w)
  | .mxor w => some (0x01A, w)
  | .mnot w => some (0x01B, w)
  | .mset w => some (0x01C, w)
  | .mget w => some (0x01D, w)
  | .rng w => some (0x01E, w)
  | .lid w => some (0x01F, w)
  | .rdx w => some (0x020, w)
  | .wrx w => some (0x021, w)
  | .bmix w => some (0x022, w)
  | .fadd (.full w) => some (0x100, w)
  | .fsub (.full w) => some (0x101, w)
  | .fmul (.full w) => some (0x102, w)
  | .fma w => some (0x103, w)
  | .fmin (.full w) => some (0x104, w)
  | .fmax (.full w) => some (0x105, w)
  | .fabs (.full w) => some (0x106, w)
  | .fneg (.full w) => some (0x107, w)
  | .fcmp w => some (0x108, w)
  | .fdiv w => some (0x109, w)
  | .rcp (.full w) => some (0x110, w)
  | .rsqrt (.full w) => some (0x111, w)
  | .sqrt w => some (0x112, w)
  | .exp2 w => some (0x113, w)
  | .log2 w => some (0x114, w)
  | .sin w => some (0x115, w)
  | .cos w => some (0x116, w)
  | .tanh w => some (0x117, w)
  | .cvt (.full w) => some (0x200, w)
  | .pack w => some (0x201, w)
  | .unpack w => some (0x202, w)
  | .mkscale w => some (0x203, w)
  | .unscale w => some (0x204, w)
  | .shift w => some (0x300, w)
  | .rot w => some (0x301, w)
  | .spread w => some (0x302, w)
  | .foldSum w => some (0x303, w)
  | .foldMax w => some (0x304, w)
  | .foldMin w => some (0x305, w)
  | .scan w => some (0x306, w)
  | .refold w => some (0x307, w)
  | .ptrans w => some (0x308, w)
  | .pick w => some (0x309, w)
  | .pAdd w => some (0x30A, w)
  | .pMul w => some (0x30B, w)
  | .pFma w => some (0x30C, w)
  | .pMax w => some (0x30D, w)
  | .pMin w => some (0x30E, w)
  | .rotL1 w => some (0x30F, w)
  | .foldSq w => some (0x3E0, w)
  | .dot w => some (0x400, w)
  | .dotSp w => some (0x401, w)
  | .sweep w => some (0x402, w)
  | .sweepSp w => some (0x403, w)
  | .spack w => some (0x404, w)
  | .resolve w => some (0x405, w)
  | .accCmp w => some (0x406, w)
  | .accMerge w => some (0x407, w)
  | .accSave w => some (0x408, w)
  | .accLoad w => some (0x409, w)
  | .accFlags w => some (0x40A, w)
  | .dotI4 w => some (0x40B, w)
  | .ldLm w => some (0x500, w)
  | .stLm w => some (0x501, w)
  | .ldG w => some (0x502, w)
  | .stG w => some (0x503, w)
  | .ldRo w => some (0x504, w)
  | .ldSk w => some (0x505, w)
  | .stSk w => some (0x506, w)
  | .latom w => some (0x507, w)
  | .atomRsum w => some (0x508, w)
  | .qpeek w => some (0x600, w)
  | .qskip w => some (0x601, w)
  | .lnop w => some (0x700, w)
  | .lbrk w => some (0x701, w)
  | _ => none

/-- The constructor that an assigned lane opcode names (R58). -/
def mkLane (op : Nat) (w : LaneWord) : Option Instr :=
  match op with
  | 0x000 => some (.mov (.full w))
  | 0x001 => some (.laneAdd (.full w))
  | 0x002 => some (.laneSub (.full w))
  | 0x003 => some (.laneMul (.full w))
  | 0x004 => some (.laneMulh w)
  | 0x005 => some (.mad w)
  | 0x006 => some (.laneAnd (.full w))
  | 0x007 => some (.laneOr (.full w))
  | 0x008 => some (.laneXor (.full w))
  | 0x009 => some (.laneAndn (.full w))
  | 0x00A => some (.laneShl (.full w))
  | 0x00B => some (.laneShr (.full w))
  | 0x00C => some (.laneSra (.full w))
  | 0x00D => some (.laneMin (.full w))
  | 0x00E => some (.laneMax (.full w))
  | 0x00F => some (.abs (.full w))
  | 0x010 => some (.neg (.full w))
  | 0x011 => some (.laneClz w)
  | 0x012 => some (.lanePop w)
  | 0x013 => some (.laneDiv w)
  | 0x014 => some (.laneRem w)
  | 0x015 => some (.bfx w)
  | 0x016 => some (.bfi w)
  | 0x017 => some (.cmp w)
  | 0x018 => some (.mand w)
  | 0x019 => some (.mor w)
  | 0x01A => some (.mxor w)
  | 0x01B => some (.mnot w)
  | 0x01C => some (.mset w)
  | 0x01D => some (.mget w)
  | 0x01E => some (.rng w)
  | 0x01F => some (.lid w)
  | 0x020 => some (.rdx w)
  | 0x021 => some (.wrx w)
  | 0x022 => some (.bmix w)
  | 0x100 => some (.fadd (.full w))
  | 0x101 => some (.fsub (.full w))
  | 0x102 => some (.fmul (.full w))
  | 0x103 => some (.fma w)
  | 0x104 => some (.fmin (.full w))
  | 0x105 => some (.fmax (.full w))
  | 0x106 => some (.fabs (.full w))
  | 0x107 => some (.fneg (.full w))
  | 0x108 => some (.fcmp w)
  | 0x109 => some (.fdiv w)
  | 0x110 => some (.rcp (.full w))
  | 0x111 => some (.rsqrt (.full w))
  | 0x112 => some (.sqrt w)
  | 0x113 => some (.exp2 w)
  | 0x114 => some (.log2 w)
  | 0x115 => some (.sin w)
  | 0x116 => some (.cos w)
  | 0x117 => some (.tanh w)
  | 0x200 => some (.cvt (.full w))
  | 0x201 => some (.pack w)
  | 0x202 => some (.unpack w)
  | 0x203 => some (.mkscale w)
  | 0x204 => some (.unscale w)
  | 0x300 => some (.shift w)
  | 0x301 => some (.rot w)
  | 0x302 => some (.spread w)
  | 0x303 => some (.foldSum w)
  | 0x304 => some (.foldMax w)
  | 0x305 => some (.foldMin w)
  | 0x306 => some (.scan w)
  | 0x307 => some (.refold w)
  | 0x308 => some (.ptrans w)
  | 0x309 => some (.pick w)
  | 0x30A => some (.pAdd w)
  | 0x30B => some (.pMul w)
  | 0x30C => some (.pFma w)
  | 0x30D => some (.pMax w)
  | 0x30E => some (.pMin w)
  | 0x30F => some (.rotL1 w)
  | 0x3E0 => some (.foldSq w)
  | 0x400 => some (.dot w)
  | 0x401 => some (.dotSp w)
  | 0x402 => some (.sweep w)
  | 0x403 => some (.sweepSp w)
  | 0x404 => some (.spack w)
  | 0x405 => some (.resolve w)
  | 0x406 => some (.accCmp w)
  | 0x407 => some (.accMerge w)
  | 0x408 => some (.accSave w)
  | 0x409 => some (.accLoad w)
  | 0x40A => some (.accFlags w)
  | 0x40B => some (.dotI4 w)
  | 0x500 => some (.ldLm w)
  | 0x501 => some (.stLm w)
  | 0x502 => some (.ldG w)
  | 0x503 => some (.stG w)
  | 0x504 => some (.ldRo w)
  | 0x505 => some (.ldSk w)
  | 0x506 => some (.stSk w)
  | 0x507 => some (.latom w)
  | 0x508 => some (.atomRsum w)
  | 0x600 => some (.qpeek w)
  | 0x601 => some (.qskip w)
  | 0x700 => some (.lnop w)
  | 0x701 => some (.lbrk w)
  | _ => none

/-- The pair opcode of each half operation (R58, "Pair" column). -/
def PairOp.code : PairOp → BitVec 9
  | .mov => 0x000
  | .add => 0x001
  | .sub => 0x002
  | .mul => 0x003
  | .and => 0x006
  | .or => 0x007
  | .xor => 0x008
  | .andn => 0x009
  | .shl => 0x00A
  | .shr => 0x00B
  | .sra => 0x00C
  | .min => 0x00D
  | .max => 0x00E
  | .abs => 0x00F
  | .neg => 0x010
  | .fadd => 0x080
  | .fsub => 0x081
  | .fmul => 0x082
  | .fmin => 0x084
  | .fmax => 0x085
  | .fabs => 0x086
  | .fneg => 0x087
  | .rcp => 0x090
  | .rsqrt => 0x091
  | .cvt => 0x100

/-- The half operation that a pair opcode names, none for any other value (R37). -/
def PairOp.ofCode (p : BitVec 9) : Option PairOp :=
  match p.toNat with
  | 0x000 => some .mov
  | 0x001 => some .add
  | 0x002 => some .sub
  | 0x003 => some .mul
  | 0x006 => some .and
  | 0x007 => some .or
  | 0x008 => some .xor
  | 0x009 => some .andn
  | 0x00A => some .shl
  | 0x00B => some .shr
  | 0x00C => some .sra
  | 0x00D => some .min
  | 0x00E => some .max
  | 0x00F => some .abs
  | 0x010 => some .neg
  | 0x080 => some .fadd
  | 0x081 => some .fsub
  | 0x082 => some .fmul
  | 0x084 => some .fmin
  | 0x085 => some .fmax
  | 0x086 => some .fabs
  | 0x087 => some .fneg
  | 0x090 => some .rcp
  | 0x091 => some .rsqrt
  | 0x100 => some .cvt
  | _ => none

/-- A pair word, named by the operation of its half X. -/
def mkPair (mark : Bool) (xop : PairOp) (x : Half) (yop : PairOp) (y : Half) : Instr :=
  match xop with
  | .mov => .mov (.pair mark x yop y)
  | .add => .laneAdd (.pair mark x yop y)
  | .sub => .laneSub (.pair mark x yop y)
  | .mul => .laneMul (.pair mark x yop y)
  | .and => .laneAnd (.pair mark x yop y)
  | .or => .laneOr (.pair mark x yop y)
  | .xor => .laneXor (.pair mark x yop y)
  | .andn => .laneAndn (.pair mark x yop y)
  | .shl => .laneShl (.pair mark x yop y)
  | .shr => .laneShr (.pair mark x yop y)
  | .sra => .laneSra (.pair mark x yop y)
  | .min => .laneMin (.pair mark x yop y)
  | .max => .laneMax (.pair mark x yop y)
  | .abs => .abs (.pair mark x yop y)
  | .neg => .neg (.pair mark x yop y)
  | .fadd => .fadd (.pair mark x yop y)
  | .fsub => .fsub (.pair mark x yop y)
  | .fmul => .fmul (.pair mark x yop y)
  | .fmin => .fmin (.pair mark x yop y)
  | .fmax => .fmax (.pair mark x yop y)
  | .fabs => .fabs (.pair mark x yop y)
  | .fneg => .fneg (.pair mark x yop y)
  | .rcp => .rcp (.pair mark x yop y)
  | .rsqrt => .rsqrt (.pair mark x yop y)
  | .cvt => .cvt (.pair mark x yop y)

/-- The halves of a pair word: mark, X, Y. -/
def Instr.lanePair : Instr → Option (Bool × (PairOp × Half) × (PairOp × Half))
  | .mov (.pair mark x yop y) => some (mark, (.mov, x), (yop, y))
  | .laneAdd (.pair mark x yop y) => some (mark, (.add, x), (yop, y))
  | .laneSub (.pair mark x yop y) => some (mark, (.sub, x), (yop, y))
  | .laneMul (.pair mark x yop y) => some (mark, (.mul, x), (yop, y))
  | .laneAnd (.pair mark x yop y) => some (mark, (.and, x), (yop, y))
  | .laneOr (.pair mark x yop y) => some (mark, (.or, x), (yop, y))
  | .laneXor (.pair mark x yop y) => some (mark, (.xor, x), (yop, y))
  | .laneAndn (.pair mark x yop y) => some (mark, (.andn, x), (yop, y))
  | .laneShl (.pair mark x yop y) => some (mark, (.shl, x), (yop, y))
  | .laneShr (.pair mark x yop y) => some (mark, (.shr, x), (yop, y))
  | .laneSra (.pair mark x yop y) => some (mark, (.sra, x), (yop, y))
  | .laneMin (.pair mark x yop y) => some (mark, (.min, x), (yop, y))
  | .laneMax (.pair mark x yop y) => some (mark, (.max, x), (yop, y))
  | .abs (.pair mark x yop y) => some (mark, (.abs, x), (yop, y))
  | .neg (.pair mark x yop y) => some (mark, (.neg, x), (yop, y))
  | .fadd (.pair mark x yop y) => some (mark, (.fadd, x), (yop, y))
  | .fsub (.pair mark x yop y) => some (mark, (.fsub, x), (yop, y))
  | .fmul (.pair mark x yop y) => some (mark, (.fmul, x), (yop, y))
  | .fmin (.pair mark x yop y) => some (mark, (.fmin, x), (yop, y))
  | .fmax (.pair mark x yop y) => some (mark, (.fmax, x), (yop, y))
  | .fabs (.pair mark x yop y) => some (mark, (.fabs, x), (yop, y))
  | .fneg (.pair mark x yop y) => some (mark, (.fneg, x), (yop, y))
  | .rcp (.pair mark x yop y) => some (mark, (.rcp, x), (yop, y))
  | .rsqrt (.pair mark x yop y) => some (mark, (.rsqrt, x), (yop, y))
  | .cvt (.pair mark x yop y) => some (mark, (.cvt, x), (yop, y))
  | _ => none

/-- How many consecutive registers a field names, per opcode, as (destination, A, B, C); 1 where the field is one register
(R97, R172 to R174, R178 to R180, R199). -/
def laneGroups (op : Nat) (w : LaneWord) : Nat × Nat × Nat × Nat :=
  let n := (w.fld 21 4).toNat + 1
  let nk := (w.fld 23 4).toNat + 1
  let big := if w.ty = 8 then 8 else 16
  match op with
  | 0x201 => (1, nk, 1, 1)
  | 0x202 => (nk, 1, 1, 1)
  | 0x400 => (1, big, big, 1)
  | 0x401 => (1, 32, 20, 1)
  | 0x404 => (20, 32, 1, 1)
  | 0x405 => (if w.bit 20 then 1 else 64, 1, 1, 1)
  | 0x406 => (2, 1, 1, 1)
  | 0x40A => (2, 1, 1, 1)
  | 0x40B => (1, 8, 8, 1)
  | 0x500 => (n, 1, 1, 1)
  | 0x501 => (1, 1, n, 1)
  | 0x502 => (n, 1, 1, 1)
  | 0x503 => (1, 1, 1, n)
  | 0x504 => (n, 1, 1, 1)
  | 0x505 => (n, 1, 1, 1)
  | 0x506 => (1, 1, 1, n)
  | _ => (1, 1, 1, 1)

/-- Last register of a source group; 0 where the field names no lane register. -/
def Src.last (x : Src) (n : Nat) : Nat :=
  match x with
  | .v r => r.toNat + n - 1
  | _ => 0

/-- Last register of a destination group. -/
def Dst.last (x : Dst) (n : Nat) : Nat :=
  match x with
  | .v r => r.toNat + n - 1
  | _ => 0

/-- The row-scale group vR of `dot` and `dot.sp` (R167): its last register, 0 where the word has none. -/
def vRLast (op : Nat) (w : LaneWord) : Nat :=
  if op = 0x401 ∨ (op = 0x400 ∧ 6 ≤ w.ty) then (w.fld 11 9).toNat + 7 else 0

/-- The base lane register of `rdx`, which the word names in bits 26..18 (R132); 0 for the other opcodes. -/
def indexBase (op : Nat) (w : LaneWord) : Nat := if op = 0x020 then (w.fld 18 9).toNat else 0

/-- The highest lane register any field of the word names (R40). -/
def laneLast (op : Nat) (w : LaneWord) : Nat :=
  let (d, a, b, c) := laneGroups op w
  ((w.dst.last d).max ((w.a.last a).max ((w.b.last b).max ((w.c.last c).max (vRLast op w))))).max (indexBase op w)

/-- R30: two fields of one word name the same read queue. -/
def sameQueue (xs : List Src) : Bool :=
  match xs with
  | [] => false
  | x :: r => (x.isQ && r.contains x) || sameQueue r

/-- What the word's fields A, B and C may hold, with the forms of each entry told apart: a field that one form uses and the other does
not counts as unused where it is unused (R167, R172, R175, R178, R183, R201). -/
def laneUses (op : Nat) (w : LaneWord) : SrcUse × SrcUse × SrcUse :=
  match laneSpec op with
  | none => (.none, .none, .none)
  | some sp =>
    match op with
    | 0x400 => (sp.a, sp.b, if w.ty ≤ 5 then .none else .regS)
    | 0x402 => (if w.ty ≤ 5 then .none else sp.a, sp.b, sp.c)
    | 0x405 => (if w.bit 20 then .uniform else .none, sp.b, sp.c)
    | 0x407 => (if w.bit 20 then .none else .uniform, sp.b, sp.c)
    | _ => (sp.a, sp.b, sp.c)

/-- R33: retain names only a source of kind 00 that the word uses. -/
def retainOk (op : Nat) (w : LaneWord) : Bool :=
  let (a, b, c) := laneUses op w
  match w.retain.toNat with
  | 0 => true
  | 1 => a != .none && w.a.isV
  | 2 => b != .none && w.b.isV
  | _ => c != .none && w.c.isV

/-- Whether a type code is one of the integer formats (R87). -/
def intTy (t : Nat) : Bool := t == 1 || t == 2 || t == 9

/-- R96: the rules of `cvt` on its types, rounding fields and literal. -/
def cvtOk (w : LaneWord) : Bool :=
  let d := w.ty
  let s := (w.fld 23 4).toNat
  (1 ≤ s && s ≤ 9 && s != d)
    && (!(intTy d) || w.fld 28 2 == 0)
    && (w.fld 21 2 == 0 || (intTy d && !(intTy s)))
    && (match w.a with
        | .lit x => !(s == 6 || s == 7 || s == 8) && (s != 9 || (-128 ≤ x.toInt && x.toInt ≤ 127))
        | _ => true)

/-- R97: the number of values that a packed type holds in 32 bits. -/
def packN (t : Nat) : Nat := if t = 4 ∨ t = 5 then 2 else if t = 8 then 8 else 4

/-- R198: scope and order fields of class 101. -/
def ordOk (w : LaneWord) : Bool :=
  (w.fld 31 3).toNat ≤ 5 && (w.fld 29 2 != 0 || w.fld 31 3 == 0)

/-- R201: the data operand of a store is of kind 00 for a group and of kind 00, 01 or 10 for one register. -/
def storeDataOk (w : LaneWord) (x : Src) : Bool := x.isV || (!x.isQ && w.fld 21 4 == 0)

/-- R208: operation, type and return rules of `latom`. The vd of a `cas` supplies a value, so it names a lane register. -/
def latomOk (w : LaneWord) : Bool :=
  let o := (w.fld 1 4).toNat
  o ≤ 7 && (w.tyM != 3 || o == 0 || o == 4 || o == 5 || o == 6)
    && (w.bit 0 || (w.dst == .v 0 && o != 7))
    && (o != 7 || (match w.dst with | .v _ => true | _ => false))

/-- R145, R152, R158: the rounding and `.sat` rules of the plane words that round. -/
def planeRndOk (w : LaneWord) : Bool := w.fld 11 2 == 0 || w.ty != 1

/-- The entry's own field rules, per opcode. -/
def laneEntryOk (op : Nat) (w : LaneWord) : Bool :=
  match op with
  | 0x017 => (w.fld 24 3).toNat ≤ 5
  | 0x01F => (w.fld 24 3).toNat ≤ 4
  | 0x200 => cvtOk w
  | 0x201 => (w.fld 23 4).toNat + 1 == packN w.ty && (w.ty != 9 || w.fld 28 2 == 0)
  | 0x202 => (w.fld 23 4).toNat + 1 == packN w.ty
  | 0x303 => planeRndOk w
  | 0x306 => planeRndOk w
  | 0x30A => planeRndOk w
  | 0x30B => planeRndOk w
  | 0x400 => if w.ty ≤ 5 then w.c.isZero && w.fld 11 9 == 0 else w.c.isV || w.c.isS
  | 0x402 => if w.ty ≤ 5 then w.a.isZero && w.fld 8 4 == 0 else w.a.isS
  | 0x403 => w.a.isS
  | 0x404 => w.fld 21 3 != 0
  | 0x405 =>
    if w.bit 20 then (w.a.isS || w.a.isLit) && w.dst == .v 0
    else w.a.isZero && w.fld 4 16 == 0 && (match w.dst with | .v _ => true | _ => false)
  | 0x407 =>
    if w.bit 20 then w.a.isZero && w.fld 4 16 == 0 else (w.a.isS || w.a.isLit) && !w.bit 24
  | 0x40A => (w.fld 21 3).toNat ≤ 4
  | 0x501 => storeDataOk w w.b
  | 0x502 => ordOk w
  | 0x503 => ordOk w && storeDataOk w w.c
  | 0x504 => ordOk w && (w.fld 29 2).toNat ≤ 1
  | 0x505 => ordOk w
  | 0x506 => ordOk w && storeDataOk w w.c
  | 0x507 => ordOk w && latomOk w
  | 0x508 => ordOk w
  | 0x600 => w.retain == 0
  | 0x601 => w.retain == 0
  | _ => true

/-- R145, R175, R317: the words that may carry no guard. -/
def unguarded (op : Nat) : Bool :=
  (0x300 ≤ op && op ≤ 0x3FF) || op == 0x402 || op == 0x403 || op == 0x700

/-- A full lane word's field rules: everything that would make it trap ILLEGAL (R29 to R33, R35, R36, R40 and its entry). -/
def laneOk (op : Nat) (w : LaneWord) : Bool :=
  match laneSpec op with
  | none => false
  | some sp =>
    sp.tys.contains (w.fld sp.tyLo 4).toNat
      && sp.dst.ok w.dst && sp.a.ok w.a && sp.b.ok w.b && sp.c.ok w.c
      && (w.mods &&& ~~~(sp.used ||| bitsFromTo (sp.tyLo + 3) sp.tyLo) == 0)
      && w.guard != 8 && (w.guard == 0 || !unguarded op)
      && retainOk op w && !sameQueue [w.a, w.b, w.c]
      && laneLast op w < 512
      && laneEntryOk op w

/-- The field rules that hold for a word of every opcode (R29, R30, R32, R33, R35, R36): all that can make a word ILLEGAL whose opcode is
an unassigned one of the experimental window (log entry 64). -/
def windowOk (op : Nat) (w : LaneWord) : Bool :=
  w.guard != 8 && !sameQueue [w.a, w.b, w.c]
    && (match w.dst with | .m k => k != 0 | .a _ => op / 256 == 4 | _ => true)
    && (match w.retain.toNat with | 0 => true | 1 => w.a.isV | 2 => w.b.isV | _ => w.c.isV)
    && (op / 256 != 5 || (w.fld 31 3).toNat ≤ 5) && (3 ≤ op / 256 || w.ty ≤ 9)

/-- Type codes that a half's type field selects (R37): 00 `.i32`, 01 `.n32`, 10 `.f32`, 11 `.bf16`. -/
def PairOp.tyOk (p : PairOp) (t : Nat) : Bool :=
  match p with
  | .mov => t ≤ 2
  | .add | .sub | .mul | .min | .max => t ≤ 1
  | .abs | .neg => t == 0
  | .and | .or | .xor | .andn | .shl | .shr | .sra => t == 0
  | .fadd | .fsub | .fmul | .fmin | .fmax | .fabs | .fneg => t == 2 || t == 3
  | .rcp | .rsqrt => t == 2
  | .cvt => t == 0

/-- Whether the half operation has a B source (R122, R127). -/
def PairOp.usesB : PairOp → Bool
  | .mov | .abs | .neg | .fabs | .fneg | .rcp | .rsqrt | .cvt => false
  | _ => true

/-- One half's field rules (R37): everything that would make the word trap ILLEGAL. -/
def halfOk (p : PairOp) (h : Half) : Bool :=
  p.tyOk (h.mods.extractLsb' 2 2).toNat
    && (h.mods.extractLsb' 0 2 == 0 || p == .cvt)
    && (p.usesB || h.b.isZero)

/-- The sources that a half reads. -/
def Half.srcs (p : PairOp) (h : Half) : List Src := if p.usesB then [h.a, h.b] else [h.a]

/-- How many of the sources name lane registers of bank `k` (R38). -/
def bankReads (xs : List Src) (k : Nat) : Nat :=
  xs.countP fun
    | .v r => r.toNat % 4 == k
    | _ => false

/-- R38: the word traps PAIRRULE. -/
def pairRule (xop : PairOp) (x : Half) (yop : PairOp) (y : Half) : Bool :=
  let xs := x.srcs xop ++ y.srcs yop
  let sf : PairOp → Bool := fun p => p == .rcp || p == .rsqrt || p == .cvt
  (List.range 4).any (fun k => 3 ≤ bankReads xs k)
    || 2 ≤ xs.countP Src.isS
    || xs.any Src.isQ
    || (sf xop && sf yop)
    || x.dst == y.dst

/-- A pair word's field rules (R37, R30): everything that would make it trap ILLEGAL. -/
def pairOk (xop : PairOp) (x : Half) (yop : PairOp) (y : Half) : Bool :=
  halfOk xop x && halfOk yop y && !sameQueue (x.srcs xop ++ y.srcs yop)

/-- Field rules of the scalar words that their constructor's types leave open (R57, R69, R107, R137, R211). -/
def scalarOk : Instr → Bool
  | .loop a _ => a != 0
  | .xcnt _ _ f => 1 ≤ f.toNat && f.toNat ≤ 9
  | .xclr _ f => 1 ≤ f.toNat && f.toNat ≤ 9
  | .dSet _ _ f => f.toNat ≤ 8
  | .dGet _ _ f => f.toNat ≤ 8
  | .fence k s => k != 0 && s.toNat ≤ 5
  | .pfence p => p.toNat ≤ 3
  | .fq _ i => i.toNat ≤ 7
  | _ => true

/-- The instruction is one of this part: no field rule of the manual fails. Device steps are always well-formed. -/
def Instr.wf (i : Instr) : Bool :=
  match i.laneFull with
  | some (op, w) => laneOk op w
  | none =>
    match i.lanePair with
    | some (_, (xop, x), (yop, y)) => pairOk xop x yop y && !pairRule xop x yop y
    | none => scalarOk i

end Sys2Proof
end

