-- ==== Sys2Proof/Decode.lean ====
section
/-! DEFINITION. The decoder, total on any bits, which rejects by the name of the trap that the manual gives (R43, R44), and the
encoder after it, written from the same tables (R18, R28, R37, R56 to R58). -/

namespace Sys2Proof

/-- Why bits are no instruction of this part: the trap that they take (R43, R38). -/
inductive Bad where
  /-- ILLEGAL -/
  | illegal
  /-- UNIMPL: an experimental window -/
  | unimpl
  /-- PAIRRULE -/
  | pairRule
  deriving DecidableEq, Repr

/-- Little-endian value of a list of bytes (R4). -/
def bytesToNat : List Byte → Nat
  | [] => 0
  | b :: r => b.toNat + 256 * bytesToNat r

/-- The `n` bytes of a value, lowest first (R4). -/
def natToBytes : Nat → Nat → List Byte
  | 0, _ => []
  | n + 1, v => BitVec.ofNat 8 v :: natToBytes n (v / 256)

/-- R21: the word is an extension word. -/
def isExtWord (w : Word) : Bool := w.extractLsb' 24 8 == 0xFF

/-- R21: the payload of an extension word, none for any other word. -/
def extPayload (w : Word) : Option (BitVec 24) := if isExtWord w then some (w.extractLsb' 0 24) else none

/-- R56, the "Ext" column: the major opcodes that take an extension word (R21). -/
def extOpcode (op : Nat) : Bool := [0x01, 0x02, 0x03, 0x04, 0x08, 0x09, 0x0A, 0x0B, 0x10, 0x11, 0x12, 0x13, 0x14, 0x15, 0x18, 0x19, 0x1A, 0x1B, 0x30, 0x31, 0x50, 0x51, 0x52, 0x53, 0x54, 0x55, 0x56, 0x57, 0x58, 0x59, 0x5A, 0x5C, 0x5F, 0x68, 0x77].contains op

/-- The operations of major opcode 0x00, by funct (R57). Every other value is unassigned: ILLEGAL (R43). -/
def decodeOp00 (w : Word) : Except Bad Instr :=
  match (w.extractLsb' 0 7).toNat with
    | 0x00 => .ok (.add (w.extractLsb' 19 6) (w.extractLsb' 13 6) (w.extractLsb' 7 6))
    | 0x01 => .ok (.sub (w.extractLsb' 19 6) (w.extractLsb' 13 6) (w.extractLsb' 7 6))
    | 0x02 => .ok (.and (w.extractLsb' 19 6) (w.extractLsb' 13 6) (w.extractLsb' 7 6))
    | 0x03 => .ok (.or (w.extractLsb' 19 6) (w.extractLsb' 13 6) (w.extractLsb' 7 6))
    | 0x04 => .ok (.xor (w.extractLsb' 19 6) (w.extractLsb' 13 6) (w.extractLsb' 7 6))
    | 0x05 => .ok (.andn (w.extractLsb' 19 6) (w.extractLsb' 13 6) (w.extractLsb' 7 6))
    | 0x06 => .ok (.shl (w.extractLsb' 19 6) (w.extractLsb' 13 6) (w.extractLsb' 7 6))
    | 0x07 => .ok (.shr (w.extractLsb' 19 6) (w.extractLsb' 13 6) (w.extractLsb' 7 6))
    | 0x08 => .ok (.sra (w.extractLsb' 19 6) (w.extractLsb' 13 6) (w.extractLsb' 7 6))
    | 0x09 => .ok (.mul (w.extractLsb' 19 6) (w.extractLsb' 13 6) (w.extractLsb' 7 6))
    | 0x0A => .ok (.mulh (w.extractLsb' 19 6) (w.extractLsb' 13 6) (w.extractLsb' 7 6))
    | 0x0B => .ok (.mulhn (w.extractLsb' 19 6) (w.extractLsb' 13 6) (w.extractLsb' 7 6))
    | 0x0C => .ok (.div (w.extractLsb' 19 6) (w.extractLsb' 13 6) (w.extractLsb' 7 6))
    | 0x0D => .ok (.divn (w.extractLsb' 19 6) (w.extractLsb' 13 6) (w.extractLsb' 7 6))
    | 0x0E => .ok (.rem (w.extractLsb' 19 6) (w.extractLsb' 13 6) (w.extractLsb' 7 6))
    | 0x0F => .ok (.remn (w.extractLsb' 19 6) (w.extractLsb' 13 6) (w.extractLsb' 7 6))
    | 0x10 => .ok (.min (w.extractLsb' 19 6) (w.extractLsb' 13 6) (w.extractLsb' 7 6))
    | 0x11 => .ok (.max (w.extractLsb' 19 6) (w.extractLsb' 13 6) (w.extractLsb' 7 6))
    | 0x12 => .ok (.minn (w.extractLsb' 19 6) (w.extractLsb' 13 6) (w.extractLsb' 7 6))
    | 0x13 => .ok (.maxn (w.extractLsb' 19 6) (w.extractLsb' 13 6) (w.extractLsb' 7 6))
    | 0x14 => .ok (.slt (w.extractLsb' 19 6) (w.extractLsb' 13 6) (w.extractLsb' 7 6))
    | 0x15 => .ok (.sltn (w.extractLsb' 19 6) (w.extractLsb' 13 6) (w.extractLsb' 7 6))
    | 0x16 => .ok (.seq (w.extractLsb' 19 6) (w.extractLsb' 13 6) (w.extractLsb' 7 6))
    | 0x17 => if w.extractLsb' 7 6 = 0 then .ok (.clz (w.extractLsb' 19 6) (w.extractLsb' 13 6)) else .error .illegal
    | 0x18 => if w.extractLsb' 7 6 = 0 then .ok (.ctz (w.extractLsb' 19 6) (w.extractLsb' 13 6)) else .error .illegal
    | 0x19 => if w.extractLsb' 7 6 = 0 then .ok (.pop (w.extractLsb' 19 6) (w.extractLsb' 13 6)) else .error .illegal
    | 0x1A => .ok (.addw (w.extractLsb' 19 6) (w.extractLsb' 13 6) (w.extractLsb' 7 6))
    | 0x1B => .ok (.subw (w.extractLsb' 19 6) (w.extractLsb' 13 6) (w.extractLsb' 7 6))
    | _ => .error .illegal

/-- The operations of major opcode 0x1C, by funct (R57). Every other value is unassigned: ILLEGAL (R43). -/
def decodeOp1C (w : Word) : Except Bad Instr :=
  match (w.extractLsb' 0 7).toNat with
    | 0x00 => if w.extractLsb' 10 9 = 0 then .ok (.lany (w.extractLsb' 19 6) (w.extractLsb' 7 3)) else .error .illegal
    | 0x01 => if w.extractLsb' 10 9 = 0 then .ok (.lall (w.extractLsb' 19 6) (w.extractLsb' 7 3)) else .error .illegal
    | 0x02 => if w.extractLsb' 10 9 = 0 then .ok (.lcount (w.extractLsb' 19 6) (w.extractLsb' 7 3)) else .error .illegal
    | 0x03 => if w.extractLsb' 7 18 = 0 then .ok (.lsync) else .error .illegal
    | _ => .error .illegal

/-- The operations of major opcode 0x1E, by funct (R57). Every other value is unassigned: ILLEGAL (R43). -/
def decodeOp1E (w : Word) : Except Bad Instr :=
  match (w.extractLsb' 0 7).toNat with
    | 0x00 => if w.extractLsb' 7 18 = 0 then .ok (.exit) else .error .illegal
    | 0x01 => if w.extractLsb' 7 12 = 0 then .ok (.rdcyc (w.extractLsb' 19 6)) else .error .illegal
    | _ => .error .illegal

/-- The operations of major opcode 0x1F, by funct (R57). Every other value is unassigned: ILLEGAL (R43). -/
def decodeOp1F (w : Word) : Except Bad Instr :=
  match (w.extractLsb' 12 1).toNat with
    | 0 => if w.extractLsb' 13 6 = 0 then .ok (.csrr (w.extractLsb' 19 6) (w.extractLsb' 0 12)) else .error .illegal
    | 1 => if w.extractLsb' 19 6 = 0 then .ok (.csrw (w.extractLsb' 13 6) (w.extractLsb' 0 12)) else .error .illegal
    | _ => .error .illegal

/-- The operations of major opcode 0x5B, by funct (R57). Every other value is unassigned: ILLEGAL (R43). -/
def decodeOp5B (w : Word) : Except Bad Instr :=
  match (w.extractLsb' 3 4).toNat with
    | 0 => .ok (.atomAdd (w.extractLsb' 19 6) (w.extractLsb' 13 6) (w.extractLsb' 7 6) (w.getLsbD 2) (w.extractLsb' 0 2))
    | 1 => .ok (.atomAnd (w.extractLsb' 19 6) (w.extractLsb' 13 6) (w.extractLsb' 7 6) (w.getLsbD 2) (w.extractLsb' 0 2))
    | 2 => .ok (.atomOr (w.extractLsb' 19 6) (w.extractLsb' 13 6) (w.extractLsb' 7 6) (w.getLsbD 2) (w.extractLsb' 0 2))
    | 3 => .ok (.atomXor (w.extractLsb' 19 6) (w.extractLsb' 13 6) (w.extractLsb' 7 6) (w.getLsbD 2) (w.extractLsb' 0 2))
    | 4 => .ok (.atomMin (w.extractLsb' 19 6) (w.extractLsb' 13 6) (w.extractLsb' 7 6) (w.getLsbD 2) (w.extractLsb' 0 2))
    | 5 => .ok (.atomMax (w.extractLsb' 19 6) (w.extractLsb' 13 6) (w.extractLsb' 7 6) (w.getLsbD 2) (w.extractLsb' 0 2))
    | 6 => .ok (.atomMinn (w.extractLsb' 19 6) (w.extractLsb' 13 6) (w.extractLsb' 7 6) (w.getLsbD 2) (w.extractLsb' 0 2))
    | 7 => .ok (.atomMaxn (w.extractLsb' 19 6) (w.extractLsb' 13 6) (w.extractLsb' 7 6) (w.getLsbD 2) (w.extractLsb' 0 2))
    | 8 => .ok (.atomSwap (w.extractLsb' 19 6) (w.extractLsb' 13 6) (w.extractLsb' 7 6) (w.getLsbD 2) (w.extractLsb' 0 2))
    | 9 => .ok (.atomCas (w.extractLsb' 19 6) (w.extractLsb' 13 6) (w.extractLsb' 7 6) (w.getLsbD 2) (w.extractLsb' 0 2))
    | _ => .error .illegal

/-- The operations of major opcode 0x5D, by funct (R57). Every other value is unassigned: ILLEGAL (R43). -/
def decodeOp5D (w : Word) : Except Bad Instr :=
  match (w.extractLsb' 5 2).toNat with
    | 0 => if w.extractLsb' 7 18 = 0 then .ok (.fence (w.extractLsb' 3 2) (w.extractLsb' 0 3)) else .error .illegal
    | 1 => if w.extractLsb' 7 18 = 0 ∧ w.extractLsb' 3 2 = 0 then .ok (.pfence (w.extractLsb' 0 3)) else .error .illegal
    | _ => .error .illegal

/-- The operations of major opcode 0x5E, by funct (R57). Every other value is unassigned: ILLEGAL (R43). -/
def decodeOp5E (w : Word) : Except Bad Instr :=
  match (w.extractLsb' 0 7).toNat with
    | 0x00 => if w.extractLsb' 7 6 = 0 then .ok (.pinL2 (w.extractLsb' 19 6) (w.extractLsb' 13 6)) else .error .illegal
    | 0x01 => if w.extractLsb' 7 6 = 0 ∧ w.extractLsb' 19 6 = 0 then .ok (.unpinL2 (w.extractLsb' 13 6)) else .error .illegal
    | _ => .error .illegal

/-- The operations of major opcode 0x6B, by funct (R57). Every other value is unassigned: ILLEGAL (R43). -/
def decodeOp6B (w : Word) : Except Bad Instr :=
  match (w.extractLsb' 0 7).toNat with
    | 0x00 => if w.extractLsb' 7 6 = 0 ∧ w.extractLsb' 19 6 = 0 then .ok (.crewBar (w.extractLsb' 13 6)) else .error .illegal
    | 0x01 => if w.extractLsb' 7 6 = 0 ∧ w.extractLsb' 19 6 = 0 then .ok (.crewArrive (w.extractLsb' 13 6)) else .error .illegal
    | 0x02 => if w.extractLsb' 7 6 = 0 ∧ w.extractLsb' 19 6 = 0 then .ok (.crewWait (w.extractLsb' 13 6)) else .error .illegal
    | _ => .error .illegal

/-- The operations of major opcode 0x73, by funct (R57). Every other value is unassigned: ILLEGAL (R43). -/
def decodeOp73 (w : Word) : Except Bad Instr :=
  match (w.extractLsb' 0 7).toNat with
    | 0x00 => if w.extractLsb' 7 18 = 0 then .ok (.tlbAll) else .error .illegal
    | 0x01 => if w.extractLsb' 7 6 = 0 ∧ w.extractLsb' 19 6 = 0 then .ok (.tlbVa (w.extractLsb' 13 6)) else .error .illegal
    | 0x02 => if w.extractLsb' 7 6 = 0 ∧ w.extractLsb' 19 6 = 0 then .ok (.tlbCtx (w.extractLsb' 13 6)) else .error .illegal
    | _ => .error .illegal

/-- The operations of major opcode 0x74, by funct (R57). Every other value is unassigned: ILLEGAL (R43). -/
def decodeOp74 (w : Word) : Except Bad Instr :=
  match (w.extractLsb' 0 7).toNat with
    | 0x00 => if w.extractLsb' 19 6 = 0 then .ok (.cacheWb (w.extractLsb' 13 6) (w.extractLsb' 7 6)) else .error .illegal
    | 0x01 => if w.extractLsb' 19 6 = 0 then .ok (.cacheInv (w.extractLsb' 13 6) (w.extractLsb' 7 6)) else .error .illegal
    | 0x02 => if w.extractLsb' 19 6 = 0 then .ok (.cacheWbinv (w.extractLsb' 13 6) (w.extractLsb' 7 6)) else .error .illegal
    | _ => .error .illegal

/-- The scalar word `w`, with the payload of the extension word that follows it where one does, before the field rules of
`scalarOk` are judged. -/
def decodeFields (w : Word) (ext : Option (BitVec 24)) : Except Bad Instr :=
  match (w.extractLsb' 25 7).toNat with
  | 0x00 => decodeOp00 w
  | 0x01 => .ok (.addi (w.extractLsb' 19 6) (w.extractLsb' 13 6) ⟨w.extractLsb' 0 13, ext⟩)
  | 0x02 => .ok (.andi (w.extractLsb' 19 6) (w.extractLsb' 13 6) ⟨w.extractLsb' 0 13, ext⟩)
  | 0x03 => .ok (.ori (w.extractLsb' 19 6) (w.extractLsb' 13 6) ⟨w.extractLsb' 0 13, ext⟩)
  | 0x04 => .ok (.xori (w.extractLsb' 19 6) (w.extractLsb' 13 6) ⟨w.extractLsb' 0 13, ext⟩)
  | 0x05 => if w.extractLsb' 6 7 = 0 then .ok (.shli (w.extractLsb' 19 6) (w.extractLsb' 13 6) (w.extractLsb' 0 6)) else .error .illegal
  | 0x06 => if w.extractLsb' 6 7 = 0 then .ok (.shri (w.extractLsb' 19 6) (w.extractLsb' 13 6) (w.extractLsb' 0 6)) else .error .illegal
  | 0x07 => if w.extractLsb' 6 7 = 0 then .ok (.srai (w.extractLsb' 19 6) (w.extractLsb' 13 6) (w.extractLsb' 0 6)) else .error .illegal
  | 0x08 => .ok (.slti (w.extractLsb' 19 6) (w.extractLsb' 13 6) ⟨w.extractLsb' 0 13, ext⟩)
  | 0x09 => .ok (.sltni (w.extractLsb' 19 6) (w.extractLsb' 13 6) ⟨w.extractLsb' 0 13, ext⟩)
  | 0x0A => .ok (.muli (w.extractLsb' 19 6) (w.extractLsb' 13 6) ⟨w.extractLsb' 0 13, ext⟩)
  | 0x0B => if w.extractLsb' 13 6 = 0 then .ok (.pca (w.extractLsb' 19 6) ⟨w.extractLsb' 0 13, ext⟩) else .error .illegal
  | 0x10 => .ok (.beq (w.extractLsb' 19 6) (w.extractLsb' 13 6) ⟨w.extractLsb' 0 13, ext⟩)
  | 0x11 => .ok (.bne (w.extractLsb' 19 6) (w.extractLsb' 13 6) ⟨w.extractLsb' 0 13, ext⟩)
  | 0x12 => .ok (.blt (w.extractLsb' 19 6) (w.extractLsb' 13 6) ⟨w.extractLsb' 0 13, ext⟩)
  | 0x13 => .ok (.bge (w.extractLsb' 19 6) (w.extractLsb' 13 6) ⟨w.extractLsb' 0 13, ext⟩)
  | 0x14 => .ok (.bltn (w.extractLsb' 19 6) (w.extractLsb' 13 6) ⟨w.extractLsb' 0 13, ext⟩)
  | 0x15 => .ok (.bgen (w.extractLsb' 19 6) (w.extractLsb' 13 6) ⟨w.extractLsb' 0 13, ext⟩)
  | 0x16 => .ok (.j (w.extractLsb' 0 25))
  | 0x17 => .ok (.call (w.extractLsb' 0 25))
  | 0x18 => .ok (.jlr (w.extractLsb' 19 6) (w.extractLsb' 13 6) ⟨w.extractLsb' 0 13, ext⟩)
  | 0x19 => if w.extractLsb' 13 6 = 0 then .ok (.loop (w.extractLsb' 19 6) ⟨w.extractLsb' 0 13, ext⟩) else .error .illegal
  | 0x1A => if w.extractLsb' 19 6 = 0 then .ok (.lexec (w.extractLsb' 13 6) ⟨w.extractLsb' 0 13, ext⟩) else .error .illegal
  | 0x1B => .ok (.lexecC (w.extractLsb' 19 6) (w.extractLsb' 13 6) ⟨w.extractLsb' 0 13, ext⟩)
  | 0x1C => decodeOp1C w
  | 0x1D => if w.extractLsb' 9 4 = 0 then .ok (.lread (w.extractLsb' 19 6) (w.extractLsb' 13 6) (w.extractLsb' 0 9)) else .error .illegal
  | 0x1E => decodeOp1E w
  | 0x1F => decodeOp1F w
  | 0x20 => if w.extractLsb' 2 11 = 0 then .ok (.scw (w.extractLsb' 19 6) (w.extractLsb' 13 6) (w.extractLsb' 0 2)) else .error .illegal
  | 0x21 => if w.extractLsb' 6 13 = 0 then .ok (.xcnt (w.extractLsb' 19 6) (w.extractLsb' 4 2) (w.extractLsb' 0 4)) else .error .illegal
  | 0x22 => if w.extractLsb' 6 19 = 0 then .ok (.xclr (w.extractLsb' 4 2) (w.extractLsb' 0 4)) else .error .illegal
  | 0x30 => if w.extractLsb' 23 2 = 0 then .ok (.dLd (w.extractLsb' 19 4) (w.extractLsb' 13 6) ⟨w.extractLsb' 0 13, ext⟩) else .error .illegal
  | 0x31 => if w.extractLsb' 23 2 = 0 then .ok (.dSt (w.extractLsb' 19 4) (w.extractLsb' 13 6) ⟨w.extractLsb' 0 13, ext⟩) else .error .illegal
  | 0x32 => if w.extractLsb' 0 13 = 0 ∧ w.extractLsb' 17 2 = 0 ∧ w.extractLsb' 23 2 = 0 then .ok (.dMov (w.extractLsb' 19 4) (w.extractLsb' 13 4)) else .error .illegal
  | 0x33 => if w.extractLsb' 7 6 = 0 ∧ w.extractLsb' 23 2 = 0 then .ok (.dSet (w.extractLsb' 19 4) (w.extractLsb' 13 6) (w.extractLsb' 0 7)) else .error .illegal
  | 0x34 => if w.extractLsb' 7 6 = 0 ∧ w.extractLsb' 17 2 = 0 then .ok (.dGet (w.extractLsb' 19 6) (w.extractLsb' 13 4) (w.extractLsb' 0 7)) else .error .illegal
  | 0x40 => if w.extractLsb' 0 19 = 0 ∧ w.extractLsb' 20 5 = 0 then .ok (.accClr (w.extractLsb' 19 1)) else .error .illegal
  | 0x41 => if w.extractLsb' 0 13 = 0 ∧ w.extractLsb' 20 5 = 0 then .ok (.accAnc (w.extractLsb' 19 1) (w.extractLsb' 13 6)) else .error .illegal
  | 0x50 => .ok (.ldb (w.extractLsb' 19 6) (w.extractLsb' 13 6) ⟨w.extractLsb' 0 13, ext⟩)
  | 0x51 => .ok (.ldbn (w.extractLsb' 19 6) (w.extractLsb' 13 6) ⟨w.extractLsb' 0 13, ext⟩)
  | 0x52 => .ok (.ldh (w.extractLsb' 19 6) (w.extractLsb' 13 6) ⟨w.extractLsb' 0 13, ext⟩)
  | 0x53 => .ok (.ldhn (w.extractLsb' 19 6) (w.extractLsb' 13 6) ⟨w.extractLsb' 0 13, ext⟩)
  | 0x54 => .ok (.ldw (w.extractLsb' 19 6) (w.extractLsb' 13 6) ⟨w.extractLsb' 0 13, ext⟩)
  | 0x55 => .ok (.ldwn (w.extractLsb' 19 6) (w.extractLsb' 13 6) ⟨w.extractLsb' 0 13, ext⟩)
  | 0x56 => .ok (.ldd (w.extractLsb' 19 6) (w.extractLsb' 13 6) ⟨w.extractLsb' 0 13, ext⟩)
  | 0x57 => .ok (.stb (w.extractLsb' 19 6) (w.extractLsb' 13 6) ⟨w.extractLsb' 0 13, ext⟩)
  | 0x58 => .ok (.sth (w.extractLsb' 19 6) (w.extractLsb' 13 6) ⟨w.extractLsb' 0 13, ext⟩)
  | 0x59 => .ok (.stw (w.extractLsb' 19 6) (w.extractLsb' 13 6) ⟨w.extractLsb' 0 13, ext⟩)
  | 0x5A => .ok (.std (w.extractLsb' 19 6) (w.extractLsb' 13 6) ⟨w.extractLsb' 0 13, ext⟩)
  | 0x5B => decodeOp5B w
  | 0x5C => .ok (.ldv (w.extractLsb' 19 6) (w.extractLsb' 13 6) ⟨w.extractLsb' 0 13, ext⟩)
  | 0x5D => decodeOp5D w
  | 0x5E => decodeOp5E w
  | 0x5F => if w.extractLsb' 20 5 = 0 then .ok (.pref (w.extractLsb' 19 1) (w.extractLsb' 13 6) ⟨w.extractLsb' 0 13, ext⟩) else .error .illegal
  | 0x60 => .ok (.cpPlane (w.extractLsb' 19 6) (w.extractLsb' 13 6) (w.extractLsb' 7 6) (w.extractLsb' 3 4) (w.extractLsb' 0 3))
  | 0x61 => .ok (.cpPlaneSw (w.extractLsb' 19 6) (w.extractLsb' 13 6) (w.extractLsb' 7 6) (w.extractLsb' 3 4) (w.extractLsb' 0 3))
  | 0x62 => .ok (.cpStore (w.extractLsb' 19 6) (w.extractLsb' 13 6) (w.extractLsb' 7 6) (w.extractLsb' 3 4) (w.extractLsb' 0 3))
  | 0x63 => .ok (.cpSkim (w.extractLsb' 19 6) (w.extractLsb' 13 6) (w.extractLsb' 7 6) (w.extractLsb' 3 4) (w.extractLsb' 0 3))
  | 0x64 => .ok (.cpFill (w.extractLsb' 19 6) (w.extractLsb' 13 6) (w.extractLsb' 7 6) (w.extractLsb' 3 4) (w.extractLsb' 0 3))
  | 0x65 => if w.extractLsb' 0 13 = 0 ∧ w.extractLsb' 19 6 = 0 then .ok (.cpWait (w.extractLsb' 13 6)) else .error .illegal
  | 0x66 => if w.extractLsb' 0 13 = 0 then .ok (.cpTest (w.extractLsb' 19 6) (w.extractLsb' 13 6)) else .error .illegal
  | 0x67 => if w.extractLsb' 0 13 = 0 ∧ w.extractLsb' 19 6 = 0 then .ok (.cpRetry (w.extractLsb' 13 6)) else .error .illegal
  | 0x68 => if w.extractLsb' 22 3 = 0 then .ok (.srBind (w.extractLsb' 19 3) (w.extractLsb' 13 6) ⟨w.extractLsb' 0 13, ext⟩) else .error .illegal
  | 0x69 => if w.extractLsb' 0 19 = 0 ∧ w.extractLsb' 22 3 = 0 then .ok (.srStop (w.extractLsb' 19 3)) else .error .illegal
  | 0x6A => if w.extractLsb' 0 7 = 0 then .ok (.taskPush (w.extractLsb' 19 6) (w.extractLsb' 13 6) (w.extractLsb' 7 6)) else .error .illegal
  | 0x6B => decodeOp6B w
  | 0x6C => if w.extractLsb' 0 25 = 0 then .ok (.qnt) else .error .illegal
  | 0x6D => if w.extractLsb' 0 25 = 0 then .ok (.phaseEnd) else .error .illegal
  | 0x6E => if w.extractLsb' 2 5 = 0 then .ok (.sigWait (w.extractLsb' 19 6) (w.extractLsb' 13 6) (w.extractLsb' 7 6) (w.extractLsb' 0 2)) else .error .illegal
  | 0x6F => if w.extractLsb' 0 7 = 0 then .ok (.sigAdd (w.extractLsb' 19 6) (w.extractLsb' 13 6) (w.extractLsb' 7 6)) else .error .illegal
  | 0x70 => if w.extractLsb' 13 12 = 0 then .ok (.sys (w.extractLsb' 0 13)) else .error .illegal
  | 0x71 => if w.extractLsb' 13 12 = 0 then .ok (.brk (w.extractLsb' 0 13)) else .error .illegal
  | 0x72 => if w.extractLsb' 0 25 = 0 then .ok (.eret) else .error .illegal
  | 0x73 => decodeOp73 w
  | 0x74 => decodeOp74 w
  | 0x75 => if w.extractLsb' 13 6 = 0 then .ok (.fq (w.extractLsb' 19 6) (w.extractLsb' 0 13)) else .error .illegal
  | 0x76 => if w.extractLsb' 0 25 = 0 then .ok (.step) else .error .illegal
  | 0x77 => if w.extractLsb' 20 5 = 0 then .ok (.ipref (w.extractLsb' 19 1) (w.extractLsb' 13 6) ⟨w.extractLsb' 0 13, ext⟩) else .error .illegal
  | 0x78 => if w.extractLsb' 0 25 = 0 then .ok (.pfenceCode) else .error .illegal
  | 0x79 => if w.extractLsb' 0 7 = 0 then .ok (.cst4 (w.extractLsb' 19 6) (w.extractLsb' 13 6) (w.extractLsb' 7 6)) else .error .illegal
  | 0x7C => .error .unimpl
  | 0x7D => .error .unimpl
  | 0x7E => .error .unimpl
  | _ => .error .illegal

/-- The scalar instruction that word `w` stands for; `next` is the word that follows it (R21). -/
def decodeScalar (w next : Word) : Except Bad Instr :=
  match decodeFields w (extPayload next) with
  | .ok i => if i.wf then .ok i else .error .illegal
  | .error e => .error e

/-- A source field (R30, Table 4); none where it is ILLEGAL. -/
def decodeSrc (x : BitVec 11) : Option Src :=
  match (x.extractLsb' 9 2).toNat with
  | 0 => some (.v (x.extractLsb' 0 9))
  | 1 => some (.lit (x.extractLsb' 0 9))
  | 2 => if x.extractLsb' 6 3 = 0 then some (.s (x.extractLsb' 0 6)) else none
  | _ => if x.extractLsb' 2 7 = 0 then some (.q (x.extractLsb' 0 2)) else none

/-- A destination field (R29); none where it is ILLEGAL. -/
def decodeDst (x : BitVec 10) : Option Dst :=
  if x.extractLsb' 9 1 = 0 then some (.v (x.extractLsb' 0 9))
  else if x.extractLsb' 3 6 = 0 then some (.m (x.extractLsb' 0 3))
  else if x.extractLsb' 2 7 = 5 then some (.q (x.extractLsb' 0 2))
  else if x.extractLsb' 1 8 = 16 then some (.a (x.extractLsb' 0 1))
  else none

/-- The fields of a full lane word (R28, Table 3); none where a field is ILLEGAL by itself. -/
def decodeLaneWord (w : BitVec 96) : Option LaneWord :=
  match decodeDst (w.extractLsb' 73 10), decodeSrc (w.extractLsb' 62 11), decodeSrc (w.extractLsb' 51 11),
      decodeSrc (w.extractLsb' 40 11) with
  | some d, some a, some b, some c =>
    some ⟨w.getLsbD 95, w.extractLsb' 36 4, w.extractLsb' 34 2, d, a, b, c, w.extractLsb' 0 34⟩
  | _, _, _, _ => none

/-- One half of a pair word (R37, Table 6): its operation and its fields. -/
def decodeHalf (h : BitVec 47) : Option (PairOp × Half) :=
  match PairOp.ofCode (h.extractLsb' 38 9), decodeSrc (h.extractLsb' 18 11), decodeSrc (h.extractLsb' 7 11) with
  | some p, some a, some b => some (p, ⟨h.extractLsb' 29 9, a, b, h.extractLsb' 4 3, h.extractLsb' 0 4⟩)
  | _, _, _ => none

/-- The lane instruction that a 96-bit word stands for (R28, R37, R43). ILLEGAL stands before UNIMPL and PAIRRULE (R44): of a word of
the experimental window, the field rules of every opcode are judged first (log entry 64). -/
def decodeLane (w : BitVec 96) : Except Bad Instr :=
  if w.getLsbD 94 then
    match decodeHalf (w.extractLsb' 47 47), decodeHalf (w.extractLsb' 0 47) with
    | some (xop, x), some (yop, y) =>
      if pairOk xop x yop y then
        if pairRule xop x yop y then .error .pairRule else .ok (mkPair (w.getLsbD 95) xop x yop y)
      else .error .illegal
    | _, _ => .error .illegal
  else
    let op := (w.extractLsb' 83 11).toNat
    match laneSpec op with
    | none =>
      if 0xE0 ≤ op % 256 && ((decodeLaneWord w).any (windowOk op)) then .error .unimpl else .error .illegal
    | some _ =>
      match decodeLaneWord w with
      | none => .error .illegal
      | some lw =>
        if laneOk op lw then
          match mkLane op lw with
          | some i => .ok i
          | none => .error .illegal
        else .error .illegal

/-! Lane code blocks (R23, R24). A block is held as one value of 1,024 bits, its lowest byte in bits 7..0. -/

/-- The header's valid-slot map. -/
def Block.map (b : BitVec 1024) : BitVec 10 := b.extractLsb' 0 10

/-- The header's highest lifetime class. -/
def Block.cls (b : BitVec 1024) : Nat := (b.extractLsb' 10 2).toNat

/-- The header's minimum architecture level. -/
def Block.level (b : BitVec 1024) : Nat := (b.extractLsb' 12 8).toNat

/-- The header's stepping tag. -/
def Block.stepping (b : BitVec 1024) : Nat := (b.extractLsb' 20 8).toNat

/-- The header's trace-mask register. -/
def Block.traceMask (b : BitVec 1024) : Nat := (b.extractLsb' 28 3).toNat

/-- The header's reserved bits 63..31. -/
def Block.reserved (b : BitVec 1024) : BitVec 33 := b.extractLsb' 31 33

/-- The lane word in slot `k` (R23). -/
def Block.slot (b : BitVec 1024) (k : Nat) : BitVec 96 := b.extractLsb' (64 + 96 * k) 96

/-- Whether slot `k` holds a lane word. -/
def Block.valid (b : BitVec 1024) (k : Nat) : Bool := (Block.map b).getLsbD k

/-- The highest valid slot, none for an empty map (R26). -/
def Block.highest (b : BitVec 1024) : Option Nat := (List.range 10).reverse.find? (Block.valid b)

/-- The lowest valid slot (R343). -/
def Block.lowest (b : BitVec 1024) : Option Nat := (List.range 10).find? (Block.valid b)

/-- R330, R58: the lifetime class of a lane opcode: 0 permanent, 1 deprecated, 2 experimental. -/
def lifetime (op : Nat) : Nat := if op = 0x022 ∨ op = 0x40B ∨ op = 0x30F then 1 else if op = 0x3E0 then 2 else 0

/-- The full opcodes that a lane word holds: one, or the two of a pair (R37). -/
def laneOpcodes (w : BitVec 96) : List Nat :=
  let full (p : BitVec 9) : Nat := p.toNat / 128 * 256 + p.toNat % 128
  if w.getLsbD 94 then [full (w.extractLsb' 85 9), full (w.extractLsb' 38 9)] else [(w.extractLsb' 83 11).toNat]

/-- R27, the header's fates for the slot's word, in the order of R44: ILLEGAL before UNIMPL. -/
def headerBad (b : BitVec 1024) (w : BitVec 96) : Option Bad :=
  if Block.reserved b ≠ 0 ∨ Block.cls b = 3 ∨ Block.level b = 0 then some .illegal
  else if (laneOpcodes w).any (fun op => Block.cls b < lifetime op) then some .illegal
  else if 2 < Block.level b then some .unimpl
  else if (laneOpcodes w).any (fun op => lifetime op = 2) ∧ Block.stepping b ≠ 0xA1 then some .unimpl
  else none

/-- The first word of a scalar instruction and the payload of its extension word (R18, R56, R57). -/
def encodeScalar : Instr → Option (Word × Option (BitVec 24))
  | .add d a b => some (0x00#7 ++ d ++ a ++ b ++ 0x0#7, none)
  | .sub d a b => some (0x00#7 ++ d ++ a ++ b ++ 0x1#7, none)
  | .and d a b => some (0x00#7 ++ d ++ a ++ b ++ 0x2#7, none)
  | .or d a b => some (0x00#7 ++ d ++ a ++ b ++ 0x3#7, none)
  | .xor d a b => some (0x00#7 ++ d ++ a ++ b ++ 0x4#7, none)
  | .andn d a b => some (0x00#7 ++ d ++ a ++ b ++ 0x5#7, none)
  | .shl d a b => some (0x00#7 ++ d ++ a ++ b ++ 0x6#7, none)
  | .shr d a b => some (0x00#7 ++ d ++ a ++ b ++ 0x7#7, none)
  | .sra d a b => some (0x00#7 ++ d ++ a ++ b ++ 0x8#7, none)
  | .mul d a b => some (0x00#7 ++ d ++ a ++ b ++ 0x9#7, none)
  | .mulh d a b => some (0x00#7 ++ d ++ a ++ b ++ 0xA#7, none)
  | .mulhn d a b => some (0x00#7 ++ d ++ a ++ b ++ 0xB#7, none)
  | .div d a b => some (0x00#7 ++ d ++ a ++ b ++ 0xC#7, none)
  | .divn d a b => some (0x00#7 ++ d ++ a ++ b ++ 0xD#7, none)
  | .rem d a b => some (0x00#7 ++ d ++ a ++ b ++ 0xE#7, none)
  | .remn d a b => some (0x00#7 ++ d ++ a ++ b ++ 0xF#7, none)
  | .min d a b => some (0x00#7 ++ d ++ a ++ b ++ 0x10#7, none)
  | .max d a b => some (0x00#7 ++ d ++ a ++ b ++ 0x11#7, none)
  | .minn d a b => some (0x00#7 ++ d ++ a ++ b ++ 0x12#7, none)
  | .maxn d a b => some (0x00#7 ++ d ++ a ++ b ++ 0x13#7, none)
  | .slt d a b => some (0x00#7 ++ d ++ a ++ b ++ 0x14#7, none)
  | .sltn d a b => some (0x00#7 ++ d ++ a ++ b ++ 0x15#7, none)
  | .seq d a b => some (0x00#7 ++ d ++ a ++ b ++ 0x16#7, none)
  | .clz d a => some (0x00#7 ++ d ++ a ++ 0x0#6 ++ 0x17#7, none)
  | .ctz d a => some (0x00#7 ++ d ++ a ++ 0x0#6 ++ 0x18#7, none)
  | .pop d a => some (0x00#7 ++ d ++ a ++ 0x0#6 ++ 0x19#7, none)
  | .addw d a b => some (0x00#7 ++ d ++ a ++ b ++ 0x1A#7, none)
  | .subw d a b => some (0x00#7 ++ d ++ a ++ b ++ 0x1B#7, none)
  | .addi d a i => some (0x01#7 ++ d ++ a ++ i.lo, i.ext)
  | .andi d a i => some (0x02#7 ++ d ++ a ++ i.lo, i.ext)
  | .ori d a i => some (0x03#7 ++ d ++ a ++ i.lo, i.ext)
  | .xori d a i => some (0x04#7 ++ d ++ a ++ i.lo, i.ext)
  | .shli d a n => some (0x05#7 ++ d ++ a ++ 0x0#6 ++ 0x0#1 ++ n, none)
  | .shri d a n => some (0x06#7 ++ d ++ a ++ 0x0#6 ++ 0x0#1 ++ n, none)
  | .srai d a n => some (0x07#7 ++ d ++ a ++ 0x0#6 ++ 0x0#1 ++ n, none)
  | .slti d a i => some (0x08#7 ++ d ++ a ++ i.lo, i.ext)
  | .sltni d a i => some (0x09#7 ++ d ++ a ++ i.lo, i.ext)
  | .muli d a i => some (0x0A#7 ++ d ++ a ++ i.lo, i.ext)
  | .pca d i => some (0x0B#7 ++ d ++ 0x0#6 ++ i.lo, i.ext)
  | .beq a b o => some (0x10#7 ++ a ++ b ++ o.lo, o.ext)
  | .bne a b o => some (0x11#7 ++ a ++ b ++ o.lo, o.ext)
  | .blt a b o => some (0x12#7 ++ a ++ b ++ o.lo, o.ext)
  | .bge a b o => some (0x13#7 ++ a ++ b ++ o.lo, o.ext)
  | .bltn a b o => some (0x14#7 ++ a ++ b ++ o.lo, o.ext)
  | .bgen a b o => some (0x15#7 ++ a ++ b ++ o.lo, o.ext)
  | .j o => some (0x16#7 ++ o, none)
  | .call o => some (0x17#7 ++ o, none)
  | .jlr d a i => some (0x18#7 ++ d ++ a ++ i.lo, i.ext)
  | .loop a o => some (0x19#7 ++ a ++ 0x0#6 ++ o.lo, o.ext)
  | .lexec a i => some (0x1A#7 ++ 0x0#6 ++ a ++ i.lo, i.ext)
  | .lexecC c a i => some (0x1B#7 ++ c ++ a ++ i.lo, i.ext)
  | .lany d k => some (0x1C#7 ++ d ++ 0x0#6 ++ 0x0#3 ++ k ++ 0x0#7, none)
  | .lall d k => some (0x1C#7 ++ d ++ 0x0#6 ++ 0x0#3 ++ k ++ 0x1#7, none)
  | .lcount d k => some (0x1C#7 ++ d ++ 0x0#6 ++ 0x0#3 ++ k ++ 0x2#7, none)
  | .lsync => some (0x1C#7 ++ 0x0#6 ++ 0x0#6 ++ 0x0#6 ++ 0x3#7, none)
  | .lread d a n => some (0x1D#7 ++ d ++ a ++ 0x0#4 ++ n, none)
  | .exit => some (0x1E#7 ++ 0x0#6 ++ 0x0#6 ++ 0x0#6 ++ 0x0#7, none)
  | .rdcyc d => some (0x1E#7 ++ d ++ 0x0#6 ++ 0x0#6 ++ 0x1#7, none)
  | .csrr d c => some (0x1F#7 ++ d ++ 0x0#6 ++ 0x0#1 ++ c, none)
  | .csrw a c => some (0x1F#7 ++ 0x0#6 ++ a ++ 0x1#1 ++ c, none)
  | .scw d a t => some (0x20#7 ++ d ++ a ++ 0x0#6 ++ 0x0#5 ++ t, none)
  | .xcnt d k f => some (0x21#7 ++ d ++ 0x0#6 ++ 0x0#6 ++ 0x0#1 ++ k ++ f, none)
  | .xclr k f => some (0x22#7 ++ 0x0#6 ++ 0x0#6 ++ 0x0#6 ++ 0x0#1 ++ k ++ f, none)
  | .dLd n a i => some (0x30#7 ++ 0x0#2 ++ n ++ a ++ i.lo, i.ext)
  | .dSt n a i => some (0x31#7 ++ 0x0#2 ++ n ++ a ++ i.lo, i.ext)
  | .dMov n m => some (0x32#7 ++ 0x0#2 ++ n ++ 0x0#2 ++ m ++ 0x0#6 ++ 0x0#7, none)
  | .dSet n a f => some (0x33#7 ++ 0x0#2 ++ n ++ a ++ 0x0#6 ++ f, none)
  | .dGet d m f => some (0x34#7 ++ d ++ 0x0#2 ++ m ++ 0x0#6 ++ f, none)
  | .accClr n => some (0x40#7 ++ 0x0#5 ++ n ++ 0x0#6 ++ 0x0#6 ++ 0x0#7, none)
  | .accAnc n a => some (0x41#7 ++ 0x0#5 ++ n ++ a ++ 0x0#6 ++ 0x0#7, none)
  | .ldb d a i => some (0x50#7 ++ d ++ a ++ i.lo, i.ext)
  | .ldbn d a i => some (0x51#7 ++ d ++ a ++ i.lo, i.ext)
  | .ldh d a i => some (0x52#7 ++ d ++ a ++ i.lo, i.ext)
  | .ldhn d a i => some (0x53#7 ++ d ++ a ++ i.lo, i.ext)
  | .ldw d a i => some (0x54#7 ++ d ++ a ++ i.lo, i.ext)
  | .ldwn d a i => some (0x55#7 ++ d ++ a ++ i.lo, i.ext)
  | .ldd d a i => some (0x56#7 ++ d ++ a ++ i.lo, i.ext)
  | .stb d a i => some (0x57#7 ++ d ++ a ++ i.lo, i.ext)
  | .sth d a i => some (0x58#7 ++ d ++ a ++ i.lo, i.ext)
  | .stw d a i => some (0x59#7 ++ d ++ a ++ i.lo, i.ext)
  | .std d a i => some (0x5A#7 ++ d ++ a ++ i.lo, i.ext)
  | .atomAdd d a b w o => some (0x5B#7 ++ d ++ a ++ b ++ 0x0#4 ++ BitVec.ofBool w ++ o, none)
  | .atomAnd d a b w o => some (0x5B#7 ++ d ++ a ++ b ++ 0x1#4 ++ BitVec.ofBool w ++ o, none)
  | .atomOr d a b w o => some (0x5B#7 ++ d ++ a ++ b ++ 0x2#4 ++ BitVec.ofBool w ++ o, none)
  | .atomXor d a b w o => some (0x5B#7 ++ d ++ a ++ b ++ 0x3#4 ++ BitVec.ofBool w ++ o, none)
  | .atomMin d a b w o => some (0x5B#7 ++ d ++ a ++ b ++ 0x4#4 ++ BitVec.ofBool w ++ o, none)
  | .atomMax d a b w o => some (0x5B#7 ++ d ++ a ++ b ++ 0x5#4 ++ BitVec.ofBool w ++ o, none)
  | .atomMinn d a b w o => some (0x5B#7 ++ d ++ a ++ b ++ 0x6#4 ++ BitVec.ofBool w ++ o, none)
  | .atomMaxn d a b w o => some (0x5B#7 ++ d ++ a ++ b ++ 0x7#4 ++ BitVec.ofBool w ++ o, none)
  | .atomSwap d a b w o => some (0x5B#7 ++ d ++ a ++ b ++ 0x8#4 ++ BitVec.ofBool w ++ o, none)
  | .atomCas d a b w o => some (0x5B#7 ++ d ++ a ++ b ++ 0x9#4 ++ BitVec.ofBool w ++ o, none)
  | .ldv d a i => some (0x5C#7 ++ d ++ a ++ i.lo, i.ext)
  | .fence k s => some (0x5D#7 ++ 0x0#6 ++ 0x0#6 ++ 0x0#6 ++ 0x0#2 ++ k ++ s, none)
  | .pfence p => some (0x5D#7 ++ 0x0#6 ++ 0x0#6 ++ 0x0#6 ++ 0x4#4 ++ p, none)
  | .pinL2 d a => some (0x5E#7 ++ d ++ a ++ 0x0#6 ++ 0x0#7, none)
  | .unpinL2 a => some (0x5E#7 ++ 0x0#6 ++ a ++ 0x0#6 ++ 0x1#7, none)
  | .pref l a i => some (0x5F#7 ++ 0x0#5 ++ l ++ a ++ i.lo, i.ext)
  | .cpPlane d a b n c => some (0x60#7 ++ d ++ a ++ b ++ n ++ c, none)
  | .cpPlaneSw d a b n c => some (0x61#7 ++ d ++ a ++ b ++ n ++ c, none)
  | .cpStore d a b n c => some (0x62#7 ++ d ++ a ++ b ++ n ++ c, none)
  | .cpSkim d a b n c => some (0x63#7 ++ d ++ a ++ b ++ n ++ c, none)
  | .cpFill d a b n c => some (0x64#7 ++ d ++ a ++ b ++ n ++ c, none)
  | .cpWait a => some (0x65#7 ++ 0x0#6 ++ a ++ 0x0#6 ++ 0x0#7, none)
  | .cpTest d a => some (0x66#7 ++ d ++ a ++ 0x0#6 ++ 0x0#7, none)
  | .cpRetry a => some (0x67#7 ++ 0x0#6 ++ a ++ 0x0#6 ++ 0x0#7, none)
  | .srBind n a i => some (0x68#7 ++ 0x0#3 ++ n ++ a ++ i.lo, i.ext)
  | .srStop n => some (0x69#7 ++ 0x0#3 ++ n ++ 0x0#6 ++ 0x0#6 ++ 0x0#7, none)
  | .taskPush d a b => some (0x6A#7 ++ d ++ a ++ b ++ 0x0#7, none)
  | .crewBar a => some (0x6B#7 ++ 0x0#6 ++ a ++ 0x0#6 ++ 0x0#7, none)
  | .crewArrive a => some (0x6B#7 ++ 0x0#6 ++ a ++ 0x0#6 ++ 0x1#7, none)
  | .crewWait a => some (0x6B#7 ++ 0x0#6 ++ a ++ 0x0#6 ++ 0x2#7, none)
  | .qnt => some (0x6C#7 ++ 0x0#6 ++ 0x0#6 ++ 0x0#6 ++ 0x0#7, none)
  | .phaseEnd => some (0x6D#7 ++ 0x0#6 ++ 0x0#6 ++ 0x0#6 ++ 0x0#7, none)
  | .sigWait d a b c => some (0x6E#7 ++ d ++ a ++ b ++ 0x0#5 ++ c, none)
  | .sigAdd d a b => some (0x6F#7 ++ d ++ a ++ b ++ 0x0#7, none)
  | .sys i => some (0x70#7 ++ 0x0#6 ++ 0x0#6 ++ i, none)
  | .brk i => some (0x71#7 ++ 0x0#6 ++ 0x0#6 ++ i, none)
  | .eret => some (0x72#7 ++ 0x0#6 ++ 0x0#6 ++ 0x0#6 ++ 0x0#7, none)
  | .tlbAll => some (0x73#7 ++ 0x0#6 ++ 0x0#6 ++ 0x0#6 ++ 0x0#7, none)
  | .tlbVa a => some (0x73#7 ++ 0x0#6 ++ a ++ 0x0#6 ++ 0x1#7, none)
  | .tlbCtx a => some (0x73#7 ++ 0x0#6 ++ a ++ 0x0#6 ++ 0x2#7, none)
  | .cacheWb a b => some (0x74#7 ++ 0x0#6 ++ a ++ b ++ 0x0#7, none)
  | .cacheInv a b => some (0x74#7 ++ 0x0#6 ++ a ++ b ++ 0x1#7, none)
  | .cacheWbinv a b => some (0x74#7 ++ 0x0#6 ++ a ++ b ++ 0x2#7, none)
  | .fq d i => some (0x75#7 ++ d ++ 0x0#6 ++ i, none)
  | .step => some (0x76#7 ++ 0x0#6 ++ 0x0#6 ++ 0x0#6 ++ 0x0#7, none)
  | .ipref k a i => some (0x77#7 ++ 0x0#5 ++ k ++ a ++ i.lo, i.ext)
  | .pfenceCode => some (0x78#7 ++ 0x0#6 ++ 0x0#6 ++ 0x0#6 ++ 0x0#7, none)
  | .cst4 d a b => some (0x79#7 ++ d ++ a ++ b ++ 0x0#7, none)
  | _ => none

/-- A source field's bits (R30). -/
def encodeSrc : Src → BitVec 11
  | .v r => 0#2 ++ r
  | .lit x => 1#2 ++ x
  | .s r => 2#2 ++ 0#3 ++ r
  | .q n => 3#2 ++ 0#7 ++ n

/-- A destination field's bits (R29). -/
def encodeDst : Dst → BitVec 10
  | .v r => 0#1 ++ r
  | .m k => 1#1 ++ 0#6 ++ k
  | .q n => 1#1 ++ 5#7 ++ n
  | .a n => 1#1 ++ 16#8 ++ n

/-- A full lane word's bits, highest field first (R28). -/
def encodeLaneWord (op : Nat) (w : LaneWord) : BitVec 96 :=
  BitVec.ofBool w.mark ++ 0#1 ++ BitVec.ofNat 11 op ++ encodeDst w.dst ++ encodeSrc w.a ++ encodeSrc w.b ++ encodeSrc w.c
    ++ w.guard ++ w.retain ++ w.mods

/-- One half's bits (R37). -/
def encodeHalf (p : PairOp) (h : Half) : BitVec 47 :=
  p.code ++ h.dst ++ encodeSrc h.a ++ encodeSrc h.b ++ h.guard ++ h.mods

/-- A lane instruction's word. -/
def encodeLane (i : Instr) : Option (BitVec 96) :=
  match i.laneFull with
  | some (op, w) => some (encodeLaneWord op w)
  | none =>
    match i.lanePair with
    | some (mark, (xop, x), (yop, y)) => some (BitVec.ofBool mark ++ 1#1 ++ encodeHalf xop x ++ encodeHalf yop y)
    | none => none

/-- What an instruction is in memory: one or two scalar words, or a lane word. Device steps have no encoding. -/
inductive Enc where
  | scalar (w : Word) (ext : Option (BitVec 24))
  | lane (w : BitVec 96)
  deriving DecidableEq, Repr

/-- The words of an instruction. -/
def encode (i : Instr) : Option Enc :=
  match encodeScalar i with
  | some (w, e) => some (.scalar w e)
  | none => (encodeLane i).map Enc.lane

/-- The word that follows a scalar word in memory, for the decoder: its extension word, or the empty word (R21, R22). -/
def extWord : Option (BitVec 24) → Word
  | some p => 0xFF#8 ++ p
  | none => 0

/-- The instruction that an encoding stands for. -/
def decode : Enc → Except Bad Instr
  | .scalar w e => decodeScalar w (extWord e)
  | .lane w => decodeLane w

/-- The bytes of an instruction as the hardware stores them (R4): scalar words of four bytes, a lane word of twelve. -/
def decodeBytes (bs : List Byte) : Except Bad Instr :=
  if bs.length ≤ 8 then
    decodeScalar (BitVec.ofNat 32 (bytesToNat (bs.take 4))) (BitVec.ofNat 32 (bytesToNat (bs.drop 4)))
  else decodeLane (BitVec.ofNat 96 (bytesToNat bs))

/-- The instruction whose bits, numbered as the opcode table numbers them, are `w`; none where the decoder refuses it. Rows of up
to 64 bits are scalar words, longer ones lane words. -/
def decodeTableWord (nbits w : Nat) : Option Instr :=
  match decodeBytes (natToBytes (if nbits ≤ 64 then 8 else 12) (w % 2 ^ nbits)) with
  | .ok i => some i
  | .error _ => none

end Sys2Proof
end

