-- ==== Sys2Proof/Machine/State.lean ====
section
/-! DEFINITION. The state of the device as plain data: every piece of state the manual names, each field with the rule that names
it and its value at reset (for a wave's own state: at launch, R274; before any launch there is no wave). Sparse maps are lists of
(key, value) with keys strictly rising and no entry equal to the map's default, so equal contents are equal data. -/

namespace Sys2Proof.Machine

/-- A sparse map in canonical form: keys strictly rising, no entry that equals the map's default value. -/
abbrev Sparse (α : Type) := List (Nat × α)

/-- Byte memory in canonical form: addresses strictly rising, no zero byte (log entry 1). -/
abbrev Memory := List Host.Cell

/-- The trap causes of R315, Table 3, but for the reserved codes. -/
inductive Cause where
  | none | illegal | unimpl | priv | invslot | midinsn | misalignCode | regrange | pairrule | hazard | brk | syscall | step
  | fetchFault | loadFault | storeFault | perm | align | lmbound | skimbound | copyFault | scope | eccUncorr | poison
  | foldMismatch | desc | chunk | anchor | accwrap | rngwrap | fptrap | idiv0 | queue | streamFault
  | watchdog | contain | commitOverflow
  deriving DecidableEq, Repr

/-- Why the machine stops with a fault. -/
inductive Fault where
  /-- A device physical address at or above 2^48, which R15 says does not exist. Raised by a request from a host link or a peer
  that names one. Safe: the machine stops where the manual gives no byte. -/
  | noSuchAddress (addr : Nat)
  deriving DecidableEq, Repr

/-- Why the machine gives an instruction no meaning. -/
inductive Refusal where
  /-- The instruction is not modelled yet; raised by an arm of `exec` alone. Safe. -/
  | notModelled (mnemonic : String)
  deriving DecidableEq, Repr

/-- The memory kind of a page (R189, R320). -/
inductive PageKind where
  | device | host | peer
  deriving DecidableEq, Repr

/-- Where a translated access goes (R189, R192, R320). -/
structure Loc where
  kind : PageKind
  /-- device physical address, host bus address or peer window offset -/
  addr : Nat
  /-- stripe class 0 to 3 (R192), 0 off device pages -/
  stripe : Nat
  /-- home group, or the peer's device index -/
  home : Nat
  /-- read-mostly (R320, R357) -/
  rm : Bool
  deriving DecidableEq, Repr

/-- A translation held in a TLB (R195, R319, R320). -/
structure TlbEntry where
  ctx : Nat
  /-- first virtual address of the page -/
  va : Nat
  /-- page size in bytes (R15) -/
  size : Nat
  loc : Loc
  r : Bool
  w : Bool
  x : Bool
  /-- system view only -/
  s : Bool
  deriving DecidableEq, Repr

/-- A lane run in the lane queue (R72, R73, R74, R337). -/
structure Run where
  /-- the lane target, 64 bits -/
  target : DWord
  /-- the block's image as copied at enqueue (R337) -/
  image : BitVec 1024
  /-- scalar registers captured at enqueue, by the index of a kind-10 field (R73, R329) -/
  regs : Sparse DWord
  /-- `ctl.rngseed` captured at enqueue -/
  seed : DWord
  /-- `ctl.rngctl` bit 0 captured at enqueue -/
  wrapOk : Bool
  /-- `ctl.fptrap` captured at enqueue -/
  fptrap : BitVec 4
  /-- the block could not be fetched: FETCH_FAULT attached, with its address (R74, R337) -/
  bad : Option DWord
  /-- the grid has taken the run from the queue head (R341) -/
  started : Bool
  /-- the next slot -/
  slot : Nat
  /-- a slot of it has executed, or `eret` has placed it (R26, R314) -/
  ran : Bool := false
  /-- device address of the block in the lane code cache, where it was cached at enqueue (R337, R341, R343) -/
  place : Option Nat := none
  /-- the run follows a trace (R343) -/
  traced : Bool
  /-- counted instructions of the quantum up to the word that enqueued it (R295) -/
  qmark : Nat
  /-- a `qskip` in the next slot is under way: the values left by lane (R262) -/
  skip : Option (Sparse Nat) := none
  deriving DecidableEq, Repr

/-- The five copy commands (R243). -/
inductive CopyKind where
  | plane | planeSw | store | skim | fill
  deriving DecidableEq, Repr

/-- A copy command as captured at issue (R244). -/
structure CopyCmd where
  kind : CopyKind
  ticket : Nat
  base : DWord
  view : DWord
  dn : Nat
  circ : BitVec 3
  /-- issued in the system view (R320) -/
  sys : Bool
  deriving DecidableEq, Repr

/-- A lane command in the lane queue (R72), with what it captured at issue. -/
inductive Cmd where
  | dLd (n : Nat) (va : DWord) (loc : Loc)
  | dSt (n : Nat) (loc : Loc)
  | dMov (n m : Nat)
  | dSet (n f : Nat) (v : DWord)
  | accClr (n : Nat)
  | accAnc (n : Nat) (v : BitVec 10)
  | copy (c : CopyCmd)
  | srBind (q : Nat) (va : DWord) (loc : Loc) (sys : Bool)
  | srStop (q : Nat)
  /-- the RESET bit of `ctl.rngctl`, which acts in lane-queue order and takes no entry (R130) -/
  | rngReset
  deriving DecidableEq, Repr

/-- One entry of the lane queue (R72). -/
inductive Entry where
  | run (r : Run)
  /-- with the command's address and word, for R245, and the counted instructions of the quantum before it (R294) -/
  | cmd (addr : DWord) (word : Word) (qmark : Nat) (c : Cmd)
  deriving DecidableEq, Repr

/-- One redundant accumulator entry (R90, R161). -/
structure AccEntry where
  s : BitVec 64 := 0
  c : BitVec 64 := 0
  t : BitVec 6 := 0
  w : Bool := false
  n : Bool := false
  p : Bool := false
  m : Bool := false
  deriving DecidableEq, Repr

/-- An outstanding unchecked result (R116 to R120): what it will write, or the fault it carries (R203, R205, R369). -/
structure Unch where
  /-- (register × 16,384 + lane, value) -/
  writes : List (Nat × Word)
  /-- a returning operation that the commit applies: it cannot return before (R233) -/
  held : Bool
  err : Option (Cause × DWord)
  /-- already returned; kept until the park so that a younger write stays (R120) -/
  returned : Bool
  /-- elements that wait for a probe, whose bytes are read when it finds the line (R361, R362): key of the register, place, address, type -/
  late : List (Nat × Loc × DWord × Nat) := []
  /-- scope of the acquire that the load makes when those elements are read; 0 for none (R225) -/
  acq : Nat := 0
  deriving DecidableEq, Repr

/-- One entry of a store queue (R197, R224), and the same store after it has left the queue until its acknowledgement (R211). -/
structure StoreEntry where
  id : Nat
  /-- number of the wave that issued it -/
  wave : Nat
  loc : Loc
  /-- (address in the space of `loc`, byte) -/
  cells : List Host.Cell
  deriving DecidableEq, Repr

/-- One item of a commit buffer (R297, R298). -/
inductive BufItem where
  /-- bytes of a store, as (address in the space of `loc`, byte) -/
  | bytes (loc : Loc) (cells : List Host.Cell)
  /-- a non-returning atomic: operation code of R57 (16 for f32 add, 17 fmin, 18 fmax), 64 bits, place, operand, compare value -/
  | atom (op : Nat) (wide : Bool) (loc : Loc) (v cmp : DWord)
  /-- `task.push` with sd = s0: the record as read at its position -/
  | push (q : Loc) (data : BitVec 512)
  /-- what the engine holds of a `cp.store`, at the place of its command in the sequence: ticket and bytes as (place, address, mask,
  value) (R233, R297) -/
  | engine (ticket : Nat) (cells : List (Loc × Nat × Byte × Byte))
  /-- what the engine holds of a scatter queue's stream, at the place of its `sr.bind` in the sequence, or before the quantum's other writes
  where it was bound in an earlier quantum: queue, and bytes by value number × 16,384 + lane (R233, R294, R297) -/
  | scatter (q : Nat) (vs : Sparse (List (Loc × Nat × Byte × Byte)))
  /-- the acquire that the atomic before it makes once it has been applied (R206, R225); it takes no entry -/
  | acq (scope : Nat)
  deriving DecidableEq, Repr

/-- The returning operation that ends a quantum after itself and is applied at the commit (R233, R295, R298). -/
inductive RetOp where
  | atom (d : Nat) (op : Nat) (wide : Bool) (loc : Loc) (v cmp : DWord)
  | push (d : Nat) (q : Loc) (data : BitVec 512)
  /-- by entry: place, expected stamp, 8 bytes wide, value -/
  | cst4 (d : Nat) (es : List (Loc × BitVec 32 × Bool × Nat))
  /-- (lane, place, operand, compare value), destination, operation -/
  | latom (ops : List (Nat × Loc × Word × Word)) (dst : Dst) (op : Nat)
  /-- (lane, lane-memory address, the three lines of the target image) -/
  | rsum (ops : List (Nat × Nat × List Loc))
  deriving DecidableEq, Repr

/-- One fetched value of a queue, or the fault it carries (R258, R260): reason and address. -/
structure QVal where
  v : Word
  err : Option (Nat × DWord) := none
  /-- the engine makes the faulted access again, at the address in `err` (R260) -/
  retry : Bool := false
  deriving DecidableEq, Repr

/-- One queue register with its stream (R253 to R260). -/
structure Stream where
  bound : Bool := false
  base : DWord := 0
  ty : Nat := 0
  lane : Bool := false
  count : Nat := 0
  indexed : Bool := false
  isrc : Nat := 0
  scale : Nat := 0
  estride : Int := 0
  lstride : Int := 0
  /-- values fetched (read) or pushed (scatter) so far, by lane -/
  moved : Sparse Nat := []
  /-- values popped (read) or stored (scatter) so far, by lane -/
  used : Sparse Nat := []
  /-- the queue's contents, oldest first, by lane -/
  vals : Sparse (List QVal) := []
  /-- bound in the system view (R320) -/
  sys : Bool := false
  /-- device and host memory as the commit of its quantum found them, once that has begun (R232) -/
  snap : Option (Memory × Memory) := none
  deriving DecidableEq, Repr

/-- A line of a copy that has not landed whole (R248). -/
structure CopyItem where
  /-- virtual address in 512-byte units, or skim offset in 128-byte units; `edgeItem` stands for zero-filled and pad cells -/
  line : Nat
  /-- its place, once the engine has requested it -/
  loc : Option Loc := none
  /-- the line as it returned, by byte of its virtual address or skim offset -/
  data : Option Memory := none
  /-- granules of a returned line that still wait for earlier entries (R239) -/
  left : List Nat := []
  deriving DecidableEq, Repr

/-- One copy operation in the engine (R243 to R252). -/
structure CopyOp where
  cmd : CopyCmd
  /-- the descriptor as read at acceptance -/
  desc : BitVec 128
  accepted : Bool
  /-- what has not landed, in request order -/
  todo : List CopyItem
  /-- reason and address of the fault mark, with the line it stopped at (R241) -/
  fault : Option (Nat × DWord × Nat)
  /-- a Page Request is outstanding for this line (R242) -/
  held : Option Nat
  /-- completed: entries freed (R240) -/
  done : Bool
  /-- device and host memory as the commit of its quantum found them, once that has begun (R232) -/
  snap : Option (Memory × Memory) := none
  deriving DecidableEq, Repr

/-- One sweep in flight (R176, R249). -/
structure SweepOp where
  id : Nat
  /-- a word of the handler's own lane queue (R312) -/
  sys : Bool
  sparse : Bool
  plane : Nat
  ty : Nat
  tile : DWord
  /-- dA, dB, dS, dM as read at issue -/
  da : BitVec 128
  db : BitVec 128
  ds : BitVec 128
  dm : BitVec 128
  dsNum : Nat
  /-- ticket of the `cp.plane.sw` it is bound to (R249) -/
  bound : Option Nat
  started : Bool
  /-- the tag check failed at the start: CHUNK waits for the first waiter (R249) -/
  bad : Option DWord
  /-- kind and number of the wave's scoreboard entries that stood before the sweep recorded its own (R239, R249) -/
  prior : List (Nat × Nat) := []
  /-- first granule and number of granules of each descriptor footprint (R139, R176) -/
  foot : List (Nat × Nat) := []
  deriving DecidableEq, Repr

/-- One range-scoreboard entry (R236, Table 1). -/
structure SbEntry where
  first : Nat
  n : Nat
  /-- bit 0 read, bit 1 write -/
  rd : Bool
  wr : Bool
  /-- wave context of the operation -/
  owner : Nat
  /-- layer set: the interval applies in every layer of the owner -/
  layers : Bool := true
  /-- what the entry stands for: 0 copy, 1 sweep, 2 stream; and its ticket, id or queue -/
  kind : Nat
  ref : Nat
  /-- completion bitmap, bit i set when chunk i has landed (R238) -/
  bitmap : BitVec 64
  fault : Bool
  held : Bool
  deriving DecidableEq, Repr

/-- Where a wave stands in its life (R60, R81, R275, R279). -/
inductive Life where
  /-- context free -/
  | free
  /-- placed, not started (R275) -/
  | placed
  | running
  /-- `exit` has issued and waits for the steps of R81 -/
  | exiting
  /-- finished exiting -/
  | exited
  /-- killed (R279, R313) -/
  | killed
  deriving DecidableEq, Repr

/-- A trap that a wave has met and that has not entered its handler (R310). -/
structure TrapReq where
  kind : Nat
  cause : Cause
  /-- `ctl.fva` -/
  fva : DWord
  /-- lane target of a kind-1 trap, the command's address of a kind-2 one -/
  place : DWord
  word : BitVec 96
  /-- `sys.ctxvec` when the trap began (R309) -/
  vec : DWord
  deriving DecidableEq, Repr

/-- A slot that `task.push` has claimed (R280). -/
structure Push where
  /-- key of `s` for s[sd] -/
  d : Nat
  /-- ring index -/
  w : DWord
  /-- s[sd] before the claim wrote it -/
  old : DWord
  /-- the control block's place -/
  q : Loc
  record : BitVec 512
  deriving DecidableEq, Repr

/-- A push that a trap has met in its wait for room (R280): its word's address and the claim. The word goes on waiting when it is issued again, or,
where WATCHDOG has abandoned it, does all of its work again but for the claim (R325). -/
structure HeldPush where
  pc : DWord
  push : Push
  again : Bool
  deriving DecidableEq, Repr

/-- A wave: one wave context and what is private to it (R60, R274). Launch values are the field defaults. -/
structure Wave where
  life : Life := .free
  /-- physical core number 0 to 575 (R11) -/
  core : Nat := 0
  /-- wave context of the core, 0 to 15 (R60) -/
  slot : Nat := 0
  /-- partition origin (R142) -/
  py : Nat := 0
  px : Nat := 0
  /-- crew number in `State.crews` -/
  crew : Nat := 0
  /-- `ctl.wave`, 4 bits (R84) -/
  widx : Nat := 0
  /-- `ctl.crew`, crew index within the task (R84) -/
  crewIdx : Nat := 0
  /-- the task's shape word, 64 bits (R53); `ctl.shape` is its low half -/
  shape : DWord := 0
  /-- `ctl.phase`, 16 bits (R54, R84) -/
  phase : Nat := 0
  /-- context number, 32 bits (R54) -/
  ctx : Nat := 0
  /-- quantum length Q (R295) -/
  quantum : Nat := 4096
  /-- scalar program counter, 64 bits (R60) -/
  pc : DWord := 0
  /-- the next fetch was reached by a transfer of control, so an extension word there traps MIDINSN (R21, R71) -/
  jumped : Bool := true
  /-- system view (R307) -/
  sys : Bool := false
  /-- s0 to s63, and t0 to t15 at keys 64 to 79 (R19, R60, R307), 64 bits each -/
  s : Sparse DWord := []
  /-- scalar results in flight: (key of `s`, value), oldest first (R62) -/
  sret : List (Nat × DWord) := []
  /-- d0 to d15, 128 bits each (R41, R135) -/
  d : Sparse (BitVec 128) := []
  /-- v0 to v511 by register × 16,384 + linear lane, 32 bits each (R41) -/
  v : Sparse Word := []
  /-- m1 to m7 by register × 16,384 + linear lane (R41); m0 is set in every virtual lane (R142) -/
  m : Sparse Bool := []
  /-- a0, a1 by (plane × 16,384 + lane) × 64 + entry (R160) -/
  acc : Sparse AccEntry := []
  /-- anchors by plane × 16,384 + lane, 10 bits each (R160) -/
  anchor : Sparse (BitVec 10) := []
  /-- lane memory by lane × 4,096 + offset (R190) -/
  lm : Sparse Byte := []
  /-- cells of lane memory with an uncorrectable error (R146, R201) -/
  lmBad : List Nat := []
  /-- `rng` counters by lane, 64 bits each (R129) -/
  rng : Sparse (BitVec 64) := []
  /-- q0 to q7 (R253), by number; an absent one is unbound and empty -/
  q : Sparse Stream := []
  /-- `ctl.rngseed`, 64 bits (R84) -/
  rngseed : DWord := 0
  /-- `ctl.rngctl` bit 0, WRAPOK (R130) -/
  wrapOk : Bool := false
  /-- `ctl.fptrap` bits 3..0 (R111) -/
  fptrap : BitVec 4 := 0
  /-- `ctl.cause` (R315) -/
  cause : DWord := 0
  /-- the cause of the trap that entered the handler, which the event record of a second trap carries (R313) -/
  firstCause : Cause := .none
  /-- `ctl.epc` (R311) -/
  epc : DWord := 0
  /-- `ctl.elpc` (R311) -/
  elpc : DWord := 0
  /-- `ctl.eword0` to `ctl.eword2`, the trapping lane word in 96 bits (R311) -/
  eword : BitVec 96 := 0
  /-- `ctl.fva` (R315) -/
  fva : DWord := 0
  /-- `sys.status` bits 1..0, the trap kind (R311) -/
  kind : BitVec 2 := 0
  /-- `sys.status` bit 2, DROP (R314) -/
  drop : Bool := false
  /-- `sys.status` bit 3, STEP armed (R324) -/
  stepArmed : Bool := false
  /-- `sys.status` bit 4, LSTEP (R324) -/
  lstep : Bool := false
  /-- `sys.rpc` (R308, R311) -/
  rpc : DWord := 0
  /-- `sys.cpf`, ticket of the faulted operation (R241) -/
  cpf : DWord := 0
  /-- `sys.cpr`, its reason and entry (R241, R260) -/
  cpr : DWord := 0
  /-- lane queue, head first: the wave's own, or the handler's in the system view (R72, R312) -/
  lq : List Entry := []
  /-- entries set aside by a trap, head first (R310) -/
  aside : List Entry := []
  /-- pending registers (R117) -/
  pend : List Nat := []
  /-- unchecked results since the last park, oldest first (R116 to R120) -/
  unch : List Unch := []
  /-- parked at the marker in this slot of the head run: lane target and word (R118) -/
  parked : Option (DWord × BitVec 96) := none
  /-- store queue, oldest first, 64 entries (R197) -/
  stq : List StoreEntry := []
  /-- next ticket (R244) -/
  ticket : Nat := 1
  /-- copy operations whose command has issued (R243) -/
  ops : List CopyOp := []
  /-- next sweep number -/
  sweepId : Nat := 1
  /-- sweeps in flight (R176) -/
  sweeps : List SweepOp := []
  /-- the `cp.plane.sw` that the next sweep word binds to (R249) -/
  binder : Option Nat := none
  /-- the sweep word at the grid has recorded its entries and waits for the granules of its footprints (R176 steps 2 and 3) -/
  swTaken : Bool := false
  /-- a `st.g` under way that touches more lines than the store queue holds: its lane target and the line entries that have not entered the
  queue (R202) -/
  stgAt : Option (DWord × List (Loc × List Host.Cell)) := none
  /-- it waits for scoreboard entries; entries granted to it (R237) -/
  sbGrant : Nat := 0
  /-- arrival counts A(w, b) of the four barriers (R283) -/
  arr : Sparse Nat := []
  /-- a `crew.bar` that has made its arrival and has not completed (R283): its address and its barrier -/
  barAt : Option (DWord × Nat) := none
  /-- the barrier at which the wave is stalled (R283, R299) -/
  barWait : Option Nat := none
  /-- current quantum number (R232) -/
  qn : Nat := 1
  /-- counted instructions of the quantum (R295) -/
  qcount : Nat := 0
  /-- the quantum holds an instruction (R305) -/
  qused : Bool := false
  /-- the wave has ended its quantum and waits for the commit (R232) -/
  qended : Bool := false
  /-- the quantum ended before a lane word that waits for the commit (R295) -/
  qlane : Bool := false
  /-- the scalar stream had ended the quantum when that happened, so it has ended the next one as well -/
  qagain : Bool := false
  /-- the count made the end that the wave has reached (R295) -/
  qexp : Bool := false
  /-- a lane word or command of the quantum has executed (R297, R305) -/
  qlw : Bool := false
  /-- the end that the scalar stream has reached stands before the instruction at the program counter, which has not acted (R295, R328) -/
  qbefore : Bool := false
  /-- the end that the scalar stream had reached when a trap entered stands after the entries set aside (R294, R314) -/
  qheld : Bool := false
  /-- counted instructions that had issued ahead of the place of the trap (R294, R311) -/
  qahead : Nat := 0
  /-- commit buffer (R297) -/
  buf : List BufItem := []
  /-- the returning operation the commit applies (R298) -/
  ret : Option RetOp := none
  /-- the scope of the acquire that this operation makes at the commit; 0 for none (R225, R365) -/
  retAcq : Nat := 0
  /-- a claimed `task.push` slot that waits for room (R280) -/
  pushWait : Option Push := none
  /-- the slot that a push of the commit under way has claimed, until it is written (R298) -/
  slotAt : Option DWord := none
  /-- the push that a trap has met in its wait for room (R280, R325) -/
  pushAt : Option HeldPush := none
  /-- cycles of the watchdog count (R325) -/
  wdog : Nat := 0
  /-- the limit under which that count began, in units of 4,096 cycles (R309, R325) -/
  wdogLim : Nat := 0
  /-- single step in progress (R324) -/
  stepping : Bool := false
  /-- the stepped instruction waits for the lane stream, which runs until its wait ends (R324) -/
  stepWait : Bool := false
  /-- a trap that waits for TRAP_ENTRY (R310) -/
  trapping : Option TrapReq := none
  /-- the scalar word at the program counter has issued and stalls (R61, R85) -/
  issued : Bool := false
  /-- exception counts not yet delivered to the counter unit, by counter number (R106) -/
  counts : Sparse Nat := []
  /-- the scalar stream last found nothing it could do; the model's own scheduling mark -/
  blocked : Bool := false
  /-- the same of the lane stream -/
  laneBlocked : Bool := false
  deriving DecidableEq, Repr

/-- A block in the lane code cache (R337, R341). -/
structure CodeBlock where
  addr : Nat
  image : BitVec 1024
  verified : Bool
  /-- execution count, 7 bits -/
  count : Nat
  deriving DecidableEq, Repr

/-- A trace in the Slalom cache (R342): block address, mask class (0 all, 1 none, 2 mixed), the image it was made from. -/
structure Trace where
  addr : Nat
  cls : Nat
  image : BitVec 1024
  deriving DecidableEq, Repr

/-- A fill or a walk that a hint has started (R340, R347). -/
structure Fill where
  /-- context and view of the hint -/
  ctx : Nat
  sys : Bool
  va : Nat
  /-- 0 scalar line, 1 lane block -/
  kind : Nat
  /-- the root of the context's tables when the walk began (R309) -/
  root : DWord
  /-- the walk has ended and given this place -/
  loc : Option Loc
  deriving DecidableEq, Repr

/-- A core (R13, R60): what its waves share. Reset values are the field defaults. -/
structure Core where
  /-- carve-out option 0 to 3 (R191); 0 after reset -/
  option : Nat := 0
  /-- cycle counter, 64 bits (R82); 0 at core reset -/
  cycle : DWord := 0
  /-- wave context that issued a scalar word last, plus 1; 0 for none (R61) -/
  lastIssue : Nat := 0
  /-- data TLB, 128 entries, newest first (R195) -/
  dtlb : List TlbEntry := []
  /-- code TLB, 32 entries, newest first (R195) -/
  ctlb : List TlbEntry := []
  /-- load-store-path L1 lines: line address in 128-byte units and its bytes (R193, R385) -/
  l1 : Sparse Memory := []
  /-- read-only-path L1 lines, 128-byte units; never stale (R385) -/
  ro : List Nat := []
  /-- copy engine line buffers: 128-byte units and bytes (R385) -/
  lineBuf : Sparse Memory := []
  /-- line-buffer blocks, 128-byte units, whose line a `cst4` group has written since they were filled (R235, R385) -/
  lineOld : List Nat := []
  /-- skim line buffer: 128-byte units and bytes (R187) -/
  skimBuf : Sparse Memory := []
  /-- scalar I-cache lines, newest first: 128-byte units (physical) and bytes (R336) -/
  icache : List (Nat × Memory) := []
  /-- lane code cache, by block device address (R337) -/
  lcc : List CodeBlock := []
  /-- Slalom cache, newest first (R342) -/
  slalom : List Trace := []
  /-- translation requests pending for (block, class) (R348) -/
  trowelPending : List (Nat × Nat) := []
  /-- fills and walks in flight (R347) -/
  fills : List Fill := []
  /-- range scoreboard, 48 entries (R236) -/
  sb : List SbEntry := []
  /-- waves that wait for scoreboard entries, first in first: wave number and entries asked (R237) -/
  sbWait : List (Nat × Nat) := []
  /-- stores of the core's waves that have left their queue and are not acknowledged, oldest first (R211, R224) -/
  inflight : List StoreEntry := []
  /-- performed stores whose acknowledgement is on its way back: identifier and wave number (R211) -/
  acks : List (Nat × Nat) := []
  /-- forwarding predictor by index: core in the sector and confidence (R360) -/
  pred : Sparse (Nat × Nat) := []
  /-- probes in flight: place, whether an invalidation has reached this core since, and whether the probe has hit (R361, R362) -/
  probes : List (Loc × Bool × Bool) := []
  /-- `ctl.thermal`, the allowance in effect (R289); 255 -/
  allowance : Nat := 255
  /-- retired (R380) -/
  retired : Bool := false
  /-- retirement requested while crews are resident (R380) -/
  retiring : Bool := false
  /-- stopped by a cluster reset until its sweep ends (R372) -/
  inReset : Bool := false
  deriving DecidableEq, Repr

/-- A row of the context table (R292, R308, R309, R323), with the per-context registers of R110 and R213. -/
structure CtxRow where
  /-- weight, 8 bits (R292); 1 -/
  weight : Nat := 1
  stop : Bool := false
  repro : Bool := false
  /-- current phase closed (R303) -/
  closed : Bool := false
  /-- current phase, 16 bits (R303) -/
  phase : Nat := 0
  /-- tasks pushed or popped and not retired (R303): phase, device address of the queue's control block, slot -/
  live : List (Nat × Nat × Nat) := []
  /-- `fq` leaves (R323 Table 6) as changes from the reset values -/
  fq : Sparse DWord := []
  /-- leaves locked (R323) -/
  locked : Bool := false
  /-- `sys.ctxroot` -/
  root : DWord := 0
  /-- `sys.ctxskim` -/
  skim : DWord := 0
  /-- `sys.ctxpr` -/
  pr : DWord := 0
  /-- `sys.ctxvec` -/
  vec : DWord := 0
  /-- `sys.ctxwdog` -/
  wdog : DWord := 0
  /-- `sys.xsel` (R110); no reset value given -/
  xsel : DWord := 0
  /-- `sys.pinq` quota (R213); no reset value given -/
  pinQuota : Nat := 0
  /-- `sys.pinq` count (R213) -/
  pinCount : Nat := 0
  deriving DecidableEq, Repr

/-- A popped task (R272, R284): the packet and its launch progress. -/
structure Task where
  id : Nat
  sector : Nat
  /-- control block of the queue it came from, its device address, and the slot number -/
  cb : Nat
  pa : Nat
  slot : Nat
  ctx : Nat
  /-- the 64-byte record -/
  record : BitVec 512
  /-- crews placed so far -/
  placed : Nat
  /-- crews retired so far -/
  retired : Nat
  /-- `phase.end` has marked it (R303) -/
  marked : Bool
  /-- its last crew has retired: successor entries that have acted (R276, R278) -/
  succ : Option Nat := none
  /-- the next successor's count has reached 0 and its push is due: the record as it was read then, and the control block's place
  (R278, R280) -/
  pushing : Option (BitVec 512 × Loc) := none
  /-- the slot that this push has claimed, while it waits for room (R266, R278) -/
  claimed : Option Nat := none
  deriving DecidableEq, Repr

/-- A placed crew (R275). -/
structure Crew where
  id : Nat
  task : Nat
  sector : Nat
  ctx : Nat
  idx : Nat
  /-- wave numbers in wave order -/
  waves : List Nat
  started : Bool
  /-- killed: never retires (R279) -/
  killed : Bool
  /-- barrier generations Gb (R283) -/
  gen : Sparse Nat
  /-- last commit applied (R298) -/
  commits : Nat
  /-- a commit has begun and waits for a ring to have room (R298) -/
  committing : Bool := false
  deriving DecidableEq, Repr

/-- A registered user-mode queue (R263, R264, R284). -/
structure Queue where
  /-- virtual address of the control block, and its device address as translated at registration, by which the queue is known -/
  cb : Nat
  pa : Nat
  /-- home slice of the block as translated then (R192) -/
  slice : Nat := 0
  /-- context of the wave that registered it; the block's context -/
  reg : Nat := 0
  ctx : Nat
  /-- the task at its head, as a candidate (R284) -/
  cand : Option Nat
  /-- age in cycles (R285) -/
  age : Nat
  /-- order in which it became a candidate (R286) -/
  stamp : Nat
  /-- slot whose address failed and was reported (R267) -/
  bad : Option Nat
  /-- the write-index line has been written, or the queue registered, since the unit last looked (R267) -/
  notified : Bool
  deriving DecidableEq, Repr

/-- A bulk copy under way (R268). -/
structure Bulk where
  id : Nat
  cb : Nat
  slot : Nat
  ctx : Nat
  src : DWord
  dst : DWord
  len : Nat
  sig : DWord
  addend : DWord
  /-- a Page Request for it was refused (R326) -/
  refused : Bool
  deriving DecidableEq, Repr

/-- A request to Trowel (R341): core, block address, image, class. -/
structure TrowelReq where
  core : Nat
  addr : Nat
  image : BitVec 1024
  cls : Nat
  deriving DecidableEq, Repr

/-- A Page Request outstanding or waiting (R326): the wave and operation it is for, or a bulk copy. -/
structure PageReq where
  ctx : Nat
  pasid : Nat
  addr : DWord
  write : Bool
  wave : Nat
  /-- 0 copy, 1 stream, 2 bulk copy; ticket, queue × 4,096 + lane, or index -/
  kind : Nat
  ref : Nat
  deriving DecidableEq, Repr

/-- A sector controller (Table 3 of "A picture of the machine"). -/
structure Sector where
  queues : List Queue := []
  /-- `sys.thmin` bits 7..0 (R290); 128 -/
  thmin : Nat := 128
  /-- credits by context (R286) -/
  credit : Sparse Nat := []
  /-- context served last (R286), plus 1; 0 for none -/
  lastCtx : Nat := 0
  /-- device address of the control block of the candidate that holds the reservation (R287) -/
  reserve : Option Nat := none
  /-- Trowel queue, first in first (R341) -/
  trowel : List TrowelReq := []
  /-- finished traces on their way to a core (R342) -/
  finished : List TrowelReq := []
  /-- bulk copies under way (R268) -/
  bulk : List Bulk := []
  /-- Page Requests, the first 64 outstanding (R326) -/
  pageReqs : List PageReq := []
  /-- core index + 1 that last took a line on the read-only path, by 128-byte unit (R360) -/
  lastRo : Sparse Nat := []
  /-- digest of the firmware body it runs (R379); the store's at boot -/
  image : Nat := 0
  /-- sector TLB, newest first, 8,192 entries (R195) -/
  tlb : List TlbEntry := []
  /-- translations that the sector has given since one was last invalidated: the pages that an invalidation cleans up after (R215) -/
  seen : List TlbEntry := []
  deriving DecidableEq, Repr

/-- Which store of which wave and core asked a home for a write, for its acknowledgement (R358, R211). -/
structure Agent where
  /-- physical core; 576 and 577 for a host link (R16), 578 + n for pod device n (R367) -/
  core : Nat
  id : Nat
  wave : Nat
  deriving DecidableEq, Repr

/-- A store at its home (R358). -/
structure HomeReq where
  /-- 512-byte line number -/
  line : Nat
  cells : List Host.Cell
  agent : Agent
  /-- its home slice (R192, R366) -/
  slice : Nat
  /-- place in the order of arrival at the homes -/
  stamp : Nat
  /-- the write has started: its invalidations are out -/
  started : Bool
  /-- sectors that have been sent an invalidation, and those of them that have not acknowledged -/
  asked : List Nat
  acks : List Nat
  deriving DecidableEq, Repr

/-- An AtomicOp or a read of a host link or a peer that has reached its home slice (R16, R363, R367). -/
structure UnitReq where
  /-- 576 and 577 for a host link, 578 + n for pod device n -/
  src : Nat
  addr : Nat
  op : BusOp
  /-- number of the request in the order of arrival at the device -/
  id : Nat
  /-- its home slice (R192, R366) -/
  slice : Nat
  /-- place in the order of arrival at the homes -/
  stamp : Nat
  deriving DecidableEq, Repr

/-- How the device completes a request from outside (R16, R368, R369). -/
inductive Reply where
  /-- the bytes of a read, or the old value of an AtomicOp -/
  | data (bs : List Byte)
  /-- a write of a peer has been performed at its home (R368) -/
  | ack
  /-- Unsupported Request, of a Swap (R16) -/
  | unsupported
  /-- an error, of a peer's request that the aperture refuses (R369) -/
  | error
  deriving DecidableEq, Repr

/-- An outstanding install of a guest copy or replica (R356, R357, R359). -/
structure Install where
  line : Nat
  /-- the slice that installs it, and the line's home slice -/
  slice : Nat
  home : Nat
  replica : Bool
  /-- installed in the slice, acknowledgement under way -/
  installed : Bool
  deriving DecidableEq, Repr

/-- Message classes (R349). -/
inductive MsgClass where
  | req | inv | ack | rsp | evt
  deriving DecidableEq, Repr

/-- What a packet under way carries. -/
inductive Packet where
  /-- REQ: a store, of a core or from outside the device -/
  | write (r : HomeReq)
  /-- REQ: a read or an AtomicOp from outside the device -/
  | unit (r : UnitReq)
  /-- INV: copies of a line are to go -/
  | inv (line : Nat)
  /-- ACK: a sector has dropped its copies of a line -/
  | invAck (line : Nat)
  /-- ACK: a store of a core has been performed -/
  | storeAck (core id : Nat)
  /-- RSP: a guest copy or a replica of a line, to the slice that is to install it -/
  | install (line : Nat)
  /-- ACK: the slice has installed it -/
  | installAck (line : Nat)
  deriving DecidableEq, Repr

/-- A flow of packets from one unit to one unit (R349, R350, R354). Units are cluster ports 0 to 143, slices from 144, sector controllers from
288, peer ports from 300 and host ports from 312. -/
structure Flow where
  cls : MsgClass
  src : Nat
  dst : Nat
  /-- next sequence numbers, 16 bits -/
  sendSeq : BitVec 16 := 0
  dlvSeq : BitVec 16 := 0
  /-- packets under way: sequence number and what the packet carries -/
  packets : List (BitVec 16 × Packet) := []
  /-- packets that wait at the ingress for an allowance, oldest first -/
  waiting : List Packet := []
  deriving DecidableEq, Repr

/-- A source of event records (R371). -/
structure EvSource where
  /-- next sequence number, 32 bits -/
  seq : BitVec 32 := 0
  /-- records held, oldest first: sequence number, records dropped directly before, code, payload -/
  held : List (BitVec 32 × Nat × Nat × List DWord) := []
  /-- records dropped since the last one held -/
  dropped : Nat := 0
  deriving DecidableEq, Repr

/-- A peer aperture (R366) is the value of `sys.apctl` for its source device. -/
abbrev Aperture := DWord

/-- A store under way to another pod device (R367 to R369): the core and the identifier of the store, and where it goes. -/
structure PeerReq where
  core : Nat
  id : Nat
  dev : Nat
  addr : Nat
  deriving DecidableEq, Repr

/-- Where the firmware store and an activation stand (R375 to R378). -/
structure Firmware where
  /-- image in the firmware store, as bytes; empty for the image with which the part was delivered (log entry 22) -/
  store : List Byte := []
  staged : Option (List Byte) := none
  /-- the anti-rollback counter, 0 to 63 (R377) -/
  rollback : Nat := 0
  /-- boot failed: the recovery state of R375 step 2 -/
  recovery : Bool := false
  /-- sectors that an activation has still to switch, the one that switches now first (R378) -/
  switching : List Nat := []
  /-- cluster resets whose later steps wait for the end of a sector's switch: cluster, trigger (R383) -/
  resets : List (Nat × Nat) := []
  deriving DecidableEq, Repr

/-- The management registers (R382). -/
structure Mg where
  cmd : Nat := 0
  status : Nat := 0
  busy : Bool := false
  arg : Sparse DWord := []
  evbase : DWord := 0
  evsize : DWord := 0
  evhead : DWord := 0
  evtail : DWord := 0
  deriving DecidableEq, Repr

/-- What acts next, where the environment says so (guide: plain data in State says which moves next). -/
inductive Turn where
  /-- the scalar stream of wave `n` -/
  | scalar (n : Nat)
  /-- the lane stream of wave `n` -/
  | lane (n : Nat)
  /-- a device step, with wave `n` as the wave it concerns -/
  | event (n : Nat) (i : Instr)
  deriving DecidableEq, Repr

/-- The device. -/
structure State where
  /-- the wave that acts now, and its number -/
  w : Wave := {}
  wid : Nat := 0
  /-- the other waves by number -/
  others : Sparse Wave := []
  /-- cores that differ from a core after reset, by physical number (R11) -/
  cores : Sparse Core := []
  sectors : Sparse Sector := []
  crews : List Crew := []
  tasks : List Task := []
  ctxs : Sparse CtxRow := []
  /-- next number for tasks, crews, waves, stores and candidates -/
  nextId : Nat := 1
  /-- device memory as its homes hold it, by device physical address (R192, R193) -/
  mem : Memory := []
  /-- dirty 128-byte sectors: number, and the bytes DRAM still holds (R193, R322) -/
  dirty : Sparse Memory := []
  /-- poisoned 128-byte sectors (R203) -/
  poison : List Nat := []
  /-- version stamps by 512-byte line (R364); 0 -/
  stamps : Sparse (BitVec 32) := []
  /-- copy vectors by line (R355), 12 bits -/
  vec : Sparse (BitVec 12) := []
  /-- the home slice whose vector that is, by line (R192, R355) -/
  vecHome : Sparse Nat := []
  /-- guest copies and replicas: (slice, line) (R356, R357) -/
  copies : List (Nat × Nat) := []
  installs : List Install := []
  homeReqs : List HomeReq := []
  /-- AtomicOps from outside the device, in their order of arrival (R363) -/
  unitReqs : List UnitReq := []
  /-- the last completion that has left for each host link and peer, by its number as in `UnitReq.src` -/
  replies : List (Nat × Reply) := []
  /-- pinned lines with the context charged (R212), stored as context + 1 -/
  pins : Sparse Nat := []
  /-- host memory as seen over the links (R16, R189, R370) -/
  hostMem : Memory := []
  /-- skim space by bus × 2^22 + offset (R204) -/
  skim : Memory := []
  /-- 128-byte skim blocks with an uncorrectable error (R205) -/
  skimBad : List Nat := []
  flows : List Flow := []
  /-- a packet of this step cannot pass: its flow has one under way, or its ingress holds no allowance (R350, R354; model's own field) -/
  jam : Bool := false
  /-- allowances above two that firmware has set, by class, source and destination as in `flowKey` (R354); its choice -/
  allowances : Sparse Nat := []
  /-- links out of service: kind, number (R352) -/
  linksDown : List (Nat × Nat) := []
  /-- links that drain before retraining (R352, R380) -/
  linksDraining : List (Nat × Nat) := []
  /-- exception counters by set × 64 + format × 4 + kind, 40 bits (R104); 0 -/
  counters : Sparse Nat := []
  /-- thresholds, 40 bits (R109); 0 -/
  thresholds : Sparse Nat := []
  /-- `sys.ctxsel` (R292); no reset value given -/
  ctxsel : DWord := 0
  /-- `sys.fqsel` bits 2..0 (R308); no reset value given -/
  fqsel : DWord := 0
  /-- `sys.apsel` (R366); no reset value given -/
  apsel : DWord := 0
  /-- apertures by source device (R366); 0 -/
  apertures : Sparse Aperture := []
  /-- peer routes: device to port + 1 (R352, R383); empty -/
  routes : Sparse Nat := []
  peerReqs : List PeerReq := []
  events : Sparse EvSource := []
  /-- DRAM sensor regions in doubled refresh (R194) -/
  doubled : List Nat := []
  /-- channels inside a refresh window (R194) -/
  inRefresh : List Nat := []
  /-- regions at or above 95 °C (R381) -/
  atRating : List Nat := []
  /-- channel that retrains (R380) -/
  retraining : Option Nat := none
  /-- steps of 16 by which module power lowers every a_logic (R381) -/
  powerSteps : Nat := 0
  /-- a_logic of each cluster from its temperature, stored as 255 − a_logic (R381) -/
  logicCut : Sparse Nat := []
  fw : Firmware := {}
  mg : Mg := {}
  /-- the environment's order of acts (model's own field) -/
  agenda : List Turn := []
  /-- counter of free choices taken (model's own field) -/
  free : Nat := 0
  deriving DecidableEq, Repr

/-- The device right after reset (R375): dispatchers run, and no crew is placed. -/
def State.reset : State := {}

end Sys2Proof.Machine
end

