-- ==== Sys2Proof/Machine/Sparse.lean ====
section
/-! DEFINITION. Reading and writing sparse maps and byte memory. Every write keeps the canonical form (Laws/Sparse.lean). -/

namespace Sys2Proof.Machine

/-- The value a map holds at a key: `d` where no entry names it. -/
def look {α : Type} (d : α) : Sparse α → Nat → α
  | [], _ => d
  | (k', v) :: r, k => if k' = k then v else look d r k

/-- Every entry but those at key `k`. -/
def drop {α : Type} (m : Sparse α) (k : Nat) : Sparse α := m.filter fun e => e.1 != k

/-- Insert an entry before the first entry with a greater key. -/
def insertKey {α : Type} : Sparse α → Nat → α → Sparse α
  | [], k, v => [(k, v)]
  | (k', v') :: r, k, v => if k < k' then (k, v) :: (k', v') :: r else (k', v') :: insertKey r k v

/-- Set the value at a key; setting the default removes the entry. -/
def put {α : Type} [DecidableEq α] (d : α) (m : Sparse α) (k : Nat) (v : α) : Sparse α :=
  if v = d then drop m k else insertKey (drop m k) k v

/-- Set several values, left to right. -/
def putAll {α : Type} [DecidableEq α] (d : α) (m : Sparse α) (es : List (Nat × α)) : Sparse α :=
  es.foldl (fun m e => put d m e.1 e.2) m

/-- The value at a key, none where there is no entry. -/
def look? {α : Type} (m : Sparse α) (k : Nat) : Option α := (m.find? fun e => e.1 == k).map (·.2)

/-- Keys strictly rising from above `lo`, and no entry equal to the default. -/
def wfFrom {α : Type} [DecidableEq α] (d : α) : Option Nat → Sparse α → Bool
  | _, [] => true
  | lo, (k, v) :: r => (match lo with | none => true | some l => decide (l < k)) && decide (v ≠ d) && wfFrom d (some k) r

/-- The canonical form of a sparse map. -/
def Sparse.wf {α : Type} [DecidableEq α] (d : α) (m : Sparse α) : Bool := wfFrom d none m

/-- The canonical form of byte memory. -/
def Memory.wf (m : Memory) : Bool := Sparse.wf (0 : Byte) m

/-- One byte of memory. An address nothing has written reads as zero (log entry 1). -/
def readByte (m : Memory) (a : Nat) : Byte := look 0 m a

/-- Write one byte. -/
def writeByte (m : Memory) (a : Nat) (b : Byte) : Memory := put 0 m a b

/-- `n` bytes from `a` up. -/
def readBytes (m : Memory) (a : Nat) : Nat → List Byte
  | 0 => []
  | n + 1 => readByte m a :: readBytes m (a + 1) n

/-- Write bytes from `a` up. -/
def writeBytes (m : Memory) (a : Nat) : List Byte → Memory
  | [] => m
  | b :: r => writeBytes (writeByte m a b) (a + 1) r

/-- Write the cells of a list, left to right. -/
def writeCells (m : Memory) (cs : List Host.Cell) : Memory := cs.foldl (fun m c => writeByte m c.1 c.2) m

/-- Little-endian value of `n` bytes from `a` up (R4). -/
def readLe (m : Memory) (a : Nat) : Nat → Nat
  | 0 => 0
  | n + 1 => (readByte m a).toNat + 256 * readLe m (a + 1) n

/-- The `n` cells from `a` up that hold a value, little-endian (R4). -/
def leCells (a : Nat) : Nat → Nat → List Host.Cell
  | 0, _ => []
  | n + 1, v => (a, BitVec.ofNat 8 v) :: leCells (a + 1) n (v / 256)

/-- The entries of memory from `a` up to `a + n - 1`. -/
def region (m : Memory) (a n : Nat) : Memory := m.filter fun c => decide (a ≤ c.1) && decide (c.1 < a + n)

/-- Memory with the bytes from `a` up to `a + n - 1` replaced by the entries of `r` in that range. -/
def setRegion (m : Memory) (a n : Nat) (r : Memory) : Memory :=
  m.filter (fun c => decide (c.1 < a)) ++ region r a n ++ m.filter (fun c => decide (a + n ≤ c.1))

/-- Replace element `k` of a list. -/
def setAt {α : Type} (l : List α) (k : Nat) (v : α) : List α := l.set k v

/-- Every element but element `k`. -/
def dropAt {α : Type} (l : List α) (k : Nat) : List α := l.eraseIdx k

end Sys2Proof.Machine
end

