-- ==== Sys2Proof/Machine/Ops.lean ====
section
/-! DEFINITION. The named operations that every meaning is made of: which wave, core and context a step concerns, the register
files, event records, exception counts, killing a crew, taking a trap, and how a scalar instruction ends. -/

namespace Sys2Proof.Machine

open Sys2Proof

/-- Why an instruction does not complete: a trap cause with its `ctl.fva`, a wait whose condition does not hold yet, or the end of
the wave's quantum before the instruction (R295). -/
inductive Halt where
  | trap (c : Cause) (fva : DWord)
  /-- COPY_FAULT or STREAM_FAULT, with what `sys.cpf` and `sys.cpr` receive (R241, R260) -/
  | engine (c : Cause) (fva cpf cpr : DWord)
  /-- CHUNK of a bound sweep that failed its tag check, reported once (R249) -/
  | chunk (fva : DWord) (sweep : Nat)
  | wait
  /-- waits for so many scoreboard entries (R237) -/
  | entries (n : Nat)
  | commit
  deriving DecidableEq, Repr

/-- The result of a part of a meaning. -/
abbrev Res (α : Type) := Except Halt α

/-- A trap cause met. -/
def trap {α : Type} (c : Cause) (fva : DWord) : Res α := .error (.trap c fva)

/-- Trap unless the condition holds. -/
def need (b : Bool) (c : Cause) (fva : DWord) : Res Unit := if b then .ok () else trap c fva

/-- Wait unless the condition holds. -/
def ready (b : Bool) : Res Unit := if b then .ok () else .error .wait

/-! Units and their numbers (R11). -/

/-- Sector of a core. -/
def sectorOf (core : Nat) : Nat := core / 48

/-- Cluster, and slice, of a core. -/
def clusterOf (core : Nat) : Nat := core / 4

/-- Vertical bus of a core. -/
def busOf (core : Nat) : Nat := core / 2

/-- Die of a core. -/
def dieOf (core : Nat) : Nat := core / 144

/-! Waves, cores and contexts. -/

/-- A wave by number. -/
def State.wave (s : State) (n : Nat) : Wave := if n = s.wid then s.w else look {} s.others n

/-- Replace a wave. -/
def State.setWave (s : State) (n : Nat) (w : Wave) : State :=
  if n = s.wid then { s with w := w } else { s with others := put {} s.others n w }

/-- Change a wave. -/
def State.modWave (s : State) (n : Nat) (f : Wave → Wave) : State := s.setWave n (f (s.wave n))

/-- Change the wave that acts. -/
def State.modW (s : State) (f : Wave → Wave) : State := { s with w := f s.w }

/-- Make wave `n` the one that acts. -/
def State.focus (s : State) (n : Nat) : State :=
  if n = s.wid then s else { s with w := look {} s.others n, wid := n, others := put {} (drop s.others n) s.wid s.w }

/-- A core by physical number. -/
def State.coreAt (s : State) (n : Nat) : Core := look {} s.cores n

/-- Change a core. -/
def State.modCoreAt (s : State) (n : Nat) (f : Core → Core) : State := { s with cores := put {} s.cores n (f (s.coreAt n)) }

/-- The core of the wave that acts. -/
def State.core (s : State) : Core := s.coreAt s.w.core

/-- Change the core of the wave that acts. -/
def State.modCore (s : State) (f : Core → Core) : State := s.modCoreAt s.w.core f

/-- A sector controller by number. -/
def State.sector (s : State) (n : Nat) : Sector := look {} s.sectors n

/-- Change a sector controller. -/
def State.modSector (s : State) (n : Nat) (f : Sector → Sector) : State :=
  { s with sectors := put {} s.sectors n (f (s.sector n)) }

/-- A row of the context table. -/
def State.rowAt (s : State) (c : Nat) : CtxRow := look {} s.ctxs c

/-- Change a row of the context table. -/
def State.modRow (s : State) (c : Nat) (f : CtxRow → CtxRow) : State := { s with ctxs := put {} s.ctxs c (f (s.rowAt c)) }

/-- The row of the context of the wave that acts. -/
def State.row (s : State) : CtxRow := s.rowAt s.w.ctx

/-- The wave that acts runs in a reproducible context (R232). -/
def State.repro (s : State) : Bool := s.row.repro

/-- A wave holds a context of its core (R60, R81). -/
def Wave.resident (w : Wave) : Bool := w.life == .placed || w.life == .running || w.life == .exiting

/-- Numbers of the waves that have ever been placed, and of the one that acts. -/
def State.waveIds (s : State) : List Nat := s.wid :: s.others.map (·.1)

/-- The task and the crew of the wave that acts. -/
def State.crewOf (s : State) (n : Nat) : Option Crew := s.crews.find? fun c => c.id == n

/-- A task by number. -/
def State.taskOf (s : State) (n : Nat) : Option Task := s.tasks.find? fun t => t.id == n

/-! The shape word (R53) of a wave. -/

/-- Bits `lo + n - 1 .. lo` of a 64-bit value as a number. -/
def bits (x : DWord) (lo n : Nat) : Nat := (x.toNat / 2 ^ lo) % 2 ^ n

/-- Rows of the virtual grid. -/
def Wave.rows (w : Wave) : Nat := 2 ^ bits w.shape 4 3

/-- Columns of the virtual grid. -/
def Wave.cols (w : Wave) : Nat := 2 ^ bits w.shape 7 3

/-- Lanes of the virtual grid (R84). -/
def Wave.lanes (w : Wave) : Nat := w.rows * w.cols

/-- Registers per lane (R40). -/
def Wave.regs (w : Wave) : Nat := 32 * (bits w.shape 10 4 + 1)

/-- Accumulator planes. -/
def Wave.accPlanes (w : Wave) : Nat := bits w.shape 16 2

/-- Counter set (R104). -/
def Wave.cset (w : Wave) : Nat := bits w.shape 20 4

/-- Bytes of lane memory per physical lane for a carve-out option (R190). -/
def carveBytes (o : Nat) : Nat := if o = 0 then 3584 else if o = 1 then 3072 else if o = 2 then 2048 else 1024

/-- Λ, the lane-memory window of a virtual lane (R190). -/
def Wave.lambda (w : Wave) : Nat := carveBytes (bits w.shape 14 2) * w.regs / 512

/-! The scalar register file (R19, R307). -/

/-- Where a 6-bit field's register is held: t0 to t15 stand at keys 64 to 79. -/
def sKey (sys : Bool) (d : BitVec 6) : Nat := if sys && 48 ≤ d.toNat then d.toNat + 16 else d.toNat

/-- The value of a scalar register by key: a result in flight is waited for (R62), so it is what the reader gets. -/
def Wave.sVal (w : Wave) (k : Nat) : DWord :=
  if k = 0 then 0
  else
    match w.sret.find? (fun e => e.1 == k) with
    | some e => e.2
    | none => look 0 w.s k

/-- Read the register a scalar field names. -/
def State.getS (s : State) (d : BitVec 6) : DWord := s.w.sVal (sKey s.w.sys d)

/-- Write a scalar register by key; register 0 discards the write. A result in flight to it is older and is dropped. -/
def Wave.setKey (w : Wave) (k : Nat) (v : DWord) : Wave :=
  if k = 0 then w else { w with s := put 0 w.s k v, sret := w.sret.filter fun e => e.1 != k }

/-- Write the register a scalar field names. -/
def State.setS (s : State) (d : BitVec 6) (v : DWord) : State := s.modW fun w => w.setKey (sKey w.sys d) v

/-- Send a scalar result on its way to its register (R62, R197). -/
def State.sendS (s : State) (d : BitVec 6) (v : DWord) : State :=
  s.modW fun w =>
    let k := sKey w.sys d
    if k = 0 then w else { w with sret := (k, v) :: w.sret.filter fun e => e.1 != k }

/-! Event records (R370, R371) and exception counters (R104, R109). -/

/-- A source's place in `State.events`: kind × 4,096 + number. -/
def evKey (kind num : Nat) : Nat := kind * 4096 + num

/-- A record arises at a source: it takes the next number, and is held unless 16 already are (R371). -/
def State.emit (s : State) (kind num code : Nat) (payload : List DWord) : State :=
  let e := look {} s.events (evKey kind num)
  let e' : EvSource :=
    if 16 ≤ e.held.length then { e with seq := e.seq + 1, dropped := e.dropped + 1 }
    else { e with seq := e.seq + 1, held := e.held ++ [(e.seq, min e.dropped 0xFFFF, code, payload)], dropped := 0 }
  { s with events := put {} s.events (evKey kind num) e' }

/-- A record of a sector controller. -/
def State.emitSector (s : State) (sector code : Nat) (payload : List DWord) : State := s.emit 1 sector code payload

/-- A number as a doubleword. -/
def dw (n : Nat) : DWord := BitVec.ofNat 64 n

/-- The place of a counter: set × 64 + format × 4 + kind. -/
def cntKey (set fmt kind : Nat) : Nat := set * 64 + fmt * 4 + kind

/-- Largest value of a counter, where it stays (R104). -/
def cntMax : Nat := 2 ^ 40 - 1

/-- The counter is armed: its threshold is non-zero and its value is below it (R109). -/
def State.armed (s : State) (k : Nat) : Bool :=
  let t := look 0 s.thresholds k
  t != 0 && decide (look 0 s.counters k < t)

/-- Add to a counter; crossing an armed threshold disarms it and emits one record that carries the value after the one increment
that crosses (R109). -/
def State.count (s : State) (k n : Nat) : State :=
  let v := look 0 s.counters k
  let v' := min (v + n) cntMax
  let t := look 0 s.thresholds k
  let s' := { s with counters := put 0 s.counters k v' }
  if s.armed k && decide (t ≤ v') then
    s'.emit 2 0 0x0001 [dw (k / 64), dw (k / 4 % 16), dw (k % 4), dw t]
  else s'

/-- Deliver the counts that a wave holds (R106). -/
def State.deliver (s : State) : State :=
  (s.w.counts.foldl (fun s e => s.count e.1 e.2) s).modW fun w => { w with counts := [] }

/-- Deliver the counts of every wave of a core (R106): all in one step, by wave and then by ascending counter, which is the order of the event
records where several thresholds are crossed (DESIGN CHOICE, log entry 98). -/
def State.deliverCore (s : State) (core : Nat) : State :=
  s.waveIds.foldl (fun s n =>
    let w := s.wave n
    if w.core = core then
      (w.counts.foldl (fun s e => s.count e.1 e.2) s).modWave n fun w => { w with counts := [] }
    else s) s

/-! Free choices. -/

/-- The next free choice (log entry 5). -/
def State.choose (s : State) : Bool × State := (Config.freeChoice s.free, { s with free := s.free + 1 })

/-- A free number of cycles passes on the core of the wave that acts: its counter advances by them, and never decreases (R82, log
entry 2). -/
def State.passCycles (s : State) : Nat × State :=
  let n := Config.stepCycles s.free
  (n, { s with free := s.free + 1 }.modCore fun c => { c with cycle := dw (min (2 ^ 64 - 1) (c.cycle.toNat + n)) })

/-- Bytes that come from another device (log entry 6). -/
def State.outside (s : State) : Nat → List Byte × State
  | 0 => ([], s)
  | n + 1 =>
    let b := Config.outsideByte s.free
    let (bs, s') := State.outside { s with free := s.free + 1 } n
    (b :: bs, s')

/-! Walks of the page tables (R319, R320, R347). -/

/-- Bits `lo + n - 1 .. lo` of a number. -/
def nbits (x lo n : Nat) : Nat := x / 2 ^ lo % 2 ^ n

/-- The four levels of R319 Table 4: lowest index bit and number of index bits. -/
def levels : List (Nat × Nat) := [(32, 20), (27, 5), (21, 6), (14, 7)]

/-- R320: the leaf that an entry is, where it maps pages of `2 ^ lo` bytes; none where it is malformed. -/
def leafOf (e lo ctx va : Nat) : Option TlbEntry :=
  let kind := nbits e 6 2
  let stripe := nbits e 8 2
  let home := nbits e 48 10
  let pa := nbits e 14 34 * 2 ^ 14
  let homeOk :=
    if kind = 0 then
      if stripe = 0 then decide (home < 576) else if stripe = 1 then decide (home < 12)
      else if stripe = 2 then decide (home < 4) else decide (home = 0)
    else if kind = 2 then decide (home < 64) else true
  if nbits e 11 3 = 0 ∧ nbits e 58 6 = 0 ∧ kind ≠ 3 ∧ homeOk ∧ pa % 2 ^ lo = 0 then
    some { ctx := ctx, va := va / 2 ^ lo * 2 ^ lo, size := 2 ^ lo
           loc := { kind := if kind = 0 then .device else if kind = 1 then .host else .peer, addr := pa
                    stripe := if kind = 0 then stripe else 0, home := home
                    rm := kind == 0 && nbits e 10 1 == 1 }
           r := nbits e 2 1 == 1, w := nbits e 3 1 == 1, x := nbits e 4 1 == 1, s := nbits e 5 1 == 1 }
  else none

/-- A walk from a table through the levels left (R319, R320). -/
def walkLevels (mem : Memory) (ctx va : Nat) : List (Nat × Nat) → Nat → Option TlbEntry
  | [], _ => none
  | (lo, n) :: rest, table =>
    let e := readLe mem (table + 8 * nbits va lo n) 8
    if nbits e 0 1 = 0 then none
    else if nbits e 1 1 = 1 then leafOf e lo ctx va
    else
      match rest with
      | [] => none
      | (_, n') :: _ =>
        let next := nbits e 8 40 * 2 ^ 8
        if nbits e 2 6 = 0 ∧ nbits e 48 16 = 0 ∧ next % (8 * 2 ^ n') = 0 then walkLevels mem ctx va rest next else none

/-- A translation of a context with a PASID: a host page takes the PASID for the host's translation (R16, R326). -/
def TlbEntry.withPasid (e : TlbEntry) (pasid : Nat) : TlbEntry :=
  if e.loc.kind = .host then { e with loc := { e.loc with home := pasid } } else e

/-- A walk of the tables that begin at a root (R319): none where the access does not translate. -/
def State.walkFrom (s : State) (root : DWord) (ctx va : Nat) : Option TlbEntry :=
  if !root.getLsbD 0 then none
  else
    (walkLevels s.mem ctx va levels (nbits root.toNat 23 25 * 2 ^ 23)).map fun e => e.withPasid (nbits (s.rowAt ctx).pr.toNat 0 20)

/-- A walk of a context's tables (R319). -/
def State.walk (s : State) (ctx va : Nat) : Option TlbEntry := s.walkFrom (s.rowAt ctx).root ctx va

/-- The 512-byte lines of table entries that a walk from a table reads. -/
def walkLines (mem : Memory) (va : Nat) : List (Nat × Nat) → Nat → List Nat
  | [], _ => []
  | (lo, n) :: rest, table =>
    let a := table + 8 * nbits va lo n
    let e := readLe mem a 8
    a / 512 :: (if nbits e 0 2 = 1 then walkLines mem va rest (nbits e 8 40 * 2 ^ 8) else [])

/-- A walk that a hint has begun is for the page of an address (R347): the page that it will find, or, where it finds none, the 16 KiB. -/
def State.walksPage (s : State) (f : Fill) (ctx va : Nat) : Bool :=
  f.loc.isNone && f.ctx == ctx &&
    match s.walkFrom f.root ctx f.va with
    | some e => decide (e.va ≤ va) && decide (va < e.va + e.size)
    | none => f.va / 2 ^ 14 == va / 2 ^ 14

/-- A walk that a hint has begun for the page of an address and that finds no leaf ends with the access that takes its result (R347). -/
def State.dropWalks (s : State) (va : Nat) : State :=
  s.modCore fun c => { c with fills := c.fills.filter fun f => !(s.walksPage f s.w.ctx va && (s.walkFrom f.root f.ctx f.va).isNone) }

/-- A trap that says, among others, that an access found no translation ends the walks in flight that gave it none (R347). -/
def State.endsWalks (s : State) (c : Cause) (va : DWord) : State :=
  if c == .loadFault || c == .storeFault || c == .fetchFault then s.dropWalks va.toNat else s

/-! Trap causes (R315). -/

/-- The code of a cause (R315, Table 3). -/
def Cause.code : Cause → Nat
  | .none => 0x00
  | .illegal => 0x01
  | .unimpl => 0x02
  | .priv => 0x03
  | .invslot => 0x04
  | .midinsn => 0x05
  | .misalignCode => 0x06
  | .regrange => 0x07
  | .pairrule => 0x08
  | .hazard => 0x09
  | .brk => 0x0A
  | .syscall => 0x0B
  | .step => 0x0C
  | .fetchFault => 0x10
  | .loadFault => 0x11
  | .storeFault => 0x12
  | .perm => 0x13
  | .align => 0x14
  | .lmbound => 0x15
  | .skimbound => 0x16
  | .copyFault => 0x17
  | .scope => 0x18
  | .eccUncorr => 0x19
  | .poison => 0x1A
  | .foldMismatch => 0x20
  | .desc => 0x21
  | .chunk => 0x22
  | .anchor => 0x23
  | .accwrap => 0x24
  | .rngwrap => 0x25
  | .fptrap => 0x26
  | .idiv0 => 0x27
  | .queue => 0x28
  | .streamFault => 0x29
  | .watchdog => 0x30
  | .contain => 0x31
  | .commitOverflow => 0x32

/-! Lane registers by key: register × 16,384 + linear lane. -/

/-- The key of a lane's copy of a register. -/
def vKey (r lane : Nat) : Nat := r * 16384 + lane

/-- A lane register. -/
def Wave.v32 (w : Wave) (r lane : Nat) : Word := look 0 w.v (vKey r lane)

/-- m0 is set in every virtual lane (R142); m1 to m7 are held. -/
def Wave.mBit (w : Wave) (k lane : Nat) : Bool := if k = 0 then decide (lane < w.lanes) else look false w.m (vKey k lane)

/-! Killing a crew (R279, R313, R372). -/

/-- A killed wave: its queues and operations are discarded. -/
def Wave.kill (w : Wave) : Wave :=
  { w with life := .killed, lq := [], aside := [], stq := [], ops := [], sweeps := [], binder := none, unch := [], parked := none,
           trapping := none, q := [], sret := [], buf := [], ret := none, pushWait := none, pushAt := none, slotAt := none, sbGrant := 0
           swTaken := false, stgAt := none
           blocked := false, stepWait := false, issued := false }

/-- Kill wave `n`, and free the scoreboard entries of its context. A packet under way completes (R372). -/
def State.killWave (s : State) (n : Nat) : State :=
  let w := s.wave n
  (s.modWave n Wave.kill).modCoreAt w.core fun c =>
    { c with sb := c.sb.filter (fun e => e.owner != w.slot), sbWait := c.sbWait.filter (fun e => e.1 != n) }

/-- A core whose retirement was requested leaves service once the crews with a wave on it have retired or been killed (R380). -/
def State.retireCores (s : State) : State :=
  let busy (n : Nat) : Bool := (s.waveIds.map s.wave).any (fun w => w.resident && w.core == n)
    || s.crews.any fun c => !c.killed && c.waves.any fun k => (s.wave k).core == n
  { s with cores := s.cores.map fun (n, c) => (n, if c.retiring && !busy n then { c with retired := true, retiring := false } else c) }

/-- A sector controller works: the device is not in the recovery state, and the sector does not switch its image (R375, R378). -/
def State.controls (s : State) (sector : Nat) : Bool := !s.fw.recovery && s.fw.switching.head? != some sector

/-- Kill a crew and emit its record (R279, R313; payload layout: log entry 12). The table of record 0x0008 names more fields than six
doublewords hold: the crew index stands in bits 63..32 of the context's doubleword (DESIGN CHOICE, log entry 121). -/
def State.killCrew (s : State) (id : Nat) (c1 c2 : Cause) (epc elpc : DWord) : State :=
  match s.crewOf id with
  | none => (s.modW Wave.kill).retireCores
  | some c =>
    let t := s.taskOf c.task
    let s := c.waves.foldl State.killWave s
    let s := { s with crews := s.crews.map fun (x : Crew) => if x.id = id then { x with killed := true } else x }
    s.retireCores.emitSector c.sector 0x0008
      [dw (c.ctx + c.idx * 2 ^ 32), dw ((t.map Task.cb).getD 0), dw ((t.map Task.slot).getD 0),
       dw (c1.code + c2.code * 2 ^ 32), epc, elpc]

/-! Unchecked results (R116 to R121). -/

/-- Write the values of returned results, oldest first, so that the younger write stays (R120). -/
def Wave.settle (w : Wave) : Wave := { w with v := w.unch.foldl (fun v u => putAll 0 v u.writes) w.v }

/-- What a park or trap entry does once every result has returned: the values stand and every pending mark clears (R118, R121). A
result that carries a fault stays until a marker's park reports it (R203). -/
def Wave.clearPending (w : Wave) : Wave :=
  { w.settle with pend := [], unch := (w.unch.filter (·.err.isSome)).map fun u => { u with writes := [], returned := true } }

/-! The lane queue (R72). -/

/-- A run at the head that has executed all its slots (R26). One that has executed none and begins above the highest valid slot meets
INVSLOT there. -/
def Run.done (r : Run) : Bool :=
  match Block.highest r.image with
  | some h => r.started && r.ran && r.bad.isNone && decide (h < r.slot)
  | none => false

/-- Entries occupied: the reset of `rng` counters takes none (R130), and a run is freed when its last slot has issued, also where that
slot's marker still parks (R72). -/
def Wave.lqCount (w : Wave) : Nat :=
  w.lq.countP fun
    | .cmd _ _ _ .rngReset => false
    | .run r => !r.done
    | _ => true

/-- A lane target with the slot replaced (R25). -/
def targetAt (t : DWord) (slot : Nat) : DWord := dw (t.toNat / 128 * 128 + slot)

/-- The lane target at which the lane stream resumes within the head run; 0 where none has started (R311). -/
def Wave.resume (w : Wave) : DWord :=
  match w.lq with
  | .run r :: _ => if r.started then targetAt r.target r.slot else 0
  | _ => 0

/-- A lane-queue entry whose counts start `n` instructions later (R295). -/
def Entry.rebase (n : Nat) : Entry → Entry
  | .run r => .run { r with qmark := r.qmark - n }
  | .cmd a w k c => .cmd a w (k - n) c

/-- An entry whose counts start `n` instructions earlier: it stands behind those (R294). -/
def Entry.behind (n : Nat) : Entry → Entry
  | .run r => .run { r with qmark := r.qmark + n }
  | .cmd a w k c => .cmd a w (k + n) c

/-- The counted instructions of the quantum before an entry's place (R294). -/
def Entry.mark : Entry → Nat
  | .run r => r.qmark
  | .cmd _ _ k _ => k

/-- An entry as trap entry sets it aside: its run follows no trace (R343). -/
def Entry.untraced : Entry → Entry
  | .run r => .run { r with traced := false }
  | e => e

/-- A reset of the `rng` counters that waits for its place in the lane queue (R130). -/
def Entry.isReset : Entry → Bool
  | .cmd _ _ _ .rngReset => true
  | _ => false

/-- A reset whose place the lane stream has reached takes effect: it is no entry, so none is set aside ahead of the first entry (R72, R130). -/
def Wave.applyResets (w : Wave) : Wave :=
  if (w.lq.head?.map Entry.isReset).getD false then { w with rng := [], lq := w.lq.dropWhile Entry.isReset } else w

/-- Remove a head run that has executed all its slots. -/
def Wave.popDone (w : Wave) : Wave :=
  match w.lq with
  | .run r :: rest => if r.done then { w with lq := rest } else w
  | _ => w

/-! Taking an exception (R310 to R313): the one shared operation. -/

/-- The registers that trap entry loads (R311). `at'` is the lane target of a kind-1 trap and the command's address of a kind-2
one. -/
def Wave.loadTrap (w : Wave) (kind : Nat) (c : Cause) (fva at' : DWord) (word : BitVec 96) : Wave :=
  { w with
    kind := BitVec.ofNat 2 kind
    cause := dw c.code
    firstCause := c
    fva := fva
    epc := if kind = 2 then at' else w.pc
    elpc := if kind = 0 then w.resume else if kind = 1 then at' else 0
    eword := if kind = 0 then 0 else word
    rpc := w.pc }

/-- Sweeps that trap entry waits for: all but a bound one that has not started (R184). -/
def Wave.sweepsBusy (w : Wave) : Bool := w.sweeps.any fun x => (x.started || x.bound.isNone) && x.bad.isNone

/-- What trap entry waits for that other steps must end: sweeps (R184), a result that has yet to be read or applied (R121, R233, R361), and a
lane word under way (R310 step 1). -/
def Wave.trapBusy (w : Wave) : Bool := w.sweepsBusy || w.unch.any (fun u => u.held || !u.late.isEmpty) || w.stgAt.isSome

/-- The entries that a sweep word has recorded go with the word (R176). -/
def State.untakeSweep (s : State) : State :=
  if s.w.swTaken then
    (s.modCore fun c => { c with sb := c.sb.filter fun e => !(e.owner == s.w.slot && e.kind == 1 && e.ref == s.w.sweepId) }).modW fun w =>
      { w with swTaken := false }
  else s

/-- A `task.push` that a trap meets in its wait for room has written s[sd] and holds its slot: it goes on waiting when its word is issued again
(R280). WATCHDOG abandons the word without effect: s[sd] holds its old value again, and only the claim, which cannot be undone, is kept (R325;
log entry 68). -/
def Wave.dropPush (w : Wave) (c : Cause) : Wave :=
  match w.pushWait with
  | some p =>
    { (if c = .watchdog then w.setKey p.d p.old else w) with
      pushWait := none, pushAt := some { pc := w.pc, push := p, again := c == .watchdog } }
  | none => w

/-- An end that the scalar stream has reached stands behind more counted instructions than a quantum takes: the count makes an end before it, at
the Q-th (R295). -/
def Wave.overrun (w : Wave) : Wave :=
  if w.qended && !w.qlane && decide (w.quantum < w.qcount) then { w with qexp := true, qagain := true } else w

/-- The counted instructions that stand before the end that the wave has reached: Q where the count makes it, and all of them else (R295). -/
def Wave.counted (w : Wave) : Nat := if w.qexp then w.quantum else w.qcount

/-- The quantum where a trap enters (R232, R294, R295, R314; log entry 108). The handler's instructions stand before the words set aside, so the
count goes on from the trap's place: the scalar word's, or that of the head entry. What had issued ahead of that place and an end that stands
after it come again with `eret`. An end before an instruction that has not acted, or one that the count made, is none any more (R328). An end at
a lane word, or one whose commit is under way, stays, and what stands behind it counts from there. -/
def Wave.trapQuantum (w : Wave) (scalar committing : Bool) : Wave :=
  let stays := w.qended && (committing || w.qlane)
  let w :=
    if stays && !w.qlane then
      { w with qcount := w.qcount - w.counted, lq := w.lq.map (Entry.rebase w.counted), qlane := true, qexp := false }
    else w
  let w :=
    if stays then
      let next := w.qagain && !w.qbefore
      { w with qheld := next && !w.lq.isEmpty, qagain := next && w.lq.isEmpty, qbefore := false }
    else
      let ends := w.qended && !w.qbefore && (!w.qexp || w.qagain)
      { w with qheld := ends && !w.lq.isEmpty, qended := ends && w.lq.isEmpty, qagain := false, qbefore := false, qexp := false }
  let p := if scalar then w.qcount else (w.lq.head?.map Entry.mark).getD w.qcount
  { w with qahead := w.qcount - p, qcount := p, qused := w.qused && (scalar || decide (0 < p) || w.qlw)
           lq := w.lq.map (Entry.rebase p) }.overrun

/-- The commit unit applies the buffers of the crew of the wave that acts (R298). -/
def State.committing (s : State) : Bool := ((s.crewOf s.w.crew).map (·.committing)).getD false

/-- Steps 2 to 5 of R310 for a wave that waits for nothing more; `vec` is the handler's address when the trap began (R309). -/
def State.enterTrap (s : State) (kind : Nat) (c : Cause) (fva at' : DWord) (word : BitVec 96) (vec : DWord) : State :=
  let s := s.untakeSweep
  if s.w.sys then s.killCrew s.w.crew s.w.firstCause c s.w.epc s.w.elpc
  else
    -- a lane word that traps leaves its run unfinished, be it the run's last word
    let w := (if kind = 1 then s.w.clearPending else s.w.clearPending.popDone).applyResets
    let scalar := kind == 0 && !(w.stepping && w.lstep)
    let w := { w.dropPush c with parked := none, trapping := none, blocked := false, barWait := none, wdog := 0, sbGrant := 0, issued := false }
    let w := if w.stepping then { w with stepping := false, stepArmed := false, stepWait := false } else w
    let w := w.loadTrap kind c fva at' word
    let s := ({ s with w := w }).modCore fun x => { x with sbWait := x.sbWait.filter fun e => e.1 != s.wid }
    if vec = 0 then s.killCrew s.w.crew c .none s.w.epc s.w.elpc
    else
      let s := s.modW fun w => w.trapQuantum scalar s.committing
      s.modW fun w =>
        { w with aside := w.lq.map Entry.untraced, lq := [], sys := true, pc := vec, jumped := true, life := .running }

/-- A wave meets a trap cause: entry at once, or after the work that trap entry waits for (R310 step 2). -/
def State.raise (s : State) (kind : Nat) (c : Cause) (fva at' : DWord) (word : BitVec 96) : State :=
  let s := s.endsWalks c fva
  if s.w.trapBusy && !s.w.sys then
    s.modW fun w => { w with trapping := some { kind := kind, cause := c, fva := fva, place := at', word := word, vec := s.row.vec } }
  else s.enterTrap kind c fva at' word s.row.vec

/-! How a scalar instruction ends. -/

/-- A scalar instruction has retired: it counts toward the quantum (R295) and resets the watchdog (R325), and a single step ends
(R324). -/
def State.retire (s : State) : State :=
  let s := s.modW fun w =>
    { w with blocked := false, barWait := none, wdog := 0, stepWait := false, issued := false, qused := w.qused || s.repro
             qcount := if s.repro then w.qcount + 1 else w.qcount }
  if s.w.stepping && !s.w.lstep then s.raise 0 .step 0 0 0 else s

/-- `sys.cpf` and `sys.cpr` at a COPY_FAULT or STREAM_FAULT (R241, R260). -/
def State.setEngine (s : State) (cpf cpr : DWord) : State := s.modW fun w => { w with cpf := cpf, cpr := cpr }

/-- A sweep leaves the wave's list. -/
def State.dropSweep (s : State) (id : Nat) : State := s.modW fun w => { w with sweeps := w.sweeps.filter fun x => x.id != id }

/-- A scalar instruction cannot go on: the wave is not ready (R61). Under a single step STEP is taken at once (R324). -/
def State.stall (s : State) : State := s.modW fun w => { w with blocked := true }

/-- The wave's current quantum ends here (R232): it waits for the commit. -/
def State.endQuantum (s : State) : State := s.modW fun w => { w with qended := true }

/-- It ends before the instruction at the program counter, which acts after the commit (R295). -/
def State.endBefore (s : State) : State := s.modW fun w => { w with qended := true, qbefore := true }

/-- The quantum ends at the place of the lane word that is due, so the scalar words after its `lexec` fall into the next quantum and the count
restarts there (R295). `more` says that lane words of the run follow. Where the scalar stream had ended the quantum, that end stands after
what falls into the next one, and is none where that holds nothing (R305) or where the count had made it. -/
def State.endQuantumLane (s : State) (more : Bool) : State :=
  s.modW fun w =>
    let n := (w.lq.head?.map Entry.mark).getD 0
    let again := w.qended && (!w.qexp || w.qagain) && (more || decide (n < w.qcount))
    { w with qagain := again, qbefore := again && w.qbefore, qexp := false, qended := true, qlane := true
             laneBlocked := true
             qcount := w.qcount - n
             lq := w.lq.map (Entry.rebase n) }

/-- Move past an instruction of `len` bytes. -/
def State.advance (s : State) (len : Nat) : State := s.modW fun w => { w with pc := w.pc + dw len, jumped := false }

/-- Pass control to an address (R70). -/
def State.jump (s : State) (t : DWord) : State := s.modW fun w => { w with pc := t, jumped := true }

/-- The end of a scalar instruction whose effect, the pc included, is `r`. A trap is taken on the state before it. -/
def finish (s : State) (r : Res State) : Host.Outcome State Fault Refusal :=
  match r with
  | .ok t => .next t.retire
  | .error (.trap c fva) => .next (s.raise 0 c fva 0 0)
  | .error (.engine c fva cpf cpr) => .next ((s.setEngine cpf cpr).raise 0 c fva 0 0)
  | .error (.chunk fva k) => .next ((s.dropSweep k).raise 0 .chunk fva 0 0)
  | .error .wait => .next s.stall
  | .error (.entries _) => .next s.stall
  | .error .commit => .next s.endBefore.stall

/-- The end of a scalar instruction of `len` bytes that goes on in sequence. -/
def finishSeq (len : Nat) (s : State) (r : Res State) : Host.Outcome State Fault Refusal :=
  finish s (r.map fun t => t.advance len)

/-- A 37-bit or 13-bit immediate as 64 bits (R20, R21). -/
def immVal (i : Imm) : DWord :=
  match i.ext with
  | none => i.lo.signExtend 64
  | some p => (p ++ i.lo : BitVec 37).signExtend 64

/-- Bytes of an instruction with this immediate (R21). -/
def immLen (i : Imm) : Nat := if i.ext.isSome then 8 else 4

/-- The opcode runs in the system view only (R42, R56). -/
def sysOnly (s : State) : Res Unit := need s.w.sys .priv 0

/-! Waits that several instructions share. -/

/-- Every entry of the wave's lane queue has completed in the sense of R76: none is left, no park is under way and every unchecked
result has returned. Sweeps in flight are waited for as well, by `State.lanesWait`. -/
def Wave.lanesDone (w : Wave) : Bool := w.lq.isEmpty && w.parked.isNone && w.unch.all (·.returned)

/-- A lane-queue entry whose words have all executed: a run whose last marker parks stays in the list until its park ends (R72). -/
def Entry.finished : Entry → Bool
  | .run r => r.done
  | .cmd _ _ _ _ => false

/-- What "before it" of R295 Table 4 asks: the quantum has ended and committed, or holds no instruction yet, lane words among them (R305). -/
def freshQuantum (s : State) : Bool := !s.repro || (!s.w.qused && s.w.qcount == 0 && s.w.lq.all Entry.finished)

/-- A run whose `lexec` is the Q-th counted instruction of the quantum or stands behind it, or a command behind the Q-th: it stands after the
quantum's end (R294, R295). -/
def Entry.later (q : Nat) (e : Entry) : Bool := decide (q ≤ e.mark)

end Sys2Proof.Machine
end

