-- ==== Sys2Proof/Machine/Control.lean ====
section
/-! DEFINITION. Branches, jumps, calls and loops (R67 to R71). The fetch at the target meets its own faults (R70). -/

namespace Sys2Proof.Machine

open Sys2Proof

/-- A conditional branch on two registers (R67). -/
def branch (c : DWord → DWord → Bool) (a b : BitVec 6) (o : Imm) (s : State) : Host.Outcome State Fault Refusal :=
  finish s (.ok (if c (s.getS a) (s.getS b) then s.jump (s.w.pc + 4 * immVal o) else s.advance (immLen o)))

/-- `beq` (R67). -/
def execBeq (a b : BitVec 6) (o : Imm) (s : State) : Host.Outcome State Fault Refusal :=
  branch (fun a b => a == b) a b o s

/-- `bne` (R67). -/
def execBne (a b : BitVec 6) (o : Imm) (s : State) : Host.Outcome State Fault Refusal :=
  branch (fun a b => a != b) a b o s

/-- `blt` (R67). -/
def execBlt (a b : BitVec 6) (o : Imm) (s : State) : Host.Outcome State Fault Refusal :=
  branch (fun a b => a.slt b) a b o s

/-- `bge` (R67). -/
def execBge (a b : BitVec 6) (o : Imm) (s : State) : Host.Outcome State Fault Refusal :=
  branch (fun a b => !a.slt b) a b o s

/-- `bltn` (R67). -/
def execBltn (a b : BitVec 6) (o : Imm) (s : State) : Host.Outcome State Fault Refusal :=
  branch (fun a b => a.ult b) a b o s

/-- `bgen` (R67). -/
def execBgen (a b : BitVec 6) (o : Imm) (s : State) : Host.Outcome State Fault Refusal :=
  branch (fun a b => !a.ult b) a b o s

/-- `j` (R68). -/
def execJ (o : BitVec 25) (s : State) : Host.Outcome State Fault Refusal :=
  finish s (.ok (s.jump (s.w.pc + 4 * o.signExtend 64)))

/-- `call`: the link goes to s63 (R68), which is t15 in the system view (R19). -/
def execCall (o : BitVec 25) (s : State) : Host.Outcome State Fault Refusal :=
  finish s (.ok ((s.setS 63 (s.w.pc + 4)).jump (s.w.pc + 4 * o.signExtend 64)))

/-- `jlr`: the base is read before the link is written (R68). -/
def execJlr (d a : BitVec 6) (i : Imm) (s : State) : Host.Outcome State Fault Refusal :=
  finish s (do
    let t := s.getS a + immVal i
    need (t.toNat % 4 == 0) .misalignCode 0
    .ok ((s.setS d (s.w.pc + dw (immLen i))).jump t))

/-- `loop`: the counter falls by one, and control passes while it is not zero (R69). -/
def execLoop (a : BitVec 6) (o : Imm) (s : State) : Host.Outcome State Fault Refusal :=
  let n := s.getS a - 1
  let t := s.setS a n
  finish s (.ok (if n != 0 then t.jump (s.w.pc + 4 * immVal o) else t.advance (immLen o)))

end Sys2Proof.Machine
end

