-- ==== Sys2Proof/Machine/Float.lean ====
section
/-! DEFINITION. The number formats of R86 and R87, exact values, and rounding (R91 to R94). A finite exact value is
± mant × 2^exp; where the value is not a dyadic rational, `sticky` says that it lies strictly between that and the next multiple
of 2^exp in magnitude. -/

namespace Sys2Proof.Machine

/-- A value of a floating format (R86). -/
inductive Val where
  | nan
  | inf (neg : Bool)
  | fin (neg : Bool) (mant : Nat) (exp : Int)
  deriving DecidableEq, Repr

/-- Rounding modes by their code (R91, R95). -/
inductive Rnd where
  | rne | rtz | rup | rdn
  deriving DecidableEq, Repr

/-- R35: the rounding field. -/
def Rnd.ofCode (c : BitVec 2) : Rnd :=
  match c.toNat with
  | 0 => .rne
  | 1 => .rtz
  | 2 => .rup
  | _ => .rdn

/-- A floating format (R86, Table 1). -/
structure Fmt where
  /-- exponent bits -/
  eb : Nat
  /-- fraction bits -/
  fb : Nat
  bias : Int
  /-- the format has infinities -/
  hasInf : Bool
  /-- largest finite value in units of the top binade's spacing -/
  maxMant : Nat
  /-- generated NaN, none where the format has no NaN -/
  genNan : Option Nat
  deriving DecidableEq, Repr

/-- The floating formats by type code (R86, Table 1); codes that name no floating format read as FP32. -/
def fmtOf (t : Nat) : Fmt :=
  match t with
  | 4 => ⟨8, 7, 127, true, 255, some 0x7FC0⟩
  | 5 => ⟨5, 10, 15, true, 2047, some 0x7E00⟩
  | 6 => ⟨4, 3, 7, false, 14, some 0x7F⟩
  | 7 => ⟨5, 2, 15, true, 7, some 0x7E⟩
  | 8 => ⟨2, 1, 1, false, 3, none⟩
  | _ => ⟨8, 23, 127, true, 16777215, some 0x7FC00000⟩

/-- Bits of a value of the type (R86 to R88). -/
def tyBits (t : Nat) : Nat :=
  match t with
  | 4 => 16
  | 5 => 16
  | 6 => 8
  | 7 => 8
  | 8 => 4
  | 9 => 8
  | _ => 32

/-- The type code names a floating format. -/
def isFloat (t : Nat) : Bool := 3 ≤ t && t ≤ 8

/-- Exponent of the largest binade. -/
def Fmt.emax (f : Fmt) : Int := 2 ^ f.eb - (if f.hasInf then 2 else 1) - f.bias

/-- Exponent of the smallest normal. -/
def Fmt.emin (f : Fmt) : Int := 1 - f.bias

/-- The value that bits of a floating format encode (R86). Bits above the format are ignored (R88). -/
def decodeF (t : Nat) (x : Nat) : Val :=
  let f := fmtOf t
  let frac := x % 2 ^ f.fb
  let e := x / 2 ^ f.fb % 2 ^ f.eb
  let neg := x / 2 ^ (f.fb + f.eb) % 2 = 1
  if f.hasInf ∧ e = 2 ^ f.eb - 1 then (if frac = 0 then .inf neg else .nan)
  else if t = 6 ∧ e = 15 ∧ frac = 7 then .nan
  else if e = 0 then .fin neg frac (f.emin - f.fb)
  else .fin neg (frac + 2 ^ f.fb) ((e : Int) - f.bias - f.fb)

/-- The value that bits of any format encode, integers included (R87, R96). -/
def decodeV (t : Nat) (x : Nat) : Val :=
  if isFloat t then decodeF t x
  else
    let n := tyBits t
    let u := x % 2 ^ n
    if t ≠ 2 ∧ 2 ^ (n - 1) ≤ u then .fin true (2 ^ n - u) 0 else .fin false u 0

/-- Bits in a number: 0 for 0. -/
def bitLen (n : Nat) : Nat := if n = 0 then 0 else Nat.log2 n + 1

/-- Whether mant × 2^exp is at least n × 2^k. -/
def geScaled (mant : Nat) (exp : Int) (n : Nat) (k : Int) : Bool :=
  if exp ≥ k then decide (n ≤ mant * 2 ^ (exp - k).toNat) else decide (n * 2 ^ (k - exp).toNat ≤ mant)

/-- Round mant × 2^exp (with sticky) to an integer multiple of 2^q: the multiple, and whether the result differs. -/
def roundAt (m : Rnd) (neg : Bool) (mant : Nat) (exp : Int) (sticky : Bool) (q : Int) : Nat × Bool :=
  if q ≤ exp then (mant * 2 ^ (exp - q).toNat, sticky)
  else
    let sh := (q - exp).toNat
    -- beyond the number's length plus two every shift gives the same answer
    let sh := min sh (bitLen mant + 2)
    let n := mant / 2 ^ sh
    let r := mant % 2 ^ sh
    let h := 2 ^ (sh - 1)
    let inexact := r ≠ 0 || sticky
    let up :=
      match m with
      | .rne => decide (h < r) || (decide (r = h) && (sticky || decide (n % 2 = 1)))
      | .rtz => false
      | .rup => !neg && inexact
      | .rdn => neg && inexact
    (if up then n + 1 else n, inexact)

/-- What rounding gives: the bits written, and the kinds of R104 that it meets by itself (overflow, underflow). -/
structure Rounded where
  bits : Nat
  ovf : Bool
  unf : Bool
  deriving DecidableEq, Repr

/-- The sign bit of a format. -/
def signBit (t : Nat) (neg : Bool) : Nat := if neg then 2 ^ (tyBits t - 1) else 0

/-- Bits of the largest finite magnitude, with a sign. -/
def maxBits (t : Nat) (neg : Bool) : Nat :=
  let f := fmtOf t
  signBit t neg + (f.emax + f.bias).toNat * 2 ^ f.fb + f.maxMant - 2 ^ f.fb

/-- Bits of an infinity; in a format without one, what R93 Table 4 writes for it. -/
def infBits (t : Nat) (neg sat : Bool) : Nat :=
  let f := fmtOf t
  if sat then maxBits t neg
  else if f.hasInf then signBit t neg + (2 ^ f.eb - 1) * 2 ^ f.fb
  else
    match f.genNan with
    | some b => b
    | none => maxBits t neg

/-- Bits that a NaN result writes: the generated NaN (R92); +0 in E2M1 (R93 Table 4). -/
def nanBits (t : Nat) : Nat := (fmtOf t).genNan.getD 0

/-- R93: whether the rounding of a finite value overflows. -/
def overflows (t : Nat) (m : Rnd) (neg : Bool) (mant : Nat) (exp : Int) (sticky : Bool) : Bool :=
  let f := fmtOf t
  let top := f.emax - f.fb
  let above := geScaled mant exp f.maxMant top && (sticky || !(geScaled f.maxMant top mant exp))
  match m with
  | .rne => geScaled mant exp (2 * f.maxMant + 1) (top - 1)
  | .rtz => false
  | .rup => !neg && above
  | .rdn => neg && above

/-- R91, R93, R94: round a finite exact value to a floating format. An exact zero keeps the sign given. -/
def roundFin (t : Nat) (m : Rnd) (sat neg : Bool) (mant : Nat) (exp : Int) (sticky : Bool) : Rounded :=
  let f := fmtOf t
  if mant = 0 ∧ ¬ sticky then ⟨signBit t neg, false, false⟩
  else if overflows t m neg mant exp sticky then ⟨infBits t neg sat, true, false⟩
  else
    let e := exp + bitLen mant - 1
    let tiny := decide (e < f.emin)
    let q := max e f.emin - f.fb
    let (n, inexact) := roundAt m neg mant exp sticky q
    -- beyond the largest finite value without overflow: that value
    if geScaled n q (f.maxMant + 1) (f.emax - f.fb) then ⟨maxBits t neg, false, false⟩
    else
      -- a carry into the next binade needs no case: the exponent field takes it
      let field := if decide (n < 2 ^ f.fb) then 0 else (q + f.fb + f.bias).toNat * 2 ^ f.fb - 2 ^ f.fb
      ⟨signBit t neg + (field + n), false, tiny && inexact⟩

/-- Round a finite exact value to an integer under a mode (R93). -/
def roundInt (m : Rnd) (neg : Bool) (mant : Nat) (exp : Int) (sticky : Bool) : Int :=
  let n := (roundAt m neg mant exp sticky 0).1
  if neg then -(n : Int) else n

/-- Range of an integer format (R87). -/
def intRange (t : Nat) : Int × Int :=
  match t with
  | 2 => (0, 2 ^ 32 - 1)
  | 9 => (-128, 127)
  | _ => (-(2 ^ 31), 2 ^ 31 - 1)

/-- Bits of an integer in a format of the given width. -/
def intBits (t : Nat) (x : Int) : Nat := (x % (2 ^ tyBits t : Int)).toNat

/-- R93 Table 4: what a conversion to an integer format writes out of range without `.sat`. -/
def intOverflow (t : Nat) : Nat :=
  match t with
  | 2 => 0xFFFFFFFF
  | 9 => 0x80
  | _ => 0x80000000

/-- The exact result of a floating operation before rounding. -/
inductive Exact where
  | nan
  | inf (neg : Bool)
  | fin (neg : Bool) (mant : Nat) (exp : Int) (sticky : Bool)
  deriving DecidableEq, Repr

/-- An element written: its bits and the kinds of Table 7 it counts, bit k for kind k (R104). -/
structure FRes where
  bits : Nat
  kinds : BitVec 4
  deriving DecidableEq, Repr

/-- The kinds as four bits: 0 NaN produced, 1 infinity produced, 2 overflow, 3 underflow (R104, Table 7). -/
def kindsOf (nanP infP ovf unf : Bool) : BitVec 4 :=
  BitVec.ofBool unf ++ BitVec.ofBool ovf ++ BitVec.ofBool infP ++ BitVec.ofBool nanP

/-- Whether bits of a floating format encode a NaN. -/
def isNanBits (t x : Nat) : Bool := decodeF t x == .nan

/-- Whether bits of a floating format encode an infinity. -/
def isInfBits (t x : Nat) : Bool :=
  match decodeF t x with
  | .inf _ => true
  | _ => false

/-- Round an exact result to a floating format and say which kinds the element counts (R92, R93, R104). `opNan` and `opInf` say that
an operand of its computation was NaN or infinite. -/
def finishF (t : Nat) (m : Rnd) (sat opNan opInf : Bool) (x : Exact) : FRes :=
  match x with
  | .nan =>
    let lacks := (fmtOf t).genNan.isNone
    ⟨nanBits t, kindsOf (!opNan && !lacks) false lacks false⟩
  | .inf neg =>
    let b := infBits t neg sat
    let lacks := !(fmtOf t).hasInf
    ⟨b, kindsOf (isNanBits t b && !opNan) (isInfBits t b && !opInf) (lacks || (sat && !opInf)) false⟩
  | .fin neg mant exp sticky =>
    let r := roundFin t m sat neg mant exp sticky
    ⟨r.bits, kindsOf (isNanBits t r.bits && !opNan) (isInfBits t r.bits && !opInf) r.ovf r.unf⟩

/-- Convert an exact value to an integer format (R93, R96): bits, and whether it counts kind 2. -/
def finishI (t : Nat) (m : Rnd) (sat : Bool) (x : Exact) : FRes :=
  let (lo, hi) := intRange t
  let bad (b : Nat) : FRes := ⟨b, kindsOf false false true false⟩
  match x with
  | .nan => bad (if sat then 0 else intOverflow t)
  | .inf neg => bad (if sat then intBits t (if neg then lo else hi) else intOverflow t)
  | .fin neg mant exp sticky =>
    let n := roundInt m neg mant exp sticky
    if n < lo ∨ hi < n then bad (if sat then intBits t (if n < lo then lo else hi) else intOverflow t)
    else ⟨intBits t n, 0⟩

/-- A value as an exact result. -/
def Val.exact : Val → Exact
  | .nan => .nan
  | .inf n => .inf n
  | .fin n m e => .fin n m e false

/-- The value is NaN. -/
def Val.isNan : Val → Bool
  | .nan => true
  | _ => false

/-- The value is infinite. -/
def Val.isInf : Val → Bool
  | .inf _ => true
  | _ => false

/-- A finite value as an integer count of 2^e, for any e at or below its own exponent. -/
def scaled (neg : Bool) (mant : Nat) (exp e : Int) : Int :=
  let n := (mant : Int) * 2 ^ (exp - e).toNat
  if neg then -n else n

/-- An integer count of 2^e as an exact result; `zneg` is the sign of an exact zero. -/
def ofScaled (n : Int) (e : Int) (zneg : Bool) : Exact :=
  .fin (if n = 0 then zneg else decide (n < 0)) n.natAbs e false

/-- The exact sum (R91: the sign of an exact zero is IEEE 754's for the mode). -/
def addE (m : Rnd) (a b : Val) : Exact :=
  match a, b with
  | .nan, _ => .nan
  | _, .nan => .nan
  | .inf x, .inf y => if x = y then .inf x else .nan
  | .inf x, _ => .inf x
  | _, .inf y => .inf y
  | .fin n1 m1 e1, .fin n2 m2 e2 =>
    let e := min e1 e2
    let z := if m1 = 0 ∧ m2 = 0 ∧ n1 = n2 then n1 else decide (m = .rdn)
    ofScaled (scaled n1 m1 e1 e + scaled n2 m2 e2 e) e z

/-- The value with its sign inverted. -/
def Val.negate : Val → Val
  | .nan => .nan
  | .inf n => .inf (!n)
  | .fin n m e => .fin (!n) m e

/-- The exact product as a value. -/
def mulV (a b : Val) : Val :=
  match a, b with
  | .nan, _ => .nan
  | _, .nan => .nan
  | .inf x, .inf y => .inf (x != y)
  | .inf x, .fin n m _ => if m = 0 then .nan else .inf (x != n)
  | .fin n m _, .inf y => if m = 0 then .nan else .inf (n != y)
  | .fin n1 m1 e1, .fin n2 m2 e2 => .fin (n1 != n2) (m1 * m2) (e1 + e2)

/-- A rational n / d × 2^exp with at least 72 significant bits and a sticky bit. -/
def ratio (neg : Bool) (n d : Nat) (exp : Int) : Exact :=
  let k := 72 + bitLen d
  .fin neg (n * 2 ^ k / d) (exp - k) (n * 2 ^ k % d ≠ 0)

/-- The exact quotient (R127). -/
def divE (a b : Val) : Exact :=
  match a, b with
  | .nan, _ => .nan
  | _, .nan => .nan
  | .inf _, .inf _ => .nan
  | .inf x, .fin n _ _ => .inf (x != n)
  | .fin n _ _, .inf y => .fin (n != y) 0 0 false
  | .fin n1 m1 e1, .fin n2 m2 e2 =>
    if m2 = 0 then (if m1 = 0 then .nan else .inf (n1 != n2))
    else if m1 = 0 then .fin (n1 != n2) 0 0 false
    else ratio (n1 != n2) m1 m2 (e1 - e2)

/-- Integer square root, one bit of the answer per step from bit `k - 1` down. -/
def isqrtFrom (n : Nat) : Nat → Nat → Nat
  | 0, r => r
  | k + 1, r =>
    let c := r + 2 ^ k
    isqrtFrom n k (if c * c ≤ n then c else r)

/-- Integer square root. -/
def isqrt (n : Nat) : Nat := isqrtFrom n (bitLen n / 2 + 1) 0

/-- The exact square root of a positive finite value, with a sticky bit. -/
def sqrtPos (mant : Nat) (exp : Int) : Exact :=
  let k : Nat := 160 + (if exp % 2 = 0 then 0 else 1)
  let n := mant * 2 ^ k
  let r := isqrt n
  .fin false r ((exp - k) / 2) (r * r ≠ n)

/-- The exact reciprocal square root of a positive finite value, with a sticky bit. -/
def rsqrtPos (mant : Nat) (exp : Int) : Exact :=
  -- 1 / sqrt(mant × 2^exp) = sqrt(2^(2k) / mant) × 2^(-k - exp / 2), exp made even
  let odd : Nat := if exp % 2 = 0 then 0 else 1
  let m' := mant * 2 ^ odd
  let e' := exp - odd
  let k := 80 + bitLen m'
  let q := 2 ^ (2 * k) / m'
  let r := isqrt q
  .fin false r (-(k : Int) - e' / 2) (r * r * m' ≠ 2 ^ (2 * k))

/-- −1, 0 or 1 as a is less than, equal to or greater than b; none where either is NaN (R125: −0 = +0). -/
def cmpV (a b : Val) : Option Int :=
  match a, b with
  | .nan, _ => none
  | _, .nan => none
  | .inf x, .inf y => some (if x = y then 0 else if x then -1 else 1)
  | .inf x, _ => some (if x then -1 else 1)
  | _, .inf y => some (if y then 1 else -1)
  | .fin n1 m1 e1, .fin n2 m2 e2 =>
    let e := min e1 e2
    let x := scaled n1 m1 e1 e
    let y := scaled n2 m2 e2 e
    some (if x < y then -1 else if x = y then 0 else 1)

end Sys2Proof.Machine
end

