-- ==== Sys2Proof/Machine/Mem.lean ====
section
/-! DEFINITION. Memory: translation (R188 to R196, R319, R320), the homes and the writes they perform (R355 to R364, R385), the
load-store path with its store queues (R193, R197, R224), commit buffers (R297) and skim space (R204, R205). -/

namespace Sys2Proof.Machine

open Sys2Proof

/-- The list without repeats, first occurrences kept last. -/
def nub : List Nat → List Nat
  | [] => []
  | x :: r => if r.contains x then nub r else x :: nub r

/-! Translation. -/

/-- An entry translates an address of a context. -/
def TlbEntry.covers (e : TlbEntry) (ctx va : Nat) : Bool := e.ctx == ctx && decide (e.va ≤ va) && decide (va < e.va + e.size)

/-- The translation that a TLB holds for an address of a context. -/
def tlbFind (t : List TlbEntry) (ctx va : Nat) : Option TlbEntry := t.find? fun e => e.covers ctx va

/-- A TLB that gives up what it holds for an address of a context. -/
def tlbForget (t : List TlbEntry) (ctx va : Nat) : List TlbEntry := t.filter fun e => !e.covers ctx va

/-- The core TLB of one kind of access (R195). -/
def Core.tlb (c : Core) (code : Bool) : List TlbEntry := if code then c.ctlb else c.dtlb

/-- The walk that a core has in flight for the page of an address: a hint has begun it (R347). -/
def State.walkInFlight (s : State) (core ctx va : Nat) : Option Fill := (s.coreAt core).fills.find? fun f => s.walksPage f ctx va

/-- What the walk for an address of a core gives: that of the one in flight for its page, a leaf or none, which the access waits for (R347); else of
a walk of its own. -/
def State.walkFor (s : State) (core ctx va : Nat) : Option TlbEntry :=
  match s.walkInFlight core ctx va with
  | some f => s.walkFrom f.root f.ctx f.va
  | none => s.walk ctx va

/-- No TLB that a core looks in holds the address: a walk translates it (R195). -/
def State.tlbMiss (s : State) (core ctx : Nat) (code : Bool) (va : Nat) : Bool :=
  decide (va < 2 ^ 52) && (tlbFind ((s.coreAt core).tlb code) ctx va).isNone && (tlbFind (s.sector (sectorOf core)).tlb ctx va).isNone

/-- The translation of an address for a core and context: core TLB, sector TLB, then a walk; none for an address outside the
virtual space (R188, R195). -/
def State.translateAt (s : State) (core ctx : Nat) (code : Bool) (va : Nat) : Option TlbEntry :=
  if 2 ^ 52 ≤ va then none
  else
    match tlbFind ((s.coreAt core).tlb code) ctx va with
    | some e => some e
    | none =>
      match tlbFind (s.sector (sectorOf core)).tlb ctx va with
      | some e => some e
      | none => s.walkFor core ctx va

/-- The translation of an address for the wave that acts. -/
def State.translate (s : State) (code : Bool) (va : Nat) : Option TlbEntry := s.translateAt s.w.core s.w.ctx code va

/-- A TLB with an entry added, of at most `n` entries (log entry 8). -/
def tlbAdd (t : List TlbEntry) (n : Nat) (e : TlbEntry) : List TlbEntry :=
  if t.contains e then t else (e :: t).take n

/-- A sector remembers a translation that it has given (R215). -/
def State.seeAt (s : State) (sector : Nat) (e : TlbEntry) : State :=
  s.modSector sector fun x => { x with seen := if x.seen.contains e then x.seen else e :: x.seen }

/-- The TLBs after an access that used this translation (R195). -/
def State.fillTlbAt (s : State) (core : Nat) (code : Bool) (e : TlbEntry) : State :=
  let s := s.modCoreAt core fun c =>
    if code then { c with ctlb := tlbAdd c.ctlb 32 e } else { c with dtlb := tlbAdd c.dtlb 128 e }
  (s.modSector (sectorOf core) fun x => { x with tlb := tlbAdd x.tlb 8192 e }).seeAt (sectorOf core) e

/-- The host's address for a bus address of a PASID, as Address Translation Services gives it (R16, R189; log entry 6). There always is
one (DESIGN CHOICE, log entry 83). -/
def atsAddr (pasid a : Nat) : Nat := Config.atsPage pasid (a / 4096) * 4096 + a % 4096

/-- The place of an address within the page that holds it. -/
def TlbEntry.at (e : TlbEntry) (va : Nat) : Loc :=
  let a := e.loc.addr + (va - e.va)
  { e.loc with addr := if e.loc.kind = .host then atsAddr e.loc.home a else a }

/-- The kinds of access that permission is judged for (R320). -/
inductive Acc where
  | load | store | atomic | fetch
  deriving DecidableEq, Repr

/-- R320: the leaf permits the access from this view. -/
def TlbEntry.permits (e : TlbEntry) (a : Acc) (sys : Bool) : Bool :=
  (sys || !e.s) &&
    match a with
    | .load => e.r
    | .store => e.w
    | .atomic => e.r && e.w
    | .fetch => e.x

/-! Homes (R192, R355 to R364). -/

/-- The channel that homes a place of a device page (R192). -/
def Loc.channel (l : Loc) : Nat :=
  let k := l.addr / 4096
  if l.stripe = 0 then l.home else if l.stripe = 1 then 48 * l.home + k % 48
  else if l.stripe = 2 then 144 * l.home + k % 144 else k % 576

/-- The home slice of a place of a device page (R192). -/
def Loc.slice (l : Loc) : Nat := l.channel / 4

/-- A write at its home holds every later request for the line (R358). -/
def State.lineHeld (s : State) (line : Nat) : Bool := s.homeReqs.any fun r => r.started && r.line == line

/-- Bytes that a request names. -/
def busBytes (op : BusOp) : Nat :=
  match op with
  | .read n => n
  | .write bs => bs.length
  | .fetchAdd wide _ => if wide then 8 else 4
  | .cas wide _ _ => if wide then 8 else 4
  | .swap wide _ => if wide then 8 else 4

/-- The AtomicOp is on the line; a read holds nothing. -/
def UnitReq.on (r : UnitReq) (line : Nat) : Bool :=
  match r.op with
  | .read _ => false
  | op => decide (r.addr / 512 ≤ line) && decide (line ≤ (r.addr + busBytes op - 1) / 512)

/-- The units of flows (R349): slices and sector controllers; cluster ports stand under their own numbers. -/
def sliceUnit (n : Nat) : Nat := 144 + n

/-- A sector controller as a unit. -/
def sectorUnit (n : Nat) : Nat := 288 + n

/-- A peer port as a unit. -/
def peerPort (n : Nat) : Nat := 300 + n

/-- A host port as a unit: what the device asks of the host leaves by port 0 (log entry 23). -/
def hostPort (n : Nat) : Nat := 312 + n

/-- The number of a class. -/
def MsgClass.code : MsgClass → Nat
  | .req => 0
  | .inv => 1
  | .ack => 2
  | .rsp => 3
  | .evt => 4

/-- The key of a pair of units and a class. -/
def flowKey (cls : MsgClass) (src dst : Nat) : Nat := (cls.code * 512 + src) * 512 + dst

/-- The crossbar ingress at which a unit's packets are injected (R354): its own port, and for a host or peer port that of the sector controller
which its link joins (R351). -/
def ingressOf (src : Nat) : Nat :=
  if src < 300 then src else if src < 312 then sectorUnit (src - 300) else if src = 312 then sectorUnit 0 else sectorUnit 9

/-- The send allowances that firmware has set for an ingress and a destination: two at least (R354), and below 2^15 packets outstanding (R350). -/
def State.fullAllow (s : State) (cls : MsgClass) (src dst : Nat) : Nat :=
  min (2 ^ 15 - 1) (look 0 s.allowances (flowKey cls (ingressOf src) dst) + 2)

/-- A flow (R350): one with nothing under way where none has been used. -/
def State.flow (s : State) (cls : MsgClass) (src dst : Nat) : Flow :=
  (s.flows.find? fun f => f.cls == cls && f.src == src && f.dst == dst).getD { cls := cls, src := src, dst := dst }

/-- Packets of a flow are injected at an ingress under the allowances of a class and a destination (R354). -/
def Flow.shares (f : Flow) (cls : MsgClass) (src dst : Nat) : Bool := f.cls == cls && ingressOf f.src == ingressOf src && f.dst == dst

/-- The send allowances that an ingress holds for a class and a destination: those set, less one for each packet that is under way (R354). -/
def State.allow (s : State) (cls : MsgClass) (src dst : Nat) : Nat :=
  s.fullAllow cls src dst - ((s.flows.filter (·.shares cls src dst)).map (·.packets.length)).sum

/-- Replace a flow. -/
def State.setFlow (s : State) (f : Flow) : State :=
  let same (g : Flow) : Bool := g.cls == f.cls && g.src == f.src && g.dst == f.dst
  { s with flows := if s.flows.any same then s.flows.map (fun g => if same g then f else g) else s.flows ++ [f] }

/-- Inject a packet: it takes the next sequence number, and with it one allowance of its ingress (R350, R354). -/
def Flow.inject (f : Flow) (p : Packet) : Flow := { f with sendSeq := f.sendSeq + 1, packets := f.packets ++ [(f.sendSeq, p)] }

/-- Send a packet: it waits at its ingress behind the earlier ones of its flow while no allowance is held (R354). -/
def State.send (s : State) (cls : MsgClass) (src dst : Nat) (p : Packet) : State :=
  let f := s.flow cls src dst
  s.setFlow (if f.waiting.isEmpty && s.allow cls src dst != 0 then f.inject p else { f with waiting := f.waiting ++ [p] })

/-- The first packet that waits in a flow is injected. -/
def Flow.release (f : Flow) : Flow :=
  match f.waiting with
  | q :: r => { f with waiting := r }.inject q
  | [] => f

/-- The packet of a flow that is due at the destination, and the state once it has been delivered: its allowance returns, and a packet that waits for
one is injected (R350, R354): of the flow itself, else of the first other flow under the same allowances (DESIGN CHOICE, log entry 23). -/
def State.deliverFrom (s : State) (f : Flow) : Option (Packet × State) :=
  (f.packets.find? fun p => p.1 == f.dlvSeq).map fun p =>
    let g := { f with dlvSeq := f.dlvSeq + 1, packets := f.packets.filter fun x => x.1 != f.dlvSeq }
    let t := s.setFlow g
    (p.2, match (g :: t.flows.filter (·.shares f.cls f.src f.dst)).find? fun h => !h.waiting.isEmpty with
      | some h => t.setFlow h.release
      | none => t)

/-- A packet of the flow can be injected and delivered in one step: nothing of it is under way or waits before it, and its ingress holds an
allowance (R350, R354). -/
def State.isOpen (s : State) (cls : MsgClass) (src dst : Nat) : Bool :=
  (s.flow cls src dst).packets.isEmpty && (s.flow cls src dst).waiting.isEmpty && s.allow cls src dst != 0

/-- A packet that is injected and delivered in one step: it takes the next sequence number, and its allowance returns at once (R350, R354;
log entry 23). -/
def Flow.pass (f : Flow) : Flow := { f with sendSeq := f.sendSeq + 1, dlvSeq := f.dlvSeq + 1 }

/-- A packet of a class passes from one unit to another in one step. Where its flow is not open it waits at its ingress, and the step that sends it
does not happen yet: the turn that takes it finds the mark (`orWait`). -/
def State.pass (s : State) (cls : MsgClass) (src dst : Nat) : State :=
  if s.isOpen cls src dst then s.setFlow (s.flow cls src dst).pass else { s with jam := true }

/-- A read or an atomic and its response pass in one step (R349, Table 1). -/
def State.trip (s : State) (src dst : Nat) : State := (s.pass .req src dst).pass .rsp dst src

/-- They can. -/
def State.tripOpen (s : State) (src dst : Nat) : Bool := s.isOpen .req src dst && s.isOpen .rsp dst src

/-- A write and its acknowledgement pass in one step (R349, Table 1). -/
def State.writeTrip (s : State) (src dst : Nat) : State := (s.pass .req src dst).pass .ack dst src

/-- One of the two: `write` says which. -/
def State.exchange (s : State) (write : Bool) (src dst : Nat) : State := if write then s.writeTrip src dst else s.trip src dst

/-- A write to a line on which queues' write indexes stand is told to the queue units that watch it (R267, R349): their notifications pass. -/
def State.notifyQueues (s : State) (line : Nat) : State :=
  s.sectors.foldl (fun t e =>
    (e.2.queues.filter fun q => q.pa / 512 == line).foldl (fun t q => t.pass .evt (sliceUnit q.slice) (sectorUnit e.1)) t) s

/-- A read or an atomic of a core reaches a slice in the step that issues it: its cluster port injects, which it does not while the cluster is
reset (R372), and its flow and that of the response are open (R350, R354; log entry 23). -/
def State.reqOpen (s : State) (core slice : Nat) : Bool := !(s.coreAt core).inReset && s.tripOpen (clusterOf core) (sliceUnit slice)

/-- A core's own slice holds a guest copy or a replica of the line (R356, R357). -/
def State.guest (s : State) (core line : Nat) : Bool := s.copies.contains (clusterOf core, line)

/-- A miss of a core is served by its own slice's copy: of a line homed on another die only on a read-mostly page (R356, R357). -/
def State.served (s : State) (core : Nat) (l : Loc) : Bool :=
  s.guest core (l.addr / 512) && (l.slice / 36 == clusterOf core / 36 || l.rm)

/-- A miss of a core can be served now: by its own slice's copy, or by a home that holds no earlier write of the line (R356, R358). -/
def State.missOpen (s : State) (core : Nat) (l : Loc) : Bool :=
  if s.served core l then s.reqOpen core (clusterOf core)
  else !s.lineHeld (l.addr / 512) && s.reqOpen core l.slice

/-- A miss of a core passes to its own slice's copy, or to the home, and the line comes back (R356). -/
def State.missTrip (s : State) (core : Nat) (l : Loc) : State :=
  s.trip (clusterOf core) (sliceUnit (if s.served core l then clusterOf core else l.slice))

/-- The sectors whose bit is set in a copy vector (R355). -/
def vecSectors (v : BitVec 12) : List Nat := (List.range 12).filter v.getLsbD

/-- A write or an operation of the atomic unit on the line can be performed at once: no request for the line that has arrived before waits at
its home (R358, R363), no install of it is outstanding (R359), and the invalidations of its round and their acknowledgements can pass (R350,
R354). -/
def State.lineFree (s : State) (line : Nat) : Bool :=
  !s.homeReqs.any (fun r => r.line == line) && !s.unitReqs.any (fun r => r.on line)
    && !s.installs.any (fun i => i.line == line)
    && (vecSectors (look 0 s.vec line)).all fun x =>
      s.isOpen .inv (sliceUnit (look 0 s.vecHome line)) (sectorUnit x) && s.isOpen .ack (sectorUnit x) (sliceUnit (look 0 s.vecHome line))

/-- An operation of the atomic unit that a core sends to a home can be performed now (R363). -/
def State.atomOpen (s : State) (core : Nat) (l : Loc) : Bool := s.lineFree (l.addr / 512) && s.reqOpen core l.slice

/-- A unit's access to a device or a host place passes to its home, or to the host, and is answered; a peer's is asked by `State.peerFrom`. -/
def State.exchangeAt (s : State) (write : Bool) (unit : Nat) (l : Loc) : State :=
  match l.kind with
  | .device => s.exchange write unit (sliceUnit l.slice)
  | .host => s.exchange write unit (hostPort 0)
  | .peer => s

/-- A read or an operation of a core passes to its home, or to the host, and its result comes back. -/
def State.atomTrip (s : State) (core : Nat) (l : Loc) : State := s.exchangeAt false (clusterOf core) l

/-- A whole write of a core passes to its home, or to the host, and is acknowledged. -/
def State.storeTrip (s : State) (core : Nat) (l : Loc) : State := s.exchangeAt true (clusterOf core) l

/-- The bytes that an I-cache holds of a line. -/
def Core.codeLine (c : Core) (k : Nat) : Option Memory := (c.icache.find? fun e => e.1 == k).map (·.2)

/-- The home slice of a line of the page tables, which no page names: that of the device stripe class (R192, R319; log entry 76). -/
def tableSlice (line : Nat) : Nat := ({ kind := .device, addr := 512 * line, stripe := 3, home := 0, rm := false } : Loc).slice

/-- A walker of a sector reads the entries of a walk at their homes (R195, R319, R349). -/
def State.walkTrips (s : State) (sector : Nat) (root : DWord) (va : Nat) : State :=
  if !root.getLsbD 0 then s
  else
    (walkLines s.mem va levels (nbits root.toNat 23 25 * 2 ^ 23)).foldl (fun s line => s.trip (sectorUnit sector) (sliceUnit (tableSlice line))) s

/-- The I-cache or the lane code cache holds what the fill would bring, or an earlier fill in flight brings it (R347). -/
def Core.fillHeld (c : Core) (earlier : List Fill) (g : Fill) : Bool :=
  match g.loc with
  | none => false
  | some l =>
    earlier.any (fun x => x.kind == g.kind && (x.loc.map (·.addr)) == some l.addr)
      || (if g.kind = 0 then (c.codeLine (l.addr / 128)).isSome else c.lcc.any fun b => b.addr == l.addr && b.verified)

/-- The fills of a core once some have their places: one that has become another name of an earlier one is dropped (R347). -/
def Core.joinFills (c : Core) (fs : List Fill) : Core :=
  { c with fills := fs.foldl (fun acc g => if c.fillHeld acc g then acc else acc ++ [g]) [] }

/-- The walk of a fill ends, from the root with which it began (R309), and every fill that waited for it has its place or is dropped; two that
have come to one place are one (R340, R347). A walk that finds no leaf fills no TLB. -/
def State.endWalk (s : State) (core : Nat) (f : Fill) : State :=
  let same (g : Fill) : Bool := g == f || (g.root == f.root && s.walksPage g f.ctx f.va)
  let t := s.walkTrips (sectorOf core) f.root f.va
  match s.walkFrom f.root f.ctx f.va with
  | none => t.modCoreAt core fun c => { c with fills := c.fills.filter fun g => !same g }
  | some e =>
    (t.fillTlbAt core true e).modCoreAt core fun c =>
      c.joinFills (c.fills.filterMap fun g =>
        if same g then
          if e.permits .fetch g.sys ∧ e.loc.kind = .device then some { g with loc := some (e.at g.va) } else none
        else some g)

/-- The TLBs after the wave that acts has used an address: a walk has read its entries, and one that a hint had begun for the page has ended (R195,
R347). -/
def State.touchTlb (s : State) (code : Bool) (va : Nat) : State :=
  let walked : State :=
    if s.tlbMiss s.w.core s.w.ctx code va then
      match s.walkInFlight s.w.core s.w.ctx va with
      | some f => s.endWalk s.w.core f
      | none => s.walkTrips (sectorOf s.w.core) s.row.root va
    else s
  match s.translate code va with
  | some e => walked.fillTlbAt s.w.core code e
  | none => walked

/-- A walk for an address of a context has to read a line that a write at its home holds (R319, R358). -/
def State.walkHeld (s : State) (root : DWord) (va : Nat) : Bool :=
  !s.homeReqs.isEmpty && root.getLsbD 0 && (walkLines s.mem va levels (nbits root.toNat 23 25 * 2 ^ 23)).any s.lineHeld

/-- The translation of an address for a core and context has to wait: its walk, which may be one that a hint has begun (R347), meets a line that
a write at its home holds (R358). -/
def State.translateWaits (s : State) (core ctx : Nat) (code : Bool) (va : Nat) : Bool :=
  s.tlbMiss core ctx code va && match s.walkInFlight core ctx va with
    | some f => s.walkHeld f.root f.va
    | none => s.walkHeld (s.rowAt ctx).root va

/-- The place of a data access, or its fault (R188, R196, R320). -/
def State.access (s : State) (a : Acc) (va : DWord) : Res Loc :=
  if s.translateWaits s.w.core s.w.ctx false va.toNat then .error .wait
  else
    match s.translate false va.toNat with
    | none => trap (if a = .load then .loadFault else .storeFault) va
    | some e => if e.permits a s.w.sys then .ok (e.at va.toNat) else trap .perm va

/-- The line's copy vector at its home slice with the bit of a sector set (R355). -/
def State.setVec (s : State) (home line sector : Nat) : State :=
  { s with vec := put 0 s.vec line (look 0 s.vec line ||| BitVec.ofNat 12 (2 ^ sector)), vecHome := put 0 s.vecHome line home }

/-- A miss of a core for a line homed in another sector: the home sends it as a guest copy, or as a replica where it lies on another
die and is read-mostly (R355 to R357). -/
def State.sendCopy (s : State) (core : Nat) (l : Loc) : State :=
  let line := l.addr / 512
  let slice := clusterOf core
  let near := l.slice / 36 == slice / 36
  if l.kind ≠ .device ∨ l.slice / 12 = sectorOf core ∨ s.guest core line ∨ s.installs.any (fun i => i.line == line && i.slice == slice) then s
  else if near ∨ l.rm then
    let i : Install := { line := line, slice := slice, home := l.slice, replica := !near, installed := false }
    let s := { s with installs := s.installs ++ [i] }
    (s.send .rsp (sliceUnit l.slice) (sliceUnit slice) (.install line)).setVec l.slice line (sectorOf core)
  else s

/-- A free number below n (log entry 5). -/
def State.pick (s : State) (n : Nat) : Nat × State := ((Config.openValue s.free).toNat % n, { s with free := s.free + 1 })

/-- The L2 set of a line in its slice, one of 1,024 of 16 ways: 8 MiB (R10, R212; log entry 11). -/
def l2Set (line : Nat) : Nat := Config.l2Set line % 1024

/-! L1 (R14, R193). -/

/-- Sets of a core's L1 for its carve-out option: 128, 256, 512 or 768 KiB of 128-byte lines in 8 ways (R14, R193). -/
def l1Sets (o : Nat) : Nat := if o = 0 then 128 else if o = 1 then 256 else if o = 2 then 512 else 768

/-- The L1 set of a line (log entry 11). -/
def Core.l1Set (c : Core) (k : Nat) : Nat := Config.l1Set c.option k % l1Sets c.option

/-- The lines of both paths that share the ways of a line's set (R193): true for one of the read-only path. -/
def Core.l1Ways (c : Core) (k : Nat) : List (Bool × Nat) :=
  let same (x : Nat) : Bool := c.l1Set x == c.l1Set k
  (c.ro.filter same).map (fun x => (true, x)) ++ ((c.l1.map (·.1)).filter same).map fun x => (false, x)

/-- Room for one more line in the set of a line: where its 8 ways are taken, one of them goes, by a free choice (R193, log entry 8). -/
def State.l1Room (s : State) (core k : Nat) : State :=
  let c := s.coreAt core
  if c.l1.length + c.ro.length < 8 then s
  else
    let ws := c.l1Ways k
    if ws.length < 8 then s
    else
      let (i, t) := s.pick ws.length
      match ws[i]? with
      | some (true, x) => t.modCoreAt core fun c => { c with ro := c.ro.filter fun y => y != x }
      | some (false, x) => t.modCoreAt core fun c => { c with l1 := drop c.l1 x }
      | none => t

/-- Every line of the cells is free. -/
def State.cellsFree (s : State) (cells : List Host.Cell) : Bool := (nub (cells.map (·.1 / 512))).all s.lineFree

/-- One whole round of invalidations of a line (R358 steps 2 and 3): they pass to the sectors of its copy vector, which drop their guest copies,
replicas and read-only-path L1 copies and acknowledge, and the vector clears (R355, R385). -/
def State.invalidate (s : State) (line : Nat) : State :=
  let drop1 (c : Core) : Core :=
    { c with ro := c.ro.filter (fun k => k / 4 != line)
             probes := c.probes.map fun p => if p.1.addr / 512 = line then (p.1, true, p.2.2) else p }
  let home := sliceUnit (look 0 s.vecHome line)
  let s := (vecSectors (look 0 s.vec line)).foldl (fun s x => (s.pass .inv home (sectorUnit x)).pass .ack (sectorUnit x) home) s
  let s := (s.cores.map (·.1)).foldl (fun s n => s.modCoreAt n drop1) s
  { s with copies := s.copies.filter (fun c => c.2 != line), vec := put 0 s.vec line 0, vecHome := put 0 s.vecHome line 0 }

/-- All 128 bytes of a sector are among the cells. -/
def wholeSector (cells : List Host.Cell) (k : Nat) : Bool :=
  (List.range 128).all fun i => cells.any fun c => c.1 == 128 * k + i

/-- The bytes, stamps, dirty sectors and poison after a home performs one write (R193, R203, R364). -/
def State.perform (s : State) (cells : List Host.Cell) : State :=
  let lines := nub (cells.map (·.1 / 512))
  let secs := nub (cells.map (·.1 / 128))
  { s with
    mem := writeCells s.mem cells
    stamps := lines.foldl (fun m l => put 0 m l (look 0 m l + 1)) s.stamps
    dirty := secs.foldl (fun d k => if (look? d k).isSome then d else insertKey d k (region s.mem (128 * k) 128)) s.dirty
    poison := s.poison.filter fun k => !wholeSector cells k
    -- the queue units that watch one of the lines are told (R267)
    sectors := s.sectors.map fun (n, x) =>
      (n, { x with queues := x.queues.map fun q => if lines.contains (q.pa / 512) then { q with notified := true } else q }) }

/-- One whole write of the steps of R358, made at once. -/
def State.writeHome (s : State) (cells : List Host.Cell) : State :=
  ((nub (cells.map (·.1 / 512))).foldl (fun s line => (s.invalidate line).notifyQueues line) s).perform cells

/-- A core discards its load-store-path L1 copies of the lines of the cells (R385). -/
def State.dropL1 (s : State) (core : Nat) (cells : List Host.Cell) : State :=
  let lines := nub (cells.map (·.1 / 512))
  s.modCoreAt core fun c => { c with l1 := c.l1.filter fun e => !lines.contains (e.1 / 4) }

/-- The load-store-path L1 copies of some lines leave some cores (R385). -/
def State.dropLines (s : State) (cores lines : List Nat) : State :=
  cores.foldl (fun s c => s.modCoreAt c fun k => { k with l1 := k.l1.filter fun e => !lines.contains (e.1 / 4) }) s

/-- A write at the homes that is no plain store, issued by core `core` (R385). -/
def State.writeFrom (s : State) (core : Nat) (cells : List Host.Cell) : State := (s.writeHome cells).dropL1 core cells

/-! The load-store path (R193, R197, R224). -/

/-- Two places lie in one space: device, host, or one peer. -/
def Loc.sameSpace (a b : Loc) : Bool := a.kind == b.kind && (a.kind != .peer || a.home == b.home)

/-- The youngest byte that a list of stores, oldest first, holds for an address of a space. -/
def youngest (es : List StoreEntry) (l : Loc) (a : Nat) : Option Byte :=
  es.foldl (fun acc e =>
    if e.loc.sameSpace l then
      match e.cells.find? (fun c => c.1 == a) with
      | some c => some c.2
      | none => acc
    else acc) none

/-- The youngest byte that a commit buffer holds (R232, R297). -/
def bufByte (b : List BufItem) (l : Loc) (a : Nat) : Option Byte :=
  b.foldl (fun acc e =>
    match e with
    | .bytes l' cells =>
      if l'.sameSpace l then
        match cells.find? (fun c => c.1 == a) with
        | some c => some c.2
        | none => acc
      else acc
    | _ => acc) none

/-- The byte that a wave's own queue and buffer, or its core's stores under way, forward (R197, R224, R232). -/
def State.forwarded (s : State) (l : Loc) (a : Nat) : Option Byte :=
  match bufByte s.w.buf l a with
  | some b => some b
  | none =>
    match youngest s.w.stq l a with
    | some b => some b
    | none => youngest s.core.inflight l a

/-- A byte as the path below the store queue gives it: the core's L1 line where it is held, else the home; host memory for a host
page. -/
def State.pathByte (s : State) (l : Loc) (a : Nat) : Byte :=
  match l.kind with
  | .device =>
    match look? s.core.l1 (a / 128) with
    | some m => readByte m a
    | none => readByte s.mem a
  | _ => readByte s.hostMem a

/-- One byte of a load on the load-store path. -/
def State.lsByte (s : State) (l : Loc) (a : Nat) : Byte := (s.forwarded l a).getD (s.pathByte l a)

/-- The little-endian value of `n` bytes on the load-store path. -/
def State.lsLe (s : State) (l : Loc) : Nat → Nat → Nat
  | _, 0 => 0
  | a, n + 1 => (s.lsByte l a).toNat + 256 * State.lsLe s l (a + 1) n

/-- Some byte of the access comes from the home: neither forwarded nor in L1. -/
def State.fromHome (s : State) (l : Loc) (n : Nat) : Bool :=
  l.kind == .device && (look? s.core.l1 (l.addr / 128)).isNone &&
    (List.range n).any fun i => (s.forwarded l (l.addr + i)).isNone

/-- Some byte of the access comes from host memory. -/
def State.fromHost (s : State) (l : Loc) (n : Nat) : Bool :=
  l.kind == .host && (List.range n).any fun i => (s.forwarded l (l.addr + i)).isNone

/-- The access receives poisoned data (R203). -/
def State.poisoned (s : State) (l : Loc) (n : Nat) : Bool := s.fromHome l n && s.poison.contains (l.addr / 128)

/-- L1 after a load that missed: the line with the core's own stores under way laid over it (R193). -/
def State.fillL1 (s : State) (l : Loc) : State :=
  if l.kind = .device ∧ (look? s.core.l1 (l.addr / 128)).isNone ∧ ¬ s.poison.contains (l.addr / 128) then
    let k := l.addr / 128
    let base := region s.mem (128 * k) 128
    let m := s.core.inflight.foldl (fun m e =>
      if e.loc.kind = .device then writeCells m (e.cells.filter fun c => c.1 / 128 == k) else m) base
    (((s.missTrip s.w.core l).l1Room s.w.core k).modCore fun c => { c with l1 := insertKey c.l1 k m }).sendCopy s.w.core l
  else s

/-! The read-only path (R202, R360 to R362, R385). -/

/-- The predictor's index: line-address bits 16..9 (R360). -/
def predIndex (u : Nat) : Nat := u / 4 % 256

/-- A read-only-path fill from a slice: the core takes the unit, its sector's bit is set, and the predictor learns which core of the
sector took the unit last (R355, R360). -/
def State.roTake (s : State) (core : Nat) (l : Loc) (u : Nat) : State :=
  let sec := sectorOf core
  let last := look 0 (s.sector sec).lastRo u
  let peer := sec * 48 + (last - 1)
  let s := s.missTrip core l
  let s := (if (s.coreAt core).ro.contains u then s else s.l1Room core u).modCoreAt core fun c =>
    { c with ro := if c.ro.contains u then c.ro else u :: c.ro
             pred := if last ≠ 0 ∧ peer ≠ core ∧ ¬ (s.coreAt peer).retired then put (0, 0) c.pred (predIndex u) (last - 1, 1)
                     else c.pred }
  ((s.modSector sec fun x => { x with lastRo := put 0 x.lastRo u (core % 48 + 1) }).setVec l.slice (u / 4) sec).sendCopy core l

/-- A probe for the unit has hit, and no invalidation has reached the core since it was sent: the line on its way is what the home holds, since a
write is performed only after the invalidation, and an access takes its value from it (R358, R362). -/
def State.joins (s : State) (u : Nat) : Bool := s.core.probes.any fun p => p.1.addr / 128 == u && !p.2.1 && p.2.2

/-- A probe for the unit has hit and an invalidation has reached the core: the line serves only the accesses that waited before (R362). -/
def State.passed (s : State) (u : Nat) : Bool := s.core.probes.any fun p => p.1.addr / 128 == u && p.2.1 && p.2.2

/-- A read-only-path access to a device place: a miss whose predictor entry is valid sends a probe first (R361). -/
def State.roTouch (s : State) (l : Loc) : State :=
  let u := l.addr / 128
  let (peer, conf) := look (0, 0) s.core.pred (predIndex u)
  if l.kind ≠ .device ∨ s.core.ro.contains u ∨ s.core.probes.any (fun p => p.1.addr / 128 == u) then s
  else if conf ≠ 0 ∧ peer ≠ s.w.core % 48 ∧ ¬ (s.coreAt (sectorOf s.w.core * 48 + peer)).retired then
    s.modCore fun c => { c with probes := c.probes ++ [(l, false, false)] }
  else s.roTake s.w.core l u

/-- Bytes of another device, with those that the wave's own queue or buffer holds in their places (R197, R224). -/
def State.overlay (s : State) (l : Loc) (bs : List Byte) : List Byte :=
  bs.zipIdx.map fun e => (s.forwarded l (l.addr + e.2)).getD e.1

/-- The route table gives a way to a pod device (R352): without one, a request to it never completes (R369). -/
def State.routed (s : State) (dev : Nat) : Bool := look 0 s.routes dev != 0

/-- The peer port that the route table gives for a device (R352, R383); port 0 where it gives none (log entry 12). -/
def State.portOf (s : State) (dev : Nat) : Nat := look 0 s.routes dev - 1

/-- A store to a pod device is discarded, with a record of the peer port (R369). -/
def State.dropStore (s : State) (dev addr : Nat) : State :=
  s.emit 4 (s.portOf dev) 0x000A [Config.deviceIndex.setWidth 64, dw addr]

/-- A request of a unit to a pod device passes to its port and is answered, or fails: its target refuses it or does not answer in time (R369),
which the model leaves free (log entry 6). -/
def State.peerFrom (s : State) (write : Bool) (unit dev : Nat) : Bool × State :=
  if s.routed dev then (s.exchange write unit (peerPort (s.portOf dev))).choose else (true, s)

/-- A read or an atomic of the core of the wave that acts. -/
def State.peerFails (s : State) (dev : Nat) : Bool × State := s.peerFrom false (clusterOf s.w.core) dev

/-- A write of that core. -/
def State.peerRefuses (s : State) (dev : Nat) : Bool × State := s.peerFrom true (clusterOf s.w.core) dev

/-- A load of `n` bytes at a translated place: its value and the state after it. -/
def State.load (s : State) (va : DWord) (l : Loc) (n : Nat) : Res (Nat × State) :=
  match l.kind with
  | .peer =>
    if (List.range n).all (fun i => (s.forwarded l (l.addr + i)).isSome) then .ok (s.lsLe l l.addr n, s.touchTlb false va.toNat)
    else
      let (err, s1) := s.peerFails l.home
      if err then trap .loadFault va
      else
        let (bs, s2) := s1.outside n
        .ok (bytesToNat (s.overlay l bs), s2.touchTlb false va.toNat)
  | _ =>
    if s.fromHome l n && !s.missOpen s.w.core l then .error .wait
    else if s.poisoned l n then trap .poison va
    else
      let t := s.touchTlb false va.toNat
      .ok (s.lsLe l l.addr n, if s.fromHome l n then t.fillL1 l else if s.fromHost l n then t.atomTrip s.w.core l else t)

/-- The store queue can take `k` more line entries (R197). -/
def Wave.stqRoom (w : Wave) (k : Nat) : Bool := decide (w.stq.length + k ≤ 64)

/-- A store enters the wave's store queue, one entry per L1 line it touches. -/
def State.enqueue (s : State) (l : Loc) (cells : List Host.Cell) : State :=
  { s with nextId := s.nextId + 1
           w := { s.w with stq := s.w.stq ++ [{ id := s.nextId, wave := s.wid, loc := l, cells := cells }] } }

/-- Commit-buffer entries in use: one per 128-byte sector, one per atomic or push; engine writes take none (R297). -/
def bufCharge (b : List BufItem) : Nat :=
  let secs := b.foldr (fun e acc =>
    match e with
    | .bytes l cells => cells.map (fun c => (l.kind, l.home * 2 ^ 48 + c.1 / 128)) ++ acc
    | _ => acc) []
  let others := b.countP fun
    | .bytes _ _ => false
    | .engine _ _ => false
    | .scatter _ _ => false
    | .acq _ => false
    | _ => true
  secs.eraseDups.length + others

/-- Add items to the commit buffer: the quantum ends before the instruction where they do not fit, and COMMIT_OVERFLOW is taken at
the start of a fresh quantum where they never can (R295, R297). -/
def State.bufferAt (s : State) (fresh : Bool) (items : List BufItem) : Res State :=
  let after := s.w.buf ++ items
  if bufCharge after ≤ 512 then .ok (s.modW fun w => { w with buf := after })
  else if fresh then trap .commitOverflow (dw (bufCharge items))
  else .error .commit

/-- Add the items of a scalar instruction. -/
def State.buffer (s : State) (items : List BufItem) : Res State := s.bufferAt (!s.w.qused) items

/-- Nothing of the current quantum stands before the lane word or command at the head of the queue in the wave's sequence (R294): no lane
word of the quantum has executed, and no scalar instruction of it stands before the head entry. -/
def State.laneFresh (s : State) : Bool :=
  !s.w.qlw && match s.w.lq with
    | .run r :: _ => r.qmark == 0
    | .cmd _ _ k _ :: _ => k == 0
    | [] => true

/-- Add the items of a lane word or command. -/
def State.laneBuffer (s : State) (items : List BufItem) : Res State := s.bufferAt s.laneFresh items

/-- A scalar store of `n` bytes at a translated place. -/
def State.store (s : State) (va : DWord) (l : Loc) (n v : Nat) : Res State :=
  let cells := leCells l.addr n v
  if s.repro then (s.buffer [.bytes l cells]).map fun t => t.touchTlb false va.toNat
  else if s.w.stqRoom 1 then .ok ((s.enqueue l cells).touchTlb false va.toNat)
  else .error .wait

/-- Every earlier store of the wave has been performed at its home. -/
def State.storesPerformed (s : State) : Bool := s.w.stq.isEmpty && !s.core.inflight.any fun e => e.wave == s.wid

/-- Every earlier store of the wave has been acknowledged (R211). -/
def State.storesAcked (s : State) : Bool := s.storesPerformed && !s.core.acks.any fun e => e.2 == s.wid

/-! Atomic operations (R206, R208, R363). -/

/-- The new value of an atomic of width `w` bits, or none where it writes nothing; operation codes of R57. -/
def atomNew (op w : Nat) (old v cmp : Nat) : Option Nat :=
  let m : Nat := 2 ^ w
  let sv (x : Nat) : Int := if x < 2 ^ (w - 1) then x else (x : Int) - m
  match op with
  | 0 => some ((old + v) % m)
  | 1 => some (Nat.land old v)
  | 2 => some (Nat.lor old v)
  | 3 => some (Nat.xor old v)
  | 4 => some (if sv old ≤ sv v then old else v)
  | 5 => some (if sv old ≤ sv v then v else old)
  | 6 => some (if old ≤ v then old else v)
  | 7 => some (if old ≤ v then v else old)
  | 8 => some v
  | _ => if old = cmp then some v else none

/-- An indivisible operation at the home of a device place: the old value and the state after it. `f` gives the new value, or none
where nothing is written. The core keeps no load-store-path copy of the line, which could be older than what the operation read (R235,
R385). -/
def State.atomHome (s : State) (core : Nat) (l : Loc) (n : Nat) (f : Nat → Option Nat) : Nat × State :=
  let old := readLe s.mem l.addr n
  let s := s.atomTrip core l
  match f old with
  | some v => (old, s.writeFrom core (leCells l.addr n v))
  | none => (old, s.dropL1 core [(l.addr, 0)])

/-- The same on host memory (R207: PCI Express AtomicOps). -/
def State.atomHost (s : State) (core : Nat) (l : Loc) (n : Nat) (f : Nat → Option Nat) : Nat × State :=
  let old := readLe s.hostMem l.addr n
  let s := s.atomTrip core l
  match f old with
  | some v => (old, { s with hostMem := writeCells s.hostMem (leCells l.addr n v) })
  | none => (old, s)

/-! Skim space (R204, R205). -/

/-- The skim window of the wave's context: base and limit (R308). -/
def State.skimWindow (s : State) : Nat × Nat := (bits s.row.skim 0 22, bits s.row.skim 32 23)

/-- The key of a skim offset of the wave's window on its core's bus. -/
def State.skimKey (s : State) (off : Nat) : Nat := busOf s.w.core * 2 ^ 22 + s.skimWindow.1 + off

/-- A skim byte through the core's skim line buffer (R187). -/
def State.skimByte (s : State) (k : Nat) : Byte :=
  match look? s.core.skimBuf (k / 128) with
  | some m => readByte m k
  | none => readByte s.skim k

/-- The line buffer after a read of a block: eight lines at most (R187; log entry 8). -/
def State.fillSkim (s : State) (k : Nat) : State :=
  if (look? s.core.skimBuf (k / 128)).isSome then s
  else
    let m := region s.skim (k / 128 * 128) 128
    s.modCore fun c =>
      let b := if 8 ≤ c.skimBuf.length then c.skimBuf.tail else c.skimBuf
      { c with skimBuf := insertKey (drop b (k / 128)) (k / 128) m }

/-- Writes to skim space: the banks, the core's own line buffer, and the errors of whole blocks written (R205). -/
def State.writeSkim (s : State) (cells : List Host.Cell) : State :=
  let s := { s with skim := writeCells s.skim cells, skimBad := s.skimBad.filter fun k => !wholeSector cells k }
  s.modCore fun c =>
    { c with skimBuf := c.skimBuf.map fun e => (e.1, writeCells e.2 (cells.filter fun x => x.1 / 128 == e.1)) }

/-! Code fetch (R336). -/

/-- A list, newest first, with an entry added and at most `ways` entries kept in each set (R336, R337, R342; log entry 8). -/
def addWay {α : Type} (set : α → Nat) (ways : Nat) (x : α) (l : List α) : List α :=
  let (same, other) := l.partition fun y => set y == set x
  x :: same.take (ways - 1) ++ other

/-- The I-cache with a line: 32 KiB in 4 ways of 64 sets, by address bits 12..7 (R336). -/
def Core.addCode (c : Core) (k : Nat) (m : Memory) : Core := { c with icache := addWay (fun e => e.1 % 64) 4 (k, m) c.icache }

/-- A scalar word's four bytes through the core's I-cache: the line held, else the home. -/
def State.codeByte (s : State) (a : Nat) : Byte :=
  match s.core.codeLine (a / 128) with
  | some m => readByte m a
  | none => readByte s.mem a

/-- The translation and the permission of a code fetch, none where it faults: no translation, no permission (R336), or a page of another
device, which R367 does not list for fetches (log entry 13). -/
def State.codePage (s : State) (va : Nat) : Option Loc :=
  (s.translate true va).bind fun e => if e.permits .fetch s.w.sys && e.loc.kind != .peer then some (e.at va) else none

/-- A fetched place would come from its home: the I-cache does not hold its line. -/
def State.codeMiss (s : State) (l : Loc) : Bool := l.kind == .device && (s.core.codeLine (l.addr / 128)).isNone

/-- The place of a code fetch, none where it faults, by a poisoned line too (R336). -/
def State.codeLoc (s : State) (va : Nat) : Option Loc :=
  (s.codePage va).bind fun l => if s.codeMiss l && s.poison.contains (l.addr / 128) then none else some l

/-- The fill of the unit at `va` is in flight for a hint, or follows the walk in flight that the fetch itself waits for: a demand fetch waits
for it and starts none of its own (R347). -/
def State.fillJoins (s : State) (kind va : Nat) : Bool :=
  match s.codePage va with
  | some l => s.core.fills.any fun f =>
      f.kind == kind && match f.loc with
        | some x => x.kind == l.kind && x.addr / 128 == l.addr / 128
        | none => s.tlbMiss s.w.core s.w.ctx true va && s.walksPage f s.w.ctx va && f.va / 128 == va / 128
  | none => false

/-- A code fetch waits: for its walk, for a fill in flight (R347), or for its line, which a write at its home holds (R358). -/
def State.codeWaits (s : State) (va : Nat) : Bool :=
  s.translateWaits s.w.core s.w.ctx true va
    || match s.codePage va with
      | some l => s.codeMiss l && (s.fillJoins 0 va || !s.missOpen s.w.core l)
      | none => false

/-- A byte of code at a place. -/
def State.codeAt (s : State) (l : Loc) (i : Nat) : Byte :=
  if l.kind = .device then s.codeByte (l.addr + i) else readByte s.hostMem (l.addr + i)

/-- The scalar word at a virtual address, none where its fetch faults. -/
def State.fetchWord (s : State) (va : DWord) : Option Word :=
  (s.codeLoc va.toNat).map fun l =>
    s.codeAt l 3 ++ s.codeAt l 2 ++ s.codeAt l 1 ++ s.codeAt l 0

/-- The code TLB and the I-cache after a fetch, which takes its line from its home or its word from the host (R336, R349). -/
def State.touchCode (s : State) (va : DWord) : State :=
  match s.codeLoc va.toNat with
  | none => s
  | some l =>
    let s := s.touchTlb true va.toNat
    if s.codeMiss l then
      (s.missTrip s.w.core l).modCore fun c => c.addCode (l.addr / 128) (region s.mem (l.addr / 128 * 128) 128)
    else if l.kind = .host then s.atomTrip s.w.core l
    else s

end Sys2Proof.Machine
end

