-- ==== Sys2Proof/Machine/Flags.lean ====
section
/-! DEFINITION. Flag computations of the lane grid: exception kinds, their counting and FPTRAP (R104, R105, R111), conditions of
compares (R125), and integer saturation (R122). -/

namespace Sys2Proof.Machine

open Sys2Proof

/-- The union of the kinds that some elements met. -/
def kindsUnion (ks : List (BitVec 4)) : BitVec 4 := ks.foldl (· ||| ·) 0

/-- R111: FPTRAP where an enabled kind occurred. -/
def fptrapCheck (en : BitVec 4) (ks : List (BitVec 4)) : Res Unit :=
  need (kindsUnion ks &&& en == 0) .fptrap ((kindsUnion ks &&& en).setWidth 64)

/-- Add the kinds of elements written in a format to the wave's counts on their way to the counter unit (R105, R106). -/
def Wave.addKinds (w : Wave) (fmt : Nat) (ks : List (BitVec 4)) : Wave :=
  let add (m : Sparse Nat) (k : Nat) : Sparse Nat :=
    let n := ks.countP fun x => x.getLsbD k
    put 0 m (cntKey w.cset fmt k) (look 0 m (cntKey w.cset fmt k) + n)
  { w with counts := (List.range 4).foldl add w.counts }

/-- The truth of a compare's condition; `o` is −1, 0 or 1, or none where an operand is NaN (R125, Table 3). -/
def condHolds (cc : Nat) (o : Option Int) : Bool :=
  match cc, o with
  | 0, o => o == some 0
  | 1, o => o != some 0
  | 2, o => o == some (-1)
  | 3, o => o == some (-1) || o == some 0
  | 4, o => o == some 1
  | 5, o => o == some 1 || o == some 0
  | 6, o => o.isNone
  | _, o => o.isSome

/-- The order of two integers. -/
def ordInt (a b : Int) : Int := if a < b then -1 else if a = b then 0 else 1

/-- A lane word's bits as an integer of the type (R122: signed for `.i32`). -/
def intOf (t : Nat) (x : Word) : Int := if t = 2 then (x.toNat : Int) else x.toInt

/-- An exact integer result in 32 bits: clamped to the type's range with `.sat`, wrapped without (R122). -/
def intResult (t : Nat) (sat : Bool) (x : Int) : Word :=
  let (lo, hi) := intRange t
  BitVec.ofInt 32 (if sat then max lo (min hi x) else x)

end Sys2Proof.Machine
end

