-- ==== Sys2Proof/Machine/Operands.lean ====
section
/-! DEFINITION. Operand forms of the lane grid: active lanes (R32), sources by kind (R30), queues (R258 to R260), destinations
(R29), register-range and hazard checks (R40, R119), the range scoreboard's waits (R239, R241, R261), and how a lane word ends. -/

namespace Sys2Proof.Machine

open Sys2Proof

/-! The run that the lane stream executes (R73, R337). -/

/-- The registers as a run captures them: by the index of a kind-10 field, none where zero (R73, R329). -/
def State.capture (s : State) : Sparse DWord :=
  (List.range 64).filterMap fun k =>
    let v := s.getS (BitVec.ofNat 6 k)
    if v = 0 then none else some (k, v)

/-- A run as `lexec` would enqueue it now, with an image. -/
def State.newRun (s : State) (target : DWord) (image : BitVec 1024) (bad : Option DWord) : Run :=
  { target := target, image := image, regs := s.capture, seed := s.w.rngseed, wrapOk := s.w.wrapOk, fptrap := s.w.fptrap
    bad := bad, started := false, slot := target.toNat % 16, traced := false
    qmark := s.w.qcount + 1 }

/-- The run that the lane stream executes: the one at the head of the queue. Where none stands there a word reads what a run
enqueued now would capture. -/
def State.run (s : State) : Run :=
  match s.w.lq with
  | .run r :: _ => r
  | _ => s.newRun 0 0 none

/-- The lane target of the slot that executes. -/
def State.laneTarget (s : State) : DWord := targetAt s.run.target s.run.slot

/-- The 96 bits of the slot that executes. -/
def State.laneBits (s : State) : BitVec 96 := Block.slot s.run.image s.run.slot

/-! Active lanes (R32, R37). -/

/-- The guard field's verdict on a lane: 0000 is no guard, bit 3 negates. -/
def guardOn (w : Wave) (g : BitVec 4) (lane : Nat) : Bool :=
  g == 0 || (w.mBit (g.toNat % 8) lane != decide (8 ≤ g.toNat))

/-- The lanes active for a guard, in ascending linear index. -/
def Wave.active (w : Wave) (g : BitVec 4) : List Nat :=
  (List.range w.lanes).filter fun L => w.mBit 0 L && guardOn w g L

/-! Granules of lane memory and the range scoreboard (R236 to R241, R261). -/

/-- Granules per scoreboard chunk of an entry (R238). -/
def SbEntry.k (e : SbEntry) : Nat := (e.n + 63) / 64

/-- The chunk that holds a granule of the entry. -/
def SbEntry.chunk (e : SbEntry) (g : Nat) : Nat := (g - e.first) / e.k

/-- The completion bitmap of an entry whose granules `left` are not done: a chunk in which nothing is to be done has landed (R238). -/
def SbEntry.withLeft (e : SbEntry) (left : List Nat) : SbEntry :=
  { e with bitmap := BitVec.ofNat 64 ((List.range 64).foldl (fun n i => if left.any (fun g => e.chunk g == i) then n else n + 2 ^ i) 0) }

/-- The entry's interval holds the granule. -/
def SbEntry.covers (e : SbEntry) (g : Nat) : Bool := decide (e.first ≤ g) && decide (g < e.first + e.n)

/-- The chunk that holds the granule has landed. -/
def SbEntry.landed (e : SbEntry) (g : Nat) : Bool := e.bitmap.getLsbD (e.chunk g)

/-- R239: a later access to the granule must wait on this entry. -/
def SbEntry.holds (e : SbEntry) (g : Nat) (write : Bool) : Bool :=
  e.covers g && (e.wr || write) &&
    if e.wr && (!e.rd || !write) then !e.landed g else true

/-- The granules that bytes `lo` to `lo + n - 1` of the window touch (R139, R236). -/
def granules (lo n : Nat) : List Nat :=
  if n = 0 then [] else (List.range ((lo + n - 1) / 16 + 1 - lo / 16)).map (lo / 16 + ·)

/-- The copy operation with a ticket. -/
def Wave.opOf (w : Wave) (ticket : Nat) : Option CopyOp := w.ops.find? fun o => o.cmd.ticket == ticket

/-- The sweep with a number. -/
def Wave.sweepOf (w : Wave) (id : Nat) : Option SweepOp := w.sweeps.find? fun x => x.id == id

/-- The granules of a sweep's footprints. -/
def SweepOp.granules (x : SweepOp) : List Nat := x.foot.flatMap fun (first, n) => (List.range n).map (first + ·)

/-- An entry was recorded before a sweep's own, and is not its copy's. -/
def SweepOp.after (x : SweepOp) (e : SbEntry) : Bool := x.prior.contains (e.kind, e.ref) && !(e.kind == 0 && x.bound == some e.ref)

/-- The ticket of the faulted copy that a sweep waits on as a whole: that of its bound copy, or of one that a granule of its footprints waits
for (R241, R249). `view` holds entries of the wave, each with its verdict. A sweep that has started waits on none. -/
def SweepOp.blockedOn (view : List (SbEntry × Option Nat)) (x : SweepOp) : Option Nat :=
  if x.started then none
  else
    match view.findSome? fun (e, v) => if e.kind = 0 ∧ x.bound = some e.ref then v else none with
    | some t => some t
    | none => view.findSome? fun (e, v) => if x.after e && x.granules.any (e.holds · false) then v else none

/-- The ticket of the faulted copy that a later access to a granule of an entry waits on: the entry's verdict, or, for a write into an entry of
kind 11, that of the sweep which the entry is completed by (R239, R241, R249). -/
def Wave.waitVerdict (w : Wave) (view : List (SbEntry × Option Nat)) (write : Bool) (e : SbEntry × Option Nat) : Option Nat :=
  match e.2 with
  | some t => some t
  | none =>
    if e.1.kind = 0 ∧ e.1.rd ∧ e.1.wr ∧ write then (w.sweeps.find? fun x => x.bound == some e.1.ref).bind (·.blockedOn view) else none

/-- The ticket of the faulted copy that an entry's operation is, or waits on through entries before it (R241); an entry of a sweep waits on what
the sweep waits on (R249). `before` holds the earlier entries of the wave, each with its verdict. -/
def SbEntry.blockedOn (w : Wave) (before : List (SbEntry × Option Nat)) (e : SbEntry) : Option Nat :=
  if e.kind = 0 ∧ ((w.opOf e.ref).bind (·.fault)).isSome then some e.ref
  else if e.kind = 1 then (w.sweepOf e.ref).bind (·.blockedOn before)
  else
    before.findSome? fun b =>
      if (List.range e.n).any (fun i => b.1.holds (e.first + i) e.wr && !e.landed (e.first + i)) then w.waitVerdict before e.wr b else none

/-- The wave's entries, oldest first, each with the ticket of the faulted copy it waits on. -/
def State.sbView (s : State) : List (SbEntry × Option Nat) :=
  (s.core.sb.filter fun e => e.owner == s.w.slot).foldl (fun acc e => acc ++ [(e, e.blockedOn s.w acc)]) []

/-- The ticket of the faulted copy that an operation is, or is blocked on (R241). -/
def State.opBlocked (s : State) (o : CopyOp) : Option Nat :=
  if o.fault.isSome then some o.cmd.ticket
  else s.sbView.findSome? fun (e, v) => if e.kind = 0 ∧ e.ref = o.cmd.ticket then v else none

/-- COPY_FAULT for a ticket (R241): address, `sys.cpf` and `sys.cpr`. The entry's index is its place in the core's list of entries in use
(DESIGN CHOICE, log entry 91). -/
def State.copyFault {α : Type} (s : State) (ticket : Nat) : Res α :=
  match (s.w.opOf ticket).bind (·.fault) with
  | some (reason, addr, _) =>
    let idx := (s.core.sb.findIdx? fun e => e.kind == 0 && e.ref == ticket && e.owner == s.w.slot).getD 0
    .error (.engine .copyFault addr (dw ticket) (dw (reason + idx * 16)))
  | none => .error .wait

/-- `ctl.fva` of a QUEUE trap (R261, Table 6). -/
def queueFva (n reason : Nat) : DWord := dw (n + reason * 2 ^ 9)

/-- R239, R241 and R261 for one granule of a synchronous access. -/
def State.granuleWait (s : State) (view : List (SbEntry × Option Nat)) (write : Bool) (g : Nat) : Res Unit :=
  match view.find? fun e => e.1.holds g write with
  | none => .ok ()
  | some e =>
    if e.1.kind = 2 then trap .queue (queueFva e.1.ref 4)
    else match s.w.waitVerdict view write e with
      | some t => s.copyFault t
      | none => .error .wait

/-- The range-scoreboard wait of a synchronous access to granules. -/
def State.sbWait (s : State) (gs : List Nat) (write : Bool) : Res Unit := gs.forM (s.granuleWait s.sbView write)

/-! Streams (R253 to R260). -/

/-- A queue register's stream. -/
def Wave.stream (w : Wave) (n : Nat) : Stream := look {} w.q n

/-- Replace a queue register's stream. -/
def Wave.setStream (w : Wave) (n : Nat) (x : Stream) : Wave := { w with q := put {} w.q n x }

/-- Element size of a stream's type (R254). -/
def streamB (t : Nat) : Nat := if t ≤ 3 then 4 else if t ≤ 5 then 2 else 1

/-- The queue is the index source of another bound stream (R258). -/
def Wave.isIndexSource (w : Wave) (n : Nat) : Bool :=
  (List.range 8).any fun k => k != n && (w.stream k).bound && (w.stream k).indexed && (w.stream k).isrc == n

/-- An index value as an integer (R255). -/
def indexVal (t : Nat) (x : Word) : Int := if t = 1 ∨ t = 9 ∨ t = 4 then x.toInt else x.toNat

/-- x_L(n): value n of the index source for a lane, where the source's queue holds it and it carries no fault (R255). -/
def Wave.indexAt (w : Wave) (x : Stream) (lane n : Nat) : Option Int :=
  let src := w.stream x.isrc
  let i := n - look 0 src.used lane
  if src.bound ∧ look 0 src.used lane ≤ n then
    ((look [] src.vals lane)[i]?).bind fun v => if v.err.isSome then none else some (indexVal src.ty v.v)
  else none

/-- The indexed access of a lane has been made: its index leaves the source's queue, which fetches on (R255, R256). -/
def Wave.takeIndex (w : Wave) (x : Stream) (lane : Nat) : Wave :=
  if x.indexed then
    let src := w.stream x.isrc
    w.setStream x.isrc { src with vals := put [] src.vals lane (look [] src.vals lane).tail, used := put 0 src.used lane (look 0 src.used lane + 1) }
  else w

/-- The index source can never supply value n of a lane: it was stopped, has run past its count, or has supplied the value to another stream
(R258). -/
def Wave.starved (w : Wave) (x : Stream) (lane n : Nat) : Bool :=
  let src := w.stream x.isrc
  x.indexed && (!src.bound || decide (src.count ≤ n) || decide (n < look 0 src.used lane))

/-- The address or offset of value n of a lane (R255); none while an index is missing. -/
def Wave.streamAddr (w : Wave) (x : Stream) (lane n : Nat) : Option Int :=
  let base : Int := x.base.toNat + (if x.lane then 0 else (lane : Int) * x.lstride)
  if x.indexed then (w.indexAt x lane n).map fun i => base + i * (2 ^ x.scale : Nat)
  else some (base + (n : Int) * x.estride)

/-- `sys.cpr` of a STREAM_FAULT (R260). -/
def streamCpr (n reason : Nat) : DWord := dw (reason + 2 ^ 10 + n * 2 ^ 11)

/-- STREAM_FAULT where the head value of a queue carries a fault (R260). -/
def headFault (n : Nat) (vs : List QVal) : Res Unit :=
  match vs with
  | ⟨_, some (reason, addr), false⟩ :: _ => .error (.engine .streamFault addr 0 (streamCpr n reason))
  | _ => .ok ()

/-- The index that the next access of a lane needs carries a fault: STREAM_FAULT names the index source (R260, log entry 71). -/
def indexFault (w : Wave) (x : Stream) (lane : Nat) : Res Unit :=
  if x.indexed then headFault x.isrc (look [] (w.stream x.isrc).vals lane) else .ok ()

/-- A value that a word can take: fetched, and its access not to be made again. -/
def valueReady (vs : List QVal) : Bool :=
  match vs with
  | v :: _ => !v.retry
  | [] => false

/-- The ticket of the faulted copy that keeps a lane-memory stream from a lane's access n: through an entry before the stream's (R239,
R241). -/
def State.laneStuck (s : State) (q : Nat) (x : Stream) (lane n : Nat) : Option Nat :=
  if x.lane then
    (s.w.streamAddr x lane n).bind fun a =>
      let before := s.sbView.takeWhile fun e => !(e.1.kind == 2 && e.1.ref == q)
      let write := decide (4 ≤ q)
      before.findSome? fun e => if (granules a.toNat (streamB x.ty)).any (e.1.holds · write) then s.w.waitVerdict before write e else none
  else none

/-- The ticket of the faulted copy that keeps a stream from its access n in a lane: by the access itself, or by that of its index source, whose
next value the access needs (R241, R255). -/
def State.streamStuck (s : State) (q : Nat) (x : Stream) (lane n : Nat) : Option Nat :=
  match s.laneStuck q x lane n with
  | some t => some t
  | none =>
    let src := s.w.stream x.isrc
    if x.indexed && (s.w.indexAt x lane n).isNone then s.laneStuck x.isrc src lane (look 0 src.moved lane) else none

/-- A wait for the next access of a stream in a lane: COPY_FAULT where a faulted copy keeps it from being made (R241, log entry 71). -/
def State.streamWait (s : State) (q : Nat) (x : Stream) (lane n : Nat) : Res Unit :=
  match s.streamStuck q x lane n with
  | some t => s.copyFault t
  | none => .error .wait

/-- R258: what a pop of `k` values of queue n by some lanes meets before it. -/
def popCheck (s : State) (n k : Nat) (lanes : List Nat) : Res Unit := do
  let w := s.w
  let x := w.stream n
  need x.bound .queue (queueFva n 0)
  need (lanes.all fun L => decide (look 0 x.used L + k ≤ x.count)) .queue (queueFva n 1)
  need (!w.isIndexSource n) .queue (queueFva n 2)
  need (lanes.all fun L => !(k != 0 && (look [] x.vals L).isEmpty && w.starved x L (look 0 x.used L))) .queue (queueFva n 1)
  lanes.forM fun L => headFault n (look [] x.vals L)
  (if k = 0 then [] else lanes).forM fun L =>
    if valueReady (look [] x.vals L) then .ok ()
    else do
      indexFault w x L
      s.streamWait n x L (look 0 x.moved L)

/-- Pop up to `k` values of queue n in some lanes. -/
def Wave.pop (w : Wave) (n k : Nat) (lanes : List Nat) : Wave :=
  let x := w.stream n
  let vals := lanes.foldl (fun m L => put [] m L ((look [] m L).drop k)) x.vals
  let used := lanes.foldl (fun m L => put 0 m L (look 0 m L + k)) x.used
  w.setStream n { x with vals := vals, used := used }

/-- R259: what a push to scatter queue n by some lanes meets before it. Where the index value it needs can never come it takes QUEUE
reason 1, as a pop does (DESIGN CHOICE, log entry 92). -/
def pushCheck (s : State) (n : Nat) (lanes : List Nat) : Res Unit := do
  let w := s.w
  let x := w.stream n
  need x.bound .queue (queueFva n 0)
  need (lanes.all fun L => decide (look 0 x.moved L < x.count)) .queue (queueFva n 1)
  need (lanes.all fun L => !w.starved x L (look 0 x.moved L)) .queue (queueFva n 1)
  let full := lanes.filter fun L => decide (16 ≤ (look [] x.vals L).length)
  full.forM fun L => do
    headFault n (look [] x.vals L)
    indexFault w x L
    s.streamWait n x L (look 0 x.used L)
  if x.lane then
    lanes.forM fun L =>
      match w.streamAddr x L (look 0 x.moved L) with
      | none => do
        if (look [] x.vals L).isEmpty then indexFault w x L else .ok ()
        s.streamWait n x L (look 0 x.moved L)
      | some a => need (decide (0 ≤ a) && decide (a + streamB x.ty ≤ w.lambda)) .lmbound (BitVec.ofInt 64 a)
  else .ok ()

/-- Push values to scatter queue n. -/
def Wave.push (w : Wave) (n : Nat) (vs : List (Nat × Word)) : Wave :=
  let x := w.stream n
  let vals := vs.foldl (fun m e => put [] m e.1 (look [] m e.1 ++ [{ v := e.2 }])) x.vals
  let moved := vs.foldl (fun m e => put 0 m e.1 (look 0 m e.1 + 1)) x.moved
  w.setStream n { x with vals := vals, moved := moved }

/-- After the return from a STREAM_FAULT the engine makes the access of a faulted head value again (R260). Which faulted heads it takes the
rule leaves open where several queues or lanes hold one: the model takes all of them (DESIGN CHOICE, log entry 116). -/
def Wave.retryStreams (w : Wave) : Wave :=
  if w.firstCause ≠ .streamFault then w
  else
    { w with q := w.q.map fun (n, x) =>
        (n, (x.vals.map (·.1)).foldl (fun x L =>
          match look [] x.vals L with
          | ⟨v, some f, _⟩ :: r => { x with vals := put [] x.vals L ((if n < 4 then ⟨v, some f, true⟩ else ⟨v, none, false⟩) :: r) }
          | _ => x) x) }

/-! Sources (R30). -/

/-- A literal as an operand of a type: the integer value in a floating format, else sign-extended. -/
def litVal (t : Nat) (x : BitVec 9) : Word :=
  if t = 3 ∨ t = 4 ∨ t = 5 then
    BitVec.ofNat 32 (roundFin t .rne false (decide (x.toInt < 0)) x.toInt.natAbs 0 false).bits
  else x.signExtend 32

/-- All 64 bits of a scalar register as the run captured it. -/
def State.cap64 (s : State) (k : BitVec 6) : DWord := look 0 s.run.regs k.toNat

/-- A 32-bit operand of a lane: `t` says how a literal is read. -/
def State.src (s : State) (t : Nat) (x : Src) (lane : Nat) : Word :=
  match x with
  | .v r => s.w.v32 r.toNat lane
  | .lit i => litVal t i
  | .s k => (s.cap64 k).setWidth 32
  | .q n => (((look [] (s.w.stream n.toNat).vals lane).head?).map (·.v)).getD 0

/-- The value of a uniform slot: 64 bits (R31). -/
def State.uniform (s : State) (x : Src) : DWord :=
  match x with
  | .s k => s.cap64 k
  | .lit i => i.signExtend 64
  | _ => 0

/-- The queues that sources name, without the unused ones. -/
def queuesOf (xs : List Src) : List Nat :=
  xs.filterMap fun
    | .q n => some n.toNat
    | _ => none

/-- The registers that sources of group size `n` name. -/
def regsOf (x : Src) (n : Nat) : List Nat :=
  match x with
  | .v r => (List.range n).map (r.toNat + ·)
  | _ => []

/-- The registers that a destination of group size `n` names. -/
def dstRegs (x : Dst) (n : Nat) : List Nat :=
  match x with
  | .v r => (List.range n).map (r.toNat + ·)
  | _ => []

/-- Whether the word uses source A, B, C. -/
def usesSrc (op : Nat) (w : LaneWord) : Bool × Bool × Bool :=
  let (a, b, c) := laneUses op w
  (a != .none, b != .none, c != .none)

/-- The sources a word uses. -/
def wordSources (op : Nat) (w : LaneWord) : List Src :=
  let (a, b, c) := usesSrc op w
  (if a then [w.a] else []) ++ (if b then [w.b] else []) ++ (if c then [w.c] else [])

/-- The lane registers a word reads (R119), the row scales of the dot words among them. -/
def wordReads (op : Nat) (w : LaneWord) : List Nat :=
  let (ua, ub, uc) := usesSrc op w
  let (_, na, nb, nc) := laneGroups op w
  (if ua then regsOf w.a na else []) ++ (if ub then regsOf w.b nb else []) ++ (if uc then regsOf w.c nc else [])
    ++ (if vRLast op w = 0 then [] else (List.range 8).map ((w.fld 11 9).toNat + ·))

/-- The lane registers a word's destination field writes: none of the lane-memory form of `resolve`, nor of an atomic that returns
nothing. -/
def wordWrites (op : Nat) (w : LaneWord) : List Nat :=
  match laneSpec op with
  | some sp =>
    if sp.dst = .none ∨ (op = 0x405 ∧ w.bit 20) ∨ (op = 0x507 ∧ !w.bit 0) then [] else dstRegs w.dst (laneGroups op w).1
  | none => []

/-- R40: every register that the word names lies in the allocation. -/
def State.rangeCheck (s : State) (op : Nat) (w : LaneWord) : Res Unit := need (laneLast op w < s.w.regs) .regrange 0

/-- R119: no register read is pending, and, for a checked result, none written is. `latom.cas` reads its destination. -/
def State.hazardCheck (s : State) (op : Nat) (w : LaneWord) (unchecked : Bool) : Res Unit := do
  let more := if op = 0x507 ∧ (w.fld 1 4).toNat = 7 then dstRegs w.dst 1 else []
  need (!(wordReads op w ++ more).any s.w.pend.contains) .hazard 0
  need (unchecked || !(wordWrites op w).any s.w.pend.contains) .hazard 0

/-- The checks of a word's lane registers: REGRANGE (R40, R44), then HAZARD (R119). No rule gives HAZARD a place among the entry faults of a
word outside class 100; the model judges it right after REGRANGE and before every other (DESIGN CHOICE, log entry 112). -/
def State.regCheck (s : State) (op : Nat) (w : LaneWord) (unchecked : Bool) : Res Unit := do
  s.rangeCheck op w
  s.hazardCheck op w unchecked

/-! Traces (R342, R343). -/

/-- The mask class of a block's trace-mask register: 0 all, 1 none, 2 mixed (R342). -/
def maskClass (w : Wave) (image : BitVec 1024) : Nat :=
  let k := Block.traceMask image
  let lanes := (List.range w.lanes).filter fun L => w.mBit 0 L
  if lanes.all fun L => w.mBit k L then 0 else if lanes.all fun L => !w.mBit k L then 1 else 2

/-- A trace that the run may enter: keyed by block and class, and made from the run's image (R343). -/
def findTrace (c : Core) (a cls : Nat) (image : BitVec 1024) : Option Trace :=
  c.slalom.find? fun t => t.addr == a && t.cls == cls && t.image == image

/-- Set the head run. -/
def Wave.setRun (w : Wave) (r : Run) : Wave :=
  match w.lq with
  | .run _ :: rest => { w with lq := .run r :: rest }
  | _ => w

/-- A block of the lane code cache. -/
def Core.blockAt (c : Core) (a : Nat) : Option CodeBlock := c.lcc.find? fun b => b.addr == a

/-- A swap point: the head run enters the trace keyed by its block and by the class at this moment, which becomes the one used last; with
none it goes on in direct decode (R342, R343). -/
def State.swapPoint (s : State) : State :=
  match s.w.lq with
  | .run r :: _ =>
    match r.place.bind fun a => findTrace s.core a (maskClass s.w r.image) r.image with
    | some tr =>
      if r.traced || r.done then s
      else
        (s.modCore fun c => { c with slalom := tr :: c.slalom.filter fun x => x != tr }).modW fun w => w.setRun { r with traced := true }
    | none => s
  | _ => s

/-! How a lane word ends (R26, R34, R118). -/

/-- A request for scoreboard entries joins the core's queue (R237). -/
def State.askEntries (s : State) (n : Nat) : State :=
  (s.modW fun w => { w with laneBlocked := true }).modCore fun c =>
    if c.sbWait.any fun e => e.1 == s.wid then c else { c with sbWait := c.sbWait ++ [(s.wid, n)] }

/-- The park of a marker that has every result: pending marks clear, and the first fault among the results is taken at the marker
(R118, R203, R205, R369). The slot after it is a swap point of the run (R343). -/
def State.parkDone (s : State) (target : DWord) (word : BitVec 96) : State :=
  let e := s.w.unch.findSome? (·.err)
  let s := s.modW fun w => { w.clearPending with unch := [], parked := none, laneBlocked := false }
  match e with
  | some (c, fva) => s.raise 1 c fva target word
  | none => if (s.w.lq.head?.map Entry.finished).getD false then s.modW Wave.popDone else s.swapPoint

/-- A single step of the lane stream ends with the park of its word, whose fault is reported in its place (R118, R324). -/
def State.laneStepped (s : State) : State :=
  if s.w.stepping && s.w.lstep && s.w.parked.isNone && s.w.trapping.isNone then s.raise 0 .step 0 0 0 else s

/-- A lane word has executed: the next slot is due, a marker parks the wave, and a run past its last slot leaves the queue. -/
def State.laneNext (s : State) (mark : Bool) : State :=
  let target := s.laneTarget
  let word := s.laneBits
  let s := s.modW fun w =>
    { w with wdog := 0, laneBlocked := false, qused := w.qused || s.repro, qlw := w.qlw || s.repro
             lq := match w.lq with
               | .run r :: rest => .run { r with slot := r.slot + 1, ran := true } :: rest
               | l => l }
  let s :=
    if mark then
      if s.w.unch.all (·.returned) then s.parkDone target word else s.modW fun w => { w with parked := some (target, word) }
    else s.modW Wave.popDone
  s.laneStepped

/-- The end of a lane word whose effect is `r`: traps are taken on the state before it, precisely at its slot. -/
def finishLane (mark : Bool) (s : State) (r : Res State) : Host.Outcome State Fault Refusal :=
  match r with
  | .ok t => .next (t.laneNext mark)
  | .error (.trap c fva) => .next (s.raise 1 c fva s.laneTarget s.laneBits)
  | .error (.engine c fva cpf cpr) => .next ((s.setEngine cpf cpr).raise 1 c fva s.laneTarget s.laneBits)
  | .error (.chunk fva k) => .next ((s.dropSweep k).raise 1 .chunk fva s.laneTarget s.laneBits)
  | .error (.entries n) => .next (s.askEntries n)
  | .error .wait => .next (s.modW fun w => { w with laneBlocked := true })
  | .error .commit => .next (s.endQuantumLane true)

/-! Writing results. -/

/-- An element that a word writes in one lane: its bits and the kinds it counts. -/
abbrev Elem := Nat × FRes

/-- Write elements to a lane register (checked). -/
def Wave.writeV (w : Wave) (r : Nat) (es : List (Nat × Word)) : Wave :=
  { w with v := putAll 0 w.v (es.map fun e => (vKey r e.1, e.2)) }

/-- Write bits of a mask register. -/
def Wave.writeM (w : Wave) (k : Nat) (es : List (Nat × Bool)) : Wave :=
  { w with m := putAll false w.m (es.map fun e => (vKey k e.1, e.2)) }

/-- An unchecked result on its way: its registers become pending (R117). -/
def Wave.issueUnch (w : Wave) (regs : List Nat) (u : Unch) : Wave :=
  { w with pend := regs ++ w.pend.filter (fun r => !regs.contains r), unch := w.unch ++ [u] }

/-- Results to a destination: a lane register, or a scatter queue's push (R259). -/
def State.writeDst (s : State) (d : Dst) (unchecked : Bool) (es : List (Nat × Word)) : State :=
  match d with
  | .v r =>
    if unchecked then
      s.modW fun w => w.issueUnch [r.toNat]
        { writes := es.map fun e => (vKey r.toNat e.1, e.2), held := false, err := none, returned := false }
    else s.modW fun w => w.writeV r.toNat es
  | .q n => s.modW fun w => w.push (4 + n.toNat) es
  | _ => s

/-- What a destination queue meets before the word (R259). -/
def dstCheck (s : State) (d : Dst) (lanes : List Nat) : Res Unit :=
  match d with
  | .q n => pushCheck s (4 + n.toNat) lanes
  | _ => .ok ()

/-- A word that computes one element per active lane from up to three operands: the checks before it, the elements, FPTRAP, the pops,
the result and the counts, in that order. `tyA` says how literals are read, `fmt` the format counted in, 0 for none. A result of 16 bits
is zero-extended (DESIGN CHOICE where R88 does not say so, log entry 85). -/
def elementwise (op : Nat) (w : LaneWord) (tyA fmt : Nat) (unchecked : Bool) (f : Word → Word → Word → Res FRes) (s : State) :
    Host.Outcome State Fault Refusal :=
  finishLane w.mark s (do
    s.regCheck op w unchecked
    let lanes := s.w.active w.guard
    (queuesOf (wordSources op w)).forM fun n => popCheck s n 1 lanes
    dstCheck s w.dst lanes
    let es ← lanes.mapM fun L => (f (s.src tyA w.a L) (s.src tyA w.b L) (s.src tyA w.c L)).map fun r => (L, r)
    let ks := es.map (·.2.kinds)
    fptrapCheck (if fmt = 0 then 0 else s.run.fptrap) ks
    let t := s.modW fun x => (queuesOf (wordSources op w)).foldl (fun x n => x.pop n 1 lanes) x
    let t := t.writeDst w.dst unchecked (es.map fun e => (e.1, BitVec.ofNat 32 e.2.bits))
    .ok (if fmt = 0 then t else t.modW fun x => x.addKinds fmt ks))

/-- A result that counts nothing. -/
def plain (x : Word) : Res FRes := .ok ⟨x.toNat, 0⟩

/-! Pair words (R37 to R39). -/

/-- Type code of a half's type field (R37). -/
def halfTy (h : Half) : Nat := (h.mods.extractLsb' 2 2).toNat + 1

/-- The lanes active for a half (R39). -/
def halfLanes (w : Wave) (h : Half) : List Nat := w.active (h.guard.setWidth 4)

/-! Entries (R237) and waits for sweeps (R169, R176, R249). -/

/-- Entries in use or granted on the wave's core. -/
def State.sbUsed (s : State) : Nat :=
  s.core.sb.length + (s.waveIds.map fun n => if (s.wave n).core = s.w.core then (s.wave n).sbGrant else 0).sum

/-- Record entries all at once: those granted, or free ones that no earlier request waits for (R237). -/
def State.takeEntries (s : State) (es : List SbEntry) : Res State :=
  let put (s : State) : State := s.modCore fun c => { c with sb := c.sb ++ es }
  if es.isEmpty then .ok s
  else if s.w.sbGrant = es.length then .ok (put (s.modW fun w => { w with sbGrant := 0 }))
  else if s.core.sbWait.isEmpty && decide (s.sbUsed + es.length ≤ 48) then .ok (put s)
  else .error (.entries es.length)

/-- A wait on the completion of some of the wave's sweeps. -/
def State.sweepWait (s : State) (which : SweepOp → Bool) : Res Unit :=
  (s.w.sweeps.filter which).forM fun x =>
    match x.bad with
    | some fva => .error (.chunk fva x.id)
    | none =>
      match x.blockedOn s.sbView with
      | some t => s.copyFault t
      | none => .error .wait

/-- R169: a word on a plane waits for the earlier sweeps on it. -/
def State.planeWait (s : State) (p : Nat) : Res Unit := s.sweepWait fun x => x.plane == p

/-- Every entry of the lane queue has completed (R76): the last promotion of a sweep is its completion, bound or not (R176, R249). In the
system view the queue is the handler's own, so a sweep of the user's that trap entry has left unstarted is no part of it (R184, R312). -/
def State.lanesWait (s : State) : Res Unit := do
  ready s.w.lanesDone
  s.sweepWait fun x => !s.w.sys || x.sys || (x.started && x.bad.isNone)

/-- R260: a wait for the scatter streams to drain meets the fault of a value at a queue's head, or waits. -/
def scatterWait (s : State) : Res Unit :=
  [4, 5, 6, 7].forM fun n =>
    let x := s.w.stream n
    (List.range s.w.lanes).forM fun L =>
      if !x.bound || (look [] x.vals L).isEmpty then .ok ()
      else do
        headFault n (look [] x.vals L)
        indexFault s.w x L
        s.streamWait n x L (look 0 x.used L)

/-- In a reproducible context the wave first waits as `lsync` does (R296). -/
def reproWait (s : State) : Res Unit := if s.repro then s.lanesWait else .ok ()

end Sys2Proof.Machine
end

