-- ==== Sys2Proof/Machine/Special.lean ====
section
/-! DEFINITION. The special functions of R128: exact results where they are algebraic, and for the five transcendental ones a
fixed-point value close enough that its rounding under RNE is that of the exact value (log entry 10). All integer arithmetic, in
units of 2^-700. -/

namespace Sys2Proof.Machine

/-- Fractional bits of the fixed-point arithmetic. -/
def fxBits : Nat := 700

/-- One. -/
def fxOne : Int := 2 ^ fxBits

/-- Product of two fixed-point numbers. -/
def fxMul (a b : Int) : Int := a * b / fxOne

/-- The sum of x^(2k+1) / (2k+1) (alternating where `alt`) for k from 0 to n - 1, where 1 / x is the integer `inv`. -/
def atanInv (inv : Nat) (alt : Bool) : Nat → Nat → Int → Int → Int
  | 0, _, _, acc => acc
  | n + 1, k, p, acc =>
    let term := p / (2 * k + 1 : Nat)
    atanInv inv alt n (k + 1) (p / (inv * inv : Nat)) (if alt && k % 2 = 1 then acc - term else acc + term)

/-- ln 2 = 2 × artanh(1/3). -/
def fxLn2 : Int := 2 * atanInv 3 false 230 0 (fxOne / 3) 0

/-- π by Machin's formula. -/
def fxPi : Int := 16 * atanInv 5 true 160 0 (fxOne / 5) 0 - 4 * atanInv 239 true 50 0 (fxOne / 239) 0

/-- Taylor sum of exp(z): terms from z^k / k! on. -/
def expSum (z : Int) : Nat → Nat → Int → Int → Int
  | 0, _, _, acc => acc
  | n + 1, k, term, acc => expSum z n (k + 1) (fxMul term z / (k + 1 : Nat)) (acc + term)

/-- exp(z) for |z| below 1. -/
def fxExp (z : Int) : Int := expSum z 140 0 fxOne 0

/-- Taylor sum of alternating terms z^j / j!, j growing by two: sine from j = 1, cosine from j = 0. -/
def trigSum (z2 : Int) : Nat → Nat → Int → Int → Int
  | 0, _, _, acc => acc
  | n + 1, j, term, acc => trigSum z2 n (j + 2) (-(fxMul term z2) / ((j + 1) * (j + 2) : Nat)) (acc + term)

/-- sin z for 0 ≤ z < π / 2. -/
def fxSin (z : Int) : Int := trigSum (fxMul z z) 100 1 z 0

/-- cos z for 0 ≤ z < π / 2. -/
def fxCos (z : Int) : Int := trigSum (fxMul z z) 100 0 fxOne 0

/-- A finite FP32 magnitude in fixed point. -/
def fxOf (mant : Nat) (exp : Int) : Int := (mant : Int) * 2 ^ (exp + fxBits).toNat

/-- A signed fixed-point approximation of an inexact result. -/
def ofFx (x : Int) (shift : Int) : Exact := .fin (decide (x < 0)) x.natAbs (shift - fxBits) true

/-- 2^x (R128, Table 5a). -/
def exp2E (v : Val) : Exact :=
  match v with
  | .nan => .nan
  | .inf n => if n then .fin false 0 0 false else .inf false
  | .fin n m e =>
    if m = 0 then .fin false 1 0 false
    else if geScaled m e 200 0 then .fin false 1 (if n then -200 else 200) n
    else
      let x := if n then -(fxOf m e) else fxOf m e
      let i := x / fxOne
      let f := x - i * fxOne
      if f = 0 then .fin false 1 i false else ofFx (fxExp (fxMul f fxLn2)) i

/-- Sum of t^(2k+1) / (2k+1). -/
def artanhSum (t2 : Int) : Nat → Nat → Int → Int → Int
  | 0, _, _, acc => acc
  | n + 1, k, p, acc => artanhSum t2 n (k + 1) (fxMul p t2) (acc + p / (2 * k + 1 : Nat))

/-- log2 x (R128, Table 5a). -/
def log2E (v : Val) : Exact :=
  match v with
  | .nan => .nan
  | .inf n => if n then .nan else .inf false
  | .fin n m e =>
    if m = 0 then .inf true
    else if n then .nan
    else
      let l := Nat.log2 m
      let ex : Int := e + l
      if m = 2 ^ l then ofScaled ex 0 false
      else
        let f := fxOf m (-(l : Int))
        let t := (f - fxOne) * fxOne / (f + fxOne)
        let ln := 2 * artanhSum (fxMul t t) 240 0 t 0
        ofFx (ex * fxOne + ln * fxOne / fxLn2) 0

/-- The quadrant of a magnitude and its place in the quadrant, reduced exactly (R128). -/
def quadrant (mant : Nat) (exp : Int) : Nat × Int :=
  let r := fxOf mant exp % (2 * fxPi)
  let h := fxPi / 2
  ((r / h).toNat % 4, r % h)

/-- sin x (R128, Table 5a). -/
def sinE (v : Val) : Exact :=
  match v with
  | .nan => .nan
  | .inf _ => .nan
  | .fin n m e =>
    if m = 0 then .fin n 0 0 false
    else
      let (q, z) := quadrant m e
      let x := match q with
        | 0 => fxSin z
        | 1 => fxCos z
        | 2 => -(fxSin z)
        | _ => -(fxCos z)
      ofFx (if n then -x else x) 0

/-- cos x (R128, Table 5a). -/
def cosE (v : Val) : Exact :=
  match v with
  | .nan => .nan
  | .inf _ => .nan
  | .fin _ m e =>
    if m = 0 then .fin false 1 0 false
    else
      let (q, z) := quadrant m e
      ofFx (match q with
        | 0 => fxCos z
        | 1 => -(fxSin z)
        | 2 => -(fxCos z)
        | _ => fxSin z) 0

/-- tanh x (R128, Table 5a). -/
def tanhE (v : Val) : Exact :=
  match v with
  | .nan => .nan
  | .inf n => .fin n 1 0 false
  | .fin n m e =>
    if m = 0 then .fin n 0 0 false
    else if geScaled m e 64 0 then .fin n (2 ^ fxBits - 1) (-(fxBits : Int)) true
    else
      let z := 2 * fxOf m e
      let i := z / fxLn2
      let x := fxExp (z - i * fxLn2) * 2 ^ i.toNat
      let t := (x - fxOne) * fxOne / (x + fxOne)
      ofFx (if n then -t else t) 0

/-- 1 / x (R128, Table 5a). -/
def rcpE (v : Val) : Exact := divE (.fin false 1 0) v

/-- The square root (R128, Table 5a). -/
def sqrtE (v : Val) : Exact :=
  match v with
  | .nan => .nan
  | .inf n => if n then .nan else .inf false
  | .fin n m e => if m = 0 then .fin n 0 0 false else if n then .nan else sqrtPos m e

/-- The reciprocal square root (R128, Table 5a). -/
def rsqrtE (v : Val) : Exact :=
  match v with
  | .nan => .nan
  | .inf n => if n then .nan else .fin false 0 0 false
  | .fin n m e => if m = 0 then .inf n else if n then .nan else rsqrtPos m e

end Sys2Proof.Machine
end

