-- ==== Sys2Proof/Machine/LaneFn.lean ====
section
/-! DEFINITION. What the elementwise lane operations compute in one lane (R122 to R128, R96), shared by full words and pair halves,
and how a pair word executes (R37 to R39). -/

namespace Sys2Proof.Machine

open Sys2Proof

/-! Integer operations (R122 to R124). `t` is the type code, `sat` the `.sat` bit. -/

/-- `add`. -/
def addFn (t : Nat) (sat : Bool) (a b : Word) : Res FRes := plain (intResult t sat (intOf t a + intOf t b))

/-- `sub`. -/
def subFn (t : Nat) (sat : Bool) (a b : Word) : Res FRes := plain (intResult t sat (intOf t a - intOf t b))

/-- `mul`. -/
def mulFn (t : Nat) (sat : Bool) (a b : Word) : Res FRes := plain (intResult t sat (intOf t a * intOf t b))

/-- `mulh`. -/
def mulhFn (t : Nat) (a b : Word) : Res FRes := plain (BitVec.ofInt 32 (intOf t a * intOf t b / 2 ^ 32))

/-- `mad`, formed exactly. -/
def madFn (t : Nat) (sat : Bool) (a b c : Word) : Res FRes := plain (intResult t sat (intOf t a * intOf t b + intOf t c))

/-- `shl`: 0 for a distance of 32 or more. -/
def shlFn (a b : Word) : Res FRes := plain (a <<< (b.toNat % 64))

/-- `shr`. -/
def shrFn (a b : Word) : Res FRes := plain (a >>> (b.toNat % 64))

/-- `sra`. -/
def sraFn (a b : Word) : Res FRes := plain (a.sshiftRight (b.toNat % 64))

/-- `min`. -/
def minFn (t : Nat) (a b : Word) : Res FRes := plain (if intOf t a ≤ intOf t b then a else b)

/-- `max`. -/
def maxFn (t : Nat) (a b : Word) : Res FRes := plain (if intOf t a ≤ intOf t b then b else a)

/-- `abs`. -/
def absFn (sat : Bool) (a : Word) : Res FRes := plain (intResult 1 sat (a.toInt.natAbs : Int))

/-- `neg`. -/
def negFn (sat : Bool) (a : Word) : Res FRes := plain (intResult 1 sat (-a.toInt))

/-- `clz`. -/
def clzFn (a : Word) : Res FRes := plain (if a = 0 then 32 else BitVec.ofNat 32 (31 - Nat.log2 a.toNat))

/-- `pop`. -/
def popFn (a : Word) : Res FRes := plain (BitVec.ofNat 32 ((List.range 32).countP a.getLsbD))

/-- `div`: IDIV0 for a zero divisor (R124). -/
def divFn (t : Nat) (a b : Word) : Res FRes := do
  need (b != 0) .idiv0 0
  plain (BitVec.ofInt 32 ((intOf t a).tdiv (intOf t b)))

/-- `rem`. -/
def remFn (t : Nat) (a b : Word) : Res FRes := do
  need (b != 0) .idiv0 0
  plain (BitVec.ofInt 32 ((intOf t a).tmod (intOf t b)))

/-- Position and width within the register of a field spec (R123). -/
def fieldSpec (b : Word) : Nat × Nat :=
  let p := b.toNat % 32
  let w := min (b.toNat / 2 ^ 8 % 64) 32
  (p, min (p + w) 32 - p)

/-- `bfx`. -/
def bfxFn (t : Nat) (a b : Word) : Res FRes :=
  let (p, w) := fieldSpec b
  let u := a.toNat / 2 ^ p % 2 ^ w
  plain (BitVec.ofInt 32 (if t = 1 ∧ w ≠ 0 ∧ 2 ^ (w - 1) ≤ u then (u : Int) - 2 ^ w else u))

/-- `bfi`. -/
def bfiFn (a b c : Word) : Res FRes :=
  let (p, w) := fieldSpec c
  let m : Word := BitVec.ofNat 32 ((2 ^ w - 1) * 2 ^ p)
  plain ((a &&& ~~~m) ||| ((b <<< p) &&& m))

/-! Floating operations (R127, R128). -/

/-- The value of a register's low bits in a format. -/
def fval (t : Nat) (x : Word) : Val := decodeF t x.toNat

/-- Round a result whose operands are the given values. -/
def fResult (t : Nat) (m : Rnd) (sat : Bool) (ops : List Val) (x : Exact) : Res FRes :=
  .ok (finishF t m sat (ops.any Val.isNan) (ops.any Val.isInf) x)

/-- `fadd`. -/
def faddFn (t : Nat) (m : Rnd) (sat : Bool) (a b : Word) : Res FRes :=
  fResult t m sat [fval t a, fval t b] (addE m (fval t a) (fval t b))

/-- `fsub`. -/
def fsubFn (t : Nat) (m : Rnd) (sat : Bool) (a b : Word) : Res FRes :=
  fResult t m sat [fval t a, fval t b] (addE m (fval t a) (fval t b).negate)

/-- `fmul`. -/
def fmulFn (t : Nat) (m : Rnd) (sat : Bool) (a b : Word) : Res FRes :=
  fResult t m sat [fval t a, fval t b] (mulV (fval t a) (fval t b)).exact

/-- `fma`, rounded once. -/
def fmaFn (t : Nat) (m : Rnd) (sat : Bool) (a b c : Word) : Res FRes :=
  fResult t m sat [fval t a, fval t b, fval t c] (addE m (mulV (fval t a) (fval t b)) (fval t c))

/-- The order of two values that are no NaN, −0 before +0. -/
def leV (a b : Val) : Bool :=
  match a, b with
  | .fin na 0 _, .fin nb 0 _ => na || !nb
  | _, _ => cmpV a b != some 1

/-- Bits of a value as an operand of the type holds them: the low bits, or the generated NaN. -/
def valBits (t : Nat) (x : Word) : Nat := if (fval t x).isNan then nanBits t else x.toNat % 2 ^ tyBits t

/-- `fmin` (R127): the other operand where one is NaN. -/
def fminFn (t : Nat) (a b : Word) : Res FRes :=
  let r := if (fval t a).isNan then b else if (fval t b).isNan then a else if leV (fval t a) (fval t b) then a else b
  .ok ⟨valBits t r, 0⟩

/-- `fmax`. -/
def fmaxFn (t : Nat) (a b : Word) : Res FRes :=
  let r := if (fval t a).isNan then b else if (fval t b).isNan then a else if leV (fval t a) (fval t b) then b else a
  .ok ⟨valBits t r, 0⟩

/-- `fabs`. -/
def fabsFn (t : Nat) (a : Word) : Res FRes := .ok ⟨valBits t a % 2 ^ (tyBits t - 1), 0⟩

/-- `fneg`. -/
def fnegFn (t : Nat) (a : Word) : Res FRes :=
  let s := 2 ^ (tyBits t - 1)
  .ok ⟨if (fval t a).isNan then nanBits t else if valBits t a < s then valBits t a + s else valBits t a - s, 0⟩

/-- `fdiv`. -/
def fdivFn (m : Rnd) (sat : Bool) (a b : Word) : Res FRes :=
  fResult 3 m sat [fval 3 a, fval 3 b] (divE (fval 3 a) (fval 3 b))

/-- A special function of one FP32 (R128). -/
def specialFn (f : Val → Exact) (m : Rnd) (a : Word) : Res FRes := fResult 3 m false [fval 3 a] (f (fval 3 a))

/-- `cvt.D.S` (R96): rounding `mf` for a floating destination, `mi` for an integer one. -/
def cvtFn (d src : Nat) (mf mi : Rnd) (sat : Bool) (a : Word) : Res FRes :=
  let v := decodeV src a.toNat
  .ok (if isFloat d then finishF d mf sat v.isNan v.isInf v.exact else finishI d mi sat v.exact)

/-! Pair words. -/

/-- The full opcode, the type that its literals are read in, the format that counts (0 for none), and whether the result is
unchecked, for a half. -/
def halfInfo (p : PairOp) (h : Half) : Nat × Nat × Nat × Bool :=
  let t := halfTy h
  match p with
  | .cvt =>
    match (h.mods.extractLsb' 0 2).toNat with
    | 0 => (0x200, 3, 4, false)
    | 1 => (0x200, 4, 3, false)
    | 2 => (0x200, 3, 1, false)
    | _ => (0x200, 1, 3, false)
  | .rcp => (0x110, 3, 3, true)
  | .rsqrt => (0x111, 3, 3, true)
  | .fadd | .fsub | .fmul | .fmin | .fmax | .fabs | .fneg => (0x100, t, t, false)
  | _ => (0x000, t, 0, false)

/-- What a half computes (R37: RNE, no `.sat`). -/
def halfFn (p : PairOp) (h : Half) (a b : Word) : Res FRes :=
  let t := halfTy h
  match p with
  | .mov => plain a
  | .add => addFn t false a b
  | .sub => subFn t false a b
  | .mul => mulFn t false a b
  | .and => plain (a &&& b)
  | .or => plain (a ||| b)
  | .xor => plain (a ^^^ b)
  | .andn => plain (a &&& ~~~b)
  | .shl => shlFn a b
  | .shr => shrFn a b
  | .sra => sraFn a b
  | .min => minFn t a b
  | .max => maxFn t a b
  | .abs => absFn false a
  | .neg => negFn false a
  | .fadd => faddFn t .rne false a b
  | .fsub => fsubFn t .rne false a b
  | .fmul => fmulFn t .rne false a b
  | .fmin => fminFn t a b
  | .fmax => fmaxFn t a b
  | .fabs => fabsFn t a
  | .fneg => fnegFn t a
  | .rcp => specialFn rcpE .rne a
  | .rsqrt => specialFn rsqrtE .rne a
  | .cvt => let (_, s, d, _) := halfInfo p h; cvtFn d s .rne .rne false a

/-- R40 and R119 for a half. -/
def halfCheck (s : State) (p : PairOp) (h : Half) : Res Unit := do
  let srcs := h.srcs p
  need (decide (h.dst.toNat < s.w.regs) && srcs.all fun x => decide (x.last 1 < s.w.regs)) .regrange 0

/-- R119 for a half. -/
def halfHazard (s : State) (p : PairOp) (h : Half) : Res Unit := do
  need (!((h.srcs p).flatMap (regsOf · 1)).any s.w.pend.contains) .hazard 0
  need ((halfInfo p h).2.2.2 || !s.w.pend.contains h.dst.toNat) .hazard 0

/-- The elements a half computes, from the state before the word (R39). -/
def halfElems (s : State) (p : PairOp) (h : Half) : Res (List Elem) :=
  (halfLanes s.w h).mapM fun L =>
    let t := (halfInfo p h).2.1
    (halfFn p h (s.src t h.a L) (s.src t h.b L)).map fun r => (L, r)

/-- Write a half's elements and add its counts. -/
def halfWrite (p : PairOp) (h : Half) (es : List Elem) (s : State) : State :=
  let (_, _, fmt, unchecked) := halfInfo p h
  let s := s.writeDst (.v h.dst) unchecked (es.map fun e => (e.1, BitVec.ofNat 32 e.2.bits))
  if fmt = 0 then s else s.modW fun x => x.addKinds fmt (es.map (·.2.kinds))

/-- A half's kinds where it counts. -/
def halfKinds (p : PairOp) (h : Half) (es : List Elem) : List (BitVec 4) :=
  if (halfInfo p h).2.2.1 = 0 then [] else es.map (·.2.kinds)

/-- A pair word: both halves read before either writes, and a trap of either stops both (R39, R111). -/
def pairWord (mark : Bool) (xop : PairOp) (x : Half) (yop : PairOp) (y : Half) (s : State) : Host.Outcome State Fault Refusal :=
  finishLane mark s (do
    halfCheck s xop x
    halfCheck s yop y
    halfHazard s xop x
    halfHazard s yop y
    let ex ← halfElems s xop x
    let ey ← halfElems s yop y
    fptrapCheck s.run.fptrap (halfKinds xop x ex ++ halfKinds yop y ey)
    .ok (halfWrite yop y ey (halfWrite xop x ex s)))

/-- The rounding mode of classes 000 to 010. -/
def rndOf (w : LaneWord) : Rnd := Rnd.ofCode (w.fld 28 2)

/-- The `.sat` bit. -/
def satOf (w : LaneWord) : Bool := w.bit 27

end Sys2Proof.Machine
end

