-- ==== Sys2Proof/Machine/Convert.lean ====
section
/-! DEFINITION. Conversions and scale words (R96 to R100). -/

namespace Sys2Proof.Machine

open Sys2Proof

/-- `cvt` (R96). -/
def execCvt (f : LaneForm) (s : State) : Host.Outcome State Fault Refusal :=
  match f with
  | .full w =>
    let src := (w.fld 23 4).toNat
    elementwise 0x200 w src w.ty false (fun a _ _ => cvtFn w.ty src (rndOf w) (Rnd.ofCode (w.fld 21 2)) (satOf w) a) s
  | .pair mark x yop y => pairWord mark .cvt x yop y s

/-- Elements concatenated, each `n` bits wide, the first lowest. -/
def concatBits (n : Nat) : List Nat → Nat
  | [] => 0
  | x :: r => x + 2 ^ n * concatBits n r

/-- `pack` (R97). -/
def execPack (w : LaneWord) (s : State) : Host.Outcome State Fault Refusal :=
  finishLane w.mark s (do
    s.regCheck 0x201 w false
    let lanes := s.w.active w.guard
    dstCheck s w.dst lanes
    let n := packN w.ty
    let wide := if w.ty = 9 then 1 else 3
    let es ← lanes.mapM fun L =>
      ((regsOf w.a n).mapM fun r => cvtFn w.ty wide (rndOf w) .rne (satOf w) (s.w.v32 r L)).map fun es => (L, es)
    let ks := es.flatMap fun e => e.2.map (·.kinds)
    fptrapCheck s.run.fptrap ks
    let t := s.writeDst w.dst false (es.map fun e => (e.1, BitVec.ofNat 32 (concatBits (32 / n) (e.2.map (·.bits)))))
    .ok (t.modW fun x => x.addKinds w.ty ks))

/-- The wide value of a packed element (R97): exact, a NaN as the generated FP32 NaN. -/
def unpackElem (t x : Nat) : Word :=
  let v := decodeV t x
  BitVec.ofNat 32 (if t = 9 then (finishI 1 .rne false v.exact).bits else (finishF 3 .rne false true true v.exact).bits)

/-- `unpack` (R97). -/
def execUnpack (w : LaneWord) (s : State) : Host.Outcome State Fault Refusal :=
  finishLane w.mark s (do
    s.regCheck 0x202 w false
    let lanes := s.w.active w.guard
    (queuesOf [w.a]).forM fun n => popCheck s n 1 lanes
    let n := packN w.ty
    let wd := 32 / n
    let base := match w.dst with
      | .v r => r.toNat
      | _ => 0
    let vs := lanes.flatMap fun L =>
      let p := (s.src 0 w.a L).toNat
      (List.range n).map fun j => (vKey (base + j) L, unpackElem w.ty (p / 2 ^ (wd * j) % 2 ^ wd))
    .ok (s.modW fun x =>
      let x := (queuesOf [w.a]).foldl (fun x n => x.pop n 1 lanes) x
      { x with v := putAll 0 x.v vs }))

/-- Round an FP32 to those whose bits 1..0 are zero, and put a tag there (R98). The kinds are those of FP32. -/
def scaleWord (m : Rnd) (sat : Bool) (tag : Nat) (a : Word) : FRes :=
  match fval 3 a with
  | .nan => ⟨0x7FC00000 + tag, 0⟩
  | .inf n => ⟨signBit 3 n + (if sat then 0x7F7FFFFC else 0x7F800000) + tag, 0⟩
  | .fin neg mant exp =>
    if mant = 0 then ⟨signBit 3 neg + tag, 0⟩
    else
      -- the largest finite value of this grid is 2^22 − 1 steps of 2^106
      let big := match m with
        | .rne => geScaled mant exp (2 * (2 ^ 22 - 1) + 1) 105
        | .rtz => false
        | .rup => !neg && geScaled mant exp (2 ^ 22 - 1) 106 && !geScaled (2 ^ 22 - 1) 106 mant exp
        | .rdn => neg && geScaled mant exp (2 ^ 22 - 1) 106 && !geScaled (2 ^ 22 - 1) 106 mant exp
      if big then
        ⟨signBit 3 neg + (if sat then 0x7F7FFFFC else 0x7F800000) + tag, kindsOf false (!sat) true false⟩
      else
        let e := exp + bitLen mant - 1
        let q := max e (-126) - 21
        let (n, inexact) := roundAt m neg mant exp false q
        let n := if geScaled n q (2 ^ 22) 106 then 2 ^ 22 - 1 else n
        let field := if decide (n < 2 ^ 21) then 0 else (q + 21 + 127).toNat * 2 ^ 21 - 2 ^ 21
        ⟨signBit 3 neg + 4 * (field + n) + tag, kindsOf false false false (decide (e < -126) && inexact)⟩

/-- `mkscale` (R98): counts in FP32. -/
def execMkscale (w : LaneWord) (s : State) : Host.Outcome State Fault Refusal :=
  elementwise 0x203 w 3 3 false (fun a _ _ => .ok (scaleWord (rndOf w) (satOf w) (w.ty - 6) a)) s

/-- `unscale` (R99). -/
def execUnscale (w : LaneWord) (s : State) : Host.Outcome State Fault Refusal :=
  elementwise 0x204 w 0 0 false (fun a _ _ => plain (a &&& 0xFFFFFFFC)) s

/-- `scw` (R100). -/
def execScw (d a : BitVec 6) (t : BitVec 2) (s : State) : Host.Outcome State Fault Refusal :=
  finishSeq 4 s (.ok (s.setS d (dw (scaleWord .rne false t.toNat ((s.getS a).setWidth 32)).bits)))

end Sys2Proof.Machine
end

