-- ==== Sys2Proof/Machine/Csr.lean ====
section
/-! DEFINITION. CSR access (R42, R83, R84, R308, R309) and the registers of device units that CSRs reach (R110, R213, R264, R290,
R292, R323, R366). -/

namespace Sys2Proof.Machine

open Sys2Proof

/-- How a CSR may be used (R84 Table 3, R308 Table 1). -/
inductive CsrMode where
  | rw | ro | wo
  /-- RO; RW in system -/
  | rs
  deriving DecidableEq, Repr

/-- The CSRs that exist (R84, R308, R366). -/
def csrMode (c : Nat) : Option CsrMode :=
  if c ≤ 0x004 ∨ c = 0x008 ∨ c = 0x009 then some .ro
  else if 0x010 ≤ c ∧ c ≤ 0x016 then some .rs
  else if c = 0x020 ∨ c = 0x021 ∨ c = 0x030 then some .rw
  else if c = 0x801 ∨ c = 0x802 ∨ (0x810 ≤ c ∧ c ≤ 0x81F) ∨ c = 0x840 ∨ c = 0x841 ∨ c = 0x850 then some .rw
  else if c = 0x803 ∨ c = 0x852 ∨ c = 0x860 ∨ c = 0x861 then some .ro
  else if c = 0x862 then some .wo
  else if (0x870 ≤ c ∧ c ≤ 0x879) ∨ c = 0x880 ∨ c = 0x881 then some .rw
  else none

/-- A number of the system view. -/
def csrSys (c : Nat) : Bool := decide (0x800 ≤ c)

/-- The faults of a CSR access, in the order of R44: ILLEGAL, then PRIV (R42, R83; log entry 14). -/
def csrCheck (s : State) (c : Nat) (write : Bool) : Res Unit :=
  match csrMode c with
  | none => trap .illegal 0
  | some m => do
    need (!(write && m == .ro) && !(!write && m == .wo)) .illegal 0
    need (s.w.sys || !(csrSys c || (write && m == .rs))) .priv 0

/-! The context table (R292, R309, R323). -/

/-- No crew of the context is resident in any sector (R292 Table 3). -/
def State.drained (s : State) (ctx : Nat) : Bool := !s.crews.any fun c => c.ctx == ctx && !c.killed

/-- The context that `sys.ctxsel` names. -/
def State.ctxSel (s : State) : Nat := s.ctxsel.toNat

/-- `sys.ctxctl` (R292, Table 3). -/
def State.ctxctl (s : State) : DWord :=
  let r := s.rowAt s.ctxSel
  let b (x : Bool) : Nat := if x then 1 else 0
  dw (r.weight + b r.stop * 2 ^ 8 + b r.repro * 2 ^ 9 + b (s.drained s.ctxSel) * 2 ^ 10 + b r.closed * 2 ^ 11 + r.phase * 2 ^ 12)

/-- A write to `sys.ctxctl` (R292, R293). -/
def State.setCtxctl (s : State) (v : DWord) : State :=
  let d := s.drained s.ctxSel
  s.modRow s.ctxSel fun r =>
    { r with weight := bits v 0 8, stop := v.getLsbD 8, repro := if d then v.getLsbD 9 else r.repro
             phase := if d then bits v 12 16 else r.phase }

/-- Values of the `fq` leaves at reset (R323, Table 6). -/
def fqReset (n : Nat) : DWord :=
  match n with
  | 0 => 0x0002
  | 1 => 12
  | 2 => 48
  | 3 => dw (576 * 2 ^ 30)
  | 4 => dw (4 * 2 ^ 20)
  | 6 => 0xF
  | 7 => 0xA1
  | _ => 0

/-- An `fq` leaf of a context. -/
def CtxRow.leaf (r : CtxRow) (n : Nat) : DWord := look 0 r.fq n ^^^ fqReset n

/-- The bits of a leaf that hold a value: bits 63..16 of leaf 0 and 63..4 of leaf 6 are zero (R323, Table 6). A write that
sets one is masked: no rule says that it traps or what it stores (DESIGN CHOICE, log entry 107). -/
def fqMask (n : Nat) (v : DWord) : DWord := if n = 0 then dw (bits v 0 16) else if n = 6 then dw (bits v 0 4) else v

/-- A write to `sys.fqval`: ignored while the leaves are locked (R323). -/
def State.setFqval (s : State) (v : DWord) : State :=
  let n := bits s.fqsel 0 3
  s.modRow s.ctxSel fun r => if r.locked then r else { r with fq := put 0 r.fq n (fqMask n v ^^^ fqReset n) }

/-- A write to `sys.ctxskim`: checked in full, then ignored unless drained (R309). -/
def State.setCtxskim (s : State) (v : DWord) : Res State := do
  need (bits v 0 7 == 0 && bits v 22 10 == 0 && bits v 55 9 == 0 && decide (bits v 0 22 + bits v 32 23 ≤ 2 ^ 22)) .illegal 0
  .ok (if s.drained s.ctxSel then s.modRow s.ctxSel fun r => { r with skim := v } else s)

/-! Counter thresholds (R109, R110). -/

/-- The counter that `sys.xsel` of the wave's context selects. -/
def State.xselKey (s : State) : Nat := cntKey (bits s.row.xsel 0 4) (bits s.row.xsel 4 4) (bits s.row.xsel 8 2)

/-- A write to `sys.xthr` (R110). -/
def State.setXthr (s : State) (v : DWord) : Res State := do
  let f := bits s.row.xsel 4 4
  need (1 ≤ f && f ≤ 9) .illegal 0
  .ok { s with thresholds := put 0 s.thresholds s.xselKey (bits v 0 40) }

/-! Registered queues (R263, R264). -/

/-- The fields of a control block as its home holds them: ring base, log2 S, context. The device ignores the reserved bits beside them
(R5). -/
def State.cbFields (s : State) (pa : Nat) : Nat × Nat × Nat :=
  (readLe s.mem (pa + 0x208) 8 % 2 ^ 52, readLe s.mem (pa + 0x210) 8 % 2 ^ 5, readLe s.mem (pa + 0x218) 8 % 2 ^ 32)

/-- The fields of a control block are in range (R263). -/
def cbOk (f : Nat × Nat × Nat) : Bool := f.1 % 512 == 0 && decide (4 ≤ f.2.1) && decide (f.2.1 ≤ 20)

/-- A write to `sys.qreg` waits for the walk of its address, and a registration for the lines of the control block that a write at their home holds
(R347, R358). -/
def State.qregWaits (s : State) (v : DWord) : Bool :=
  let cb := bits v 10 42 * 2 ^ 10
  s.translateWaits s.w.core s.w.ctx false cb
    || (!v.getLsbD 0 && ((s.translate false cb).map fun e => e.loc.kind == .device && s.lineHeld (((e.at cb).addr + 0x200) / 512)).getD false)

/-- A write to `sys.qreg`: register a queue with the sector of the writing core, or refuse it with a record; or unregister one (R264). A
queue is known by the device address of its control block, so equal virtual addresses of two contexts name two queues. The context is the
one of the registration, and the ring's base and size are read from the control block at each use (DESIGN CHOICE, log entry 117). -/
def State.setQreg (s : State) (v : DWord) : State :=
  let cb := bits v 10 42 * 2 ^ 10
  let n := sectorOf s.w.core
  let place := s.translate false cb
  let pa := (place.map fun e => (e.at cb).addr).getD (2 ^ 64)
  let t := s.touchTlb false cb
  if v.getLsbD 0 then
    t.modSector n fun x => { x with queues := x.queues.filter fun q => !(q.pa == pa || (q.reg == s.w.ctx && q.cb == cb)) }
  else
    let old := (s.sector n).queues.find? fun q => q.pa == pa
    let f := s.cbFields pa
    -- the queue unit reads the block at its home
    let t := (place.map fun e => if e.loc.kind = .device then t.trip (sectorUnit n) (sliceUnit (e.at cb).slice) else t).getD t
    if (place.map fun e => e.loc.kind) = some .device ∧ cbOk f ∧ ((s.sector n).queues.filter fun q => q.pa != pa).length < 64 then
      let home := (place.map fun e => (e.at cb).slice).getD 0
      let q : Queue := match old with
        | some q => { q with cb := cb, slice := home, reg := s.w.ctx, ctx := f.2.2, notified := true }
        | none =>
          { cb := cb, pa := pa, slice := home, reg := s.w.ctx, ctx := f.2.2, cand := none, age := 0, stamp := 0, bad := none, notified := true }
      t.modSector n fun x =>
        { x with queues := if old.isSome then x.queues.map (fun y => if y.pa = pa then q else y) else x.queues ++ [q] }
    else t.emitSector n 0x0003 [dw cb]

/-! Peer apertures (R366). -/

/-- A value that `sys.apctl` accepts. -/
def apctlOk (v : DWord) : Bool :=
  let size := bits v 0 6
  let home := bits v 48 10
  let cls := bits v 11 2
  (size == 0 || (decide (14 ≤ size) && decide (size ≤ 47)))
    && bits v 6 2 == 0 && bits v 13 1 == 0 && bits v 58 6 == 0
    && (size == 0 || bits v 14 34 * 2 ^ 14 % 2 ^ size == 0)
    && (if cls = 0 then decide (home < 576) else if cls = 1 then decide (home < 12) else if cls = 2 then decide (home < 4)
        else home == 0)

/-- A write to `sys.apctl`. -/
def State.setApctl (s : State) (v : DWord) : Res State := do
  need (apctlOk v) .illegal 0
  .ok { s with apertures := put 0 s.apertures s.apsel.toNat v }

/-! Reading and writing by number. -/

/-- Regions of the core's die in doubled refresh (R194): bit 12s + c. -/
def State.rfmap (s : State) : DWord :=
  dw ((List.range 36).foldl (fun n k => if s.doubled.contains (36 * dieOf s.w.core + k) then n + 2 ^ k else n) 0)

/-- `sys.status` (R308). -/
def Wave.status (w : Wave) : DWord :=
  let b (x : Bool) : Nat := if x then 1 else 0
  dw (w.kind.toNat + 4 * b w.drop + 8 * b w.stepArmed + 16 * b w.lstep)

/-- The value that a CSR reads as. -/
def csrValue (s : State) (c : Nat) : DWord :=
  match c with
  | 0x000 => dw s.w.widx
  | 0x001 => dw s.w.crewIdx
  | 0x002 => dw (bits s.w.shape 0 32)
  | 0x003 => dw s.w.lanes
  | 0x004 => dw s.w.phase
  | 0x008 => dw s.core.allowance
  | 0x009 => dw s.w.lqCount
  | 0x010 => s.w.cause
  | 0x011 => s.w.epc
  | 0x012 => s.w.elpc
  | 0x013 => (s.w.eword.extractLsb' 0 32).setWidth 64
  | 0x014 => (s.w.eword.extractLsb' 32 32).setWidth 64
  | 0x015 => (s.w.eword.extractLsb' 64 32).setWidth 64
  | 0x016 => s.w.fva
  | 0x020 => s.w.rngseed
  | 0x021 => if s.w.wrapOk then 1 else 0
  | 0x030 => s.w.fptrap.setWidth 64
  | 0x801 => s.w.status
  | 0x802 => s.w.rpc
  | 0x803 => dw (s.w.core + Config.deviceIndex.toNat * 2 ^ 16)
  | 0x840 => s.row.xsel
  | 0x841 => dw (look 0 s.thresholds s.xselKey)
  | 0x850 => dw (s.row.pinQuota + s.row.pinCount * 2 ^ 24)
  | 0x852 => s.rfmap
  | 0x860 => s.w.cpf
  | 0x861 => s.w.cpr
  | 0x870 => s.ctxsel
  | 0x871 => s.ctxctl
  | 0x872 => dw (s.sector (sectorOf s.w.core)).thmin
  | 0x873 => dw (bits s.fqsel 0 3 + if (s.rowAt s.ctxSel).locked then 2 ^ 63 else 0)
  | 0x874 => (s.rowAt s.ctxSel).leaf (bits s.fqsel 0 3)
  | 0x875 => (s.rowAt s.ctxSel).root
  | 0x876 => (s.rowAt s.ctxSel).skim
  | 0x877 => (s.rowAt s.ctxSel).pr
  | 0x878 => (s.rowAt s.ctxSel).vec
  | 0x879 => (s.rowAt s.ctxSel).wdog
  | 0x880 => s.apsel
  | 0x881 => look 0 s.apertures s.apsel.toNat
  | _ => if 0x810 ≤ c ∧ c ≤ 0x81F then s.w.sVal (48 + (c - 0x810)) else 0

/-- Replace 32 bits of the trapping word. -/
def setEword (w : BitVec 96) (k : Nat) (v : DWord) : BitVec 96 :=
  let p := fun i => if i = k then v.setWidth 32 else w.extractLsb' (32 * i) 32
  p 2 ++ p 1 ++ p 0

/-- A write to a CSR that may be written: reserved fields ignore it, but where the register's rule traps (R5, R309, R366). -/
def csrSet (s : State) (c : Nat) (v : DWord) : Res State :=
  match c with
  | 0x010 => .ok (s.modW fun w => { w with cause := dw (bits v 0 6) })
  | 0x011 => .ok (s.modW fun w => { w with epc := v })
  | 0x012 => .ok (s.modW fun w => { w with elpc := v })
  | 0x013 => .ok (s.modW fun w => { w with eword := setEword w.eword 0 v })
  | 0x014 => .ok (s.modW fun w => { w with eword := setEword w.eword 1 v })
  | 0x015 => .ok (s.modW fun w => { w with eword := setEword w.eword 2 v })
  | 0x016 => .ok (s.modW fun w => { w with fva := v })
  | 0x020 => .ok (s.modW fun w => { w with rngseed := v })
  | 0x021 => .ok (s.modW fun w =>
      { w with wrapOk := v.getLsbD 0, lq := if v.getLsbD 1 then w.lq ++ [.cmd w.pc 0 w.qcount .rngReset] else w.lq })
  | 0x030 => .ok (s.modW fun w => { w with fptrap := v.setWidth 4 })
  | 0x801 => .ok (s.modW fun w => { w with drop := v.getLsbD 2, stepArmed := v.getLsbD 3, lstep := v.getLsbD 4 })
  | 0x802 => .ok (s.modW fun w => { w with rpc := v })
  | 0x840 => .ok (s.modRow s.w.ctx fun r => { r with xsel := dw (bits v 0 10) })
  | 0x841 => s.setXthr v
  | 0x850 => .ok (s.modRow s.w.ctx fun r => { r with pinQuota := bits v 0 24 })
  | 0x862 => do
    ready (!s.qregWaits v)
    .ok (s.setQreg v)
  | 0x870 => .ok { s with ctxsel := dw (bits v 0 32) }
  | 0x871 => .ok (s.setCtxctl v)
  | 0x872 => .ok (s.modSector (sectorOf s.w.core) fun x => { x with thmin := bits v 0 8 })
  | 0x873 => .ok { s with fqsel := dw (bits v 0 3) }
  | 0x874 => .ok (s.setFqval v)
  | 0x875 => do
    need (bits v 1 22 == 0 && bits v 48 16 == 0) .illegal 0
    .ok (s.modRow s.ctxSel fun r => { r with root := v })
  | 0x876 => s.setCtxskim v
  | 0x877 => do
    need (bits v 20 43 == 0) .illegal 0
    .ok (s.modRow s.ctxSel fun r => { r with pr := v })
  | 0x878 => do
    need (bits v 0 2 == 0) .illegal 0
    .ok (s.modRow s.ctxSel fun r => { r with vec := v })
  | 0x879 => do
    need (bits v 32 32 == 0) .illegal 0
    .ok (s.modRow s.ctxSel fun r => { r with wdog := v })
  | 0x880 => .ok { s with apsel := dw (bits v 0 6) }
  | 0x881 => s.setApctl v
  | _ => .ok (if 0x810 ≤ c ∧ c ≤ 0x81F then s.modW fun w => w.setKey (48 + (c - 0x810)) v else s)

/-- `csrr` (R83). -/
def execCsrr (d : BitVec 6) (c : BitVec 12) (s : State) : Host.Outcome State Fault Refusal :=
  finishSeq 4 s (do
    csrCheck s c.toNat false
    .ok (s.setS d (csrValue s c.toNat)))

/-- `csrw` (R83). -/
def execCsrw (a : BitVec 6) (c : BitVec 12) (s : State) : Host.Outcome State Fault Refusal :=
  finishSeq 4 s (do
    csrCheck s c.toNat true
    csrSet s c.toNat (s.getS a))

/-- `rdcyc` (R82): the counter has advanced by a free number of cycles since the last look at a clock (log entry 2). -/
def execRdcyc (d : BitVec 6) (s : State) : Host.Outcome State Fault Refusal :=
  let t := s.passCycles.2
  finishSeq 4 s (.ok (t.setS d t.core.cycle))

/-- `xcnt` (R107): the counts of the wave's earlier lane words are added first. -/
def execXcnt (d : BitVec 6) (k : BitVec 2) (f : BitVec 4) (s : State) : Host.Outcome State Fault Refusal :=
  finishSeq 4 s (do
    s.lanesWait
    let t := s.deliver
    .ok (t.setS d (dw (look 0 t.counters (cntKey s.w.cset f.toNat k.toNat)))))

/-- `xclr` (R108). -/
def execXclr (k : BitVec 2) (f : BitVec 4) (s : State) : Host.Outcome State Fault Refusal :=
  finishSeq 4 s (do
    s.lanesWait
    let t := s.deliver
    .ok { t with counters := put 0 t.counters (cntKey s.w.cset f.toNat k.toNat) 0 })

/-! The steps that a `csrw` to a device register makes, as events of their own (spec/95). -/

/-- The end of a device step. -/
def event (s : State) (r : Res State) : Host.Outcome State Fault Refusal :=
  match r with
  | .ok t => .next t
  | _ => .next s

/-- `XTHR_WRITE` (R110): an illegal selection writes nothing. -/
def execXthrWrite (v : DWord) (s : State) : Host.Outcome State Fault Refusal := event s (s.setXthr v)

/-- `QUEUE_REGISTER` (R264). -/
def execQueueRegister (v : DWord) (s : State) : Host.Outcome State Fault Refusal :=
  .next (if s.qregWaits (v &&& ~~~1) then s else s.setQreg (v &&& ~~~1))

/-- `QUEUE_UNREGISTER` (R264). -/
def execQueueUnregister (v : DWord) (s : State) : Host.Outcome State Fault Refusal :=
  .next (if s.qregWaits (v ||| 1) then s else s.setQreg (v ||| 1))

/-- `CTXCTL_WRITE` (R292, R293). -/
def execCtxctlWrite (v : DWord) (s : State) : Host.Outcome State Fault Refusal := .next (s.setCtxctl v)

/-- `CTXSKIM_WRITE` (R309). -/
def execCtxskimWrite (v : DWord) (s : State) : Host.Outcome State Fault Refusal := event s (s.setCtxskim v)

/-- `FQVAL_WRITE` (R323). -/
def execFqvalWrite (v : DWord) (s : State) : Host.Outcome State Fault Refusal := .next (s.setFqval v)

/-- `APCTL_WRITE` (R366). -/
def execApctlWrite (v : DWord) (s : State) : Host.Outcome State Fault Refusal := event s (s.setApctl v)

end Sys2Proof.Machine
end

