-- ==== Sys2Proof/Machine/Planes.lean ====
section
/-! DEFINITION. Planes: descriptors (R55, R135 to R140) and their commands (R137), edge modes (R141), and every plane word of lane
class 011 (R145 to R158, R384). -/

namespace Sys2Proof.Machine

open Sys2Proof

/-! Descriptors. -/

/-- A descriptor as a word reads it: its number and its fields (R55, Table 10). -/
structure Desc where
  num : Nat
  base : Nat
  fmt : Nat
  /-- crinkled rows, crinkled columns -/
  rfold : Bool
  cfold : Bool
  edge : Nat
  resv : Nat
  h : Nat
  w : Nat
  n : Nat
  stride : Nat
  deriving DecidableEq, Repr

/-- The fields of 128 bits. -/
def descOf (num : Nat) (x : BitVec 128) : Desc :=
  let f (lo n : Nat) : Nat := x.toNat / 2 ^ lo % 2 ^ n
  { num := num, base := f 0 52, fmt := f 52 4, rfold := x.getLsbD 56, cfold := x.getLsbD 57, edge := f 58 2, resv := f 60 8
    h := f 68 12 + 1, w := f 80 12 + 1, n := f 92 12 + 1, stride := f 104 24 }

/-- Descriptor register `n`. -/
def Wave.dReg (w : Wave) (n : Nat) : BitVec 128 := look 0 w.d n

/-- Write a descriptor register. -/
def Wave.setD (w : Wave) (n : Nat) (v : BitVec 128) : Wave := { w with d := put 0 w.d n v }

/-- Descriptor register `n` as fields. -/
def Wave.desc (w : Wave) (n : Nat) : Desc := descOf n (w.dReg n)

/-- Lowest bit and width of a field of `d.set` and `d.get`, and the offset of its value (Table 1). -/
def descField (f : Nat) : Nat × Nat × Nat :=
  match f with
  | 0 => (0, 52, 0)
  | 1 => (52, 4, 0)
  | 2 => (56, 1, 0)
  | 3 => (57, 1, 0)
  | 4 => (58, 2, 0)
  | 5 => (68, 12, 1)
  | 6 => (80, 12, 1)
  | 7 => (92, 12, 1)
  | _ => (104, 24, 0)

/-- The value of a field (`d.get`). -/
def getField (x : BitVec 128) (f : Nat) : DWord :=
  let (lo, n, k) := descField f
  dw (x.toNat / 2 ^ lo % 2 ^ n + k)

/-- The descriptor with a field written (`d.set`). -/
def setField (x : BitVec 128) (f : Nat) (v : DWord) : BitVec 128 :=
  let (lo, n, k) := descField f
  let m : BitVec 128 := BitVec.ofNat 128 ((2 ^ n - 1) * 2 ^ lo)
  (x &&& ~~~m) ||| (BitVec.ofNat 128 ((v.toNat - k) % 2 ^ n * 2 ^ lo))

/-- The value is in the range that `d.set` accepts (Table 1). -/
def fieldOk (f : Nat) (v : DWord) : Bool :=
  let x := v.toNat
  match f with
  | 0 => decide (x < 2 ^ 52)
  | 1 => decide (1 ≤ x) && decide (x ≤ 9)
  | 2 => decide (x ≤ 1)
  | 3 => decide (x ≤ 1)
  | 4 => decide (x ≤ 3)
  | 8 => decide (x < 2 ^ 24)
  | _ => decide (1 ≤ x) && decide (x ≤ 4096)

/-! Lane commands (R72, R245). -/

/-- The first word of a scalar instruction. -/
def wordOf (i : Instr) : Word := ((encodeScalar i).map (·.1)).getD 0

/-- A lane command takes a lane-queue entry, or waits for room (R72). -/
def State.enqueueCmd (s : State) (i : Instr) (c : Cmd) : Res State := do
  ready (s.w.lqCount < 32)
  .ok (s.modW fun w => { w with lq := w.lq ++ [.cmd w.pc (wordOf i) w.qcount c] })

/-- The end of a lane command at the head of the queue: it is accepted, or its trap is of kind 2 (R245, R311). -/
def finishCmd (s : State) (r : Res State) : Host.Outcome State Fault Refusal :=
  let (addr, word) : DWord × BitVec 96 := match s.w.lq with
    | .cmd a x _ _ :: _ => (a, x.setWidth 96)
    | _ => (0, 0)
  match r with
  | .ok t =>
    let t := t.modW fun w => { w with lq := w.lq.tail, laneBlocked := false, blocked := false, qused := w.qused || s.repro, qlw := w.qlw || s.repro }
    .next (if t.w.stepping && t.w.lstep then t.raise 0 .step 0 0 0 else t)
  | .error (.trap c fva) => .next (s.raise 2 c fva addr word)
  | .error (.engine c fva cpf cpr) => .next ((s.setEngine cpf cpr).raise 2 c fva addr word)
  | .error (.chunk fva k) => .next ((s.dropSweep k).raise 2 .chunk fva addr word)
  | .error (.entries n) => .next (s.askEntries n)
  | .error .wait => .next (s.modW fun w => { w with laneBlocked := true })
  | .error .commit => .next (s.endQuantumLane true)

/-- `d.ld` (R137): formed, checked and translated at issue. -/
def execDLd (n : BitVec 4) (a : BitVec 6) (i : Imm) (s : State) : Host.Outcome State Fault Refusal :=
  let ea := s.getS a + immVal i
  finishSeq (immLen i) s (do
    need (ea.toNat % 16 == 0) .align ea
    let l ← s.access .load ea
    (s.touchTlb false ea.toNat).enqueueCmd (.dLd n a i) (.dLd n.toNat ea l))

/-- `d.st` (R137). -/
def execDSt (n : BitVec 4) (a : BitVec 6) (i : Imm) (s : State) : Host.Outcome State Fault Refusal :=
  let ea := s.getS a + immVal i
  finishSeq (immLen i) s (do
    need (ea.toNat % 16 == 0) .align ea
    let l ← s.access .store ea
    (s.touchTlb false ea.toNat).enqueueCmd (.dSt n a i) (.dSt n.toNat l))

/-- `d.mov` (R137). -/
def execDMov (n m : BitVec 4) (s : State) : Host.Outcome State Fault Refusal :=
  finishSeq 4 s (s.enqueueCmd (.dMov n m) (.dMov n.toNat m.toNat))

/-- `d.set` (R137): the value is checked at issue. -/
def execDSet (n : BitVec 4) (a : BitVec 6) (f : BitVec 7) (s : State) : Host.Outcome State Fault Refusal :=
  finishSeq 4 s (do
    need (decide (f.toNat < 9)) .illegal 0
    need (fieldOk f.toNat (s.getS a)) .desc (dw (n.toNat + f.toNat * 2 ^ 4 + 7 * 2 ^ 9))
    s.enqueueCmd (.dSet n a f) (.dSet n.toNat f.toNat (s.getS a)))

/-- `d.get` (R137): a waiting instruction. -/
def execDGet (d : BitVec 6) (m : BitVec 4) (f : BitVec 7) (s : State) : Host.Outcome State Fault Refusal :=
  finishSeq 4 s (do
    need (decide (f.toNat < 9)) .illegal 0
    s.lanesWait
    .ok (s.setS d (getField (s.w.dReg m.toNat) f.toNat)))

/-- What a descriptor command does at the head of the queue. -/
def descWork (s : State) (c : Cmd) : Res State :=
  match c with
  | .dLd n va l => do
    let (v, t) ← s.load va l 16
    .ok (t.modW fun w => w.setD n (BitVec.ofNat 128 v))
  | .dSt n l => do
    let cells := leCells l.addr 16 (s.w.dReg n).toNat
    if s.repro then s.laneBuffer [.bytes l cells]
    else
      ready (s.w.stqRoom 1)
      .ok (s.enqueue l cells)
  | .dMov n m => .ok (s.modW fun w => w.setD n (w.dReg m))
  | .dSet n f v => .ok (s.modW fun w => w.setD n (setField (w.dReg n) f v))
  | _ => .error .wait

/-- `DESCRIPTOR_COMMAND_APPLY` (R137). -/
def execDescriptorCommandApply (s : State) : Host.Outcome State Fault Refusal :=
  match s.w.lq with
  | .cmd _ _ _ c :: _ =>
    match c with
    | .dLd _ _ _ | .dSt _ _ | .dMov _ _ | .dSet _ _ _ => finishCmd s (descWork s c)
    | _ => .next s
  | _ => .next s

/-! Layout (R136, R138, R139). -/

/-- Size of an element in half bytes (R136). -/
def nibs (fmt : Nat) : Nat := if fmt ≤ 3 then 8 else if fmt ≤ 5 then 4 else if fmt = 8 then 1 else 2

/-- Bits of an element. -/
def elemBits (fmt : Nat) : Nat := 4 * nibs fmt

/-- Extent of an axis of a plane: rows, or columns where `col`. -/
def Desc.extent (d : Desc) (col : Bool) : Nat := if col then d.w else d.h

/-- The fold bit of an axis. -/
def Desc.fold (d : Desc) (col : Bool) : Bool := if col then d.cfold else d.rfold

/-- Extent of an axis of the virtual grid. -/
def Wave.grid (w : Wave) (col : Bool) : Nat := if col then w.cols else w.rows

/-- Cells that each lane holds along an axis (R138). -/
def Wave.cells (w : Wave) (d : Desc) (col : Bool) : Nat := (d.extent col + w.grid col - 1) / w.grid col

/-- Lane coordinate and cell of an index along an axis (R138). -/
def foldMap (crinkled : Bool) (g c i : Nat) : Nat × Nat := if crinkled then (i / c, i % c) else (i % g, i / g)

/-- The index that a lane coordinate and cell stand for. -/
def unfold (crinkled : Bool) (g c lane cell : Nat) : Nat := if crinkled then lane * c + cell else cell * g + lane

/-- Footprint of one plane in each lane, in bytes (R139). -/
def Wave.planeBytes (w : Wave) (d : Desc) : Nat := (w.cells d false * w.cells d true * nibs d.fmt + 1) / 2

/-- Distance between outer planes in bytes; ignored for one plane (R136). -/
def Desc.step (d : Desc) : Nat := if d.n = 1 then 0 else 128 * d.stride

/-- Length of the whole footprint in each lane (R139). -/
def Wave.footprint (w : Wave) (d : Desc) : Nat := d.step * (d.n - 1) + w.planeBytes d

/-- Linear lane, and place in half bytes within its window, of element or pad cell (i, j) of outer plane o (R139). -/
def Wave.place (w : Wave) (d : Desc) (o i j : Nat) : Nat × Nat :=
  let (y, a) := foldMap d.rfold w.rows (w.cells d false) i
  let (x, b) := foldMap d.cfold w.cols (w.cells d true) j
  (y * w.cols + x, 2 * (d.base + d.step * o) + (a * w.cells d true + b) * nibs d.fmt)

/-! Lane memory. -/

/-- The key of a byte of a lane's window. -/
def lmKey (lane off : Nat) : Nat := lane * 4096 + off

/-- `n` half bytes of lane memory from a place. -/
def Wave.readNibs (w : Wave) (lane p n : Nat) : Nat :=
  if n = 1 then (readByte w.lm (lmKey lane (p / 2))).toNat / (if p % 2 = 0 then 1 else 16) % 16
  else readLe w.lm (lmKey lane (p / 2)) (n / 2)

/-- Lane memory with a byte written: the write leaves no error behind (log entry 15). -/
def Wave.setLm (w : Wave) (k : Nat) (b : Byte) : Wave := { w with lm := writeByte w.lm k b, lmBad := w.lmBad.filter (· != k) }

/-- Write cells of lane memory. -/
def Wave.writeLm (w : Wave) (cs : List Host.Cell) : Wave := cs.foldl (fun w c => w.setLm c.1 c.2) w

/-- Write `n` half bytes of lane memory at a place. A half byte leaves its byte's error standing (log entry 15). -/
def Wave.writeNibs (w : Wave) (lane p n v : Nat) : Wave :=
  if n = 1 then
    let k := lmKey lane (p / 2)
    let old := (readByte w.lm k).toNat
    { w with lm := writeByte w.lm k (BitVec.ofNat 8 (if p % 2 = 0 then old / 16 * 16 + v % 16 else old % 16 + v % 16 * 16)) }
  else w.writeLm (leCells (lmKey lane (p / 2)) (n / 2) v)

/-- Read an element that lies in the plane: ECC_UNCORR where its bytes carry an error (R146). -/
def Wave.readElem (w : Wave) (d : Desc) (o i j : Nat) : Res Nat :=
  let (lane, p) := w.place d o i j
  let n := nibs d.fmt
  match (List.range ((n + 1) / 2)).find? fun k => w.lmBad.contains (lmKey lane (p / 2 + k)) with
  | some k => trap .eccUncorr (dw (p / 2 + k))
  | none => .ok (w.readNibs lane p n)

/-! Edges (R141). -/

/-- `ctl.fva` of DESC (Table 4). -/
def descFva (num reason : Nat) : DWord := dw (num + reason * 2 ^ 9)

/-- The index read for index `i` of an axis of extent `e`, none for all-zero bits. -/
def edgeIndex (num edge e : Nat) (i : Int) : Res (Option Nat) :=
  if 0 ≤ i ∧ i < e then .ok (some i.toNat)
  else
    match edge with
    | 0 => .ok none
    | 1 => .ok (some (if i < 0 then 0 else e - 1))
    | 2 =>
      if e = 1 then .ok (some 0)
      else
        let p : Int := 2 * e - 2
        let j := i % p
        .ok (some (if j < e then j.toNat else (p - j).toNat))
    | _ => trap .desc (descFva num 5)

/-- `in` with index `i` along an axis and `x` across it. -/
def Wave.readAxis (w : Wave) (d : Desc) (col : Bool) (o : Nat) (i : Int) (x : Nat) : Res Nat := do
  match ← edgeIndex d.num d.edge (d.extent col) i with
  | none => .ok 0
  | some k => if col then w.readElem d o x k else w.readElem d o k x

/-! Checks of plane words (R146). -/

/-- The checks on one descriptor that name no other (R136, R146 step 1), with the format its entry asks of it. -/
def Wave.descOk (w : Wave) (d : Desc) (fmt n : Nat) : Res Unit := do
  need (d.resv == 0) .desc (descFva d.num 0)
  need (decide (1 ≤ d.fmt) && decide (d.fmt ≤ 9)) .desc (descFva d.num 1)
  need (d.base % 16 == 0) .desc (descFva d.num 4)
  need (d.n == 1 || decide ((w.planeBytes d + 15) / 16 * 16 ≤ 128 * d.stride)) .desc (descFva d.num 3)
  need (d.fmt == fmt) .desc (descFva d.num 1)
  need (d.n == n) .desc (descFva d.num 6)

/-- R140: two descriptors agree on an axis of each. -/
def Wave.agree (w : Wave) (a : Desc) (ca : Bool) (b : Desc) (cb : Bool) : Bool :=
  a.fold ca == b.fold cb || (w.cells a ca == 1 && w.cells b cb == 1)

/-- A pair of descriptors and the axes on which it is judged, as axes of the first and of the second (R384, Table 4a). -/
abbrev FoldPair := Desc × Desc × List (Bool × Bool)

/-- FOLDMISMATCH for the first pair and axis that disagree (R384). -/
def Wave.foldCheck (w : Wave) (ps : List FoldPair) : Res Unit :=
  ps.forM fun (a, b, axes) => axes.forM fun (ca, cb) =>
    need (w.agree a ca b cb) .foldMismatch (dw (a.num + b.num * 2 ^ 4 + (if ca then 2 ^ 8 else 0)))

/-- Rows, then columns. -/
def bothAxes : List (Bool × Bool) := [(false, false), (true, true)]

/-- LMBOUND where a footprint leaves the window (R139). -/
def Wave.boundCheck (w : Wave) (d : Desc) : Res Unit := need (decide (d.base + w.footprint d ≤ w.lambda)) .lmbound (dw d.num)

/-- The granules of a descriptor's footprint (R139). -/
def Wave.descGranules (w : Wave) (d : Desc) : List Nat := granules d.base (w.footprint d)

/-- A plane word as data: its descriptors with the formats asked of them, the shape rules judged at each, the pairs judged for folds,
and the element it writes. -/
structure PlaneOp where
  dst : Desc
  /-- source descriptors with their formats -/
  srcs : List (Desc × Nat)
  /-- format of dD -/
  fmt : Nat
  /-- shape rule judged at descriptor k, 0 for dD -/
  shape : Nat → Bool
  pairs : List FoldPair
  /-- format counted in, 0 for none -/
  counts : Nat
  elem : Nat → Nat → Nat → Res FRes

/-- Steps 1 and 2 of R146, and step 3. -/
def PlaneOp.check (p : PlaneOp) (w : Wave) : Res Unit := do
  let one (k : Nat) (d : Desc) (fmt : Nat) : Res Unit := do
    w.descOk d fmt p.dst.n
    need (p.shape k) .desc (descFva d.num 2)
  one 0 p.dst p.fmt
  p.srcs.zipIdx.forM fun ((d, f), k) => one (k + 1) d f
  w.foldCheck p.pairs
  w.boundCheck p.dst
  p.srcs.forM fun (d, _) => w.boundCheck d

/-- Every index triple of dD's footprint: outer plane, row index and column index, pad cells among them. -/
def Wave.cellsOf (w : Wave) (d : Desc) : List (Nat × Nat × Nat) :=
  (List.range d.n).flatMap fun o =>
    (List.range (w.cells d false * w.rows)).flatMap fun i =>
      (List.range (w.cells d true * w.cols)).map fun j => (o, i, j)

/-- What a plane word writes: each cell of dD with its value, and the kinds of its elements. -/
def PlaneOp.results (p : PlaneOp) (w : Wave) : Res (List ((Nat × Nat × Nat) × FRes)) :=
  (w.cellsOf p.dst).mapM fun (o, i, j) =>
    if i < p.dst.h ∧ j < p.dst.w then (p.elem o i j).map fun r => ((o, i, j), r) else .ok ((o, i, j), ⟨0, 0⟩)

/-- Write one cell of dD. -/
def Wave.writeCell (w : Wave) (d : Desc) (e : (Nat × Nat × Nat) × FRes) : Wave :=
  let (lane, p) := w.place d e.1.1 e.1.2.1 e.1.2.2
  w.writeNibs lane p (nibs d.fmt) (e.2.bits % 2 ^ elemBits d.fmt)

/-- The cells of dD after an uncorrectable error: each holds its old or its new value, which one is free (R146). -/
def State.someCells (s : State) (d : Desc) (es : List ((Nat × Nat × Nat) × FRes)) : State :=
  es.foldl (fun s e =>
    let (new, s) := s.choose
    if new then s.modW fun w => w.writeCell d e else s) s

/-- Steps 1 to 5 of R146: what the word will write, or what it meets before. -/
def PlaneOp.steps (p : PlaneOp) (s : State) : Res (List ((Nat × Nat × Nat) × FRes)) := do
  p.check s.w
  p.srcs.forM fun (d, _) => s.sbWait (s.w.descGranules d) false
  s.sbWait (s.w.descGranules p.dst) true
  let es ← p.results s.w
  fptrapCheck (if p.counts = 0 then 0 else s.run.fptrap) (es.map (·.2.kinds))
  .ok es

/-- The bytes of dD's cells that carry an uncorrectable error, by their place in the lane's window. -/
def Wave.badCells (w : Wave) (d : Desc) : List Nat :=
  (w.cellsOf d).flatMap fun (o, i, j) =>
    let (lane, p) := w.place d o i j
    ((List.range ((nibs d.fmt + 1) / 2)).filter fun k => w.lmBad.contains (lmKey lane (p / 2 + k))).map (p / 2 + ·)

/-- Step 6 over bytes that carry an uncorrectable error (R146): a write of half a byte has to read the byte and meets the error; whether a write
of the whole byte meets it is a free choice (log entry 15). Where several bytes are met, `ctl.fva` holds the offset of the first in the
destination's cell order (o, i, j), a choice the spec leaves open (DESIGN CHOICE, log entry 113). -/
def State.writeEcc (s : State) (d : Desc) : Option Nat × State :=
  match s.w.badCells d with
  | [] => (none, s)
  | b :: _ =>
    if nibs d.fmt = 1 then (some b, s)
    else
      let (met, t) := s.choose
      (if met then some b else none, t)

/-- A plane word (R146). -/
def planeWord (lw : LaneWord) (p : PlaneOp) (s : State) : Host.Outcome State Fault Refusal :=
  match p.steps s with
  | .error (.trap .eccUncorr off) =>
    -- the elements that no error keeps from being formed
    let es := (s.w.cellsOf p.dst).filterMap fun (o, i, j) =>
      if i < p.dst.h ∧ j < p.dst.w then (p.elem o i j).toOption.map fun r => ((o, i, j), r) else some ((o, i, j), ⟨0, 0⟩)
    .next ((s.someCells p.dst es).raise 1 .eccUncorr off s.laneTarget s.laneBits)
  | .error e => finishLane lw.mark s (.error e)
  | .ok es =>
    match s.writeEcc p.dst with
    | (some off, t) => .next ((t.someCells p.dst es).raise 1 .eccUncorr (dw off) s.laneTarget s.laneBits)
    | (none, t) =>
      let t := t.modW fun w => es.foldl (fun w e => w.writeCell p.dst e) w
      finishLane lw.mark s (.ok (if p.counts = 0 then t else t.modW fun w => w.addKinds p.counts (es.map (·.2.kinds))))

/-! Fields of plane words (R145, Table 3). -/

/-- dD. -/
def descD (w : LaneWord) : Nat := (w.fld 26 4).toNat

/-- dA. -/
def descA (w : LaneWord) : Nat := (w.fld 22 4).toNat

/-- dB. -/
def descB (w : LaneWord) : Nat := (w.fld 18 4).toNat

/-- dC. -/
def descC (w : LaneWord) : Nat := (w.fld 14 4).toNat

/-- The axis: columns. -/
def axisCol (w : LaneWord) : Bool := w.bit 13

/-- The rounding mode of a plane word. -/
def planeRnd (w : LaneWord) : Rnd := Rnd.ofCode (w.fld 11 2)

/-- `.sat` of a plane word. -/
def planeSat (w : LaneWord) : Bool := w.bit 10

/-- The uniform operand as a signed 32-bit value (R145). -/
def State.planeArg (s : State) (w : LaneWord) : Int := ((s.uniform w.a).setWidth 32).toInt

/-- Bits that count nothing. -/
def asIs (x : Nat) : FRes := ⟨x, 0⟩

/-- Index along the axis and across it. -/
def along (col : Bool) (i j : Nat) : Nat × Nat := if col then (j, i) else (i, j)

/-! Movement (R149 to R151). -/

/-- A movement word of one source with the shape and folds of dD: `f d i` is the element for index i along the axis. -/
def moveOp (w : LaneWord) (s : State) (f : Desc → Nat → Nat → Nat → Res Nat) : PlaneOp :=
  let d := s.w.desc (descD w)
  let a := s.w.desc (descA w)
  { dst := d, srcs := [(a, w.ty)], fmt := w.ty
    shape := fun k => k == 0 || (a.h == d.h && a.w == d.w)
    pairs := [(a, d, bothAxes)], counts := 0
    elem := fun o i j =>
      let (k, x) := along (axisCol w) i j
      (f a o k x).map asIs }

/-- `shift` (R149). -/
def execShift (w : LaneWord) (s : State) : Host.Outcome State Fault Refusal :=
  planeWord w (moveOp w s fun a o i x => s.w.readAxis a (axisCol w) o (i - s.planeArg w) x) s

/-- `rot` (R149). -/
def execRot (w : LaneWord) (s : State) : Host.Outcome State Fault Refusal :=
  planeWord w (moveOp w s fun a o i x => s.w.readAxis a (axisCol w) o ((i - s.planeArg w) % (a.extent (axisCol w) : Int)) x) s

/-- `rot.l1` (R150). -/
def execRotL1 (w : LaneWord) (s : State) : Host.Outcome State Fault Refusal :=
  planeWord w (moveOp w s fun a o i x =>
    let g := s.w.grid (axisCol w)
    let c := s.w.cells a (axisCol w)
    let (lane, cell) := foldMap (a.fold (axisCol w)) g c i
    let src := ((lane : Int) - s.planeArg w) % (g : Int)
    let k := unfold (a.fold (axisCol w)) g c src.toNat cell
    if k < a.extent (axisCol w) then s.w.readAxis a (axisCol w) o k x else .ok 0) s

/-- The axis other than the word's, on both descriptors. -/
def otherAxis (col : Bool) : List (Bool × Bool) := [(!col, !col)]

/-- `spread` (R151). -/
def execSpread (w : LaneWord) (s : State) : Host.Outcome State Fault Refusal :=
  let d := s.w.desc (descD w)
  let a := s.w.desc (descA w)
  planeWord w
    { dst := d, srcs := [(a, w.ty)], fmt := w.ty
      shape := fun k => k == 0 || a.extent (!(axisCol w)) == d.extent (!(axisCol w))
      pairs := [(a, d, otherAxis (axisCol w))], counts := 0
      elem := fun o i j => (s.w.readAxis a (axisCol w) o (s.planeArg w) (along (axisCol w) i j).2).map asIs } s

/-! Trees (R102, R103). -/

/-- Combine neighbours. -/
def pairUp {α : Type} (f : α → α → α) : List α → List α
  | a :: b :: r => f a b :: pairUp f r
  | l => l

/-- Combine neighbours `n` times. -/
def treeLevels {α : Type} (f : α → α → α) : Nat → List α → List α
  | 0, l => l
  | n + 1, l => treeLevels f n (pairUp f l)

/-- The least k with n ≤ 2^k. -/
def log2Up (n : Nat) : Nat := if n ≤ 1 then 0 else Nat.log2 (n - 1) + 1

/-- The pairwise tree over a list, padded with the identity (R102). -/
def tree {α : Type} (f : α → α → α) (e : α) (l : List α) : α :=
  let k := log2Up l.length
  (treeLevels f k (l ++ List.replicate (2 ^ k - l.length) e)).head?.getD e

/-- The reductions. -/
inductive Fold where
  | sum | max | min
  deriving DecidableEq, Repr

/-- The identity of a reduction (Table 6). -/
def Fold.identity (op : Fold) (t : Nat) : Nat :=
  match op with
  | .sum => if t ≤ 2 then 0 else 2 ^ (tyBits t - 1)
  | .max => if t = 1 then 2 ^ 31 else if t = 2 then 0 else infBits t true false
  | .min => if t = 1 then 2 ^ 31 - 1 else if t = 2 then 2 ^ 32 - 1 else infBits t false false

/-- One combination of a reduction: the kinds of both sides are kept, and the operands are the elements read (R105). A pad of −0 is
added as any other value is (log entry 66). -/
def Fold.combine (op : Fold) (t : Nat) (m : Rnd) (nan inf : Bool) (a b : FRes) : FRes :=
  let x := BitVec.ofNat 32 a.bits
  let y := BitVec.ofNat 32 b.bits
  let r : FRes :=
    match op with
    | .sum =>
      if t ≤ 2 then ⟨(x + y).toNat, 0⟩
      else finishF t m false nan inf (addE m (decodeF t a.bits) (decodeF t b.bits))
    | .max => ((if t ≤ 2 then maxFn t x y else fmaxFn t x y).toOption).getD ⟨0, 0⟩
    | .min => ((if t ≤ 2 then minFn t x y else fminFn t x y).toOption).getD ⟨0, 0⟩
  ⟨r.bits, r.kinds ||| a.kinds ||| b.kinds⟩

/-- Some element is NaN. -/
def anyNan (t : Nat) (xs : List Nat) : Bool := !(decide (t ≤ 2)) && xs.any fun x => (decodeF t x).isNan

/-- Some element is infinite. -/
def anyInf (t : Nat) (xs : List Nat) : Bool := !(decide (t ≤ 2)) && xs.any fun x => (decodeF t x).isInf

/-- A floating result that is NaN is written as the format's generated NaN (R92), also where one element is the whole result. -/
def oneNan (t : Nat) (r : FRes) : FRes := if 3 ≤ t ∧ (decodeF t r.bits).isNan then { r with bits := nanBits t } else r

/-- The reduction of elements by the tree. A greatest or least element is no rounding; it is an infinity produced where it is infinite and no
element is: NaN elements alone beside an infinite pad (R105, Table 7; log entry 65). -/
def Fold.reduce (op : Fold) (t : Nat) (m : Rnd) (xs : List Nat) : FRes :=
  let r := oneNan t (tree (op.combine t m (anyNan t xs) (anyInf t xs)) ⟨op.identity t, 0⟩ (xs.map asIs))
  match op with
  | .sum => r
  | _ => { r with kinds := kindsOf false (decide (3 ≤ t) && isInfBits t r.bits && !anyInf t xs) false false }

/-- The elements of a line along the axis. -/
def Wave.line (w : Wave) (a : Desc) (col : Bool) (o x : Nat) : Res (List Nat) :=
  (List.range (a.extent col)).mapM fun (i : Nat) => w.readAxis a col o i x

/-- A reduction word (R152). -/
def foldWord (f : List Nat → FRes) (fl : Bool) (w : LaneWord) (s : State) : Host.Outcome State Fault Refusal :=
  let d := s.w.desc (descD w)
  let a := s.w.desc (descA w)
  planeWord w
    { dst := d, srcs := [(a, w.ty)], fmt := w.ty
      shape := fun k => if k = 0 then d.extent (axisCol w) == 1 else d.extent (!(axisCol w)) == a.extent (!(axisCol w))
      pairs := [(a, d, otherAxis (axisCol w))], counts := if fl then w.ty else 0
      elem := fun o i j => (s.w.line a (axisCol w) o (along (axisCol w) i j).2).map f } s

/-- `fold.sum` (R152). -/
def execFoldSum (w : LaneWord) (s : State) : Host.Outcome State Fault Refusal :=
  foldWord (Fold.reduce .sum w.ty (planeRnd w)) (decide (3 ≤ w.ty)) w s

/-- `fold.max` (R152). -/
def execFoldMax (w : LaneWord) (s : State) : Host.Outcome State Fault Refusal :=
  foldWord (Fold.reduce .max w.ty .rne) (decide (3 ≤ w.ty)) w s

/-- `fold.min` (R152). -/
def execFoldMin (w : LaneWord) (s : State) : Host.Outcome State Fault Refusal :=
  foldWord (Fold.reduce .min w.ty .rne) (decide (3 ≤ w.ty)) w s

/-- The sum of squares, each square rounded to nearest even (R154). -/
def sumSq (m : Rnd) (xs : List Nat) : FRes :=
  let nan := anyNan 3 xs
  let inf := anyInf 3 xs
  let sq (x : Nat) : FRes := finishF 3 .rne false nan inf (mulV (decodeF 3 x) (decodeF 3 x)).exact
  tree (Fold.combine .sum 3 m nan inf) ⟨Fold.identity .sum 3, 0⟩ (xs.map sq)

/-- `fold.sq` (R154). -/
def execFoldSq (w : LaneWord) (s : State) : Host.Outcome State Fault Refusal := foldWord (sumSq (planeRnd w)) true w s

/-- The aligned blocks that make up the first `n` elements, largest first (R103): `k` bits of the count are left. -/
def blocks {α : Type} : Nat → Nat → List α → List (List α)
  | 0, _, _ => []
  | k + 1, n, l => if 2 ^ k ≤ n then l.take (2 ^ k) :: blocks k (n - 2 ^ k) (l.drop (2 ^ k)) else blocks k n l

/-- y_i of a scan: the blocks of the first i + 1 elements, each by the tree, from the lowest up (R103). -/
def scanAt (t : Nat) (m : Rnd) (xs : List Nat) (i : Nat) : FRes :=
  let ys := xs.take (i + 1)
  let c := Fold.combine .sum t m (anyNan t ys) (anyInf t ys)
  let e : FRes := ⟨Fold.identity .sum t, 0⟩
  match (blocks 13 (i + 1) (ys.map asIs)).map (tree c e) with
  | [] => e
  | b :: r => oneNan t (r.foldl c b)

/-- `scan` (R153). -/
def execScan (w : LaneWord) (s : State) : Host.Outcome State Fault Refusal :=
  let d := s.w.desc (descD w)
  let a := s.w.desc (descA w)
  planeWord w
    { dst := d, srcs := [(a, w.ty)], fmt := w.ty
      shape := fun k => k == 0 || (a.h == d.h && a.w == d.w)
      pairs := [(a, d, bothAxes)], counts := if 3 ≤ w.ty then w.ty else 0
      elem := fun o i j =>
        let (k, x) := along (axisCol w) i j
        (s.w.line a (axisCol w) o x).map fun xs => scanAt w.ty (planeRnd w) xs k } s

/-! Layout changes and gathers (R155 to R157). -/

/-- `refold` (R155). -/
def execRefold (w : LaneWord) (s : State) : Host.Outcome State Fault Refusal :=
  let d := s.w.desc (descD w)
  let a := s.w.desc (descA w)
  planeWord w
    { dst := d, srcs := [(a, w.ty)], fmt := w.ty
      shape := fun k => k == 0 || (a.h == d.h && a.w == d.w)
      pairs := [], counts := 0
      elem := fun o i j => (s.w.readElem a o i j).map asIs } s

/-- `ptrans` (R156). -/
def execPtrans (w : LaneWord) (s : State) : Host.Outcome State Fault Refusal :=
  let d := s.w.desc (descD w)
  let a := s.w.desc (descA w)
  planeWord w
    { dst := d, srcs := [(a, w.ty)], fmt := w.ty
      shape := fun k => k == 0 || (d.h == a.w && d.w == a.h)
      pairs := [(a, d, [(false, true), (true, false)])], counts := 0
      elem := fun o i j => (s.w.readElem a o j i).map asIs } s

/-- `pick` (R157). -/
def execPick (w : LaneWord) (s : State) : Host.Outcome State Fault Refusal :=
  let d := s.w.desc (descD w)
  let a := s.w.desc (descA w)
  let b := s.w.desc (descB w)
  planeWord w
    { dst := d, srcs := [(a, w.ty), (b, 1)], fmt := w.ty
      shape := fun k =>
        if k = 0 then true else if k = 1 then a.extent (!(axisCol w)) == d.extent (!(axisCol w)) else b.h == d.h && b.w == d.w
      pairs := [(a, d, otherAxis (axisCol w)), (b, d, bothAxes)], counts := 0
      elem := fun o i j => do
        let k ← s.w.readElem b o i j
        (s.w.readAxis a (axisCol w) o (BitVec.ofNat 32 k).toInt (along (axisCol w) i j).2).map asIs } s

/-! Plane arithmetic (R158). -/

/-- An elementwise plane word of some source descriptors. -/
def planeArith (srcs : List Nat) (f : List Word → Res FRes) (counts : Bool) (w : LaneWord) (s : State) :
    Host.Outcome State Fault Refusal :=
  let d := s.w.desc (descD w)
  let ds := srcs.map s.w.desc
  let first := (ds.head?).getD d
  planeWord w
    { dst := d, srcs := ds.map fun x => (x, w.ty), fmt := w.ty
      shape := fun k => k == 0 || ((ds[k - 1]?).map fun x => x.h == d.h && x.w == d.w).getD true
      pairs := (ds.tail ++ [d]).map fun x => (first, x, bothAxes)
      counts := if counts && decide (3 ≤ w.ty) then w.ty else 0
      elem := fun o i j => do
        let xs ← ds.mapM fun x => s.w.readElem x o i j
        f (xs.map (BitVec.ofNat 32)) } s

/-- The first, second and third operands. -/
def nth (xs : List Word) (k : Nat) : Word := (xs[k]?).getD 0

/-- `p.add` (R158). -/
def execPAdd (w : LaneWord) (s : State) : Host.Outcome State Fault Refusal :=
  planeArith [(descA w), (descB w)] (fun xs =>
    if w.ty ≤ 2 then addFn w.ty (planeSat w) (nth xs 0) (nth xs 1) else faddFn w.ty (planeRnd w) (planeSat w) (nth xs 0) (nth xs 1)) true w s

/-- `p.mul` (R158). -/
def execPMul (w : LaneWord) (s : State) : Host.Outcome State Fault Refusal :=
  planeArith [(descA w), (descB w)] (fun xs =>
    if w.ty ≤ 2 then mulFn w.ty (planeSat w) (nth xs 0) (nth xs 1) else fmulFn w.ty (planeRnd w) (planeSat w) (nth xs 0) (nth xs 1)) true w s

/-- `p.fma` (R158). -/
def execPFma (w : LaneWord) (s : State) : Host.Outcome State Fault Refusal :=
  planeArith [(descA w), (descB w), (descC w)] (fun xs => fmaFn w.ty (planeRnd w) (planeSat w) (nth xs 0) (nth xs 1) (nth xs 2)) true w s

/-- `p.max` (R158). -/
def execPMax (w : LaneWord) (s : State) : Host.Outcome State Fault Refusal :=
  planeArith [(descA w), (descB w)] (fun xs =>
    if w.ty ≤ 2 then maxFn w.ty (nth xs 0) (nth xs 1) else fmaxFn w.ty (nth xs 0) (nth xs 1)) true w s

/-- `p.min` (R158). -/
def execPMin (w : LaneWord) (s : State) : Host.Outcome State Fault Refusal :=
  planeArith [(descA w), (descB w)] (fun xs =>
    if w.ty ≤ 2 then minFn w.ty (nth xs 0) (nth xs 1) else fminFn w.ty (nth xs 0) (nth xs 1)) true w s

end Sys2Proof.Machine
end

