-- ==== Sys2Proof/Machine/Dot.lean ====
section
/-! DEFINITION. Dot cells and redundant accumulators: the entry and its additions (R160 to R165), the class 100 words (R167 to R183,
R185), the accumulator commands (R170, R171), and sweeps (R175 to R177, R249). -/

namespace Sys2Proof.Machine

open Sys2Proof

/-! Accumulator entries (R90, R161 to R165). -/

/-- The key of an entry: plane, lane, and 8i + j. -/
def accKey (p lane e : Nat) : Nat := (p * 16384 + lane) * 64 + e

/-- An accumulator entry. -/
def Wave.entry (w : Wave) (p lane e : Nat) : AccEntry := look {} w.acc (accKey p lane e)

/-- Write an accumulator entry. -/
def Wave.setEntry (w : Wave) (p lane e : Nat) (x : AccEntry) : Wave := { w with acc := put {} w.acc (accKey p lane e) x }

/-- The anchor of a plane in a lane. -/
def Wave.anchorOf (w : Wave) (p lane : Nat) : BitVec 10 := look 0 w.anchor (vKey p lane)

/-- Set the anchor of a plane in a lane. -/
def Wave.setAnchor (w : Wave) (p lane : Nat) (a : BitVec 10) : Wave := { w with anchor := put 0 w.anchor (vKey p lane) a }

/-- The top field with an amount added, and whether it wrapped (R162). -/
def topAdd (t : BitVec 6) (k : Int) : BitVec 6 × Bool :=
  let n := t.toInt + k
  (BitVec.ofInt 6 n, decide (n < -32) || decide (31 < n))

/-- The carry-save step (R162). -/
def AccEntry.step (e : AccEntry) (x : BitVec 64) (signed : Bool) : AccEntry :=
  let m := (e.s &&& e.c) ||| (e.s &&& x) ||| (e.c &&& x)
  let b (y : Bool) : Int := if y then 1 else 0
  let (t, wrapped) := topAdd e.t (b m.msb - b (signed && x.msb))
  { e with s := e.s ^^^ e.c ^^^ x, c := m <<< 1, t := t, w := e.w || wrapped }

/-- Raw addition (R165). -/
def AccEntry.rawAdd (e i : AccEntry) : AccEntry :=
  let e := (e.step i.s false).step i.c false
  let (t, wrapped) := topAdd e.t i.t.toInt
  { e with t := t, w := e.w || wrapped || i.w, n := e.n || i.n, p := e.p || i.p, m := e.m || i.m }

/-- V, as a signed 70-bit number (R90, R161). -/
def AccEntry.value (e : AccEntry) : Int := (BitVec.ofNat 70 (e.s.toNat + e.c.toNat + e.t.toNat * 2 ^ 64)).toInt

/-- A cleared entry (R170). -/
def AccEntry.clear : AccEntry := {}

/-- The value of a scale word (R89). -/
def scaleVal (x : Word) : Val := decodeF 3 (x.toNat / 4 * 4)

/-- The element format of a scale word's tag (R89, Table 2). -/
def tagFmt (x : Word) : Nat := x.toNat % 4 + 6

/-- Exact addition of values, where the sum of +∞ and −∞ is NaN (R163). -/
def addV (a b : Val) : Val :=
  match a, b with
  | .nan, _ => .nan
  | _, .nan => .nan
  | .inf x, .inf y => if x = y then .inf x else .nan
  | .inf x, _ => .inf x
  | _, .inf y => .inf y
  | .fin n1 m1 e1, .fin n2 m2 e2 =>
    let e := min e1 e2
    let n := scaled n1 m1 e1 e + scaled n2 m2 e2 e
    .fin (decide (n < 0)) n.natAbs e

/-- The exact sum of a chunk's products (R163). -/
def chunkSum (ps : List (Val × Val)) : Val := (ps.map fun (a, b) => mulV a b).foldl addV (.fin false 0 0)

/-- Promotion of a chunk sum with two scales into an entry of an anchor (R163). -/
def AccEntry.promote (e : AccEntry) (anchor : BitVec 10) (sigma sa sb : Val) : AccEntry :=
  match mulV (mulV sigma sa) sb with
  | .nan => { e with n := true }
  | .inf false => { e with p := true }
  | .inf true => { e with m := true }
  | .fin neg mant exp =>
    let x := roundInt .rne neg mant (exp - (anchor.toInt - 62)) false
    if x < -(2 ^ 63) ∨ 2 ^ 63 ≤ x then { e with w := true } else e.step (BitVec.ofInt 64 x) true

/-! Common parts of class 100 words (R160, R167 to R169). -/

/-- The plane a destination names. -/
def dstPlane (w : LaneWord) : Nat :=
  match w.dst with
  | .a n => n.toNat
  | _ => 0

/-- The source plane aS (Table 2). -/
def srcPlane (w : LaneWord) : Nat := if w.bit 24 then 1 else 0

/-- R160: the wave owns the plane. -/
def owned (s : State) (p : Nat) : Res Unit := need (decide (p < s.w.accPlanes)) .regrange 0

/-- The register and plane checks of a class 100 word with checked results: REGRANGE of either kind stands before HAZARD (R44, R160),
and HAZARD before the rest of R169's list, which does not name it (DESIGN CHOICE, log entry 86). -/
def State.accCheck (s : State) (op : Nat) (w : LaneWord) (planes : List Nat) : Res Unit := do
  s.rangeCheck op w
  planes.forM (owned s)
  s.hazardCheck op w false

/-- `ctl.fva` of CHUNK, ANCHOR and ACCWRAP (R168). -/
def accFva (num reason : Nat) (b4 : Bool) : DWord := dw (num + (if b4 then 2 ^ 4 else 0) + reason * 2 ^ 9)

/-- uv of a uniform lane-memory base: a 32-bit operand, as the lane address of R201 (R30; DEDUCED, log 26). -/
def State.lmBase (s : State) (x : Src) : Nat := ((s.uniform x).setWidth 32).toNat

/-- The lane-memory operand: uv(A) + offset (R167, R168). -/
def lmAddr (s : State) (w : LaneWord) : Nat := s.lmBase w.a + 16 * (w.fld 4 16).toNat

/-- ALIGN, LMBOUND and the scoreboard wait of a lane-memory operand of `n` bytes, where some lane is active (R167, R169). -/
def lmCheck (s : State) (w : LaneWord) (n : Nat) (write : Bool) (lanes : List Nat) : Res Unit :=
  let a := lmAddr s w
  if lanes.isEmpty then .ok ()
  else do
    need (s.lmBase w.a % 16 == 0) .align (dw a)
    need (decide (a + n ≤ s.w.lambda)) .lmbound (dw a)
    s.sbWait (granules a n) write

/-- ECC_UNCORR where a byte read from lane memory carries an error (log entry 15). -/
def lmEcc (w : Wave) (lanes : List Nat) (a n : Nat) : Res Unit :=
  lanes.forM fun L =>
    match (List.range n).find? fun k => w.lmBad.contains (lmKey L (a + k)) with
    | some k => trap .eccUncorr (dw (a + k))
    | none => .ok ()

/-! `dot` and `dot.sp` (R172, R173). -/

/-- Byte `k` of a word. -/
def byteAt (x : Word) (k : Nat) : Nat := x.toNat / 2 ^ (8 * k) % 2 ^ 8

/-- Whether the scale tags of a type select 4-bit elements (R164). -/
def tagBad (ty : Nat) (x : Word) : Bool := (tagFmt x == 8) != (ty == 8)

/-- The formats of rows of A and of B: from the scale tags, or the type for 16-bit elements (R164). -/
def rowFmt (ty : Nat) (x : Word) : Nat := if ty ≤ 5 then ty else tagFmt x

/-- The value of a scale: 1.0 for 16-bit types (R163). -/
def rowScale (ty : Nat) (x : Word) : Val := if ty ≤ 5 then .fin false 1 0 else scaleVal x

/-- Elements of a chunk (R163). -/
def chunkLen (ty : Nat) : Nat := if ty ≤ 5 then 4 else 8

/-- Element (i, k) of A, or (k, i) of B, in registers from `base` (Table 3). -/
def dotElem (w : Wave) (ty lane base i k : Nat) : Nat :=
  if ty = 8 then (w.v32 (base + i) lane).toNat / 2 ^ (4 * k) % 16
  else if ty ≤ 5 then (w.v32 (base + 2 * i + k / 2) lane).toNat / 2 ^ (16 * (k % 2)) % 2 ^ 16
  else byteAt (w.v32 (base + 2 * i + k / 4) lane) (k % 4)

/-- CHUNK with reason 1 where a tag's width differs, rows before the tile (R164, R168). -/
def tagCheck (ty num : Nat) (rows tiles : List Word) : Res Unit := do
  need (!(rows.any (tagBad ty))) .chunk (accFva num 1 false)
  need (!(tiles.any (tagBad ty))) .chunk (accFva 0 1 true)

/-- Promote into every entry of a plane in some lanes: `f lane i j` lists the chunk sums, `rows` and `tile` give the scales. -/
def Wave.promoteAll (w : Wave) (p : Nat) (lanes : List Nat) (ty : Nat) (f : Nat → Nat → Nat → List Val)
    (rows : Nat → Nat → Word) (tile : Nat → Word) : Wave :=
  lanes.foldl (fun w' L =>
    (List.range 64).foldl (fun w' e =>
      let x := (f L (e / 8) (e % 8)).foldl (fun x sg =>
        x.promote (w.anchorOf p L) sg (rowScale ty (rows L (e / 8))) (rowScale ty (tile L))) (w.entry p L e)
      w'.setEntry p L e x) w') w

/-- The base register of a source of kind 00. -/
def srcReg (x : Src) : Nat :=
  match x with
  | .v r => r.toNat
  | _ => 0

/-- A dot word: its checks, and its promotions. -/
def dotWord (op : Nat) (w : LaneWord) (f : Nat → Nat → Nat → List Val) (s : State) : Host.Outcome State Fault Refusal :=
  let p := dstPlane w
  let vr := (w.fld 11 9).toNat
  finishLane w.mark s (do
    s.accCheck op w [p]
    s.planeWait p
    let lanes := s.w.active w.guard
    let rows (L i : Nat) : Word := s.w.v32 (vr + i) L
    let tile (L : Nat) : Word := s.src 0 w.c L
    if w.ty ≤ 5 then .ok () else tagCheck w.ty 0 (lanes.flatMap fun L => (List.range 8).map (rows L)) (lanes.map tile)
    .ok (s.modW fun x => x.promoteAll p lanes w.ty f rows tile))

/-- `dot` (R172). -/
def execDot (w : LaneWord) (s : State) : Host.Outcome State Fault Refusal :=
  dotWord 0x400 w (fun L i j =>
    let fa := rowFmt w.ty (s.w.v32 ((w.fld 11 9).toNat + i) L)
    let fb := rowFmt w.ty (s.src 0 w.c L)
    [chunkSum ((List.range (chunkLen w.ty)).map fun k =>
      (decodeV fa (dotElem s.w w.ty L (srcReg w.a) i k), decodeV fb (dotElem s.w w.ty L (srcReg w.b) j k)))]) s

/-- The kept value and index of column j, group g, slot t of a compressed B (R173). -/
def spValue (w : Wave) (lane base j g t : Nat) : Nat × Nat :=
  (byteAt (w.v32 (base + 2 * j + g / 2) lane) ((2 * g + t) % 4),
   (w.v32 (base + 16 + j / 2) lane).toNat / 2 ^ (16 * (j % 2) + 4 * g + 2 * t) % 4)

/-- `dot.sp` (R173). -/
def execDotSp (w : LaneWord) (s : State) : Host.Outcome State Fault Refusal :=
  dotWord 0x401 w (fun L i j =>
    let fa := rowFmt w.ty (s.w.v32 ((w.fld 11 9).toNat + i) L)
    let fb := rowFmt w.ty (s.src 0 w.c L)
    [0, 1].map fun q =>
      chunkSum ([(2 * q, 0), (2 * q, 1), (2 * q + 1, 0), (2 * q + 1, 1)].map fun (g, t) =>
        let (b, idx) := spValue s.w L (srcReg w.b) j g t
        let k := 4 * g + idx
        (decodeV fa (byteAt (s.w.v32 (srcReg w.a + 4 * i + k / 4) L) (k % 4)), decodeV fb b))) s

/-- `dot.i4` (R185): removed at this level. -/
def execDotI4 (w : LaneWord) (s : State) : Host.Outcome State Fault Refusal := finishLane w.mark s (trap .unimpl 0)

/-! `spack` (R174). -/

/-- An element is non-zero: its bits encode neither zero. -/
def spNonZero (ty b : Nat) : Bool := if ty = 9 then b != 0 else b % 128 != 0

/-- The indices of a group that are kept, ascending, and whether an element was lost. -/
def spKeep (nz : Nat → Bool) : List Nat × Bool :=
  let all := (List.range 4).filter nz
  let two := all.take 2
  let keep := two ++ ((List.range 4).filter fun k => !two.contains k).take (2 - two.length)
  ((List.range 4).filter keep.contains, decide (2 < all.length))

/-- The 20 words of a lane's compressed B, and whether it was lossy. -/
def spackLane (w : Wave) (ty base lane : Nat) : List Word × Bool :=
  let elem (k j : Nat) : Nat := byteAt (w.v32 (base + 4 * j + k / 4) lane) (k % 4)
  let keep (j g : Nat) : List Nat × Bool := spKeep fun k => spNonZero ty (elem (4 * g + k) j)
  let kept (j g t : Nat) : Nat := ((keep j g).1[t]?).getD 0
  let vals := (List.range 16).map fun r =>
    -- register 2j + g div 2 holds groups 2h and 2h + 1 of column j
    let j := r / 2
    let h := r % 2
    BitVec.ofNat 32 ((List.range 4).foldl (fun acc b =>
      let g := 2 * h + b / 2
      acc + elem (4 * g + kept j g (b % 2)) j * 2 ^ (8 * b)) 0)
  let idx := (List.range 4).map fun r =>
    BitVec.ofNat 32 ((List.range 16).foldl (fun acc x =>
      -- columns 2r and 2r + 1, groups 0 to 3, slots 0 and 1
      let j := 2 * r + x / 8
      acc + kept j (x / 2 % 4) (x % 2) * 2 ^ (2 * x)) 0)
  (vals ++ idx, (List.range 8).any fun j => (List.range 4).any fun g => (keep j g).2)

/-- The base register of a destination. -/
def dstReg (x : Dst) : Nat :=
  match x with
  | .v r => r.toNat
  | _ => 0

/-- `spack` (R174). -/
def execSpack (w : LaneWord) (s : State) : Host.Outcome State Fault Refusal :=
  finishLane w.mark s (do
    s.regCheck 0x404 w false
    let lanes := s.w.active w.guard
    let rs := lanes.map fun L => (L, spackLane s.w w.ty (srcReg w.a) L)
    .ok (s.modW fun x =>
      let x := (List.range 20).foldl (fun x r => x.writeV (dstReg w.dst + r) (rs.map fun e => (e.1, (e.2.1[r]?).getD 0))) x
      x.writeM (w.fld 21 3).toNat (rs.map fun e => (e.1, e.2.2))))

/-! `resolve`, `acc.cmp`, `acc.flags` (R178 to R180). -/

/-- An entry converted to a format (R178). -/
def AccEntry.resolve (e : AccEntry) (anchor : BitVec 10) (ty : Nat) (m : Rnd) (sat : Bool) : FRes :=
  let x : Exact :=
    if e.n || (e.p && e.m) then .nan
    else if e.p then .inf false
    else if e.m then .inf true
    else .fin (decide (e.value < 0)) e.value.natAbs (anchor.toInt - 62) false
  finishF ty m sat e.n (e.p || e.m) x

/-- `resolve` (R178). -/
def execResolve (w : LaneWord) (s : State) : Host.Outcome State Fault Refusal :=
  let p := srcPlane w
  let bytes := tyBits w.ty / 8
  finishLane w.mark s (do
    s.accCheck 0x405 w [p]
    let lanes := s.w.active w.guard
    if w.bit 20 then lmCheck s w (64 * bytes) true lanes else .ok ()
    s.planeWait p
    need (w.bit 26 || !(lanes.any fun L => (List.range 64).any fun e => (s.w.entry p L e).w)) .accwrap (accFva 0 0 (p == 1))
    let rs := lanes.flatMap fun L => (List.range 64).map fun e =>
      (L, e, (s.w.entry p L e).resolve (s.w.anchorOf p L) w.ty (rndOf w) (satOf w))
    let ks := rs.map (·.2.2.kinds)
    fptrapCheck s.run.fptrap ks
    let t := s.modW fun x =>
      let x := rs.foldl (fun x (L, e, r) =>
        if w.bit 20 then x.writeLm (leCells (lmKey L (lmAddr s w + e * bytes)) bytes r.bits)
        else x.writeV (dstReg w.dst + e) [(L, BitVec.ofNat 32 r.bits)]) x
      let x := if w.bit 25 then rs.foldl (fun x (L, e, _) => x.setEntry p L e {}) x else x
      x.addKinds w.ty ks
    .ok t)

/-- An entry as a value to compare: none where unordered (R179). -/
def AccEntry.ordered (e : AccEntry) : Option (Option Bool × Int) :=
  if e.n || (e.p && e.m) then none
  else if e.p then some (some true, 0)
  else if e.m then some (some false, 0)
  else some (none, e.value)

/-- The order of two entries of one anchor (R179). -/
def accOrder (a b : AccEntry) : Option Int :=
  match a.ordered, b.ordered with
  | some (some x, _), some (some y, _) => some (if x = y then 0 else if x then 1 else -1)
  | some (some x, _), some (none, _) => some (if x then 1 else -1)
  | some (none, _), some (some y, _) => some (if y then -1 else 1)
  | some (none, x), some (none, y) => some (ordInt x y)
  | _, _ => none

/-- Write the two words of a bitmap over the entries in each lane (R179). -/
def Wave.writeMap (w : Wave) (d : Nat) (lanes : List Nat) (f : Nat → Nat → Bool) : Wave :=
  let word (L h : Nat) : Word := BitVec.ofNat 32 ((List.range 32).foldl (fun acc b => if f L (32 * h + b) then acc + 2 ^ b else acc) 0)
  [0, 1].foldl (fun w h => w.writeV (d + h) (lanes.map fun L => (L, word L h))) w

/-- `acc.cmp` (R179). -/
def execAccCmp (w : LaneWord) (s : State) : Host.Outcome State Fault Refusal :=
  let p := srcPlane w
  let q := 1 - p
  let zero := w.bit 20
  finishLane w.mark s (do
    s.accCheck 0x406 w ([p] ++ if zero then [] else [q])
    s.planeWait p
    if zero then .ok () else s.planeWait q
    let lanes := s.w.active w.guard
    need (zero || lanes.all fun L => s.w.anchorOf p L == s.w.anchorOf q L) .anchor (accFva 0 0 (p == 1))
    .ok (s.modW fun x => x.writeMap (dstReg w.dst) lanes fun L e =>
      condHolds (w.fld 21 3).toNat (accOrder (s.w.entry p L e) (if zero then {} else s.w.entry q L e))))

/-- `acc.flags` (R180): selector 0 W, 1 N, 2 P, 3 M, 4 any. -/
def execAccFlags (w : LaneWord) (s : State) : Host.Outcome State Fault Refusal :=
  let p := srcPlane w
  let f := (w.fld 21 3).toNat
  let sel (k : Nat) : Bool := f == k || f == 4
  finishLane w.mark s (do
    s.accCheck 0x40A w [p]
    s.planeWait p
    let lanes := s.w.active w.guard
    .ok (s.modW fun x =>
      let x := x.writeMap (dstReg w.dst) lanes fun L e =>
        let y := s.w.entry p L e
        (sel 0 && y.w) || (sel 1 && y.n) || (sel 2 && y.p) || (sel 3 && y.m)
      if w.bit 25 then
        lanes.foldl (fun x L => (List.range 64).foldl (fun x e =>
          let y := s.w.entry p L e
          x.setEntry p L e { y with w := y.w && !sel 0, n := y.n && !sel 1, p := y.p && !sel 2, m := y.m && !sel 3 }) x) x
      else x))

/-! Raw images (R90, R181 to R183). -/

/-- The 24 bytes of an entry with its anchor, as a number. -/
def AccEntry.image (e : AccEntry) (anchor : BitVec 10) : Nat :=
  let b (x : Bool) : Nat := if x then 1 else 0
  e.s.toNat + e.c.toNat * 2 ^ 64 + e.t.toNat * 2 ^ 128 + (b e.w + 2 * b e.n + 4 * b e.p + 8 * b e.m) * 2 ^ 136
    + anchor.toNat * 2 ^ 144

/-- The entry and anchor copy of 24 bytes; reserved bits are ignored (R182). -/
def imageEntry (x : Nat) : AccEntry × BitVec 10 :=
  let f (lo n : Nat) : Nat := x / 2 ^ lo % 2 ^ n
  ({ s := BitVec.ofNat 64 (f 0 64), c := BitVec.ofNat 64 (f 64 64), t := BitVec.ofNat 6 (f 128 6)
     w := f 136 1 == 1, n := f 137 1 == 1, p := f 138 1 == 1, m := f 139 1 == 1 },
   BitVec.ofNat 10 (f 144 10))

/-- Entry e of the image at a lane-memory address of a lane. -/
def Wave.lmImage (w : Wave) (lane a e : Nat) : AccEntry × BitVec 10 := imageEntry (readLe w.lm (lmKey lane (a + 24 * e)) 24)

/-- `acc.save` (R181). -/
def execAccSave (w : LaneWord) (s : State) : Host.Outcome State Fault Refusal :=
  let p := srcPlane w
  finishLane w.mark s (do
    s.accCheck 0x408 w [p]
    let lanes := s.w.active w.guard
    lmCheck s w 1536 true lanes
    s.planeWait p
    .ok (s.modW fun x => lanes.foldl (fun x L => (List.range 64).foldl (fun x e =>
      x.writeLm (leCells (lmKey L (lmAddr s w + 24 * e)) 24 ((s.w.entry p L e).image (s.w.anchorOf p L)))) x) x))

/-- `acc.load` (R182). ECC_UNCORR of an image stands after the scoreboard and before ANCHOR (DESIGN CHOICE, log entry 87). -/
def execAccLoad (w : LaneWord) (s : State) : Host.Outcome State Fault Refusal :=
  let p := dstPlane w
  let a := lmAddr s w
  finishLane w.mark s (do
    s.accCheck 0x409 w [p]
    let lanes := s.w.active w.guard
    lmCheck s w 1536 false lanes
    s.planeWait p
    lmEcc s.w lanes a 1536
    need (lanes.all fun L => (List.range 64).all fun e => (s.w.lmImage L a e).2 == (s.w.lmImage L a 0).2) .anchor
      (accFva 0 1 (p == 1))
    .ok (s.modW fun x => lanes.foldl (fun x L =>
      (List.range 64).foldl (fun x e => x.setEntry p L e (s.w.lmImage L a e).1) (x.setAnchor p L (s.w.lmImage L a 0).2)) x))

/-- `acc.merge` (R183), from lane memory or from plane aS; ECC_UNCORR as in `acc.load` (DESIGN CHOICE, log entry 87). -/
def execAccMerge (w : LaneWord) (s : State) : Host.Outcome State Fault Refusal :=
  let p := dstPlane w
  let q := srcPlane w
  let plane := w.bit 20
  let a := lmAddr s w
  let src (L e : Nat) : AccEntry × BitVec 10 := if plane then (s.w.entry q L e, s.w.anchorOf q L) else s.w.lmImage L a e
  finishLane w.mark s (do
    s.accCheck 0x407 w ([p] ++ if plane then [q] else [])
    let lanes := s.w.active w.guard
    if plane then .ok () else lmCheck s w 1536 false lanes
    s.planeWait p
    if plane then s.planeWait q else lmEcc s.w lanes a 1536
    need (lanes.all fun L => (List.range 64).all fun e => (src L e).2 == s.w.anchorOf p L) .anchor (accFva 0 0 (p == 1))
    .ok (s.modW fun x => lanes.foldl (fun x L => (List.range 64).foldl (fun x e =>
      x.setEntry p L e ((s.w.entry p L e).rawAdd (src L e).1)) x) x))

/-! Accumulator commands (R170, R171). -/

/-- `acc.clr` (R170). -/
def execAccClr (n : BitVec 1) (s : State) : Host.Outcome State Fault Refusal :=
  finishSeq 4 s (do
    owned s n.toNat
    s.enqueueCmd (.accClr n) (.accClr n.toNat))

/-- `acc.anc` (R171). -/
def execAccAnc (n : BitVec 1) (a : BitVec 6) (s : State) : Host.Outcome State Fault Refusal :=
  let v := (s.getS a).toInt
  finishSeq 4 s (do
    owned s n.toNat
    need (decide (-512 ≤ v) && decide (v ≤ 511)) .anchor (accFva 0 2 (n == 1))
    s.enqueueCmd (.accAnc n a) (.accAnc n.toNat (BitVec.ofInt 10 v)))

/-- Clear every entry of a plane. -/
def Wave.clearPlane (w : Wave) (p : Nat) : Wave :=
  { w with acc := w.acc.filter fun e => e.1 / 64 / 16384 != p }

/-- `ACC_CONTROL_APPLY`: the command at the head of the queue acts on every virtual lane (R170, R171). -/
def execAccControlApply (s : State) : Host.Outcome State Fault Refusal :=
  match s.w.lq with
  | .cmd _ _ _ (.accClr p) :: _ =>
    finishCmd s (do
      s.planeWait p
      .ok (s.modW fun w => w.clearPlane p))
  | .cmd _ _ _ (.accAnc p v) :: _ =>
    finishCmd s (do
      s.planeWait p
      .ok (s.modW fun w => (List.range w.lanes).foldl (fun w L => w.setAnchor p L v) (w.clearPlane p)))
  | _ => .next s

/-! Sweeps (R175 to R177, R249). -/

/-- The checks of a sweep's descriptors that hold for one of them: shape rule and format asked (R175, R177). -/
structure SweepDesc where
  d : Desc
  fmtOk : Bool
  shape : Bool
  /-- it must be crinkled on every axis of more than one cell -/
  crinkled : Bool

/-- The descriptors of a sweep in the order of their checks (R175, R177): dA, dB, dS, dM. K/2 and K/4 are rounded down where K is no
multiple (DESIGN CHOICE, log entry 90). -/
def sweepDescs (w : Wave) (sp : Bool) (ty : Nat) (da db ds dm : Desc) : List SweepDesc :=
  let g := w.rows
  let k := da.w
  [{ d := da, fmtOk := da.fmt == ty, shape := da.h == 8 * g && w.rows == w.cols && (decide (ty ≤ 5) || decide (k ≤ 128)), crinkled := true },
   { d := db, fmtOk := nibs db.fmt == nibs ty, shape := db.h == (if sp then k / 2 else k) && db.w == 8 * g, crinkled := true }]
  ++ (if ty ≤ 5 then [] else [{ d := ds, fmtOk := ds.fmt == 2, shape := ds.h == 8 * g && ds.w == 1, crinkled := false }])
  ++ (if sp then [{ d := dm, fmtOk := dm.fmt == 9, shape := dm.h == k / 4 && dm.w == 8 * g, crinkled := true }] else [])

/-- The issue checks of a sweep (R175, R176 step 1, R169). -/
def sweepCheck (w : Wave) (sp : Bool) (ty : Nat) (xs : List SweepDesc) (k numA : Nat) : Res Unit := do
  xs.forM fun x => do
    need (x.d.resv == 0) .desc (descFva x.d.num 0)
    need (decide (1 ≤ x.d.fmt) && decide (x.d.fmt ≤ 9)) .desc (descFva x.d.num 1)
    need (x.d.base % 16 == 0) .desc (descFva x.d.num 4)
    need (x.d.n == 1 || decide ((w.planeBytes x.d + 15) / 16 * 16 ≤ 128 * x.d.stride)) .desc (descFva x.d.num 3)
    need x.fmtOk .desc (descFva x.d.num 1)
    need (x.d.n == 1) .desc (descFva x.d.num 6)
    need x.shape .desc (descFva x.d.num 2)
  xs.forM fun x => [false, true].forM fun col =>
    need (!x.crinkled || x.d.fold col || w.cells x.d col == 1) .foldMismatch
      (dw (x.d.num + x.d.num * 2 ^ 4 + (if col then 2 ^ 8 else 0)))
  xs.forM fun x => w.boundCheck x.d
  need (k % ((if sp then 8 else chunkLen ty) * w.rows) == 0) .chunk (accFva numA 0 false)

/-- An element of a plane in lane memory as a sweep reads it: a byte with an error is used as it stands (DESIGN CHOICE, log entry 88). -/
def Wave.rawElem (w : Wave) (d : Desc) (i j : Nat) : Nat :=
  let (lane, p) := w.place d 0 i j
  w.readNibs lane p (nibs d.fmt)

/-- The row scale words of dS. -/
def Wave.rowScales (w : Wave) (x : SweepOp) : List Word :=
  let ds := descOf x.dsNum x.ds
  if x.ty ≤ 5 then [] else (List.range (8 * w.rows)).map fun r => BitVec.ofNat 32 (w.rawElem ds r 0)

/-- The tag check of R176 step 4. -/
def sweepTags (w : Wave) (x : SweepOp) : Res Unit :=
  if x.ty ≤ 5 then .ok () else tagCheck x.ty x.dsNum (w.rowScales x) [x.tile.setWidth 32]

/-- The promotions of a sweep (R175, R177). -/
def Wave.sweepPromote (w : Wave) (x : SweepOp) : Wave :=
  let da := descOf 0 x.da
  let db := descOf 0 x.db
  let dm := descOf 0 x.dm
  let scales := w.rowScales x
  let tile : Word := x.tile.setWidth 32
  let row (L i : Nat) : Nat := 8 * (L / w.cols) + i
  let col (L j : Nat) : Nat := 8 * (L % w.cols) + j
  let scale (r : Nat) : Word := (scales[r]?).getD 0
  let a (r k : Nat) : Val := decodeV (rowFmt x.ty (scale r)) (w.rawElem da r k)
  let b (r k : Nat) : Val := decodeV (rowFmt x.ty tile) (w.rawElem db r k)
  let ch := chunkLen x.ty
  let sums (L i j : Nat) : List Val :=
    if x.sparse then
      (List.range (da.w / 8)).map fun q =>
        chunkSum ([(2 * q, 0), (2 * q, 1), (2 * q + 1, 0), (2 * q + 1, 1)].map fun (g, t) =>
          let idx := w.rawElem dm g (col L j) / 4 ^ t % 4
          (a (row L i) (4 * g + idx), b (2 * g + t) (col L j)))
    else
      (List.range (da.w / ch)).map fun q =>
        chunkSum ((List.range ch).map fun k => (a (row L i) (ch * q + k), b (ch * q + k) (col L j)))
  w.promoteAll x.plane (List.range w.lanes) x.ty sums (fun L i => scale (row L i)) fun _ => tile

/-- A footprint's interval: its first granule and the number of its granules (R236). -/
def Wave.interval (w : Wave) (d : Desc) : Nat × Nat :=
  let gs := w.descGranules d
  (gs.head?.getD 0, gs.length)

/-- The scoreboard entry of a footprint. -/
def footEntry (w : Wave) (d : Desc) (rd wr : Bool) (kind ref : Nat) : SbEntry :=
  { first := (w.interval d).1, n := (w.interval d).2, rd := rd, wr := wr, owner := w.slot, kind := kind, ref := ref, bitmap := 0
    fault := false, held := false }

/-- The granules that the elements of a descriptor's first plane stand in. -/
def Wave.elemGranules (w : Wave) (d : Desc) : List Nat :=
  nub ((List.range d.h).flatMap fun i => (List.range d.w).map fun j => (w.place d 0 i j).2 / 32)

/-- The entry of a descriptor footprint of a sweep: a chunk in which it reads no element has landed (R237, R238). -/
def Wave.sweepEntry (w : Wave) (id : Nat) (d : Desc) : SbEntry := (footEntry w d true false 1 id).withLeft (w.elemGranules d)

/-- A sweep word (R175 to R177): bound to a `cp.plane.sw` where one waits for it (R249). Its entries are recorded before it waits for the
granules of its footprints and judges its tags (R176 steps 2 to 4). Earlier sweeps on its plane are waited for before step 2 (DESIGN
CHOICE, log entry 89). -/
def sweepWord (sp : Bool) (op : Nat) (w : LaneWord) (s : State) : Host.Outcome State Fault Refusal :=
  let p := dstPlane w
  let num (lo : Nat) : Nat := (w.fld lo 4).toNat
  let da := s.w.desc (num 16)
  let db := s.w.desc (num 12)
  let ds := s.w.desc (num 8)
  let dm := s.w.desc (num 4)
  let xs := sweepDescs s.w sp w.ty da db ds dm
  let op' : SweepOp :=
    { id := s.w.sweepId, sys := s.w.sys, sparse := sp, plane := p, ty := w.ty, tile := s.uniform w.a
      da := s.w.dReg (num 16), db := s.w.dReg (num 12), ds := s.w.dReg (num 8), dm := s.w.dReg (num 4), dsNum := num 8
      bound := s.w.binder, started := s.w.binder.isNone, bad := none
      prior := (s.core.sb.filter fun e => e.owner == s.w.slot && !(e.kind == 1 && e.ref == s.w.sweepId)).map fun e => (e.kind, e.ref)
      foot := xs.map fun x => s.w.interval x.d }
  -- a footprint that is the copy's destination takes no entry of its own (R249)
  let isCopy (e : SbEntry) : Bool := e.kind == 0 && some e.ref == s.w.binder && e.owner == s.w.slot
  let es := xs.map fun x => s.w.sweepEntry op'.id x.d
  let merged (e : SbEntry) : Bool := s.core.sb.any fun c => isCopy c && c.first == e.first && c.n == e.n
  let recorded : Res State := do
    s.accCheck op w [p]
    sweepCheck s.w sp w.ty xs da.w da.num
    s.planeWait p
    if s.w.swTaken then .ok s
    else
      let t ← s.takeEntries (es.filter fun e => !merged e)
      .ok ((t.modW fun x => { x with swTaken := true }).modCore fun c =>
        { c with sb := c.sb.map fun y =>
            if isCopy y && es.any (fun e => y.first == e.first && y.n == e.n) then { y with rd := true } else y })
  match recorded with
  | .error e => finishLane w.mark s (.error e)
  | .ok t =>
    let start : Res Unit :=
      if s.w.binder.isSome then .ok ()
      else do
        t.sbWait (xs.flatMap fun x => s.w.descGranules x.d) false
        sweepTags s.w op'
    match start with
    | .ok _ => finishLane w.mark s (.ok (t.modW fun x =>
        { x with sweeps := x.sweeps ++ [op'], sweepId := x.sweepId + 1, binder := none, swTaken := false }))
    | .error .wait => .next (t.modW fun x => { x with laneBlocked := true })
    | .error e => finishLane w.mark t.untakeSweep (.error e)

/-- `sweep` (R175, R176). -/
def execSweep (w : LaneWord) (s : State) : Host.Outcome State Fault Refusal := sweepWord false 0x402 w s

/-- `sweep.sp` (R177). -/
def execSweepSp (w : LaneWord) (s : State) : Host.Outcome State Fault Refusal := sweepWord true 0x403 w s

/-- The copy operation with a ticket has completed, or is no longer known (R240). -/
def Wave.copyDone (w : Wave) (ticket : Nat) : Bool := ((w.opOf ticket).map (·.done)).getD true

/-- The entries left when a sweep completes: its own go, and so does its copy's where the copy has completed (R240, R249). -/
def State.freeSweep (s : State) (x : SweepOp) : State :=
  s.modCore fun c =>
    { c with sb := c.sb.filter fun e =>
        e.owner != s.w.slot || !((e.kind == 1 && e.ref == x.id)
          || (e.kind == 0 && x.bound == some e.ref && e.rd && e.wr && s.w.copyDone e.ref)) }

/-- Every chunk of a copy's lane-memory side has landed. -/
def CopyOp.landed (o : CopyOp) : Bool := o.accepted && o.todo.isEmpty && o.fault.isNone && o.held.isNone

/-- The entries recorded before a sweep's own, without its copy's. -/
def State.entriesBefore (s : State) (x : SweepOp) : List SbEntry :=
  s.core.sb.filter fun e => e.owner == s.w.slot && x.after e

/-- A bound sweep may start: its copy has landed, and so has every granule it reads (R249). -/
def State.sweepReady (s : State) (x : SweepOp) : Bool :=
  !x.started && x.bad.isNone &&
    (match x.bound with
     | some t => ((s.w.opOf t).map (·.landed)).getD true
     | none => true) &&
    x.granules.all fun g => !(s.entriesBefore x).any fun e => e.holds g false

/-- `BOUND_SWEEP_START`: the first bound sweep whose conditions hold starts, after its tag check (R249, R176 step 4). -/
def execBoundSweepStart (s : State) : Host.Outcome State Fault Refusal :=
  match s.w.sweeps.find? s.sweepReady with
  | none => .next s
  | some x =>
    let set (y : SweepOp) : State := s.modW fun w => { w with sweeps := w.sweeps.map fun z => if z.id = x.id then y else z }
    match sweepTags s.w x with
    | .error (.trap _ fva) => .next ((set { x with started := true, bad := some fva }).freeSweep x)
    | _ => .next (set { x with started := true })

/-- `SWEEP_COMPLETE`: sweep k of the wave has added its last promotion (R176). -/
def execSweepComplete (k : Nat) (s : State) : Host.Outcome State Fault Refusal :=
  match s.w.sweeps[k]? with
  | none => .next s
  | some x =>
    if !x.started || x.bad.isSome then .next s
    else .next (((s.modW fun w => w.sweepPromote x).dropSweep x.id).freeSweep x |>.modW fun w =>
      { w with blocked := false, laneBlocked := false })

end Sys2Proof.Machine
end

