-- ==== Sys2Proof/Machine/LaneFp.lean ====
section
/-! DEFINITION. Floating-point and special-function lane instructions (R127, R128). -/

namespace Sys2Proof.Machine

open Sys2Proof

/-- `fadd` (R127). -/
def execFadd (f : LaneForm) (s : State) : Host.Outcome State Fault Refusal :=
  match f with
  | .full w => elementwise 0x100 w w.ty w.ty false (fun a b _ => faddFn w.ty (rndOf w) (satOf w) a b) s
  | .pair mark x yop y => pairWord mark .fadd x yop y s

/-- `fsub` (R127). -/
def execFsub (f : LaneForm) (s : State) : Host.Outcome State Fault Refusal :=
  match f with
  | .full w => elementwise 0x101 w w.ty w.ty false (fun a b _ => fsubFn w.ty (rndOf w) (satOf w) a b) s
  | .pair mark x yop y => pairWord mark .fsub x yop y s

/-- `fmul` (R127). -/
def execFmul (f : LaneForm) (s : State) : Host.Outcome State Fault Refusal :=
  match f with
  | .full w => elementwise 0x102 w w.ty w.ty false (fun a b _ => fmulFn w.ty (rndOf w) (satOf w) a b) s
  | .pair mark x yop y => pairWord mark .fmul x yop y s

/-- `fma` (R127). -/
def execFma (w : LaneWord) (s : State) : Host.Outcome State Fault Refusal :=
  elementwise 0x103 w w.ty w.ty false (fun a b c => fmaFn w.ty (rndOf w) (satOf w) a b c) s

/-- `fmin` (R127). -/
def execFmin (f : LaneForm) (s : State) : Host.Outcome State Fault Refusal :=
  match f with
  | .full w => elementwise 0x104 w w.ty w.ty false (fun a b _ => fminFn w.ty a b) s
  | .pair mark x yop y => pairWord mark .fmin x yop y s

/-- `fmax` (R127). -/
def execFmax (f : LaneForm) (s : State) : Host.Outcome State Fault Refusal :=
  match f with
  | .full w => elementwise 0x105 w w.ty w.ty false (fun a b _ => fmaxFn w.ty a b) s
  | .pair mark x yop y => pairWord mark .fmax x yop y s

/-- `fabs` (R127). -/
def execFabs (f : LaneForm) (s : State) : Host.Outcome State Fault Refusal :=
  match f with
  | .full w => elementwise 0x106 w w.ty w.ty false (fun a _ _ => fabsFn w.ty a) s
  | .pair mark x yop y => pairWord mark .fabs x yop y s

/-- `fneg` (R127). -/
def execFneg (f : LaneForm) (s : State) : Host.Outcome State Fault Refusal :=
  match f with
  | .full w => elementwise 0x107 w w.ty w.ty false (fun a _ _ => fnegFn w.ty a) s
  | .pair mark x yop y => pairWord mark .fneg x yop y s

/-- `fdiv` (R127). -/
def execFdiv (w : LaneWord) (s : State) : Host.Outcome State Fault Refusal :=
  elementwise 0x109 w w.ty w.ty false (fun a b _ => fdivFn (rndOf w) (satOf w) a b) s

/-- `rcp` (R128, R116). -/
def execRcp (f : LaneForm) (s : State) : Host.Outcome State Fault Refusal :=
  match f with
  | .full w => elementwise 0x110 w w.ty 3 true (fun a _ _ => specialFn rcpE (rndOf w) a) s
  | .pair mark x yop y => pairWord mark .rcp x yop y s

/-- `rsqrt` (R128, R116). -/
def execRsqrt (f : LaneForm) (s : State) : Host.Outcome State Fault Refusal :=
  match f with
  | .full w => elementwise 0x111 w w.ty 3 true (fun a _ _ => specialFn rsqrtE (rndOf w) a) s
  | .pair mark x yop y => pairWord mark .rsqrt x yop y s

/-- `sqrt` (R128, R116). -/
def execSqrt (w : LaneWord) (s : State) : Host.Outcome State Fault Refusal :=
  elementwise 0x112 w w.ty 3 true (fun a _ _ => specialFn sqrtE (rndOf w) a) s

/-- `exp2` (R128, R116). -/
def execExp2 (w : LaneWord) (s : State) : Host.Outcome State Fault Refusal :=
  elementwise 0x113 w w.ty 3 true (fun a _ _ => specialFn exp2E (rndOf w) a) s

/-- `log2` (R128, R116). -/
def execLog2 (w : LaneWord) (s : State) : Host.Outcome State Fault Refusal :=
  elementwise 0x114 w w.ty 3 true (fun a _ _ => specialFn log2E (rndOf w) a) s

/-- `sin` (R128, R116). -/
def execSin (w : LaneWord) (s : State) : Host.Outcome State Fault Refusal :=
  elementwise 0x115 w w.ty 3 true (fun a _ _ => specialFn sinE (rndOf w) a) s

/-- `cos` (R128, R116). -/
def execCos (w : LaneWord) (s : State) : Host.Outcome State Fault Refusal :=
  elementwise 0x116 w w.ty 3 true (fun a _ _ => specialFn cosE (rndOf w) a) s

/-- `tanh` (R128, R116). -/
def execTanh (w : LaneWord) (s : State) : Host.Outcome State Fault Refusal :=
  elementwise 0x117 w w.ty 3 true (fun a _ _ => specialFn tanhE (rndOf w) a) s

end Sys2Proof.Machine
end

