-- ==== Sys2Proof/Machine/LaneInt.lean ====
section
/-! DEFINITION. Integer lane instructions, compares and masks, random numbers, lane identity and indirect moves (R122 to R126,
R129 to R133). -/

namespace Sys2Proof.Machine

open Sys2Proof

/-- `mov` (R122). -/
def execMov (f : LaneForm) (s : State) : Host.Outcome State Fault Refusal :=
  match f with
  | .full w => elementwise 0x000 w w.ty 0 false (fun a _ _ => plain a) s
  | .pair mark x yop y => pairWord mark .mov x yop y s

/-- `add` (R122). -/
def execLaneAdd (f : LaneForm) (s : State) : Host.Outcome State Fault Refusal :=
  match f with
  | .full w => elementwise 0x001 w w.ty 0 false (fun a b _ => addFn w.ty (satOf w) a b) s
  | .pair mark x yop y => pairWord mark .add x yop y s

/-- `sub` (R122). -/
def execLaneSub (f : LaneForm) (s : State) : Host.Outcome State Fault Refusal :=
  match f with
  | .full w => elementwise 0x002 w w.ty 0 false (fun a b _ => subFn w.ty (satOf w) a b) s
  | .pair mark x yop y => pairWord mark .sub x yop y s

/-- `mul` (R122). -/
def execLaneMul (f : LaneForm) (s : State) : Host.Outcome State Fault Refusal :=
  match f with
  | .full w => elementwise 0x003 w w.ty 0 false (fun a b _ => mulFn w.ty (satOf w) a b) s
  | .pair mark x yop y => pairWord mark .mul x yop y s

/-- `mulh` (R122). -/
def execLaneMulh (w : LaneWord) (s : State) : Host.Outcome State Fault Refusal :=
  elementwise 0x004 w w.ty 0 false (fun a b _ => mulhFn w.ty a b) s

/-- `mad` (R122). -/
def execMad (w : LaneWord) (s : State) : Host.Outcome State Fault Refusal :=
  elementwise 0x005 w w.ty 0 false (fun a b c => madFn w.ty (satOf w) a b c) s

/-- `and` (R122). -/
def execLaneAnd (f : LaneForm) (s : State) : Host.Outcome State Fault Refusal :=
  match f with
  | .full w => elementwise 0x006 w w.ty 0 false (fun a b _ => plain (a &&& b)) s
  | .pair mark x yop y => pairWord mark .and x yop y s

/-- `or` (R122). -/
def execLaneOr (f : LaneForm) (s : State) : Host.Outcome State Fault Refusal :=
  match f with
  | .full w => elementwise 0x007 w w.ty 0 false (fun a b _ => plain (a ||| b)) s
  | .pair mark x yop y => pairWord mark .or x yop y s

/-- `xor` (R122). -/
def execLaneXor (f : LaneForm) (s : State) : Host.Outcome State Fault Refusal :=
  match f with
  | .full w => elementwise 0x008 w w.ty 0 false (fun a b _ => plain (a ^^^ b)) s
  | .pair mark x yop y => pairWord mark .xor x yop y s

/-- `andn` (R122). -/
def execLaneAndn (f : LaneForm) (s : State) : Host.Outcome State Fault Refusal :=
  match f with
  | .full w => elementwise 0x009 w w.ty 0 false (fun a b _ => plain (a &&& ~~~b)) s
  | .pair mark x yop y => pairWord mark .andn x yop y s

/-- `shl` (R122). -/
def execLaneShl (f : LaneForm) (s : State) : Host.Outcome State Fault Refusal :=
  match f with
  | .full w => elementwise 0x00A w w.ty 0 false (fun a b _ => shlFn a b) s
  | .pair mark x yop y => pairWord mark .shl x yop y s

/-- `shr` (R122). -/
def execLaneShr (f : LaneForm) (s : State) : Host.Outcome State Fault Refusal :=
  match f with
  | .full w => elementwise 0x00B w w.ty 0 false (fun a b _ => shrFn a b) s
  | .pair mark x yop y => pairWord mark .shr x yop y s

/-- `sra` (R122). -/
def execLaneSra (f : LaneForm) (s : State) : Host.Outcome State Fault Refusal :=
  match f with
  | .full w => elementwise 0x00C w w.ty 0 false (fun a b _ => sraFn a b) s
  | .pair mark x yop y => pairWord mark .sra x yop y s

/-- `min` (R122). -/
def execLaneMin (f : LaneForm) (s : State) : Host.Outcome State Fault Refusal :=
  match f with
  | .full w => elementwise 0x00D w w.ty 0 false (fun a b _ => minFn w.ty a b) s
  | .pair mark x yop y => pairWord mark .min x yop y s

/-- `max` (R122). -/
def execLaneMax (f : LaneForm) (s : State) : Host.Outcome State Fault Refusal :=
  match f with
  | .full w => elementwise 0x00E w w.ty 0 false (fun a b _ => maxFn w.ty a b) s
  | .pair mark x yop y => pairWord mark .max x yop y s

/-- `abs` (R122). -/
def execAbs (f : LaneForm) (s : State) : Host.Outcome State Fault Refusal :=
  match f with
  | .full w => elementwise 0x00F w w.ty 0 false (fun a _ _ => absFn (satOf w) a) s
  | .pair mark x yop y => pairWord mark .abs x yop y s

/-- `neg` (R122). -/
def execNeg (f : LaneForm) (s : State) : Host.Outcome State Fault Refusal :=
  match f with
  | .full w => elementwise 0x010 w w.ty 0 false (fun a _ _ => negFn (satOf w) a) s
  | .pair mark x yop y => pairWord mark .neg x yop y s

/-- `clz` (R122). -/
def execLaneClz (w : LaneWord) (s : State) : Host.Outcome State Fault Refusal :=
  elementwise 0x011 w w.ty 0 false (fun a _ _ => clzFn a) s

/-- `pop` (R122). -/
def execLanePop (w : LaneWord) (s : State) : Host.Outcome State Fault Refusal :=
  elementwise 0x012 w w.ty 0 false (fun a _ _ => popFn a) s

/-- `div` (R122, R124). -/
def execLaneDiv (w : LaneWord) (s : State) : Host.Outcome State Fault Refusal :=
  elementwise 0x013 w w.ty 0 false (fun a b _ => divFn w.ty a b) s

/-- `rem` (R122, R124). -/
def execLaneRem (w : LaneWord) (s : State) : Host.Outcome State Fault Refusal :=
  elementwise 0x014 w w.ty 0 false (fun a b _ => remFn w.ty a b) s

/-- `bfx` (R122, R123). -/
def execBfx (w : LaneWord) (s : State) : Host.Outcome State Fault Refusal :=
  elementwise 0x015 w w.ty 0 false (fun a b _ => bfxFn w.ty a b) s

/-- `bfi` (R122, R123). -/
def execBfi (w : LaneWord) (s : State) : Host.Outcome State Fault Refusal :=
  elementwise 0x016 w w.ty 0 false (fun a b c => bfiFn a b c) s

/-- Write a mask register in the active lanes (R125, R126). -/
def maskWord (op : Nat) (w : LaneWord) (f : State → Nat → Bool) (s : State) : Host.Outcome State Fault Refusal :=
  finishLane w.mark s (do
    s.regCheck op w false
    let lanes := s.w.active w.guard
    (queuesOf (wordSources op w)).forM fun n => popCheck s n 1 lanes
    let es := lanes.map fun L => (L, f s L)
    let t := s.modW fun x => (queuesOf (wordSources op w)).foldl (fun x n => x.pop n 1 lanes) x
    match w.dst with
    | .m k => .ok (t.modW fun x => x.writeM k.toNat es)
    | _ => .ok t)

/-- `cmp` (R125). -/
def execCmp (w : LaneWord) (s : State) : Host.Outcome State Fault Refusal :=
  maskWord 0x017 w (fun s L =>
    condHolds (w.fld 24 3).toNat (some (ordInt (intOf w.ty (s.src w.ty w.a L)) (intOf w.ty (s.src w.ty w.b L))))) s

/-- `fcmp` (R125). -/
def execFcmp (w : LaneWord) (s : State) : Host.Outcome State Fault Refusal :=
  maskWord 0x108 w (fun s L =>
    condHolds (w.fld 24 3).toNat (cmpV (fval w.ty (s.src w.ty w.a L)) (fval w.ty (s.src w.ty w.b L)))) s

/-- The mask source X of a word. -/
def maskX (w : LaneWord) : Nat := (w.fld 24 3).toNat

/-- The mask source Y of a word. -/
def maskY (w : LaneWord) : Nat := (w.fld 21 3).toNat

/-- `mand` (R126). -/
def execMand (w : LaneWord) (s : State) : Host.Outcome State Fault Refusal :=
  maskWord 0x018 w (fun s L => s.w.mBit (maskX w) L && s.w.mBit (maskY w) L) s

/-- `mor` (R126). -/
def execMor (w : LaneWord) (s : State) : Host.Outcome State Fault Refusal :=
  maskWord 0x019 w (fun s L => s.w.mBit (maskX w) L || s.w.mBit (maskY w) L) s

/-- `mxor` (R126). -/
def execMxor (w : LaneWord) (s : State) : Host.Outcome State Fault Refusal :=
  maskWord 0x01A w (fun s L => s.w.mBit (maskX w) L != s.w.mBit (maskY w) L) s

/-- `mnot` (R126). -/
def execMnot (w : LaneWord) (s : State) : Host.Outcome State Fault Refusal :=
  maskWord 0x01B w (fun s L => !s.w.mBit (maskX w) L) s

/-- `mset` (R126). -/
def execMset (w : LaneWord) (s : State) : Host.Outcome State Fault Refusal :=
  maskWord 0x01C w (fun s L => s.src 0 w.a L != 0) s

/-- A word with no operands per lane that writes one value per active lane (R126, R131). -/
def identWord (op : Nat) (w : LaneWord) (f : State → Nat → Word) (s : State) : Host.Outcome State Fault Refusal :=
  finishLane w.mark s (do
    s.regCheck op w false
    let lanes := s.w.active w.guard
    dstCheck s w.dst lanes
    .ok (s.writeDst w.dst false (lanes.map fun L => (L, f s L))))

/-- `mget` (R126). -/
def execMget (w : LaneWord) (s : State) : Host.Outcome State Fault Refusal :=
  identWord 0x01D w (fun s L => if s.w.mBit (maskX w) L then 1 else 0) s

/-- `lid` (R131). -/
def execLid (w : LaneWord) (s : State) : Host.Outcome State Fault Refusal :=
  identWord 0x01F w (fun s L =>
    BitVec.ofNat 32 (match (w.fld 24 3).toNat with
      | 0 => L / s.w.cols
      | 1 => L % s.w.cols
      | 2 => L
      | 3 => s.w.widx
      | _ => s.w.crewIdx)) s

/-- One draw of the generator of R129 from a counter and the three keys. -/
def rngDraw (ctr k0 k1 k2 : DWord) : DWord :=
  let (x, y) := (List.range 10).foldl (fun (p : DWord × DWord) i =>
    let k := if i % 2 = 0 then k0 else k1
    let x := (p.1 + (p.2 ^^^ k) + dw i).rotateLeft 23
    (x, (p.2 ^^^ x).rotateLeft 41)) (ctr, k2 ^^^ 0x9C3B17E4A6D2508F)
  x ^^^ y

/-- k2 of R129: wave index ∥ virtual row ∥ virtual column. -/
def rngK2 (w : Wave) (lane : Nat) : DWord := dw (w.widx % 16 * 2 ^ 12 + lane / w.cols % 64 * 2 ^ 6 + lane % w.cols % 64)

/-- `rng` (R129). -/
def execRng (w : LaneWord) (s : State) : Host.Outcome State Fault Refusal :=
  finishLane w.mark s (do
    s.regCheck 0x01E w false
    let lanes := s.w.active w.guard
    dstCheck s w.dst lanes
    need (s.run.wrapOk || lanes.all fun L => look 0 s.w.rng L != BitVec.allOnes 64) .rngwrap 0
    let k1 := dw (s.w.ctx % 2 ^ 32 * 2 ^ 32 + s.w.crewIdx % 2 ^ 32)
    let es := lanes.map fun L =>
      let out := rngDraw (look 0 s.w.rng L) s.run.seed k1 (rngK2 s.w L)
      (L, if w.ty = 2 then out.setWidth 32
          else BitVec.ofNat 32 (roundFin 3 .rne false false (bits out 8 24) (-24) false).bits)
    let t := s.modW fun x => { x with rng := putAll 0 x.rng (lanes.map fun L => (L, look 0 x.rng L + 1)) }
    .ok (t.writeDst w.dst false es))

/-- `rdx` (R132). -/
def execRdx (w : LaneWord) (s : State) : Host.Outcome State Fault Refusal :=
  finishLane w.mark s (do
    s.regCheck 0x020 w false
    let lanes := s.w.active w.guard
    (queuesOf [w.a]).forM fun n => popCheck s n 1 lanes
    dstCheck s w.dst lanes
    let rs := lanes.map fun L => (L, indexBase 0x020 w + (s.src 0 w.a L).toNat)
    need (rs.all fun e => decide (e.2 < s.w.regs)) .regrange 0
    need (rs.all fun e => !s.w.pend.contains e.2) .hazard 0
    let t := s.modW fun x => (queuesOf [w.a]).foldl (fun x n => x.pop n 1 lanes) x
    .ok (t.writeDst w.dst false (rs.map fun e => (e.1, s.w.v32 e.2 e.1))))

/-- `wrx`: source B carries the value (R132). -/
def execWrx (w : LaneWord) (s : State) : Host.Outcome State Fault Refusal :=
  finishLane w.mark s (do
    s.regCheck 0x021 w true
    let lanes := s.w.active w.guard
    (queuesOf [w.a, w.b]).forM fun n => popCheck s n 1 lanes
    let base := match w.dst with
      | .v r => r.toNat
      | _ => 0
    let rs := lanes.map fun L => (L, base + (s.src 0 w.a L).toNat)
    need (rs.all fun e => decide (e.2 < s.w.regs)) .regrange 0
    need (rs.all fun e => !s.w.pend.contains e.2) .hazard 0
    let vs := rs.map fun e => (vKey e.2 e.1, s.src 0 w.b e.1)
    .ok (s.modW fun x =>
      let x := (queuesOf [w.a, w.b]).foldl (fun x n => x.pop n 1 lanes) x
      { x with v := putAll 0 x.v vs }))

/-- `bmix`: removed at level 2, it traps UNIMPL (R133, R59, R331). -/
def execBmix (w : LaneWord) (s : State) : Host.Outcome State Fault Refusal := finishLane w.mark s (trap .unimpl 0)

end Sys2Proof.Machine
end

