-- ==== Sys2Proof/Machine/MemScalar.lean ====
section
/-! DEFINITION. Scalar memory instructions: loads and stores (R197), atomics (R206, R207, R222), `ldv` (R210), fences (R211, R223),
pinning (R212), data prefetch (R214), `cst4` (R365), and the return of a scalar result (R62). -/

namespace Sys2Proof.Machine

open Sys2Proof

/-- The address of a scalar access (R197). -/
def effAddr (s : State) (a : BitVec 6) (i : Imm) : DWord := s.getS a + immVal i

/-- An address aligned to its size, or ALIGN. -/
def aligned (ea : DWord) (n : Nat) : Res Unit := need (ea.toNat % n == 0) .align ea

/-- `n` little-endian bytes extended to 64 bits. -/
def extend (n : Nat) (signed : Bool) (v : Nat) : DWord := if signed then (BitVec.ofNat (8 * n) v).signExtend 64 else dw v

/-- A scalar load of `n` bytes (R197): the result is on its way to sd. -/
def scalarLoad (n : Nat) (signed : Bool) (d a : BitVec 6) (i : Imm) (s : State) : Host.Outcome State Fault Refusal :=
  finishSeq (immLen i) s (do
    reproWait s
    let ea := effAddr s a i
    aligned ea n
    let l ← s.access .load ea
    let (v, t) ← s.load ea l n
    .ok (t.sendS d (extend n signed v)))

/-- A scalar store of `n` bytes (R197). -/
def scalarStore (n : Nat) (d a : BitVec 6) (i : Imm) (s : State) : Host.Outcome State Fault Refusal :=
  finishSeq (immLen i) s (do
    reproWait s
    let ea := effAddr s a i
    aligned ea n
    let l ← s.access .store ea
    s.store ea l n (s.getS d).toNat)

/-- `ldb` (R197). -/
def execLdb (d a : BitVec 6) (i : Imm) (s : State) : Host.Outcome State Fault Refusal :=
  scalarLoad 1 true d a i s

/-- `ldbn` (R197). -/
def execLdbn (d a : BitVec 6) (i : Imm) (s : State) : Host.Outcome State Fault Refusal :=
  scalarLoad 1 false d a i s

/-- `ldh` (R197). -/
def execLdh (d a : BitVec 6) (i : Imm) (s : State) : Host.Outcome State Fault Refusal :=
  scalarLoad 2 true d a i s

/-- `ldhn` (R197). -/
def execLdhn (d a : BitVec 6) (i : Imm) (s : State) : Host.Outcome State Fault Refusal :=
  scalarLoad 2 false d a i s

/-- `ldw` (R197). -/
def execLdw (d a : BitVec 6) (i : Imm) (s : State) : Host.Outcome State Fault Refusal :=
  scalarLoad 4 true d a i s

/-- `ldwn` (R197). -/
def execLdwn (d a : BitVec 6) (i : Imm) (s : State) : Host.Outcome State Fault Refusal :=
  scalarLoad 4 false d a i s

/-- `ldd` (R197). -/
def execLdd (d a : BitVec 6) (i : Imm) (s : State) : Host.Outcome State Fault Refusal :=
  scalarLoad 8 false d a i s

/-- `stb` (R197). -/
def execStb (d a : BitVec 6) (i : Imm) (s : State) : Host.Outcome State Fault Refusal :=
  scalarStore 1 d a i s

/-- `sth` (R197). -/
def execSth (d a : BitVec 6) (i : Imm) (s : State) : Host.Outcome State Fault Refusal :=
  scalarStore 2 d a i s

/-- `stw` (R197). -/
def execStw (d a : BitVec 6) (i : Imm) (s : State) : Host.Outcome State Fault Refusal :=
  scalarStore 4 d a i s

/-- `std` (R197). -/
def execStd (d a : BitVec 6) (i : Imm) (s : State) : Host.Outcome State Fault Refusal :=
  scalarStore 8 d a i s

/-- `SCALAR_LOAD_RETURN`: result k in flight reaches its register (R62, R197). -/
def execScalarLoadReturn (k : Nat) (s : State) : Host.Outcome State Fault Refusal :=
  match s.w.sret[k]? with
  | some (key, v) => .next (s.modW fun w => { w with s := put 0 w.s key v, sret := w.sret.eraseIdx k })
  | none => .next s

/-! Fences (R211, R223) and what they share with the ordered atomics. -/

/-- A scope of sector or wider (R211). -/
def wide (scope : Nat) : Bool := decide (2 ≤ scope)

/-- What a release waits for (R211): lane entries enqueued before it, and every store acknowledged. -/
def releaseWait (s : State) : Res Unit := ready s.storesAcked

/-- What an acquire does to the core's L1 (R211). -/
def State.acquire (s : State) (scope : Nat) : State := if wide scope then s.modCore fun c => { c with l1 := [] } else s

/-- A release of sector scope or wider delivers the core's counts before it completes (R106). -/
def State.release (s : State) (scope : Nat) : State := if wide scope then s.deliverCore s.w.core else s

/-- What a full fence of any scope waits for beyond its release: a store of another wave of the core that one of its loads may have taken, while
on its way, is performed too, so that full fences stand in one order on every path (R235, Fence order; log entry 44). -/
def fullWait (s : State) : Res Unit := ready s.core.inflight.isEmpty

/-- What a full fence of any scope does to the core's copies that may be stale, the load-store lines and the skim line buffer: they are evicted,
so that no later read of the wave returns what an earlier one has seen replaced (R235, Fence order; log entry 44). -/
def State.freshen (s : State) : State := s.modCore fun c => { c with l1 := [], skimBuf := [] }

/-- `fence` (R211, R223): kind 1 acquire, 2 release, 3 both. -/
def execFence (k : BitVec 2) (sc : BitVec 3) (s : State) : Host.Outcome State Fault Refusal :=
  finishSeq 4 s (do
    s.lanesWait
    scatterWait s
    if k = 1 then .ok () else releaseWait s
    if k = 3 then fullWait s else .ok ()
    let t := if k = 1 then s else s.release sc.toNat
    .ok (if k = 3 then t.freshen else if k = 2 then t else t.acquire sc.toNat))

/-- Every earlier write of the wave, on every path, has reached its home or its bank (R211): stores are acknowledged, write copies
hold no line back, and scatter queues are drained. -/
def Wave.writesDone (w : Wave) : Bool :=
  w.ops.all (fun o => o.done || !o.accepted || (o.cmd.kind != .store && o.cmd.kind != .fill)) &&
    [4, 5, 6, 7].all fun n => (w.stream n).vals.isEmpty

/-- The wait for it: COPY_FAULT where a write copy is blocked on a faulted copy, and STREAM_FAULT where a scatter queue's head carries a fault
(R241, R260). -/
def writesWait (s : State) : Res Unit := do
  s.w.ops.forM fun o =>
    if o.done || !o.accepted || (o.cmd.kind != .store && o.cmd.kind != .fill) then .ok ()
    else match s.opBlocked o with
      | some t => s.copyFault t
      | none => .error .wait
  scatterWait s
  ready (s.storesAcked && s.w.writesDone)

/-- `pfence` (R211): 0 load-store, 1 read-only, 2 plane, 3 skim. -/
def execPfence (p : BitVec 3) (s : State) : Host.Outcome State Fault Refusal :=
  finishSeq 4 s (do
    s.lanesWait
    writesWait s
    .ok (s.modCore fun c =>
      match p.toNat with
      | 0 => { c with l1 := [] }
      | 1 => { c with ro := [] }
      | 2 => { c with lineBuf := [], lineOld := [] }
      | _ => { c with skimBuf := [] }))

/-! Atomics (R206, R207). -/

/-- The work of a scalar atomic of `n` bytes with operation `op` at a translated place: the value returned and the state after. On a poisoned sector
it is not performed and takes POISON at its word: R203 speaks of loads alone (DESIGN CHOICE, log entry 100). -/
def atomWork (s : State) (ea : DWord) (l : Loc) (n op : Nat) (v cmp : Nat) : Res (Nat × State) :=
  let f (old : Nat) := atomNew op (8 * n) old v cmp
  match l.kind with
  | .device => do
    ready (s.storesPerformed && s.atomOpen s.w.core l)
    need (!s.poison.contains (l.addr / 128)) .poison ea
    .ok (s.atomHome s.w.core l n f)
  | .host => do
    need (op == 0 || op == 9) .scope ea
    ready s.storesPerformed
    .ok (s.atomHost s.w.core l n f)
  | .peer => do
    need (op == 0 || op == 9) .scope ea
    ready s.storesPerformed
    let (err, s1) := s.peerFails l.home
    need (!err) .storeFault ea
    let (bs, s2) := s1.outside n
    .ok (bytesToNat bs, s2)

/-- What a repeated access in a reproducible context needs of the page: the commit can perform the operation there (R207). -/
def atomScope (l : Loc) (op : Nat) (ea : DWord) : Res Unit := need (l.kind == .device || op == 0 || op == 9) .scope ea

/-- A returning operation is held for the commit, which ends the wave's quantum (R233, R295); the scope of the acquire that it makes there, 0
for none. -/
def State.hold (s : State) (r : RetOp) (acq : Nat) : State := (s.modW fun x => { x with ret := some r, retAcq := acq }).endQuantum

/-- A scalar atomic (R206): ordered forms wait as fences of device scope, of system scope off device pages (R206), do. In a
reproducible context it is held for the commit (R233, R295, R297); another device is asked for the access at the word, so that its error is met
there (R369; log entry 95). -/
def scalarAtomic (op : Nat) (d a b : BitVec 6) (w : Bool) (o : BitVec 2) (s : State) : Host.Outcome State Fault Refusal :=
  let n := if w then 8 else 4
  let ea := s.getS a
  let v := (s.getS b).toNat % 2 ^ (8 * n)
  let cmp := (s.getS d).toNat % 2 ^ (8 * n)
  finishSeq 4 s (do
    reproWait s
    aligned ea n
    let l ← s.access .atomic ea
    atomScope l op ea
    if o.getLsbD 1 then releaseWait s else .ok ()
    let t := if o.getLsbD 1 then s.release 4 else s
    let t := t.touchTlb false ea.toNat
    if s.repro then
      need (l.kind != .device || !s.poison.contains (l.addr / 128)) .poison ea
      let (err, t) := if l.kind = .peer then t.peerFails l.home else (false, t)
      need (!err) .storeFault ea
      let t := if o.getLsbD 0 then t.acquire 4 else t
      if d = 0 then t.buffer (.atom op w l (dw v) (dw cmp) :: if o.getLsbD 0 then [.acq 4] else [])
      else .ok (t.hold (.atom (sKey t.w.sys d) op w l (dw v) (dw cmp)) (if o.getLsbD 0 then 4 else 0))
    else
      let (old, t) ← atomWork t ea l n op v cmp
      let t := if o.getLsbD 0 then t.acquire 4 else t
      .ok (t.sendS d (extend n (!w) old)))

/-- `atom.add` (R206). -/
def execAtomAdd (d a b : BitVec 6) (w : Bool) (o : BitVec 2) (s : State) : Host.Outcome State Fault Refusal :=
  scalarAtomic 0 d a b w o s

/-- `atom.and` (R206). -/
def execAtomAnd (d a b : BitVec 6) (w : Bool) (o : BitVec 2) (s : State) : Host.Outcome State Fault Refusal :=
  scalarAtomic 1 d a b w o s

/-- `atom.or` (R206). -/
def execAtomOr (d a b : BitVec 6) (w : Bool) (o : BitVec 2) (s : State) : Host.Outcome State Fault Refusal :=
  scalarAtomic 2 d a b w o s

/-- `atom.xor` (R206). -/
def execAtomXor (d a b : BitVec 6) (w : Bool) (o : BitVec 2) (s : State) : Host.Outcome State Fault Refusal :=
  scalarAtomic 3 d a b w o s

/-- `atom.min` (R206). -/
def execAtomMin (d a b : BitVec 6) (w : Bool) (o : BitVec 2) (s : State) : Host.Outcome State Fault Refusal :=
  scalarAtomic 4 d a b w o s

/-- `atom.max` (R206). -/
def execAtomMax (d a b : BitVec 6) (w : Bool) (o : BitVec 2) (s : State) : Host.Outcome State Fault Refusal :=
  scalarAtomic 5 d a b w o s

/-- `atom.minn` (R206). -/
def execAtomMinn (d a b : BitVec 6) (w : Bool) (o : BitVec 2) (s : State) : Host.Outcome State Fault Refusal :=
  scalarAtomic 6 d a b w o s

/-- `atom.maxn` (R206). -/
def execAtomMaxn (d a b : BitVec 6) (w : Bool) (o : BitVec 2) (s : State) : Host.Outcome State Fault Refusal :=
  scalarAtomic 7 d a b w o s

/-- `atom.swap` (R206). -/
def execAtomSwap (d a b : BitVec 6) (w : Bool) (o : BitVec 2) (s : State) : Host.Outcome State Fault Refusal :=
  scalarAtomic 8 d a b w o s

/-- `atom.cas` (R206). -/
def execAtomCas (d a b : BitVec 6) (w : Bool) (o : BitVec 2) (s : State) : Host.Outcome State Fault Refusal :=
  scalarAtomic 9 d a b w o s

/-- `ldv` (R210, R364): stamp and word in one action at the home. In a reproducible context the word is what a load returns. -/
def execLdv (d a : BitVec 6) (i : Imm) (s : State) : Host.Outcome State Fault Refusal :=
  finishSeq (immLen i) s (do
    reproWait s
    let ea := effAddr s a i
    aligned ea 4
    let l ← s.access .load ea
    need (l.kind == .device) .scope ea
    ready (s.storesPerformed && s.atomOpen s.w.core l)
    need (!s.poison.contains (l.addr / 128)) .poison ea
    let s := ((s.touchTlb false ea.toNat).atomTrip s.w.core l).dropL1 s.w.core [(l.addr, 0)]
    let word := if s.repro then s.lsLe l l.addr 4 else readLe s.mem l.addr 4
    .ok (s.sendS d (dw ((look 0 s.stamps (l.addr / 512)).toNat * 2 ^ 32 + word))))

/-! Pinning (R212, R213). -/

/-- The L2 set of a line: its home slice and the index within it (log entry 11). -/
def lineSet (l : Loc) : Nat × Nat := (l.slice, l2Set (l.addr / 512))

/-- How many pinned lines share the slice and set of a line. A pinned line's slice is remembered with its charge. -/
def State.pinnedWays (s : State) (l : Loc) : Nat :=
  s.pins.countP fun e => e.2 % 1024 == l.slice && decide (l2Set e.1 = l2Set (l.addr / 512))

/-- `pin.l2` (R212): the first status that applies. -/
def execPinL2 (d a : BitVec 6) (s : State) : Host.Outcome State Fault Refusal :=
  let ea := s.getS a
  let ok (v : DWord) (t : State) : Host.Outcome State Fault Refusal :=
    finishSeq 4 s (do
      ready (!s.translateWaits s.w.core s.w.ctx false ea.toNat)
      .ok (t.setS d v))
  match s.translate false ea.toNat with
  | none => ok 3 (s.touchTlb false ea.toNat)
  | some e =>
    let l := e.at ea.toNat
    if l.kind ≠ .device then ok 3 (s.touchTlb false ea.toNat)
    else if (look? s.pins (l.addr / 512)).isSome then ok 0 (s.touchTlb false ea.toNat)
    else if 15 ≤ s.pinnedWays l then ok 1 (s.touchTlb false ea.toNat)
    else if s.row.pinQuota ≤ s.row.pinCount then ok 2 (s.touchTlb false ea.toNat)
    else
      let t := s.modRow s.w.ctx fun r => { r with pinCount := r.pinCount + 1 }
      ok 0 ({ t with pins := insertKey t.pins (l.addr / 512) ((s.w.ctx + 1) * 1024 + l.slice) }.touchTlb false ea.toNat)

/-- Remove the pins of some lines and return their charges (R212, R215). -/
def State.unpin (s : State) (lines : List Nat) : State :=
  lines.foldl (fun s k =>
    match look? s.pins k with
    | some v => ({ s with pins := drop s.pins k }).modRow (v / 1024 - 1) fun r => { r with pinCount := r.pinCount - 1 }
    | none => s) s

/-- `unpin.l2` (R212). -/
def execUnpinL2 (a : BitVec 6) (s : State) : Host.Outcome State Fault Refusal :=
  let ea := s.getS a
  finishSeq 4 s (do
    ready (!s.translateWaits s.w.core s.w.ctx false ea.toNat)
    let t := s.touchTlb false ea.toNat
    .ok (match s.translate false ea.toNat with
      | none => t
      | some e =>
        let l := e.at ea.toNat
        match look? s.pins (l.addr / 512) with
        | some v => if l.kind = .device ∧ v / 1024 = s.w.ctx + 1 then t.unpin [l.addr / 512] else t
        | none => t))

/-- `pref` (R214): a hint whose translation the TLBs hold starts a fill; it changes no value and no order. Where a write holds the line the
fill that comes later is left out (log entry 8). -/
def execPref (l : BitVec 1) (a : BitVec 6) (i : Imm) (s : State) : Host.Outcome State Fault Refusal :=
  let ea := effAddr s a i
  let hit := match tlbFind s.core.dtlb s.w.ctx ea.toNat with
    | some e => some e
    | none => tlbFind (s.sector (sectorOf s.w.core)).tlb s.w.ctx ea.toNat
  finishSeq (immLen i) s (.ok (
    match hit with
    | some e =>
      if ea.toNat < 2 ^ 52 ∧ e.loc.kind = .device ∧ e.permits .load s.w.sys then
        if l = 1 ∧ s.missOpen s.w.core (e.at ea.toNat) then s.fillL1 (e.at ea.toNat) else s
      else s
    | none => s))

/-! `cst4` (R365). -/

/-- One entry of a cst4 record. -/
structure CstEntry where
  addr : Nat
  stamp : BitVec 32
  wide : Bool
  value : Nat
  ok : Bool
  deriving DecidableEq, Repr

/-- Entry e of a record of 128 bytes. -/
def cstEntry (r : BitVec 1024) (e : Nat) : CstEntry :=
  let q (k : Nat) : DWord := r.extractLsb' (256 * e + 64 * k) 64
  { addr := bits (q 0) 0 52, stamp := (q 1).setWidth 32, wide := (q 1).getLsbD 32, value := (q 2).toNat
    ok := bits (q 0) 52 12 == 0 && bits (q 1) 33 31 == 0 && q 3 == 0 }

/-- A copy engine marks the blocks of some lines that its line buffers hold. -/
def Core.ageBuffers (c : Core) (lines : List Nat) : Core :=
  { c with lineOld := nub (c.lineOld ++ (c.lineBuf.map (·.1)).filter fun k => lines.contains (k / 4)) }

/-- Every copy engine marks the blocks of some lines that its line buffers hold: they keep their bytes (R385), and the engine's next read of one
comes from the home (R235, Group atomicity; log entry 44). -/
def State.ageBuffers (s : State) (lines : List Nat) : State :=
  { s with cores := s.cores.foldl (fun m e => put {} m e.1 (e.2.ageBuffers lines)) s.cores }

/-- The group at its home (R365): the status, and the state after it. The entries are places, expected stamps, widths and values; `core` is the
core that issued it, which keeps no load-store-path copy of the lines (R385). A group that is written leaves the L1 of every core, by evictions
that R385 permits, and the copy engines' line buffers, which keep their bytes, are marked: none may read one line of it new and then another one
old (R235, Group atomicity; log entry 44). -/
def State.cstApply (s : State) (core : Nat) (es : List (Loc × BitVec 32 × Bool × Nat)) : DWord × State :=
  if (nub (es.map fun e => e.1.slice)).length ≠ 1 then (2, s)
  else
    let s := (es.head?.map fun e => s.atomTrip core e.1).getD s
    match es.zipIdx.find? fun e => look 0 s.stamps (e.1.1.addr / 512) != e.1.2.1 with
    | some ((l, _), i) =>
      (dw ((look 0 s.stamps (l.addr / 512)).toNat * 2 ^ 32 + i * 16 + 1), s.dropL1 core (es.map fun e => (e.1.addr, 0)))
    | none =>
      let cells := es.flatMap fun (l, _, wide, v) => leCells l.addr (if wide then 8 else 4) v
      let lines := es.map fun e => e.1.addr / 512
      let t := ((s.writeFrom core cells).dropLines (s.cores.map (·.1)) lines).ageBuffers lines
      (dw ((look 0 t.stamps (((es.head?).map fun e => e.1.addr / 512).getD 0)).toNat * 2 ^ 32), t)

/-- The checks of the entries, in order: alignment, translation as a store, device page (R365). -/
def cstLocs (s : State) (es : List CstEntry) : Res (List (Loc × BitVec 32 × Bool × Nat)) :=
  es.mapM fun e => do
    aligned (dw e.addr) (if e.wide then 8 else 4)
    let l ← s.access .store (dw e.addr)
    need (l.kind == .device) .scope (dw e.addr)
    .ok (l, e.stamp, e.wide, e.value)

/-- The state after an instruction's load of a record of n bytes. Where the instruction then writes its line, the copy that its fill would send does
not stay: the line comes without one, as from a slice that has no way for it (R356), so that the write waits for no install of its own load
(R358, R359). -/
def State.recordLoaded (s t : State) (l : Loc) (n : Nat) (va : DWord) (lines : List Nat) : State :=
  if s.fromHome l n && lines.contains (l.addr / 512) then (s.touchTlb false va.toNat).missTrip s.w.core l else t

/-- `cst4` (R365): an acquire and a release of device scope, whether it commits or not. In a reproducible context it is performed at the
commit (R295). -/
def execCst4 (d a b : BitVec 6) (s : State) : Host.Outcome State Fault Refusal :=
  finishSeq 4 s (do
    reproWait s
    let rec' := s.getS a
    let nv := s.getS b
    let n := nv.toNat
    aligned rec' 128
    releaseWait s
    let done (v : DWord) (t : State) : State :=
      let t := ((t.release 4).acquire 4).setS d v
      if s.repro then t.endQuantum else t
    if n = 0 ∨ 4 < n then .ok (done 3 s)
    else
      let l ← s.access .load rec'
      let (r, t) ← s.load rec' l 128
      let es := (List.range n).map (cstEntry (BitVec.ofNat 1024 r))
      if es.any fun e => !e.ok then .ok (done 3 t)
      else
        let ls ← cstLocs s es
        let t := es.foldl (fun t e => t.touchTlb false e.addr) (s.recordLoaded t l 128 rec' (ls.map fun e => e.1.addr / 512))
        if s.repro then .ok (((t.release 4).acquire 4).hold (.cst4 (sKey t.w.sys d) ls) 4)
        else
          ready (ls.all fun e => t.atomOpen s.w.core e.1)
          let (v, t) := t.cstApply s.w.core ls
          .ok (done v t))

end Sys2Proof.Machine
end

