-- ==== Sys2Proof/Machine/MemLane.lean ====
section
/-! DEFINITION. Lane memory words of class 101 (R198 to R209, R225, R226) and the queue words `qpeek` and `qskip` (R262). -/

namespace Sys2Proof.Machine

open Sys2Proof

/-! Fields of class 101 (R198, Table 3). -/

/-- The scope. -/
def lScope (w : LaneWord) : Nat := (w.fld 31 3).toNat

/-- The order: bit 0 acquire, bit 1 release. -/
def lOrder (w : LaneWord) : BitVec 2 := w.fld 29 2

/-- Registers of the group. -/
def lCount (w : LaneWord) : Nat := (w.fld 21 4).toNat + 1

/-- The byte offset. -/
def lOff (w : LaneWord) : Int := (w.fld 5 16).toInt

/-- Element size of a type (R199). -/
def elemSize (t : Nat) : Nat := if t = 4 ∨ t = 5 then 2 else if t = 9 then 1 else 4

/-- The register image of a loaded element (R199). -/
def elemImage (t v : Nat) : Word := if t = 9 then (BitVec.ofNat 8 v).signExtend 32 else BitVec.ofNat 32 v

/-- The element that a register stores (R199). -/
def elemData (t : Nat) (x : Word) : Nat := x.toNat % 2 ^ (8 * elemSize t)

/-- Register j of a data operand in a lane (R201). -/
def dataReg (s : State) (t : Nat) (x : Src) (L j : Nat) : Word :=
  match x with
  | .v r => s.w.v32 (r.toNat + j) L
  | _ => s.src t x L

/-- What an ordered word waits for (R225): a release for the acknowledgement of every store of the wave. One with no active lane acts as a fence of
its kind and scope at its place, and waits as that does. -/
def orderBefore (s : State) (w : LaneWord) : Res Unit := do
  let empty := lOrder w != 0 && (s.w.active w.guard).isEmpty
  if empty then scatterWait s else .ok ()
  if (lOrder w).getLsbD 1 then releaseWait s else .ok ()
  if empty && lOrder w == 3 then fullWait s else .ok ()

/-- What an ordered word does besides its accesses, active lanes or not: one of order 11 with no active lane is a full fence (R199, R225, R235). -/
def State.ordered (s : State) (w : LaneWord) : State :=
  let s := if (lOrder w).getLsbD 1 then s.release (lScope w) else s
  let s := if (lOrder w).getLsbD 0 then s.acquire (lScope w) else s
  if lOrder w == 3 && (s.w.active w.guard).isEmpty then s.freshen else s

/-- Pop the queue that an address field names. -/
def State.popSources (s : State) (op : Nat) (w : LaneWord) (lanes : List Nat) : State :=
  s.modW fun x => (queuesOf (wordSources op w)).foldl (fun x n => x.pop n 1 lanes) x

/-- The waits and traps of queue sources (R258). -/
def popChecks (s : State) (op : Nat) (w : LaneWord) (lanes : List Nat) : Res Unit :=
  (queuesOf (wordSources op w)).forM fun n => popCheck s n 1 lanes

/-! Lane memory (R201). -/

/-- The address of a lane's access to its window, as an integer. -/
def lmEa (s : State) (w : LaneWord) (L : Nat) : Int := (s.src 0 w.a L).toNat + lOff w

/-- ALIGN and LMBOUND of `ld.lm` and `st.lm`, and the scoreboard wait (R200, R201). -/
def lmLaneCheck (s : State) (w : LaneWord) (write : Bool) (lanes : List Nat) : Res Unit := do
  let b := elemSize w.tyM
  let n := lCount w * b
  lanes.forM fun L => need (lmEa s w L % (b : Int) == 0) .align (BitVec.ofInt 64 (lmEa s w L))
  lanes.forM fun L =>
    let a := lmEa s w L
    need (decide (0 ≤ a) && decide (a < 2 ^ 32) && decide (a + n ≤ s.w.lambda)) .lmbound (BitVec.ofInt 64 a)
  s.sbWait (nub (lanes.flatMap fun L => granules (lmEa s w L).toNat n)) write

/-- `ld.lm` (R201): checked. -/
def execLdLm (w : LaneWord) (s : State) : Host.Outcome State Fault Refusal :=
  let b := elemSize w.tyM
  finishLane w.mark s (do
    s.regCheck 0x500 w false
    let lanes := s.w.active w.guard
    lmLaneCheck s w false lanes
    lanes.forM fun L => lmEcc s.w [L] (lmEa s w L).toNat (lCount w * b)
    let es (j : Nat) := lanes.map fun L =>
      (L, elemImage w.tyM (readLe s.w.lm (lmKey L ((lmEa s w L).toNat + j * b)) b))
    .ok (s.modW fun x => (List.range (lCount w)).foldl (fun x j => x.writeV (dstReg w.dst + j) (es j)) x))

/-- `st.lm` (R201). -/
def execStLm (w : LaneWord) (s : State) : Host.Outcome State Fault Refusal :=
  let b := elemSize w.tyM
  finishLane w.mark s (do
    s.regCheck 0x501 w false
    let lanes := s.w.active w.guard
    lmLaneCheck s w true lanes
    .ok (s.modW fun x => lanes.foldl (fun x L =>
      x.writeLm ((List.range (lCount w)).flatMap fun j =>
        leCells (lmKey L ((lmEa s w L).toNat + j * b)) b (elemData w.tyM (dataReg s w.tyM w.b L j)))) x))

/-! Global accesses (R202). -/

/-- The effective address of a lane (R202): A + sext(B) + an offset. -/
def laneEa (s : State) (w : LaneWord) (off : Int) (L : Nat) : DWord :=
  s.uniform w.a + (s.src 0 w.b L).signExtend 64 + BitVec.ofInt 64 off

/-- One element access: lane, register of the group, virtual address and place. -/
structure Access where
  lane : Nat
  reg : Nat
  va : DWord
  loc : Loc
  deriving DecidableEq, Repr

/-- The elements of a word: lane, register and address, lanes ascending. -/
def elements (eas : List (Nat × DWord)) (n b : Nat) : List (Nat × Nat × DWord) :=
  eas.flatMap fun (L, ea) => (List.range n).map fun j => (L, j, ea + dw (j * b))

/-- ALIGN, SCOPE, translation and permission over every active lane (R200, R226). `devOnly` is R207's rule. -/
def globalCheck (s : State) (acc : Acc) (w : LaneWord) (align : Nat) (devOnly : Bool) (eas : List (Nat × DWord)) (n b : Nat) :
    Res (List Access) := do
  eas.forM fun (_, ea) => aligned ea align
  (elements eas n b).forM fun (_, _, va) =>
    match s.translate false va.toNat with
    | some e => need (e.loc.kind == .device || (!devOnly && (lOrder w == 0 || lScope w == 5))) .scope va
    | none => .ok ()
  (elements eas n b).mapM fun (L, j, va) => (s.access acc va).map fun l => { lane := L, reg := j, va := va, loc := l }

/-- The TLBs after a word's accesses. -/
def State.touchAll (s : State) (xs : List Access) : State := xs.foldl (fun s x => s.touchTlb false x.va.toNat) s

/-- What one element of an unchecked load gives. -/
inductive Loaded where
  | value (v : Nat)
  /-- the line comes with a probe, and the value with the line (R361, R362) -/
  | late
  /-- what its marker reports (R203, R369) -/
  | fault (c : Cause) (va : DWord)
  deriving DecidableEq, Repr

/-- One element of an unchecked load on a path: the state after it and what it gives (R203, R361, R369). `ro` is the read-only path. The elements of a
word read what the state `s0` before it holds; the fill of one whose line an earlier element's fill has put out of the L1 is made only where it can
be (R358). -/
def loadElem (s0 s : State) (ro : Bool) (b : Nat) (x : Access) : State × Loaded :=
  let own := !ro && (List.range b).all fun i => (s0.forwarded x.loc (x.loc.addr + i)).isSome
  match x.loc.kind with
  | .peer =>
    if own then (s, .value (s0.lsLe x.loc x.loc.addr b))
    else
      let (err, s) := s.peerFails x.loc.home
      if err then (s, .fault .loadFault x.va)
      else
        let (bs, s) := s.outside b
        (s, .value (bytesToNat (if ro then bs else s0.overlay x.loc bs)))
  | .host =>
    (if own then s else s.atomTrip s.w.core x.loc, .value (if ro then readLe s0.hostMem x.loc.addr b else s0.lsLe x.loc x.loc.addr b))
  | .device =>
    if ro then
      let u := x.loc.addr / 128
      if s0.core.ro.contains u || s0.joins u || s.core.ro.contains u then (s, .value (readLe s0.mem x.loc.addr b))
      else
        let t := if s.passed u then s.roTake s.w.core x.loc u else s.roTouch x.loc
        if t.core.probes.any fun p => p.1.addr / 128 == u && !p.2.2 then (t, .late)
        else if s0.poison.contains (x.loc.addr / 128) then (s, .fault .poison x.va)
        else (t, .value (readLe s0.mem x.loc.addr b))
    else if s0.poisoned x.loc b then (s, .fault .poison x.va)
    else (if s0.fromHome x.loc b && s.missOpen s.w.core x.loc then s.fillL1 x.loc else s, .value (s0.lsLe x.loc x.loc.addr b))

/-- The elements of an unchecked load, in order. -/
def loadElems (s0 s : State) (ro : Bool) (b : Nat) : List Access → State × List (Access × Loaded)
  | [] => (s, [])
  | x :: r =>
    let (s, v) := loadElem s0 s ro b x
    let (s, vs) := loadElems s0 s ro b r
    (s, (x, v) :: vs)

/-- The unchecked result of a load of a type into a group from register d: none is written where an element faults (R203). An acquire of scope
`acq` is made again when an element that comes with a probe is read (R225). -/
def loadResult (d t acq : Nat) (vs : List (Access × Loaded)) : Unch :=
  let err := vs.findSome? fun e =>
    match e.2 with
    | .fault c va => some (c, va)
    | _ => none
  let key (x : Access) : Nat := vKey (d + x.reg) x.lane
  { writes := if err.isSome then [] else vs.filterMap fun e =>
      match e.2 with
      | .value v => some (key e.1, elemImage t v)
      | _ => none
    late := if err.isSome then [] else vs.filterMap fun e =>
      match e.2 with
      | .late => some (key e.1, e.1.loc, e.1.va, t)
      | _ => none
    held := false, err := err, returned := false, acq := acq }

/-- An element that goes to a home, or to a copy of its line, waits while the request cannot be served (R350, R358). -/
def lineWait (s : State) (ro : Bool) (b : Nat) (x : Access) : Bool :=
  x.loc.kind == .device && !s.missOpen s.w.core x.loc &&
    (if ro then !s.core.ro.contains (x.loc.addr / 128) && !s.joins (x.loc.addr / 128) else s.fromHome x.loc b)

/-- The scope of the acquire that an ordered word makes where it reads later than it issues; 0 for none (R225). -/
def lAcq (w : LaneWord) : Nat := if (lOrder w).getLsbD 0 then lScope w else 0

/-- `ld.g` and `ld.ro` (R202): unchecked. -/
def laneLoad (op : Nat) (ro : Bool) (w : LaneWord) (s : State) : Host.Outcome State Fault Refusal :=
  let b := elemSize w.tyM
  let d := dstReg w.dst
  finishLane w.mark s (do
    s.regCheck op w true
    let lanes := s.w.active w.guard
    popChecks s op w lanes
    let xs ← globalCheck s .load w b false (lanes.map fun L => (L, laneEa s w (lOff w) L)) (lCount w) b
    orderBefore s w
    ready (xs.all fun x => !lineWait s ro b x)
    let (t, vs) := loadElems s (s.touchAll xs) ro b xs
    let t := t.popSources op w lanes
    .ok ((t.modW fun x => x.issueUnch ((List.range (lCount w)).map (d + ·)) (loadResult d w.tyM (lAcq w) vs)).ordered w))

/-- `ld.g` (R202). -/
def execLdG (w : LaneWord) (s : State) : Host.Outcome State Fault Refusal := laneLoad 0x502 false w s

/-- `ld.ro` (R202). -/
def execLdRo (w : LaneWord) (s : State) : Host.Outcome State Fault Refusal := laneLoad 0x504 true w s

/-- The stores of a word as line entries, in the order in which its elements first touch the lines, which no rule states (DESIGN CHOICE, log entry
101); where two lanes store one byte, the higher one's stands (R202). -/
def lineEntries (cs : List (Loc × List Host.Cell)) : List (Loc × List Host.Cell) :=
  let key (l : Loc) (a : Nat) : Nat × PageKind × Nat := (a / 128, l.kind, if l.kind = .peer then l.home else 0)
  let cells := cs.flatMap fun (l, c) => c.map fun x => (l, x)
  let keys := (cells.map fun (l, x) => key l x.1).eraseDups
  keys.map fun k =>
    let mine := cells.filter fun (l, x) => key l x.1 == k
    (((mine.head?).map (·.1)).getD { kind := .device, addr := 0, stripe := 0, home := 0, rm := false },
     writeCells [] (mine.map (·.2)) ++ (mine.map (·.2)).filter fun x => x.2 == 0 && readByte (writeCells [] (mine.map (·.2))) x.1 == 0)

/-- Line entries of a `st.g` that touches more lines than the store queue holds enter it as it drains, and the word ends with the last
(R197, R202). -/
def storeOn (w : LaneWord) (s : State) (es : List (Loc × List Host.Cell)) : Host.Outcome State Fault Refusal :=
  let room := 64 - s.w.stq.length
  let t := (es.take room).foldl (fun s e => s.enqueue e.1 e.2) s
  if es.length ≤ room then finishLane w.mark s (.ok (t.modW fun x => { x with stgAt := none }))
  else .next (t.modW fun x => { x with stgAt := some (s.laneTarget, es.drop room), laneBlocked := true })

/-- `st.g` (R202). -/
def execStG (w : LaneWord) (s : State) : Host.Outcome State Fault Refusal :=
  let b := elemSize w.tyM
  match s.w.stgAt with
  | some (_, es) => storeOn w s es
  | none =>
    let checks : Res (State × List (Loc × List Host.Cell)) := do
      s.regCheck 0x503 w false
      let lanes := s.w.active w.guard
      popChecks s 0x503 w lanes
      let xs ← globalCheck s .store w b false (lanes.map fun L => (L, laneEa s w (lOff w) L)) (lCount w) b
      orderBefore s w
      let es := lineEntries (xs.map fun x => (x.loc, leCells x.loc.addr b (elemData w.tyM (dataReg s w.tyM w.c x.lane x.reg))))
      let done (t : State) : State := ((t.touchAll xs).popSources 0x503 w lanes).ordered w
      if s.repro then (s.laneBuffer (es.map fun e => .bytes e.1 e.2)).map fun t => (done t, [])
      else if 64 < es.length then .ok (done s, es)
      else do
        ready (s.w.stqRoom es.length)
        .ok (done (es.foldl (fun s e => s.enqueue e.1 e.2) s), [])
    match checks with
    | .ok (t, []) => finishLane w.mark s (.ok t)
    | .ok (t, es) => storeOn w t es
    | .error e => finishLane w.mark s (.error e)

/-! Skim direct access (R204, R205). -/

/-- ALIGN and SKIMBOUND (R204). -/
def skimCheck (s : State) (n : Nat) (eas : List (Nat × DWord)) : Res Unit := do
  eas.forM fun (_, a) => aligned a 4
  eas.forM fun (_, a) => need (decide (a.toNat + n ≤ s.skimWindow.2)) .skimbound a

/-- `ld.sk` (R205): unchecked. -/
def execLdSk (w : LaneWord) (s : State) : Host.Outcome State Fault Refusal :=
  let n := lCount w
  let d := dstReg w.dst
  finishLane w.mark s (do
    s.regCheck 0x505 w true
    let lanes := s.w.active w.guard
    popChecks s 0x505 w lanes
    let eas := lanes.map fun L => (L, laneEa s w (lOff w) L)
    skimCheck s (4 * n) eas
    orderBefore s w
    let xs := elements eas n 4
    let key (va : DWord) : Nat := s.skimKey va.toNat
    let bad := xs.findSome? fun (_, _, va) =>
      if s.skimBad.contains (key va / 128) && (look? s.core.skimBuf (key va / 128)).isNone then some (Cause.eccUncorr, va) else none
    let word (va : DWord) : Word := BitVec.ofNat 32 (bytesToNat ((List.range 4).map fun i => s.skimByte (key va + i)))
    let u : Unch :=
      { writes := if bad.isSome then [] else xs.map fun (L, j, va) => (vKey (d + j) L, word va)
        held := false, err := bad, returned := false }
    let t := if bad.isSome then s else xs.foldl (fun s (_, _, va) => s.fillSkim (key va)) s
    .ok (((t.popSources 0x505 w lanes).modW fun x => x.issueUnch ((List.range n).map (d + ·)) u).ordered w))

/-- `st.sk` (R205). -/
def execStSk (w : LaneWord) (s : State) : Host.Outcome State Fault Refusal :=
  let n := lCount w
  finishLane w.mark s (do
    s.regCheck 0x506 w false
    let lanes := s.w.active w.guard
    popChecks s 0x506 w lanes
    let eas := lanes.map fun L => (L, laneEa s w (lOff w) L)
    skimCheck s (4 * n) eas
    orderBefore s w
    let cells := (elements eas n 4).flatMap fun (L, j, va) => leCells (s.skimKey va.toNat) 4 (dataReg s 0 w.c L j).toNat
    .ok (((s.writeSkim cells).popSources 0x506 w lanes).ordered w))

/-! Lane atomics (R208). -/

/-- The operation of a lane atomic as a code of R57, or 16 to 18 for the f32 operations. -/
def latomOp (w : LaneWord) : Nat :=
  let o := (w.fld 1 4).toNat
  if w.tyM = 3 then (if o = 0 then 16 else if o = 4 then 17 else if o = 5 then 18 else 8)
  else if o ≤ 3 then o
  else if o = 4 ∨ o = 5 then (if w.tyM = 2 then o + 2 else o)
  else if o = 6 then 8 else 9

/-- The new value of a 32-bit atomic, f32 operations among them (R208). -/
def latomNew (op old v cmp : Nat) : Option Nat :=
  let f (r : Res FRes) : Option Nat := some (((r.toOption).getD ⟨0, 0⟩).bits)
  if op = 16 then f (faddFn 3 .rne false (BitVec.ofNat 32 old) (BitVec.ofNat 32 v))
  else if op = 17 then f (fminFn 3 (BitVec.ofNat 32 old) (BitVec.ofNat 32 v))
  else if op = 18 then f (fmaxFn 3 (BitVec.ofNat 32 old) (BitVec.ofNat 32 v))
  else atomNew op 32 old v cmp

/-- Apply lane atomics in order: old values by lane (R208). -/
def State.latomAll (s : State) (core op : Nat) : List (Nat × Loc × Word × Word) → List (Nat × Word) × State
  | [] => ([], s)
  | (L, l, v, c) :: r =>
    let (old, s) := s.atomHome core l 4 fun old => latomNew op old v.toNat c.toNat
    let (vs, s) := State.latomAll s core op r
    ((L, BitVec.ofNat 32 old) :: vs, s)

/-- The quantum of a lane word that ends it after itself (R295). -/
def State.endAfterLane (s : State) : State :=
  s.endQuantumLane (match Block.highest s.run.image with
    | some h => decide (s.run.slot < h)
    | none => false)

/-- `latom` (R208). A scatter queue as the destination takes the old values as they return, which is in this step, or at the commit (log entry
69). Where an active lane's word is poisoned no lane's operation is performed, and POISON is reported at the marker, or at the word in a
reproducible context: no rule says (DESIGN CHOICE, log entry 99). -/
def execLatom (w : LaneWord) (s : State) : Host.Outcome State Fault Refusal :=
  let ret := w.bit 0
  let d := dstReg w.dst
  let op := latomOp w
  let regs := dstRegs w.dst 1
  finishLane w.mark s (do
    s.regCheck 0x507 w true
    let lanes := s.w.active w.guard
    popChecks s 0x507 w lanes
    if ret then dstCheck s w.dst lanes else .ok ()
    let xs ← globalCheck s .atomic w 4 true (lanes.map fun L => (L, laneEa s w (lOff w) L)) 1 4
    orderBefore s w
    let ops := xs.map fun x => (x.lane, x.loc, s.src w.tyM w.c x.lane, s.w.v32 d x.lane)
    let s := s.touchAll xs
    let done (t : State) : State := (t.popSources 0x507 w lanes).ordered w
    if s.repro then
      xs.forM fun x => need (!s.poison.contains (x.loc.addr / 128)) .poison x.va
      if ret then
        .ok (((done s).modW fun y =>
          { (if regs.isEmpty then y else y.issueUnch regs { writes := [], held := true, err := none, returned := false }) with
            ret := some (.latom ops w.dst op), retAcq := lAcq w }).endAfterLane)
      else
        (s.laneBuffer ((xs.map fun x => .atom op false x.loc ((s.src w.tyM w.c x.lane).setWidth 64) ((s.w.v32 d x.lane).setWidth 64))
          ++ if lAcq w = 0 then [] else [.acq (lAcq w)])).map done
    else
      ready (s.storesPerformed && xs.all fun x => s.atomOpen s.w.core x.loc)
      let bad := xs.find? fun x => s.poison.contains (x.loc.addr / 128)
      let (vs, t) := s.latomAll s.w.core op (if bad.isSome then [] else ops)
      let err := bad.map fun x => (Cause.poison, x.va)
      let t := done t
      .ok (match w.dst with
        | .q n => if ret && err.isNone then t.modW fun y => y.push (4 + n.toNat) vs else t
        | _ =>
          if ret || err.isSome then
            t.modW fun y => y.issueUnch (if ret then regs else [])
              { writes := vs.map fun e => (vKey d e.1, e.2), held := false, err := err, returned := false }
          else t))

/-! `atom.rsum` (R209). -/

/-- The place of byte k of an image whose 512-byte lines are given. -/
def imagePlace (ls : List Loc) (k : Nat) : Nat := (((ls[k / 512]?).map (·.addr)).getD 0) + k % 512

/-- `n` little-endian bytes of an image in global memory. -/
def imageLe (m : Memory) (ls : List Loc) : Nat → Nat → Nat
  | _, 0 => 0
  | k, n + 1 => (readByte m (imagePlace ls k)).toNat + 256 * imageLe m ls (k + 1) n

/-- The cells of an image's bytes. -/
def imageCells (ls : List Loc) : Nat → Nat → Nat → List Host.Cell
  | _, 0, _ => []
  | k, n + 1, v => (imagePlace ls k, BitVec.ofNat 8 v) :: imageCells ls (k + 1) n (v / 256)

/-- Every anchor copy of the target and of the lane's image agree (R209 phase 1). -/
def rsumAnchors (s : State) (L a : Nat) (ls : List Loc) : Bool :=
  let r := (s.w.lmImage L a 0).2
  (List.range 64).all fun e => (s.w.lmImage L a e).2 == r && (imageEntry (imageLe s.mem ls (24 * e) 24)).2 == r

/-- Phase 2 of R209 for a lane: its image into the target; anchors and reserved bytes stay. -/
def State.rsumLane (s : State) (core L a : Nat) (ls : List Loc) : State :=
  let cells := (List.range 64).flatMap fun e =>
    let (x, ax) := imageEntry (imageLe s.mem ls (24 * e) 24)
    let (i, ai) := s.w.lmImage L a e
    let y := if ax = ai then x.rawAdd i else { x with w := true }
    -- bytes 0 to 17: S, C, T and the flags
    imageCells ls (24 * e) 18 (y.image 0)
  (ls.foldl (fun s l => s.atomTrip core l) s).writeFrom core cells

/-- `atom.rsum` (R209). -/
def execAtomRsum (w : LaneWord) (s : State) : Host.Outcome State Fault Refusal :=
  finishLane w.mark s (do
    s.regCheck 0x508 w false
    let lanes := s.w.active w.guard
    popChecks s 0x508 w lanes
    let a : Int := s.lmBase w.c + lOff w
    let eas := lanes.map fun L => (L, laneEa s w 0 L)
    eas.forM fun (_, ea) => aligned ea 512
    if lanes.isEmpty then .ok () else do
      need (a % 16 == 0) .align (BitVec.ofInt 64 a)
      need (decide (0 ≤ a) && decide (a + 1536 ≤ s.w.lambda)) .lmbound (BitVec.ofInt 64 a)
    let xs ← globalCheck s .atomic w 512 true eas 3 512
    if lanes.isEmpty then .ok () else s.sbWait (granules a.toNat 1536) false
    orderBefore s w
    ready (s.repro || (s.storesPerformed && xs.all fun x => s.atomOpen s.w.core x.loc))
    let places (L : Nat) : List Loc := (xs.filter fun x => x.lane == L).map (·.loc)
    need (lanes.all fun L => rsumAnchors s L a.toNat (places L)) .anchor (accFva 0 0 false)
    xs.forM fun x => need (!(List.range 4).any fun i => s.poison.contains (x.loc.addr / 128 + i)) .poison x.va
    lmEcc s.w lanes a.toNat 1536
    let t := (s.touchAll xs).popSources 0x508 w lanes
    if s.repro then
      .ok (((t.ordered w).modW fun y =>
        { y with ret := some (.rsum (lanes.map fun L => (L, a.toNat, places L))), retAcq := lAcq w }).endAfterLane)
    else .ok ((lanes.foldl (fun t L => t.rsumLane s.w.core L a.toNat (places L)) t).ordered w))

/-! Queue words (R262). -/

/-- The queue that source A names. -/
def srcQueue (w : LaneWord) : Nat :=
  match w.a with
  | .q n => n.toNat
  | _ => 0

/-- `qpeek` (R262). -/
def execQpeek (w : LaneWord) (s : State) : Host.Outcome State Fault Refusal :=
  finishLane w.mark s (do
    s.regCheck 0x600 w false
    let lanes := s.w.active w.guard
    popCheck s (srcQueue w) 1 lanes
    dstCheck s w.dst lanes
    .ok (s.writeDst w.dst false (lanes.map fun L => (L, s.src 0 w.a L))))

/-- The values left to skip, by lane: those of a `qskip` under way in this slot of the run, else the whole count. -/
def skipLeft (s : State) (k : Nat) (lanes : List Nat) : Sparse Nat := s.run.skip.getD (lanes.map fun L => (L, k))

/-- How many of a lane's values may be discarded now: those before the first that carries a fault. -/
def skipNow (vs : List QVal) (left : Nat) : Nat := min left (vs.takeWhile fun v => v.err.isNone).length

/-- `qskip` (R262): values are discarded as they arrive. Where a fault stops it the run keeps what is left, and the word goes on with that when
`eret` resumes at its slot (DESIGN CHOICE, log entry 93). -/
def execQskip (w : LaneWord) (s : State) : Host.Outcome State Fault Refusal :=
  let n := srcQueue w
  let k := ((s.uniform w.b).setWidth 32).toNat
  let lanes := s.w.active w.guard
  let left := (skipLeft s k lanes).filter fun e => lanes.contains e.1
  let x := s.w.stream n
  let check : Res Unit := do
    s.regCheck 0x601 w false
    if k = 0 then .ok () else do
    need x.bound .queue (queueFva n 0)
    need (left.all fun (L, c) => decide (look 0 x.used L + c ≤ x.count)) .queue (queueFva n 1)
    need (!s.w.isIndexSource n) .queue (queueFva n 2)
    left.forM fun (L, c) => do
      need (!(c != 0 && (look [] x.vals L).isEmpty && s.w.starved x L (look 0 x.used L))) .queue (queueFva n 1)
      if c = 0 then .ok () else headFault n (look [] x.vals L)
      if c = 0 || valueReady (look [] x.vals L) then .ok ()
      else do
        indexFault s.w x L
        match s.streamWait n x L (look 0 x.moved L) with
        | .error (.engine a b c d) => .error (.engine a b c d)
        | _ => .ok ()
  match check with
  | .error e => finishLane w.mark s (.error e)
  | .ok _ =>
    let take := left.map fun (L, c) => (L, skipNow (look [] x.vals L) c)
    let t := s.modW fun y => take.foldl (fun y (L, c) => y.pop n c [L]) y
    let rest := left.map fun (L, c) => (L, c - skipNow (look [] x.vals L) c)
    if rest.all fun e => e.2 == 0 then finishLane w.mark s (.ok (t.modW fun y => y.setRun { s.run with skip := none }))
    else
      .next (t.modW fun y =>
        { y.setRun { s.run with skip := some (rest.filter fun e => e.2 != 0) } with laneBlocked := take.all fun e => e.2 == 0 })

end Sys2Proof.Machine
end

