-- ==== Sys2Proof/Machine/Engine.lean ====
section
/-! DEFINITION. The copy engine and the stream engine of a core (R236 to R261): copy commands and their lines (R243 to R252), streams
(R253 to R260), scoreboard entries granted in order (R237), and Page Requests (R242, R326). -/

namespace Sys2Proof.Machine

open Sys2Proof

/-! Accesses of the engines. -/

/-- The translation of an engine's access, or the reason of its fault: 0 no translation, 1 permission (R241); no reason where the translation
has to wait (R347, R358). -/
def State.engineAccess (s : State) (sys : Bool) (a : Acc) (va : Nat) : Except (Option Nat) TlbEntry :=
  if s.translateWaits s.w.core s.w.ctx false va then .error none
  else
    match s.translate false va with
    | none => .error (some 0)
    | some e => if e.permits a sys then .ok e else .error (some 1)

/-- The context sends faults of engines to the host as Page Requests (R326). -/
def State.pageRequests (s : State) (ctx : Nat) : Bool := bits (s.rowAt ctx).pr 63 1 == 1

/-- A Page Request joins its sector's list (R326). -/
def State.askPage (s : State) (va : Nat) (write : Bool) (kind ref : Nat) : State :=
  s.modSector (sectorOf s.w.core) fun x =>
    { x with pageReqs := x.pageReqs ++
        [{ ctx := s.w.ctx, pasid := bits s.row.pr 0 20, addr := dw va, write := write, wave := s.wid, kind := kind, ref := ref }] }

/-- Bytes that an engine writes, as (address, mask, value). -/
abbrev Masked := List (Nat × Byte × Byte)

/-- The bytes that masked writes leave over a memory. -/
def mergeMasked (m : Memory) (cs : Masked) : List Host.Cell :=
  let m' := cs.foldl (fun m (a, k, v) => writeByte m a ((readByte m a &&& ~~~k) ||| (v &&& k))) m
  (nub (cs.map (·.1))).map fun a => (a, readByte m' a)

/-- The masked bytes of an element of `n` half bytes at half byte `p`. -/
def maskedOf (p n v : Nat) : Masked :=
  if n = 1 then [(p / 2, if p % 2 = 0 then 0x0F else 0xF0, BitVec.ofNat 8 (v % 16 * 17))]
  else (leCells (p / 2) (n / 2) v).map fun c => (c.1, 0xFF, c.2)

/-- An engine of a core writes at a home, or to host memory (R385); a write to another device leaves the device. -/
def State.engineWrite (s : State) (core : Nat) (l : Loc) (cs : Masked) : State :=
  match l.kind with
  | .device =>
    let cells := mergeMasked s.mem cs
    (s.writeFrom core cells).modCoreAt core fun c =>
      { c with lineBuf := c.lineBuf.map fun e => (e.1, writeCells e.2 (cells.filter fun x => x.1 / 128 == e.1)) }
  | .host => { s with hostMem := writeCells s.hostMem (mergeMasked s.hostMem cs) }
  | .peer => s

/-- Memory as an engine of a reproducible context reads it: as the commit of its operation's quantum found it, once that has begun (R232). -/
abbrev Snap := Option (Memory × Memory)

/-- A unit of the plane path comes from its home: always in a reproducible context, where no buffer holds it, and where a group has been written
to its line since the buffer was filled (R235, R385). -/
def State.planeMiss (s : State) (k : Nat) : Bool := s.repro || (look? s.core.lineBuf k).isNone || s.core.lineOld.contains k

/-- A read of 128-byte units through the plane path: the line buffers, else the home (R385). In a reproducible context it returns what the
commits before its quantum have left, so it comes from the home, or from memory as the quantum's commit found it (R232, R233; log entry
72). -/
def State.planeRead (s : State) (snap : Snap) (units : List Loc) : Memory × State :=
  match snap with
  | some (m, _) => (units.flatMap fun u => region m (u.addr / 128 * 128) 128, s)
  | none =>
    units.foldl (fun (m, s) u =>
      let k := u.addr / 128
      match if s.planeMiss k then none else look? s.core.lineBuf k with
      | some b => (m ++ b, s)
      | none =>
        let b := region s.mem (128 * k) 128
        (m ++ b, (s.atomTrip s.w.core u).modCore fun c =>
          { c with lineBuf := insertKey (drop c.lineBuf k) k b, lineOld := c.lineOld.filter (· != k) })) ([], s)

/-- Host memory as an engine reads it. -/
def State.hostFor (s : State) (snap : Snap) : Memory := (snap.map (·.2)).getD s.hostMem

/-- The 128-byte units of some places on device pages, each with its place. -/
def unitLocs (ls : List Loc) : List Loc :=
  (ls.filter fun l => l.kind == .device).foldr (fun l acc =>
    if acc.any fun x => x.addr / 128 == l.addr / 128 then acc else { l with addr := l.addr / 128 * 128 } :: acc) []

/-- Some unit comes from its home and has to wait there (R350, R358). -/
def State.unitsHeld (s : State) (snap : Snap) (units : List Loc) : Bool :=
  snap.isNone && units.any fun l => s.planeMiss (l.addr / 128) && (s.lineHeld (l.addr / 512) || !s.reqOpen s.w.core l.slice)

/-- Some unit comes from its home and is poisoned (R203). -/
def State.unitsPoisoned (s : State) (units : List Loc) : Bool :=
  units.any fun l => s.planeMiss (l.addr / 128) && s.poison.contains (l.addr / 128)

/-- The entries recorded before an operation's own, of the same wave (R239). -/
def State.earlier (s : State) (kind ref : Nat) : List SbEntry :=
  (s.core.sb.filter fun e => e.owner == s.w.slot).takeWhile fun e => !(e.kind == kind && e.ref == ref)

/-- The operation may access the granule: no earlier entry holds it (R239). -/
def granuleFree (es : List SbEntry) (write : Bool) (g : Nat) : Bool := !es.any fun e => e.holds g write

/-- Change the entries of an operation of the wave that acts. -/
def State.modEntry (s : State) (kind ref : Nat) (f : SbEntry → SbEntry) : State :=
  s.modCore fun c => { c with sb := c.sb.map fun e => if e.kind = kind ∧ e.ref = ref ∧ e.owner = s.w.slot then f e else e }

/-- Both streams of the wave may look again at what they waited for. -/
def State.wake (s : State) : State := s.modW fun w => { w with blocked := false, laneBlocked := false }

/-! Views (R246, R247). -/

/-- The view and the window's origin within it (Table 3). -/
structure View where
  o0 : Nat
  r0 : Nat
  c0 : Nat
  og : Nat
  hg : Nat
  wg : Nat
  deriving DecidableEq, Repr

/-- The fields of a view word. -/
def viewOf (d : Desc) (x : DWord) : View :=
  let alt (v e : Nat) : Nat := if v = 0 then e else v
  { o0 := bits x 24 12, r0 := bits x 12 12, c0 := bits x 0 12
    og := if bits x 60 4 = 0 then d.n else 2 ^ bits x 60 4
    hg := alt (bits x 48 12) d.h, wg := alt (bits x 36 12) d.w }

/-- The copy moves data into lane memory. -/
def CopyKind.load (k : CopyKind) : Bool :=
  match k with
  | .plane | .planeSw | .skim => true
  | .store | .fill => false

/-- The copy's outer view lies in skim space. -/
def CopyKind.skimSide (k : CopyKind) : Bool :=
  match k with
  | .skim | .fill => true
  | .plane | .planeSw | .store => false

/-- Bytes of the units that the engine requests: lines of 512 bytes (R193), blocks of 128 in skim space (R204). -/
def CopyCmd.unit (c : CopyCmd) : Nat := if c.kind.skimSide then 128 else 512

/-- The view index for index `i` of an axis, none for zero bits or for no access (R247). -/
def viewIndex (circ : Bool) (edge : Nat) (load : Bool) (org ext i : Nat) : Option Nat :=
  let v := org + i
  if circ then some (v % ext)
  else if v < ext then some v
  else if load then ((edgeIndex 0 edge ext v).toOption).getD none
  else none

/-- A cell of a copy's footprint: its lane, its place in half bytes, and where its element lies, in half bytes from address 0; none
for a zero-filled or pad cell. -/
structure CopyCell where
  lane : Nat
  place : Nat
  src : Option Nat
  deriving DecidableEq, Repr

/-- Granule of a cell. -/
def CopyCell.granule (x : CopyCell) : Nat := x.place / 32

/-- The cells of outer plane o. -/
def planeCells (w : Wave) (d : Desc) (c : CopyCmd) (o : Nat) : List CopyCell :=
  let v := viewOf d c.view
  let idx (bit org ext i : Nat) : Option Nat := viewIndex (c.circ.getLsbD bit) d.edge c.kind.load org ext i
  (w.cellsOf { d with n := 1 }).map fun (_, i, j) =>
    let (lane, p) := w.place d o i j
    let src : Option Nat :=
      if i < d.h ∧ j < d.w then
        match idx 2 v.o0 v.og o, idx 1 v.r0 v.hg i, idx 0 v.c0 v.wg j with
        | some a, some b, some e => some (2 * c.base.toNat + ((a * v.hg + b) * v.wg + e) * nibs d.fmt)
        | _, _, _ => none
      else none
    { lane := lane, place := p, src := src }

/-- Every cell of a copy's footprint. -/
def copyCells (w : Wave) (d : Desc) (c : CopyCmd) : List CopyCell := (List.range d.n).flatMap (planeCells w d c)

/-- The item of the cells that no line supplies. -/
def edgeItem : Nat := 2 ^ 64

/-- The item that a cell belongs to. -/
def CopyCell.item (c : CopyCmd) (x : CopyCell) : Nat := (x.src.map fun p => p / 2 / c.unit).getD edgeItem

/-- Insert a number in ascending order, once. -/
def insOnce (x : Nat) : List Nat → List Nat
  | [] => [x]
  | y :: r => if x < y then x :: y :: r else if x = y then y :: r else y :: insOnce x r

/-- The lines of a copy in request order: outer planes ascending, and lines ascending in each (R248); and the item of the cells that
take no line. The planes are those of dN, also where a circular outer axis wraps: no rule says that they are the view's (DESIGN CHOICE, log entry
102). -/
def copyItems (w : Wave) (d : Desc) (c : CopyCmd) : List CopyItem :=
  let lines := (List.range d.n).foldl (fun acc o =>
    let here := (planeCells w d c o).foldl (fun m x => if x.src.isSome then insOnce (x.item c) m else m) []
    acc ++ here.filter fun l => !acc.contains l) []
  let rest := (copyCells w d c).filter fun x => x.src.isNone
  (if c.kind.load && !rest.isEmpty then [{ line := edgeItem, data := some [], left := nub (rest.map (·.granule)) }] else [])
    ++ lines.map fun l => { line := l }

/-! Copy commands (R243, R244). -/

/-- Issue of a copy command (R244). -/
def copyIssue (kind : CopyKind) (i : Instr) (d a b : BitVec 6) (n : BitVec 4) (c : BitVec 3) (s : State) :
    Host.Outcome State Fault Refusal :=
  let t := s.w.ticket
  let cmd : CopyCmd :=
    { kind := kind, ticket := t, base := s.getS a, view := s.getS b, dn := n.toNat, circ := c, sys := s.w.sys }
  finishSeq 4 s (do
    let u ← s.enqueueCmd i (.copy cmd)
    .ok ((u.modW fun w =>
      { w with ticket := w.ticket + 1
               ops := w.ops ++ [{ cmd := cmd, desc := 0, accepted := false, todo := [], fault := none, held := none, done := false }] }).setS
      d (dw t)))

/-- `cp.plane` (R243, R244). -/
def execCpPlane (d a b : BitVec 6) (n : BitVec 4) (c : BitVec 3) (s : State) : Host.Outcome State Fault Refusal :=
  copyIssue .plane (.cpPlane d a b n c) d a b n c s

/-- `cp.plane.sw` (R249). -/
def execCpPlaneSw (d a b : BitVec 6) (n : BitVec 4) (c : BitVec 3) (s : State) : Host.Outcome State Fault Refusal :=
  copyIssue .planeSw (.cpPlaneSw d a b n c) d a b n c s

/-- `cp.store` (R243, R244). -/
def execCpStore (d a b : BitVec 6) (n : BitVec 4) (c : BitVec 3) (s : State) : Host.Outcome State Fault Refusal :=
  copyIssue .store (.cpStore d a b n c) d a b n c s

/-- `cp.skim` (R243, R244). -/
def execCpSkim (d a b : BitVec 6) (n : BitVec 4) (c : BitVec 3) (s : State) : Host.Outcome State Fault Refusal :=
  copyIssue .skim (.cpSkim d a b n c) d a b n c s

/-- `cp.fill` (R243, R244). -/
def execCpFill (d a b : BitVec 6) (n : BitVec 4) (c : BitVec 3) (s : State) : Host.Outcome State Fault Refusal :=
  copyIssue .fill (.cpFill d a b n c) d a b n c s

/-! Acceptance (R245). -/

/-- An axis without its flag whose window leaves the view (R245 step 5). -/
def leaves (circ : Bool) (org ext view : Nat) : Bool := !circ && decide (view < org + ext)

/-- The checks of R245 on a copy command, in their order. After SKIMBOUND `ctl.fva` holds the view's base offset s[sa]: R315 says no more than
"Offset" (DESIGN CHOICE, log entry 103). -/
def copyCheck (s : State) (c : CopyCmd) : Res Unit := do
  let d := s.w.desc c.dn
  s.w.descOk d d.fmt d.n
  need (decide (bits c.view 60 4 ≤ 12)) .desc (descFva c.dn 2)
  let v := viewOf d c.view
  need (c.base.toNat % max 1 (nibs d.fmt / 2) == 0) .align c.base
  s.w.boundCheck d
  let span := (v.og * v.hg * v.wg * nibs d.fmt + 1) / 2
  need (!c.kind.skimSide || decide (c.base.toNat + span ≤ s.skimWindow.2)) .skimbound c.base
  need (d.edge != 3 || !(leaves (c.circ.getLsbD 2) v.o0 d.n v.og || leaves (c.circ.getLsbD 1) v.r0 d.h v.hg
      || leaves (c.circ.getLsbD 0) v.c0 d.w v.wg)) .desc (descFva c.dn 5)

/-- Change the copy operation with a ticket. -/
def Wave.modOp (w : Wave) (t : Nat) (f : CopyOp → CopyOp) : Wave :=
  { w with ops := w.ops.map fun o => if o.cmd.ticket = t then f o else o }

/-- The stores that issued before an engine command are performed before its operation begins: the command is a release of core scope
(R229). In a reproducible context the engine reads and writes committed state (R233). -/
def forkReady (s : State) : Res Unit := ready (s.repro || s.storesPerformed)

/-- The descriptor of an accepted operation. -/
def CopyOp.d (o : CopyOp) : Desc := descOf o.cmd.dn o.desc

/-- The cells of an item. -/
def CopyOp.cellsAt (o : CopyOp) (w : Wave) (line : Nat) : List CopyCell :=
  (copyCells w o.d o.cmd).filter fun x => x.item o.cmd == line && (o.cmd.kind.load || x.src.isSome)

/-- The granules that an operation has still to write or read. -/
def CopyOp.pending (o : CopyOp) (w : Wave) : List Nat :=
  o.todo.flatMap fun i => if i.data.isSome then i.left else nub ((o.cellsAt w i.line).map (·.granule))

/-- `COPY_COMMAND_ACCEPT`: the copy command at the head of the lane queue is checked, records its entry and goes to the engine (R245,
R237, R249). -/
def execCopyCommandAccept (s : State) : Host.Outcome State Fault Refusal :=
  match s.w.lq with
  | .cmd _ _ _ (.copy c) :: _ =>
    finishCmd s (do
      copyCheck s c
      forkReady s
      let d := s.w.desc c.dn
      let o : CopyOp :=
        { cmd := c, desc := s.w.dReg c.dn, accepted := true, todo := copyItems s.w d c, fault := none, held := none, done := false }
      let t ← s.takeEntries [(footEntry s.w d (!c.kind.load) c.kind.load 0 c.ticket).withLeft (o.pending s.w)]
      .ok (t.modW fun w =>
        { w.modOp c.ticket fun _ => o with
          binder := if c.kind = .planeSw then some c.ticket else none
          buf := if s.repro && c.kind == .store then w.buf ++ [.engine c.ticket []] else w.buf }))
  | _ => .next s

/-- `SCOREBOARD_ENTRY_GRANT`: the first request that waits on a core takes all its entries (R237). -/
def execScoreboardEntryGrant (core : Nat) (s : State) : Host.Outcome State Fault Refusal :=
  match (s.coreAt core).sbWait with
  | [] => .next s
  | (n, k) :: rest =>
    let used := (s.coreAt core).sb.length
      + (s.waveIds.map fun m => if (s.wave m).core = core then (s.wave m).sbGrant else 0).sum
    if used + k ≤ 48 then
      .next ((s.modCoreAt core fun c => { c with sbWait := rest }).modWave n fun w =>
        { w with sbGrant := k, laneBlocked := false })
    else .next s

/-! Lines (R247, R248). -/

/-- Store an operation back, with its entry's bitmap, fault mark and held bit (R238, R241, R242). -/
def State.setOp (s : State) (o : CopyOp) : State :=
  let left := o.pending s.w
  ((s.modW fun w => w.modOp o.cmd.ticket fun _ => o).modEntry 0 o.cmd.ticket fun e =>
    { e.withLeft left with fault := o.fault.isSome, held := o.held.isSome }).wake

/-- A fault of an operation at a line sets the mark; the line is requested again after a retry (R241, R252). -/
def State.markOp (s : State) (o : CopyOp) (line reason : Nat) : State :=
  let o := { o with todo := o.todo.map fun (i : CopyItem) => if i.line = line then { i with loc := none } else i }
  s.setOp { o with fault := some (o.fault.getD (reason, dw (line * o.cmd.unit), line)) }

/-- A fault of translation or permission at a line: a Page Request where the context uses them, else the mark (R242, R326). -/
def State.askOp (s : State) (o : CopyOp) (line reason : Nat) : State :=
  if s.pageRequests s.w.ctx then
    (s.setOp { o with held := some line }).askPage (line * o.cmd.unit) (!o.cmd.kind.load) 0 o.cmd.ticket
  else s.markOp o line reason

/-- The place of a block of the wave's skim window, as its core requests it (R248). -/
def State.skimLoc (s : State) (line : Nat) : Loc :=
  { kind := .device, addr := s.skimKey (line * 128), stripe := 0, home := 0, rm := false }

/-- Request the lines of an operation in order up to one, each translated once, until one faults or has to wait (R248, R195). A block of skim
space needs no translation (R204). -/
def State.requestLines (s : State) (o : CopyOp) (upto : Nat) :
    List CopyItem → State × List CopyItem × Option (Nat × Nat)
  | [] => (s, [], none)
  | i :: r =>
    let keep (s : State) (i : CopyItem) : State × List CopyItem × Option (Nat × Nat) :=
      if i.line = upto then (s, i :: r, none)
      else
        let (s, r', f) := State.requestLines s o upto r
        (s, i :: r', f)
    if i.loc.isSome ∨ i.data.isSome then keep s i
    else if o.cmd.kind.skimSide then keep s { i with loc := some (s.skimLoc i.line) }
    else
      match s.engineAccess o.cmd.sys (if o.cmd.kind.load then .load else .store) (i.line * 512) with
      | .ok e => keep (s.touchTlb false (i.line * 512)) { i with loc := some (e.at (i.line * 512)) }
      | .error none => (s, i :: r, none)
      | .error (some reason) => (s.touchTlb false (i.line * 512), i :: r, some (i.line, reason))

/-- The units of 128 bytes of a place that some cells of its line touch. -/
def unitsOf (l : Loc) (line : Nat) (cells : List CopyCell) : List Loc :=
  (List.range 4).filterMap fun k =>
    if cells.any fun x => (x.src.map fun p => decide (p / 2 / 128 = 4 * line + k)).getD false then
      some { l with addr := (l.addr / 128 + k) * 128 }
    else none

/-- What a line returns: its bytes by virtual address or skim offset, or the reason of its fault, or none where it has to wait. -/
def State.lineData (s : State) (o : CopyOp) (i : CopyItem) : Option (Except Nat (Memory × State)) :=
  if i.loc.isNone then none
  else if o.cmd.kind.skimSide then
    let k := s.skimKey (i.line * 128)
    if (look? s.core.skimBuf (k / 128)).isNone && s.skimBad.contains (k / 128) then some (.error 3)
    else
      let m := (List.range 128).foldl (fun m n => writeByte m (i.line * 128 + n) (s.skimByte (k + n))) []
      some (.ok (m, s.fillSkim k))
  else
    match i.loc with
    | none => none
    | some l =>
      let back (m : Memory) : Memory := (region m l.addr 512).map fun c => (c.1 - l.addr + i.line * 512, c.2)
      match l.kind with
      | .device =>
        let units := unitsOf l i.line (o.cellsAt s.w i.line)
        if s.unitsHeld o.snap units then none
        else if s.unitsPoisoned units then some (.error 2)
        else
          let (m, t) := s.planeRead o.snap units
          some (.ok (back m, t))
      | .host => some (.ok (back (s.hostFor o.snap), s.atomTrip s.w.core l))
      | .peer =>
        let (err, t) := s.peerFails l.home
        if err then some (.error 1)
        else
          let (bs, t) := t.outside 512
          some (.ok (writeBytes [] (i.line * 512) bs, t))

/-- The half bytes of an element in a line's data. -/
def elemOf (m : Memory) (p n : Nat) : Nat :=
  if n = 1 then (readByte m (p / 2)).toNat / (if p % 2 = 0 then 1 else 16) % 16 else readLe m (p / 2) (n / 2)

/-- Write the cells of a returned line whose granules are free (R239, R247); the line has landed when none is left. -/
def State.landGranules (s : State) (o : CopyOp) (i : CopyItem) (m : Memory) (left : List Nat) : State :=
  let es := s.earlier 0 o.cmd.ticket
  let (now, later) := left.partition fun g => granuleFree es true g
  let n := nibs o.d.fmt
  let t := s.modW fun w => ((o.cellsAt w i.line).filter fun x => now.contains x.granule).foldl (fun w x =>
    w.writeNibs x.lane x.place n ((x.src.map fun p => elemOf m p n).getD 0)) w
  let todo := if later.isEmpty then o.todo.filter fun y => y.line != i.line
    else o.todo.map fun y => if y.line = i.line then { y with data := some m, left := later } else y
  t.setOp { o with todo := todo }

/-- The bytes that a line of a write copy takes, by virtual address or skim offset. Where a circular axis shorter than the window maps two
plane elements to one element of the view, the later in the ascending order (o, i, j) stands; R247 leaves that open (DESIGN CHOICE, log
entry 114). -/
def CopyOp.lineMasked (o : CopyOp) (w : Wave) (line : Nat) : Masked :=
  let n := nibs o.d.fmt
  (o.cellsAt w line).flatMap fun x => (x.src.map fun p => maskedOf p n (w.readNibs x.lane x.place n)).getD []

/-- A line of a write copy. In a reproducible context the engine asks another device for the access when it takes the bytes, so that a failure marks
its entry while that stands (R298, R369; log entry 95). The answer is none where it has to wait for earlier entries or for its home, else the fault's reason or the state in
which its bytes are written, or held for the commit (R233, R248). -/
def State.storeLine (s : State) (o : CopyOp) (i : CopyItem) : Option (Except Nat State) :=
  let cs := o.lineMasked s.w i.line
  if i.loc.isNone then none
  else if !(nub ((o.cellsAt s.w i.line).map (·.granule))).all (granuleFree (s.earlier 0 o.cmd.ticket) false) then none
  else if o.cmd.kind.skimSide then
    let at' := cs.map fun (a, k, v) => (s.skimKey a, k, v)
    some (.ok (s.writeSkim (mergeMasked s.skim at')))
  else
    match i.loc with
    | none => none
    | some l =>
      let at' := cs.map fun (a, k, v) => (a - i.line * 512 + l.addr, k, v)
      if s.repro then
        let (err, t) := if l.kind = .peer then s.peerRefuses l.home else (false, s)
        some (if err then .error 1
          else .ok (t.modW fun w => { w with buf := w.buf.map fun x =>
            match x with
            | .engine t es => if t = o.cmd.ticket then .engine t (es ++ at'.map fun c => (l, c)) else x
            | x => x }))
      else
        match l.kind with
        | .device => if s.atomOpen s.w.core l then some (.ok ((s.storeTrip s.w.core l).engineWrite s.w.core l at')) else none
        | .host => some (.ok ((s.storeTrip s.w.core l).engineWrite s.w.core l at'))
        | .peer =>
          let (err, t) := s.peerRefuses l.home
          some (if err then .error 1 else .ok t)

/-- The last step of `COPY_LINE_LAND`, for a line that is requested. -/
def State.landLine (s : State) (o : CopyOp) (i : CopyItem) : State :=
  if o.cmd.kind.load then
    match i.data with
    | some m => s.landGranules o i m i.left
    | none =>
      match s.lineData o i with
      | none => s.setOp o
      | some (.error reason) => s.markOp o i.line reason
      | some (.ok (m, t)) => t.landGranules o i m (nub ((o.cellsAt s.w i.line).map (·.granule)))
  else
    match s.storeLine o i with
    | none => s.setOp o
    | some (.error reason) => s.markOp o i.line reason
    | some (.ok t) => t.setOp { o with todo := o.todo.filter fun y => y.line != i.line }

/-- `COPY_LINE_LAND`: a line of the wave's operation lands, after the lines before it have been requested (R248); lines that were
requested before a fault still land (R241). While the cluster is reset its port injects nothing (R372). -/
def execCopyLineLand (ticket line : Nat) (s : State) : Host.Outcome State Fault Refusal :=
  match s.w.opOf ticket with
  | none => .next s
  | some o =>
    match o.todo.find? fun i => i.line == line with
    | none => .next s
    | some i =>
      if s.core.inReset then .next s
      else if i.data.isSome || i.loc.isSome then .next (s.landLine o i)
      else if o.fault.isSome || o.held.isSome then .next s
      else
        let (t, todo, f) := s.requestLines o line o.todo
        let o := { o with todo := todo }
        match f with
        | some (l, reason) => .next (t.askOp o l reason)
        | none =>
          match todo.find? fun i => i.line == line with
          | some i => .next (t.landLine o i)
          | none => .next s

/-- `COPY_OPERATION_COMPLETE`: the operation frees its entry, which stays for a bound sweep that shares it (R240, R249). Completed
operations are forgotten, but for those of `cp.plane.sw`, whose tickets wait for lane entries too (R249). -/
def execCopyOperationComplete (ticket : Nat) (s : State) : Host.Outcome State Fault Refusal :=
  match s.w.opOf ticket with
  | none => .next s
  | some o =>
    if !o.landed || o.done then .next s
    else
      let shared := s.w.sweeps.any fun x => x.bound == some ticket && x.bad.isNone
      let t := s.modCore fun c =>
        { c with sb := c.sb.filter fun e =>
            !(e.kind == 0 && e.ref == ticket && e.owner == s.w.slot) || (e.rd && e.wr && shared) }
      let t := t.modW fun w =>
        if o.cmd.kind = .planeSw then w.modOp ticket fun o => { o with done := true }
        else { w with ops := w.ops.filter fun o => o.cmd.ticket != ticket }
      .next t.wake

/-! Waiting, testing and retrying (R250 to R252). -/

/-- The operations that a ticket names: all of the wave's for 0. -/
def Wave.opsOf (w : Wave) (t : Nat) : List CopyOp := if t = 0 then w.ops else w.ops.filter fun o => o.cmd.ticket == t

/-- The ticket covers sweeps (R249): it is 0, or one of a `cp.plane.sw`. -/
def Wave.coversSweeps (w : Wave) (t : Nat) : Bool := t == 0 || (w.opsOf t).any fun o => o.cmd.kind == .planeSw

/-- Sweeps that a ticket covers. -/
def boundTo (t : Nat) (x : SweepOp) : Bool :=
  match x.bound with
  | some k => t == 0 || k == t
  | none => false

/-- Every lane-queue entry enqueued before has issued all its words (R249). -/
def Wave.wordsIssued (w : Wave) : Bool := w.lq.isEmpty

/-- `cp.wait` (R250). -/
def execCpWait (a : BitVec 6) (s : State) : Host.Outcome State Fault Refusal :=
  let t := (s.getS a).toNat
  finishSeq 4 s (do
    if s.w.ticket ≤ t then .ok s
    else do
      (s.w.opsOf t).forM fun o => ready o.accepted
      if s.w.coversSweeps t then ready s.w.wordsIssued else .ok ()
      (s.w.opsOf t).forM fun o =>
        match s.opBlocked o with
        | some k => s.copyFault k
        | none => ready o.done
      if s.w.coversSweeps t then s.sweepWait (boundTo t) else .ok ()
      .ok s)

/-- What `cp.test` answers (R251, R249). -/
def testValue (s : State) (t : Nat) : DWord :=
  if s.w.ticket ≤ t then 1
  else if (s.w.opsOf t).any fun o => o.fault.isSome then 2
  else if (s.w.opsOf t).all (·.done)
      && (!s.w.coversSweeps t || (s.w.wordsIssued && !s.w.sweeps.any fun x => boundTo t x && x.bad.isNone)) then 1
  else 0

/-- `cp.test` (R251). -/
def execCpTest (d a : BitVec 6) (s : State) : Host.Outcome State Fault Refusal :=
  finishSeq 4 s (.ok (s.setS d (testValue s (s.getS a).toNat)))

/-- `cp.retry` (R252): the marks clear, and requests go on from the line that faulted. -/
def execCpRetry (a : BitVec 6) (s : State) : Host.Outcome State Fault Refusal :=
  finishSeq 4 s (do
    sysOnly s
    .ok ((s.w.opsOf (s.getS a).toNat).foldl (fun s o => if o.fault.isSome then s.setOp { o with fault := none } else s) s))

/-! Streams (R253 to R260). -/

/-- `sr.bind` (R256): the record's address is formed and translated at issue. -/
def execSrBind (n : BitVec 3) (a : BitVec 6) (i : Imm) (s : State) : Host.Outcome State Fault Refusal :=
  let ea := s.getS a + immVal i
  finishSeq (immLen i) s (do
    need (ea.toNat % 32 == 0) .align ea
    let l ← s.access .load ea
    (s.touchTlb false ea.toNat).enqueueCmd (.srBind n a i) (.srBind n.toNat ea l s.w.sys))

/-- `sr.stop` (R257). -/
def execSrStop (n : BitVec 3) (s : State) : Host.Outcome State Fault Refusal :=
  finishSeq 4 s (s.enqueueCmd (.srStop n) (.srStop n.toNat))

/-- A Page Request stands for a lane of a queue. -/
def State.laneHeld (s : State) (q lane : Nat) : Bool :=
  (s.sector (sectorOf s.w.core)).pageReqs.any fun r => r.wave == s.wid && r.kind == 1 && r.ref == q * 4096 + lane

/-- The entry of a lane-memory stream is freed (R240). -/
def State.freeStream (s : State) (q : Nat) : State :=
  (s.modCore fun c => { c with sb := c.sb.filter fun e => !(e.kind == 2 && e.ref == q && e.owner == s.w.slot) }).modW fun w =>
    { w with sweeps := w.sweeps.map fun x => { x with prior := x.prior.filter fun e => e != (2, q) } }

/-- What `sr.stop` does at the head of the lane queue (R257): the outstanding reads of a read queue return first, and a scatter queue drains, or
its fault is met (R260). -/
def stopWork (s : State) (n : Nat) : Res State := do
  let x := s.w.stream n
  if !x.bound then .ok s
  else do
    need (!s.w.isIndexSource n) .queue (queueFva n 2)
    (List.range s.w.lanes).forM fun L =>
      if n < 4 then ready (!s.laneHeld n L)
      else if (look [] x.vals L).isEmpty then .ok ()
      else do
        headFault n (look [] x.vals L)
        indexFault s.w x L
        s.streamWait n x L (look 0 x.used L)
    .ok ((s.modW fun w => w.setStream n {}).freeStream n)

/-- `SR_STOP_ACCEPT` (R257). -/
def execSrStopAccept (s : State) : Host.Outcome State Fault Refusal :=
  match s.w.lq with
  | .cmd _ _ _ (.srStop n) :: _ => finishCmd s (stopWork s n)
  | _ => .next s

/-- The fields of a stream record (R254, Table 5): reserved bits zero, and the stream it describes. -/
def recordOf (r : Nat) (sys : Bool) : Bool × Stream :=
  let f (lo n : Nat) : Nat := nbits r lo n
  let sgn (x : Nat) : Int := (BitVec.ofNat 32 x).toInt
  (f 57 7 == 0 && f 102 26 == 0 && f 192 64 == 0,
   { bound := true, base := dw (f 0 52), ty := f 52 4, lane := f 56 1 == 1, count := f 64 32, isrc := f 96 3, indexed := f 99 1 == 1
     scale := f 100 2, estride := sgn (f 128 32), lstride := sgn (f 160 32), sys := sys })

/-- The record's type and count are valid (R254). -/
def streamShape (x : Stream) : Bool := (decide (x.ty ≤ 7) || x.ty == 9) && x.count != 0

/-- The rest of R255's conditions but for the window. -/
def streamValid (w : Wave) (q : Nat) (x : Stream) : Bool :=
  let b := streamB x.ty
  let src := w.stream x.isrc
  streamShape x && x.base.toNat % b == 0 && x.estride % (b : Int) == 0 && (!x.lane || x.lstride == 0)
    && (!x.indexed || (decide (b ≤ 2 ^ x.scale) && decide (x.isrc < 4) && src.bound && x.isrc != q && !src.indexed
          && !(List.range 8).any (fun k => k != q && (w.stream k).bound && (w.stream k).indexed && (w.stream k).isrc == x.isrc)
          && (streamB src.ty == 4 || streamB src.ty == 1)))

/-- The least and the greatest offset of an affine stream. -/
def streamRange (x : Stream) : Int × Int :=
  let a : Int := x.base.toNat
  let z : Int := a + (x.count - 1 : Nat) * x.estride
  (min a z, max a z)

/-- The first offset of an affine lane-memory stream that leaves the window, none where all lie in it. -/
def streamOut (w : Wave) (x : Stream) : Option Int :=
  let (lo, hi) := streamRange x
  let b := streamB x.ty
  if !x.lane || x.indexed || (decide (0 ≤ lo) && decide (hi + b ≤ w.lambda)) then none
  else if w.lambda < x.base.toNat + b then some x.base.toNat
  else
    -- positions before the first one outside: those within the window in the direction of the stride
    let room : Int := if 0 < x.estride then (w.lambda : Int) - b - x.base.toNat else x.base.toNat
    some (x.base.toNat + (room / x.estride.natAbs + 1) * x.estride)

/-- A value n at or after p, below the count, of an affine stream touches the bytes `lo` to `hi` of lane memory. -/
def touchesLater (x : Stream) (p lo hi : Nat) : Bool :=
  let b : Int := streamB x.ty
  let at' (n : Int) : Int := x.base.toNat + n * x.estride
  -- the first value from p on that can reach the bytes in the direction of the stride
  let far : Int := if 0 < x.estride then (lo : Int) - b + 1 - x.base.toNat else x.base.toNat - (hi : Int)
  let n : Int := if x.estride = 0 then p else max p ((far + x.estride.natAbs - 1) / x.estride.natAbs)
  decide (n < x.count) && decide ((lo : Int) ≤ at' n + b - 1) && decide (at' n ≤ hi)

/-- The granules of an entry that a value from p on touches: any of them for an indexed stream, which does not say before where it goes. -/
def SbEntry.touched (e : SbEntry) (x : Stream) (p : Nat) : List Nat :=
  (List.range e.n).filterMap fun i =>
    let g := e.first + i
    if x.indexed || touchesLater x p (16 * g) (16 * g + 15) then some g else none

/-- The scoreboard entry of a lane-memory stream (R255, R237): chunks that none of its values touches have landed (R238). -/
def streamEntry (w : Wave) (q : Nat) (x : Stream) : List SbEntry :=
  if !x.lane then []
  else
    let (lo, hi) := if x.indexed then (0, (w.lambda : Int) - 1) else ((streamRange x).1, (streamRange x).2 + streamB x.ty - 1)
    let first := lo.toNat / 16
    let e : SbEntry :=
      { first := first, n := hi.toNat / 16 + 1 - first, rd := decide (q < 4), wr := decide (4 ≤ q), owner := w.slot, kind := 2, ref := q
        bitmap := 0, fault := false, held := false }
    [e.withLeft (e.touched x 0)]

/-- The 32 bytes of a record through the plane path (R256): its value, or the cause of its fault. -/
def State.readRecord (s : State) (va : DWord) (l : Loc) : Res (Nat × State) :=
  match l.kind with
  | .device => do
    let units := unitLocs [l]
    ready (!s.unitsHeld none units)
    need (!s.unitsPoisoned units) .poison va
    let (m, t) := s.planeRead none units
    .ok (readLe m l.addr 32, t)
  | .host => .ok (readLe s.hostMem l.addr 32, s.atomTrip s.w.core l)
  | .peer =>
    let (err, t) := s.peerFails l.home
    if err then trap .loadFault va
    else
      let (bs, t) := t.outside 32
      .ok (bytesToNat bs, t)

/-- `SR_BIND_ACCEPT` (R256): its first step, the stop of a stream that stands there, is made on its own and stands, whatever the binding then meets;
the command stays at the head. -/
def execSrBindAccept (s : State) : Host.Outcome State Fault Refusal :=
  match s.w.lq with
  | .cmd _ _ _ (.srBind q va l sys) :: _ =>
    if (s.w.stream q).bound then
      match stopWork s q with
      | .ok t => .next (t.modW fun w => { w with laneBlocked := false })
      | r => finishCmd s r
    else finishCmd s (do
      forkReady s
      let (r, t) ← s.readRecord va l
      let (clear, x) := recordOf r sys
      match if streamShape x then streamOut t.w x else none with
      | some off => trap .lmbound (BitVec.ofInt 64 off)
      | none => .ok ()
      need (clear && streamValid t.w q x) .queue (queueFva q 3)
      let t ← t.takeEntries (streamEntry t.w q x)
      .ok (t.modW fun w =>
        { w.setStream q x with buf := if s.repro && decide (4 ≤ q) && !x.lane then w.buf ++ [.scatter q []] else w.buf }))
  | _ => .next s

/-- A value as it enters a read queue (R255). -/
def queueVal (t v : Nat) : Word := if t = 9 then (BitVec.ofNat 8 v).signExtend 32 else BitVec.ofNat 32 v

/-- The TLBs after an engine has translated the bytes of an element. -/
def State.touchBytes (s : State) (va : Int) (n : Nat) : State :=
  (List.range n).foldl (fun s (i : Nat) => s.touchTlb false ((va + i) % (2 ^ 64 : Nat)).toNat) s

/-- The places of the bytes of a global element, or the reason of its fault, none where a translation has to wait. The lane stride of R255
need not be a multiple of the element, so an element may be misaligned or straddle lines or pages: it is accessed byte by byte, and a fault
reports the element's own address (DESIGN CHOICE, log entry 115). -/
def State.bytePlaces (s : State) (sys : Bool) (a : Acc) (va : Int) (n : Nat) : Except (Option Nat) (List Loc) :=
  (List.range n).mapM fun (i : Nat) =>
    let x := ((va + i) % (2 ^ 64 : Nat)).toNat
    (s.engineAccess sys a x).map fun e => e.at x

/-- A value, or its fault, enters a read queue, or takes the place of the faulted value whose access is made again (R260). -/
def Wave.arrive (w : Wave) (q lane : Nat) (v : QVal) : Wave :=
  let x := w.stream q
  match look [] x.vals lane with
  | ⟨_, _, true⟩ :: r => w.setStream q { x with vals := put [] x.vals lane (v :: r) }
  | vs =>
    (w.setStream q { x with vals := put [] x.vals lane (vs ++ [v]), moved := put 0 x.moved lane (look 0 x.moved lane + 1) }).takeIndex x lane

/-- A global element that a stream reads, by its byte places: none where a home holds it. -/
def State.streamRead (s : State) (snap : Snap) (ps : List Loc) : Option (Except Nat (Nat × State)) :=
  let devs := unitLocs ps
  if s.unitsHeld snap devs then none
  else if s.unitsPoisoned devs then some (.error 2)
  else
    let (m, t) := s.planeRead snap devs
    let (err, t) := match ps.find? fun l => l.kind == .peer with
      | some l => t.peerFails l.home
      | none => (false, t)
    if err then some (.error 1)
    else
      let (v, t) := ps.zipIdx.foldl (fun (v, t) (l, i) =>
        match l.kind with
        | .device => (v + (readByte m l.addr).toNat * 256 ^ i, t)
        | .host => (v + (readByte (s.hostFor snap) l.addr).toNat * 256 ^ i, if i = 0 then t.atomTrip s.w.core l else t)
        | .peer =>
          let (bs, t) := t.outside 1
          (v + bytesToNat bs * 256 ^ i, t)) ((0, t) : Nat × State)
      some (.ok (v, t))

/-- The next value of a lane that a read stream of lane memory fetches: a value the manual does not state outside the window. -/
def State.lmValue (s : State) (lane : Nat) (a : Int) (n : Nat) : Nat × State :=
  if 0 ≤ a ∧ a + n ≤ s.w.lambda then (readLe s.w.lm (lmKey lane a.toNat) n, s)
  else ((Config.openValue s.free).toNat % 2 ^ (8 * n), { s with free := s.free + 1 })

/-- The values of a lane-memory stream that every virtual lane has moved to or from lane memory. -/
def Wave.progress (w : Wave) (q : Nat) (x : Stream) : Nat :=
  (List.range w.lanes).foldl (fun m L => min m (look 0 (if q < 4 then x.moved else x.used) L)) x.count

/-- A lane-memory stream has moved a value: its entry's chunks that no later value touches have landed (R238), all of them at its end, where
the entry is freed (R240). What an indexed stream touches later is not known before. -/
def State.landStream (s : State) (q : Nat) : State :=
  let x := s.w.stream q
  let p := s.w.progress q x
  if !x.lane then s
  else if x.count ≤ p then s.freeStream q
  else s.modEntry 2 q fun e => e.withLeft (e.touched x p)

/-- The value of a lane's access at an address arrives in its read queue, or its fault does (R256, R260); a translation fault asks the host
where the context uses Page Requests (R242). -/
def State.fetchGlobal (s : State) (q lane : Nat) (x : Stream) (a : Int) : State :=
  let addr := BitVec.ofInt 64 a
  match s.bytePlaces x.sys .load a (streamB x.ty) with
  | .error none => s
  | .error (some reason) =>
    let s := s.touchBytes a (streamB x.ty)
    if s.pageRequests s.w.ctx then s.askPage addr.toNat false 1 (q * 4096 + lane)
    else (s.modW fun w => w.arrive q lane { v := 0, err := some (reason, addr) }).wake
  | .ok ps =>
    let t := s.touchBytes a (streamB x.ty)
    match t.streamRead x.snap ps with
    | none => s
    | some (.error reason) => (t.modW fun w => w.arrive q lane { v := 0, err := some (reason, addr) }).wake
    | some (.ok (v, t)) => (t.modW fun w => w.arrive q lane { v := queueVal x.ty v }).wake

/-- `STREAM_VALUE_FETCH`: the next value of a lane's read queue arrives, or its fault does; the access of a faulted head is made again where
the wave has returned from its STREAM_FAULT (R256, R258, R260). -/
def execStreamValueFetch (q lane : Nat) (s : State) : Host.Outcome State Fault Refusal :=
  let x := s.w.stream q
  let n := look 0 x.moved lane
  let b := streamB x.ty
  let vs := look [] x.vals lane
  if 4 ≤ q ∨ !x.bound ∨ s.w.lanes ≤ lane ∨ s.laneHeld q lane ∨ s.core.inReset then .next s
  else
    match vs with
    | ⟨_, some (_, addr), true⟩ :: _ => .next (s.fetchGlobal q lane x addr.toNat)
    | _ =>
      if x.count ≤ n ∨ 16 ≤ vs.length then .next s
      else
        match s.w.streamAddr x lane n with
        | none => .next s
        | some a =>
          if !x.lane then .next (s.fetchGlobal q lane x a)
          else if (granules a.toNat b).all (granuleFree (s.earlier 2 q) false) then
            let (v, t) := s.lmValue lane a b
            .next ((t.modW fun w => w.arrive q lane { v := queueVal x.ty v }).landStream q).wake
          else .next s

/-- The head value of a scatter queue has been stored. -/
def Wave.scattered (w : Wave) (q lane : Nat) : Wave :=
  let x := w.stream q
  (w.setStream q { x with vals := put [] x.vals lane (look [] x.vals lane).tail, used := put 0 x.used lane (look 0 x.used lane + 1) }).takeIndex
    x lane

/-- The head value of a queue takes a fault, or loses it. -/
def Wave.setHead (w : Wave) (q lane : Nat) (err : Option (Nat × DWord)) : Wave :=
  let x := w.stream q
  match look [] x.vals lane with
  | v :: r => w.setStream q { x with vals := put [] x.vals lane ({ v with err := err } :: r) }
  | [] => w

/-- Masked bytes join what the engine holds of a queue's scatter stream in the quantum, by value number and lane (R233, R294; log entry 73). -/
def holdScatter (q key : Nat) (cs : List (Loc × Nat × Byte × Byte)) (buf : List BufItem) : List BufItem :=
  let mine (i : BufItem) : Bool := match i with
    | .scatter q' _ => q' == q
    | _ => false
  if buf.any mine then
    -- a queue bound again in the quantum has a later place
    (buf.reverse.foldl (fun (acc, done) i => match i with
      | .scatter q' vs => if q' = q ∧ !done then (.scatter q (insertKey vs key cs) :: acc, true) else (i :: acc, done)
      | i => (i :: acc, done)) (([], false) : List BufItem × Bool)).1
  else
    let old (i : BufItem) : Bool := match i with
      | .scatter q' _ => decide (q' < q)
      | _ => false
    buf.takeWhile old ++ .scatter q [(key, cs)] :: buf.dropWhile old

/-- Store value n of a lane at its byte places: none where a home cannot take it yet. In a reproducible context the engine holds it (R233),
and another device is asked then (log entry 95). -/
def State.streamWrite (s : State) (q lane n : Nat) (ps : List Loc) (v : Nat) : Option (Except Nat State) :=
  let cs : List (Loc × Nat × Byte × Byte) := ps.zipIdx.map fun (l, i) => (l, l.addr, 0xFF, BitVec.ofNat 8 (v / 256 ^ i))
  if !s.repro && ps.any fun l => l.kind == .device && !s.atomOpen s.w.core l then none
  else
    let (err, t) := match ps.find? fun l => l.kind == .peer with
      | some l => s.peerRefuses l.home
      | none => (false, s)
    if err then some (.error 1)
    else if s.repro then some (.ok (t.modW fun w => { w with buf := holdScatter q (n * 16384 + lane) cs w.buf }))
    else
      -- the bytes on one line are one write
      match cs with
      | [] => some (.ok t)
      | c :: _ =>
        let (here, rest) := cs.partition fun x => x.1.sameSpace c.1 && x.1.addr / 512 == c.1.addr / 512
        let t := (unitLocs ps ++ (ps.filter fun l => l.kind == .host).take 1).foldl (fun t l => t.storeTrip t.w.core l) t
        let t := t.engineWrite t.w.core c.1 (here.map (·.2))
        some (.ok (rest.foldl (fun t x => t.engineWrite t.w.core x.1 [x.2]) t))

/-- `STREAM_SCATTER_DRAIN`: the oldest pushed value of a lane is stored, or its fault marks it (R259, R260). -/
def execStreamScatterDrain (q lane : Nat) (s : State) : Host.Outcome State Fault Refusal :=
  let x := s.w.stream q
  let n := look 0 x.used lane
  let b := streamB x.ty
  match look [] x.vals lane with
  | [] => .next s
  | v :: _ =>
    if q < 4 ∨ 8 ≤ q ∨ !x.bound ∨ v.err.isSome ∨ s.laneHeld q lane ∨ s.core.inReset then .next s
    else
      match s.w.streamAddr x lane n with
      | none => .next s
      | some a =>
        if x.lane then
          if (granules a.toNat b).all (granuleFree (s.earlier 2 q) true) then
            .next ((s.modW fun w => (w.writeLm (leCells (lmKey lane a.toNat) b v.v.toNat)).scattered q lane).landStream q).wake
          else .next s
        else
          let addr := BitVec.ofInt 64 a
          match s.bytePlaces x.sys .store a b with
          | .error none => .next s
          | .error (some reason) =>
            let s := s.touchBytes a b
            if s.pageRequests s.w.ctx then .next (s.askPage addr.toNat true 1 (q * 4096 + lane))
            else .next (s.modW fun w => w.setHead q lane (some (reason, addr))).wake
          | .ok ps =>
            let t := s.touchBytes a b
            match t.streamWrite q lane n ps v.v.toNat with
            | none => .next s
            | some (.error reason) => .next (t.modW fun w => w.setHead q lane (some (reason, addr))).wake
            | some (.ok t) => .next (t.modW fun w => w.scattered q lane).wake

/-! Page Requests (R242, R326). -/

/-- The refusal of a Page Request reaches the operation that it was sent for (R242, R260). -/
def State.refusePage (s : State) (r : PageReq) : State :=
  if r.kind = 0 then
    match s.w.opOf r.ref with
    | some o => s.setOp { o with held := none, fault := some (4, r.addr, (o.held.getD 0)) }
    | none => s
  else if r.kind = 1 then
    let q := r.ref / 4096
    let lane := r.ref % 4096
    (if q < 4 then s.modW fun w => w.arrive q lane { v := 0, err := some (4, r.addr) } else s.modW fun w => w.setHead q lane (some (4, r.addr))).wake
  else s

/-- A success lets the engine of the wave that acts walk again (R326): the data TLB of its core gives up the page. -/
def State.grantPage (s : State) (r : PageReq) : State :=
  let s := s.modCore fun c => { c with dtlb := tlbForget c.dtlb r.ctx r.addr.toNat }
  if r.kind = 0 then
    match s.w.opOf r.ref with
    | some o => s.setOp { o with held := none }
    | none => s
  else s

end Sys2Proof.Machine
end

