-- ==== Sys2Proof/Machine/Queues.lean ====
section
/-! DEFINITION. The queue unit of a sector (R263 to R268): watched queues, their packets, bulk copies and signal packets; and the host's
answers to Page Requests (R242, R326). -/

namespace Sys2Proof.Machine

open Sys2Proof

/-! Accesses of a sector's units. -/

/-- The translation of an address of a context for a sector's units: sector TLB, then a walk (R195). -/
def State.sectorTranslate (s : State) (sector ctx va : Nat) : Option TlbEntry :=
  if 2 ^ 52 ≤ va then none
  else
    match tlbFind (s.sector sector).tlb ctx va with
    | some e => some e
    | none => s.walk ctx va

/-- The translation of an address for a sector's units has to wait: its walk meets a line that a write holds (R358). -/
def State.sectorWaits (s : State) (sector ctx va : Nat) : Bool :=
  decide (va < 2 ^ 52) && (tlbFind (s.sector sector).tlb ctx va).isNone && s.walkHeld (s.rowAt ctx).root va

/-- A request of a sector's unit to the home of a device place or to the host passes, and its answer (R349). -/
def State.unitTrip (s : State) (write : Bool) (sector : Nat) (l : Loc) : State := s.exchangeAt write (sectorUnit sector) l

/-- A sector's unit translates an address: its TLB, and the pages that the sector remembers (R195, R215). -/
def State.lookSector (s : State) (sector ctx va : Nat) : State :=
  let walked := decide (va < 2 ^ 52) && (tlbFind (s.sector sector).tlb ctx va).isNone
  let s := if walked then s.walkTrips sector (s.rowAt ctx).root va else s
  match s.sectorTranslate sector ctx va with
  | some e => (s.modSector sector fun x => { x with tlb := tlbAdd x.tlb 8192 e }).seeAt sector e
  | none => s

/-- A sector's unit accesses an address: it translates it and goes to its home, or to the host. -/
def State.reachSector (s : State) (write : Bool) (sector ctx va : Nat) : State :=
  match s.sectorTranslate sector ctx va with
  | some e => (s.lookSector sector ctx va).unitTrip write sector (e.at va)
  | none => s.lookSector sector ctx va

/-- It reads there, or makes an atomic operation. -/
def State.touchSector (s : State) (sector ctx va : Nat) : State := s.reachSector false sector ctx va

/-- A sector's unit reads or writes `n` bytes, line by line. -/
def State.touchRange (s : State) (write : Bool) (sector ctx va n : Nat) : State :=
  if n = 0 then s
  else (List.range ((va + n - 1) / 512 + 1 - va / 512)).foldl (fun s i =>
    s.reachSector write sector ctx ((if i = 0 then va else (va / 512 + i) * 512) % 2 ^ 64)) s

/-- The device place that a sector's unit reads and writes for a context: readable, writable, and on a device page (R267, R268). The
units stand in no user view (log entry 17). -/
def State.unitPlace (s : State) (sector ctx va : Nat) : Option Loc :=
  match s.sectorTranslate sector ctx va with
  | some e => if e.permits .atomic true && e.loc.kind == .device then some (e.at va) else none
  | none => none

/-- A watched queue of a sector. -/
def State.queueAt (s : State) (sector k : Nat) : Option Queue := ((s.sector sector).queues)[k]?

/-- Change the queue with a control block at a device address. -/
def State.modQueue (s : State) (sector pa : Nat) (f : Queue → Queue) : State :=
  s.modSector sector fun x => { x with queues := x.queues.map fun q => if q.pa = pa then f q else q }

/-- The read index of a queue. -/
def State.readIndex (s : State) (q : Queue) : Nat := readLe s.mem (q.pa + 0x200) 8

/-- The write index of a queue. -/
def State.writeIndex (s : State) (q : Queue) : Nat := readLe s.mem q.pa 8

/-- Virtual address of slot w of the ring that a control block at a device address describes (R263). -/
def State.slotVa (s : State) (pa w : Nat) : Nat :=
  readLe s.mem (pa + 0x208) 8 % 2 ^ 52 + 64 * (w % 2 ^ (readLe s.mem (pa + 0x210) 8 % 32))

/-- The place of the slot at the read index. -/
def State.headPlace (s : State) (sector : Nat) (q : Queue) : Option Loc :=
  s.unitPlace sector q.ctx (s.slotVa q.pa (s.readIndex q))

/-- 64 bytes of device memory as a packet. A poisoned sector under a slot, a control block or a signal word has no rule of its own at the
queue unit: it reads, and adds to, the bytes as they stand (DESIGN CHOICE, log entry 118). -/
def State.packetAt (s : State) (l : Loc) : BitVec 512 := BitVec.ofNat 512 (readLe s.mem l.addr 64)

/-- Doubleword k of a packet. -/
def pk (p : BitVec 512) (k : Nat) : DWord := p.extractLsb' (64 * k) 64

/-- The kind of a packet (R265). -/
def pkKind (p : BitVec 512) : Nat := bits (pk p 7) 32 8

/-- R267: the packet is consumed without effect. -/
def packetBad (q : Queue) (p : BitVec 512) : Bool :=
  bits (pk p 7) 0 32 != q.ctx || decide (4 ≤ pkKind p) || bits (pk p 7) 40 24 != 0
    || (pkKind p == 2 && !(bits (pk p 2) 32 32 == 0 && pk p 5 == 0 && pk p 6 == 0))
    || (pkKind p == 3 && !(pk p 2 == 0 && pk p 3 == 0 && pk p 4 == 0 && pk p 5 == 0 && pk p 6 == 0))

/-- The lines of the control block can be read: no write at its home holds one (R358). -/
def State.blockOpen (s : State) (q : Queue) : Bool := !s.lineHeld (q.pa / 512) && !s.lineHeld ((q.pa + 0x200) / 512)

/-- The packet at the head of a queue that the unit may act on: slot number, place and bytes. -/
def State.headPacket (s : State) (sector : Nat) (q : Queue) : Option (Nat × Loc × BitVec 512) :=
  if s.blockOpen q ∧ s.readIndex q < s.writeIndex q ∧ q.cand.isNone ∧ q.bad.isNone
      ∧ !s.sectorWaits sector q.ctx (s.slotVa q.pa (s.readIndex q)) then
    match s.headPlace sector q with
    | some l =>
      let p := s.packetAt l
      if pkKind p = 0 ∨ s.lineHeld (l.addr / 512) then none else some (s.readIndex q, l, p)
    | none => none
  else none

/-- The slot's line and the control block's lines, of which that of the read index is written, are free now. -/
def State.consumeReady (s : State) (q : Queue) (l : Loc) : Bool :=
  s.lineFree (l.addr / 512) && s.lineFree (q.pa / 512) && s.lineFree ((q.pa + 0x200) / 512)

/-- Steps 3 and 4 of R267. -/
def State.consume (s : State) (sector : Nat) (q : Queue) (l : Loc) : State :=
  (((s.unitTrip true sector l).writeHome [(l.addr + 0x3C, 0)]).writeTrip (sectorUnit sector) (sliceUnit q.slice)).writeHome
    (leCells (q.pa + 0x200) 8 (s.readIndex q + 1))

/-- A task that leaves the count of its phase: retired, or consumed without effect (R303; log entry 18). -/
def State.dropLive (s : State) (ctx phase pa slot : Nat) : State :=
  s.modRow ctx fun r => { r with live := r.live.filter fun x => x != (phase, pa, slot) }

/-- A task that is pushed or popped counts in its phase (R303). -/
def State.addLive (s : State) (ctx phase pa slot : Nat) : State :=
  s.modRow ctx fun r => { r with live := if r.live.contains (phase, pa, slot) then r.live else r.live ++ [(phase, pa, slot)] }

/-- The phase of a record (R54). -/
def pkPhase (p : BitVec 512) : Nat := bits (pk p 6) 32 16

/-- `QUEUE_NOTIFY`: the unit looks at the head slot of a queue: a slot that it cannot reach blocks the queue, with one record, until
the next notification; a packet that R267 rejects is consumed (R267). -/
def execQueueNotify (sector k : Nat) (s : State) : Host.Outcome State Fault Refusal :=
  match s.queueAt sector k with
  | none => .next s
  | some q =>
    let r := s.readIndex q
    if !s.controls sector || !s.blockOpen q || q.cand.isSome || (q.bad.isSome && !q.notified) || s.sectorWaits sector q.ctx (s.slotVa q.pa r) then .next s
    else
      let t := s.modQueue sector q.pa fun q => { q with notified := false }
      if s.writeIndex q ≤ r then .next t
      else
        match s.headPlace sector q with
        | none =>
          let t := t.modQueue sector q.pa fun q => { q with bad := some r }
          .next (if q.bad = some r then t else t.emitSector sector 0x000C [dw q.cb, dw r])
        | some l =>
          let t := (t.modQueue sector q.pa fun q => { q with bad := none }).touchSector sector q.ctx (s.slotVa q.pa r)
          let p := s.packetAt l
          if pkKind p ≠ 0 ∧ packetBad q p ∧ s.consumeReady q l then
            .next (((t.consume sector q l).dropLive (bits (pk p 7) 0 32) (pkPhase p) q.pa r).emitSector sector 0x0004 [dw q.cb, dw r])
          else .next t

/-! Bulk copies and signals (R268). -/

/-- The context that a weighted round robin serves next, and the credits after it: refilled with the weights where none of the contexts has one
left, less the one that this turn costs (R286 step 2). Before its first refill a context has no credit, and no context has been served
(DESIGN CHOICE, log entry 94). A refill gives credits to the contexts that take part in the turn alone, those with a candidate at the level that
can be placed (DESIGN CHOICE, log entry 106). -/
def nextCtx (x : Sector) (weight : Nat → Nat) (ctxs : List Nat) : Option (Nat × Sparse Nat) :=
  let credit := if ctxs.any fun c => look 0 x.credit c != 0 then x.credit
    else ctxs.foldl (fun m c => put 0 m c (max 1 (weight c))) x.credit
  let order := ctxs.filter (fun c => decide (x.lastCtx ≤ c)) ++ ctxs.filter fun c => decide (c < x.lastCtx)
  (order.find? fun c => look 0 credit c != 0).map fun c => (c, put 0 credit c (look 0 credit c - 1))

/-- The queue whose bulk-copy or signal packet a sector acts on next, with the sector after the turn: contexts in the dispatcher's weighted round
robin, and in a context the queue that was registered first (R267, R286; log entry 74). -/
def State.nextPacket (s : State) (sector : Nat) : Option (Nat × Sector) :=
  let x := s.sector sector
  let due := x.queues.filter fun q => match s.headPacket sector q with
    | some (_, l, p) => (pkKind p == 2 || pkKind p == 3) && !packetBad q p && s.consumeReady q l
    | none => false
  (nextCtx x (fun c => (s.rowAt c).weight) (due.foldl (fun m q => insOnce q.ctx m) [])).bind fun (ctx, credit) =>
    (due.find? fun q => q.ctx == ctx).map fun q => (q.pa, { x with credit := credit, lastCtx := ctx + 1 })

/-- The addition to a signal word, when it is due: an address that cannot receive it gives a record; none where the home cannot take
it yet. -/
def State.signal (s : State) (sector ctx cb slot : Nat) (addr addend : DWord) : Option State :=
  match if addr.toNat % 8 = 0 then s.unitPlace sector ctx addr.toNat else none with
  | some l =>
    if s.lineFree (l.addr / 512) && !s.sectorWaits sector ctx addr.toNat then
      let old := readLe s.mem l.addr 8
      some ((s.touchSector sector ctx addr.toNat).writeHome (leCells l.addr 8 (old + addend.toNat)))
    else none
  | none => some (s.emitSector sector 0x0005 [dw cb, dw slot, addr])

/-- A sector acts on the packet at the head of queue k, where it is of a kind and its turn has come (R267): `act` gives the state after its
effect, none where that has to wait. -/
def State.takePacket (s : State) (sector k kind : Nat) (act : State → Queue → Nat → BitVec 512 → Option State) :
    Host.Outcome State Fault Refusal :=
  match s.queueAt sector k with
  | none => .next s
  | some q =>
    match s.headPacket sector q, s.nextPacket sector with
    | some (slot, l, p), some (pa, x) =>
      if s.controls sector ∧ pkKind p = kind ∧ pa = q.pa then
        match act { s with sectors := put {} s.sectors sector x } q slot p with
        | some t => .next (t.consume sector q l)
        | none => .next s
      else .next s
    | _, _ => .next s

/-- `SIGNAL_PACKET` (R265, R268). -/
def execSignalPacket (sector k : Nat) (s : State) : Host.Outcome State Fault Refusal :=
  s.takePacket sector k 3 fun s q slot p => s.signal sector q.ctx q.cb slot (pk p 0) (pk p 1)

/-- `BULK_COPY_PACKET`: the copy starts, and the queue moves on (R268). -/
def execBulkCopyPacket (sector k : Nat) (s : State) : Host.Outcome State Fault Refusal :=
  s.takePacket sector k 2 fun s q slot p =>
    let b : Bulk :=
      { id := s.nextId, cb := q.cb, slot := slot, ctx := q.ctx, src := pk p 0, dst := pk p 1, len := bits (pk p 2) 0 32
        sig := pk p 3, addend := pk p 4, refused := false }
    some ({ s with nextId := s.nextId + 1 }.modSector sector fun x => { x with bulk := x.bulk ++ [b] })

/-- The place of a byte that a bulk copy reads or writes, or none where it faults. -/
def State.bulkPlace (s : State) (sector ctx : Nat) (write : Bool) (va : Nat) : Option Loc :=
  match s.sectorTranslate sector ctx va with
  | some e => if e.permits (if write then .store else .load) true then some (e.at va) else none
  | none => none

/-- A fault that stops a bulk copy (R268): the bytes before it, its address, whether it is a write, and whether it is one of translation or
permission, which the host may be asked about (R326). -/
structure BulkFault where
  before : Nat
  addr : Nat
  write : Bool
  page : Bool
  deriving DecidableEq, Repr

/-- The first fault of a copy at byte i or after it, of n bytes more: of translation or permission, or a poisoned source byte. -/
def State.bulkFault (s : State) (sector : Nat) (b : Bulk) : Nat → Nat → Option BulkFault
  | _, 0 => none
  | i, n + 1 =>
    let a := (b.src.toNat + i) % 2 ^ 64
    let z := (b.dst.toNat + i) % 2 ^ 64
    match s.bulkPlace sector b.ctx false a with
    | none => some ⟨i, a, false, true⟩
    | some l =>
      if l.kind = .device ∧ s.poison.contains (l.addr / 128) then some ⟨i, a, false, false⟩
      else if (s.bulkPlace sector b.ctx true z).isNone then some ⟨i, z, true, true⟩
      else State.bulkFault s sector b (i + 1) n

/-- The bytes of another device that the first n bytes of a copy read or write: byte number, address, whether it is a write, device. -/
def State.bulkPeers (s : State) (sector : Nat) (b : Bulk) (n : Nat) : List (Nat × Nat × Bool × Nat) :=
  (List.range n).flatMap fun i =>
    [((b.src.toNat + i) % 2 ^ 64, false), ((b.dst.toNat + i) % 2 ^ 64, true)].filterMap fun (va, write) =>
      (s.bulkPlace sector b.ctx write va).bind fun l => if l.kind = .peer then some (i, va, write, l.home) else none

/-- The fault that a request to another device gives a copy whose own fault is `f` (R369): at one of its bytes there, by a free choice. -/
def State.bulkPeer (s : State) (sector : Nat) (b : Bulk) (f : Option BulkFault) : Option BulkFault × State :=
  match s.bulkPeers sector b ((f.map (·.before)).getD b.len) with
  | [] => (f, s)
  | p :: ps =>
    let (err, t) := s.peerFrom p.2.2.1 (sectorUnit sector) p.2.2.2
    if err then
      let (k, t) := t.pick (ps.length + 1)
      match (p :: ps)[k]? with
      | some (i, va, write, _) => (some ⟨i, va, write, false⟩, t)
      | none => (f, t)
    else (f, t)

/-- A byte of a space. -/
def State.byteAt (s : State) (l : Loc) : Byte := if l.kind = .device then readByte s.mem l.addr else readByte s.hostMem l.addr

/-- The bytes from byte i on. Byte i takes the source byte as it was before the copy, or, where bit i of the choice says so, as the
copy has left it (R268). -/
def State.bulkMove (s0 : State) (sector : Nat) (b : Bulk) (choice : Nat) : Nat → Nat → State → State
  | _, 0, s => s
  | i, n + 1, s =>
    match s0.bulkPlace sector b.ctx false ((b.src.toNat + i) % 2 ^ 64), s0.bulkPlace sector b.ctx true ((b.dst.toNat + i) % 2 ^ 64) with
    | some a, some z =>
      let (v, s) : Byte × State :=
        if a.kind = .peer then
          let (bs, s) := s.outside 1
          ((bs.head?).getD 0, s)
        else (if choice.testBit i then s.byteAt a else s0.byteAt a, s)
      let s := match z.kind with
        | .device => { s with mem := writeByte s.mem z.addr v }
        | .host => { s with hostMem := writeByte s.hostMem z.addr v }
        | .peer => s
      State.bulkMove s0 sector b choice (i + 1) n s
    | _, _ => s

/-- The device cells that a copy of n bytes has written: its places as the state before it translates them, with the bytes it left. -/
def State.bulkCells (s0 : State) (sector : Nat) (b : Bulk) (n : Nat) (m : Memory) : List Host.Cell :=
  (List.range n).filterMap fun i =>
    match s0.bulkPlace sector b.ctx true ((b.dst.toNat + i) % 2 ^ 64) with
    | some z => if z.kind = .device then some (z.addr, readByte m z.addr) else none
    | none => none

/-- Move the first n bytes: each line that the copy writes is written at its home. -/
def State.bulkRun (s : State) (sector : Nat) (b : Bulk) (choice n : Nat) : Option State :=
  let t := s.bulkMove sector b choice 0 n s
  let cells := s.bulkCells sector b n t.mem
  if s.cellsFree cells then
    some ((({ t with mem := s.mem }.touchRange false sector b.ctx b.src.toNat n).touchRange true sector b.ctx b.dst.toNat n).writeHome cells)
  else none

/-- `BULK_COPY_COMPLETE`: copy k of a sector ends: its bytes are written and the signal word receives its addend; a fault keeps the
bytes before it and gives a record, or asks the host for the page (R268, R326). -/
def execBulkCopyComplete (sector k choice : Nat) (s : State) : Host.Outcome State Fault Refusal :=
  match ((s.sector sector).bulk)[k]? with
  | none => .next s
  | some b =>
    let remove (s : State) : State := s.modSector sector fun x => { x with bulk := x.bulk.filter fun y => y.id != b.id }
    if s.homeReqs.any (·.started) || (s.sector sector).pageReqs.any (fun r => r.kind == 2 && r.ref == b.id) then .next s
    else
      match s.bulkPeer sector b (s.bulkFault sector b 0 b.len) with
      | (some f, t) =>
        if f.page && t.pageRequests b.ctx && !b.refused then
          .next (t.modSector sector fun x =>
            { x with pageReqs := x.pageReqs ++
                [{ ctx := b.ctx, pasid := bits (t.rowAt b.ctx).pr 0 20, addr := dw f.addr, write := f.write, wave := 0, kind := 2
                   ref := b.id }] })
        else
          match t.bulkRun sector b choice f.before with
          | some t => .next ((remove t).emitSector sector 0x0005 [dw b.cb, dw b.slot, dw f.addr])
          | none => .next s
      | (none, t) =>
        match t.bulkRun sector b choice b.len with
        | none => .next s
        | some t =>
          if b.sig = 0 then .next (remove t)
          else
            match t.signal sector b.ctx b.cb b.slot b.sig b.addend with
            | some t => .next (remove t)
            | none => .next s

/-! Page Requests (R326). -/

/-- `PAGE_REQUEST_RESPONSE`: the host answers request k of a sector, one of the 64 that are outstanding (R242, R326). After a success the engine
walks again, so the sector's TLB gives up what it holds of the page. The response carries no link and
waits behind no earlier write of either: R326 says nothing of its way (DESIGN CHOICE, log entry 96). -/
def execPageRequestResponse (sector k : Nat) (ok : Bool) (s : State) : Host.Outcome State Fault Refusal :=
  match ((s.sector sector).pageReqs)[k]? with
  | none => .next s
  | some r =>
    if 64 ≤ k || s.fw.recovery then .next s
    else
      let t := s.modSector sector fun x =>
        { x with pageReqs := x.pageReqs.eraseIdx k, tlb := if ok then tlbForget x.tlb r.ctx r.addr.toNat else x.tlb }
      if r.kind = 2 then
        .next (if ok then t else t.modSector sector fun x =>
          { x with bulk := x.bulk.map fun b => if b.id = r.ref then { b with refused := true } else b })
      else
        let n := s.wid
        let t := t.focus r.wave
        .next ((if ok then t.grantPage r else t.refusePage r).focus n)

end Sys2Proof.Machine
end

