-- ==== Sys2Proof/Machine/Tasks.lean ====
section
/-! DEFINITION. Tasks and crews (R272 to R304): the dispatcher and placement, launch and retirement, `task.push`, signal words, crew
barriers, and reproducible execution with its quanta, commits and phases. -/

namespace Sys2Proof.Machine

open Sys2Proof

/-! Placement (R142, R143, R160, R191, R270, R275, R288). -/

/-- Layers of a wave's grid (R142). -/
def Wave.layers (w : Wave) : Nat := max 1 (w.rows / 16) * max 1 (w.cols / 16)

/-- The partition is the whole physical grid. -/
def Wave.full (w : Wave) : Bool := decide (16 ≤ w.rows) && decide (16 ≤ w.cols)

/-- A wave with the shape of a record, as placement judges it. -/
def shapeWave (p : BitVec 512) : Wave := { shape := pk p 5, widx := 0 }

/-- Waves per crew, carve-out option, priority, reproducible bit and crew count of a record (R53). -/
def pkWaves (p : BitVec 512) : Nat := bits (pk p 5) 0 4 + 1

/-- Carve-out option. -/
def pkCarve (p : BitVec 512) : Nat := bits (pk p 5) 14 2

/-- Priority. -/
def pkPrio (p : BitVec 512) : Nat := bits (pk p 5) 18 2

/-- Reproducible bit. -/
def pkRepro (p : BitVec 512) : Bool := (pk p 5).getLsbD 24

/-- Crew count. -/
def pkCrews (p : BitVec 512) : Nat := bits (pk p 5) 32 32

/-- The waves resident on a core. -/
def State.residents (s : State) (core : Nat) : List Wave :=
  (s.waveIds.map s.wave).filter fun w => w.resident && w.core == core

/-- Two partitions of waves that do not cover the grid meet (R142). -/
def meets (y x pr pc : Nat) (w : Wave) : Bool :=
  decide (y < w.py + min w.rows 16) && decide (w.py < y + pr) && decide (x < w.px + min w.cols 16) && decide (w.px < x + pc)

/-- The partition origin at which a wave fits beside others on a core: contexts, full-grid waves, registers and accumulator planes of
each physical lane (R142, R143, R160). Among the free origins the lowest is taken (log entry 19). -/
def fits (ws : List Wave) (w : Wave) : Option (Nat × Nat) :=
  let regs (w : Wave) : Nat := w.regs * w.layers
  let acc (w : Wave) : Nat := w.accPlanes * w.layers
  let big := ws.filter (·.full)
  let small := ws.filter fun x => !x.full
  let top (f : Wave → Nat) : Nat := small.foldl (fun m x => max m (f x)) 0
  let sum (f : Wave → Nat) : Nat := (big.map f).sum
  if 16 ≤ ws.length then none
  else if w.full then
    if big.length < 4 ∧ sum regs + regs w + top regs ≤ 512 ∧ sum acc + acc w + top acc ≤ 2 then some (0, 0) else none
  else if sum regs + regs w ≤ 512 ∧ sum acc + acc w ≤ 2 then
    let pr := min w.rows 16
    let pc := min w.cols 16
    ((List.range (16 / pr)).flatMap fun y => (List.range (16 / pc)).map fun x => (y * pr, x * pc)).find? fun (y, x) =>
      !small.any (meets y x pr pc)
  else none

/-- A core is in service for new crews (R372, R380). -/
def Core.inService (c : Core) : Bool := !c.retired && !c.retiring && !c.inReset

/-- The cores of a sector that placement may use: with `empty`, every core in service, holding no crew (R273 case 5); else those at or
above the sector's threshold (R288, R290). -/
def State.placeCores (s : State) (sector : Nat) (empty : Bool) : List Nat :=
  ((List.range 48).map (48 * sector + ·)).filter fun c =>
    (s.coreAt c).inService && (empty || decide ((s.sector sector).thmin ≤ (s.coreAt c).allowance))

/-- The first item of greatest key. -/
def best {α : Type} : List (Nat × α) → Option (Nat × α)
  | [] => none
  | x :: r =>
    match best r with
    | some y => if x.1 < y.1 then some y else some x
    | none => some x

/-- Waves placed so far on a core: residents, and those that the plan puts there. -/
def State.onCore (s : State) (empty : Bool) (w : Wave) (plan : List (Nat × Nat × Nat)) (c : Nat) : List Wave :=
  (if empty then [] else s.residents c)
    ++ (plan.filter fun x => x.1 == c).map fun x => { w with core := c, py := x.2.1, px := x.2.2 }

/-- The origin of a wave on a core, where it fits: option, contexts and lanes (R191, R275). -/
def State.fitOn (s : State) (empty : Bool) (carve : Nat) (w : Wave) (plan : List (Nat × Nat × Nat)) (c : Nat) : Option (Nat × Nat) :=
  if empty || (s.residents c).isEmpty || (s.coreAt c).option == carve then fits (s.onCore empty w plan c) w else none

/-- Place waves `i` to `i + n - 1` of a crew of `total` waves in ascending order (R288, R270). -/
def State.placeFrom (s : State) (sector : Nat) (empty : Bool) (carve total : Nat) (w : Wave) :
    Nat → Nat → List (Nat × Nat × Nat) → Option (List (Nat × Nat × Nat))
  | 0, _, plan => some plan
  | n + 1, i, plan =>
    let cores := s.placeCores sector empty
    let fit (c : Nat) : Option (Nat × Nat) := s.fitOn empty carve w plan c
    let free (c : Nat) : Bool := cores.contains c && (fit c).isSome && !(w.full && plan.any fun x => x.1 == c)
    let a (c : Nat) : Nat := if empty then 0 else (s.coreAt c).allowance
    let put (c : Nat) : Nat × Nat × Nat := let o := (fit c).getD (0, 0); (c, o.1, o.2)
    if w.full && i % 2 == 1 then
      -- the odd wave of a pair stands beside the even one
      match plan.getLast? with
      | some (c, _) => State.placeFrom s sector empty carve total w n (i + 1) (plan ++ [put (c + 1)])
      | none => none
    else if w.full && i + 1 < total then
      let buses := ((List.range 24).map (24 * sector + ·)).filter fun b => free (2 * b) && free (2 * b + 1)
      match best (buses.map fun b => (min (a (2 * b)) (a (2 * b + 1)), b)) with
      | some (_, b) => State.placeFrom s sector empty carve total w n (i + 1) (plan ++ [put (2 * b)])
      | none => none
    else
      match best ((cores.filter free).map fun c => (a c, c)) with
      | some (_, c) => State.placeFrom s sector empty carve total w n (i + 1) (plan ++ [put c])
      | none => none

/-- A placement of one crew of a record: core and partition origin by wave. -/
def State.placement (s : State) (sector : Nat) (empty : Bool) (p : BitVec 512) : Option (List (Nat × Nat × Nat)) :=
  s.placeFrom sector empty (pkCarve p) (pkWaves p) (shapeWave p) (pkWaves p) 0 []

/-- Commit units of a sector in use (R275). -/
def State.commitUnits (s : State) (sector : Nat) : Nat :=
  s.crews.countP fun c => c.sector == sector && !c.killed && ((s.taskOf c.task).map fun t => pkRepro t.record).getD false

/-! Popping a task (R273). -/

/-- The case of R273 that a task packet meets, none where it is accepted. R273 gives its cases no order: where several hold the record
carries the lowest-numbered (DESIGN CHOICE, log entry 119). -/
def State.packetCase (s : State) (sector ctx : Nat) (p : BitVec 512) : Option Nat :=
  let w := shapeWave p
  let code (lo : Nat) : Nat := bits (pk p 5) lo 3
  if bits (pk p 5) 25 7 ≠ 0 ∨ code 4 = 0 ∨ code 4 = 7 ∨ code 7 = 0 ∨ code 7 = 7 ∨ w.accPlanes = 3 then some 0
  else if 512 < w.regs * w.layers then some 1
  else if 2 < w.accPlanes * w.layers then some 2
  else if pkCrews p = 0 then some 3
  else if pkRepro p ≠ (s.rowAt ctx).repro then some 4
  else if (s.placement sector true p).isNone then some 5
  else if pkPhase p < (s.rowAt ctx).phase then some 6
  else none

/-- A packet is consumed without effect, with its case of R273. -/
def State.rejectTask (s : State) (sector : Nat) (q : Queue) (l : Loc) (slot : Nat) (p : BitVec 512) (c : Nat) : State :=
  ((s.consume sector q l).dropLive q.ctx (pkPhase p) q.pa slot).emitSector sector 0x0006 [dw q.cb, dw slot, dw c]

/-- `TASK_PACKET_POP`: the dispatcher checks the task packet at the head of a queue; one that passes is a candidate and stays there
(R273, R284). A candidate whose phase has fallen below its context's since is rejected too (R302). -/
def execTaskPacketPop (sector k : Nat) (s : State) : Host.Outcome State Fault Refusal :=
  match s.queueAt sector k with
  | none => .next s
  | some q =>
    match q.cand.bind s.taskOf with
    | some t =>
      match s.headPlace sector q with
      | some l =>
        if s.controls sector && decide (pkPhase t.record < (s.rowAt t.ctx).phase) && s.consumeReady q l then
          let s := (s.rejectTask sector q l t.slot t.record 6).modQueue sector q.pa fun q => { q with cand := none, age := 0 }
          .next { s with tasks := s.tasks.filter fun x => x.id != t.id }
        else .next s
      | none => .next s
    | none =>
      match s.headPacket sector q with
      | none => .next s
      | some (slot, l, p) =>
        if !s.controls sector ∨ pkKind p ≠ 1 ∨ packetBad q p then .next s
        else
          match s.packetCase sector q.ctx p with
          | some c => .next (if s.consumeReady q l then s.rejectTask sector q l slot p c else s)
          | none =>
            let id := s.nextId
            let t : Task :=
              { id := id, sector := sector, cb := q.cb, pa := q.pa, slot := slot, ctx := q.ctx, record := p, placed := 0, retired := 0
                marked := false }
            -- a reservation that an earlier candidate of the queue held is none of this one's (R287)
            let s := { s with nextId := id + 1, tasks := s.tasks ++ [t] }.modSector sector fun x =>
              { x with reserve := x.reserve.filter fun pa => pa != q.pa }
            .next ((s.modQueue sector q.pa fun q => { q with cand := some id, age := 0, stamp := id }).addLive q.ctx (pkPhase p) q.pa slot)

/-! Dispatch (R284 to R288). -/

/-- The candidates of a sector whose context is not stopped and whose phase is current (R284, R293, R302). Another holds no reservation, however old
it is (R287; DESIGN CHOICE, log entry 105). -/
def State.candidates (s : State) (sector : Nat) : List (Queue × Task) :=
  (s.sector sector).queues.filterMap fun q =>
    match q.cand.bind s.taskOf with
    | some t =>
      let r := s.rowAt t.ctx
      if r.stop || pkPhase t.record != r.phase then none else some (q, t)
    | none => none

/-- Effective priority (R285). -/
def effPrio (x : Queue × Task) : Nat := min 4 (pkPrio x.2.record + x.1.age / 16384)

/-- Where the next crew of a candidate would stand now. -/
def State.planOf (s : State) (sector : Nat) (t : Task) : Option (List (Nat × Nat × Nat)) :=
  if pkRepro t.record ∧ 24 ≤ s.commitUnits sector then none else s.placement sector false t.record

/-- The reservation after a change: held until its crew is placed, and by a candidate alone; else taken by the oldest aged candidate that cannot be
placed (R287). -/
def State.reserveOf (s : State) (sector : Nat) : Option Nat :=
  let cs := s.candidates sector
  match (s.sector sector).reserve.filter fun pa => cs.any fun x => x.1.pa == pa with
  | some pa => some pa
  | none =>
    let aged := cs.filter fun x => effPrio x == 4 && (s.planOf sector x.2).isNone
    let oldest := aged.foldl (fun (m : Option (Queue × Task)) x =>
      match m with
      | some y => if y.1.age < x.1.age || (x.1.age == y.1.age && decide (x.1.stamp < y.1.stamp)) then some x else some y
      | none => some x) none
    oldest.map fun x => x.1.pa

/-- The reservation of a sector's dispatcher as it stands now (R287). -/
def State.reserveNow (s : State) (sector : Nat) : State := s.modSector sector fun x => { x with reserve := s.reserveOf sector }

/-- The reservations of every sector as they stand now: any step may make an aged candidate unplaceable (R287). -/
def State.reserveAll (s : State) : State := (s.sectors.map (·.1)).foldl State.reserveNow s

/-- `CANDIDATE_AGING` (R285, R287). -/
def execCandidateAging (sector k cycles : Nat) (s : State) : Host.Outcome State Fault Refusal :=
  match s.queueAt sector k with
  | none => .next s
  | some q =>
    if q.cand.isNone || s.fw.recovery then .next s
    else
      .next ((s.modQueue sector q.pa fun q => { q with age := q.age + cycles }).reserveNow sector)

/-- The candidate whose crew is placed next, with its placement and the sector after the choice (R286, R287). -/
def State.nextCrew (s : State) (sector : Nat) : Option (Queue × Task × List (Nat × Nat × Nat) × Sector) :=
  let x := s.sector sector
  let cs := (s.candidates sector).filterMap fun (q, t) => (s.planOf sector t).map fun p => (q, t, p)
  match s.reserveOf sector with
  | some pa => (cs.find? fun c => c.1.pa == pa).map fun (q, t, p) =>
    (q, t, p, { x with credit := put 0 x.credit t.ctx (look 0 x.credit t.ctx - 1), lastCtx := t.ctx + 1, reserve := none })
  | none =>
    let level := cs.foldl (fun m c => max m (effPrio (c.1, c.2.1))) 0
    let at' := cs.filter fun c => effPrio (c.1, c.2.1) == level
    let ctxs := at'.foldl (fun m c => insOnce c.2.1.ctx m) []
    match nextCtx x (fun c => (s.rowAt c).weight) ctxs with
    | none => none
    | some (ctx, credit) =>
      let mine := at'.filter fun c => c.2.1.ctx == ctx
      let first := mine.foldl (fun (m : Option (Queue × Task × List (Nat × Nat × Nat))) c =>
        match m with
        | some y => if c.1.stamp < y.1.stamp then some c else some y
        | none => some c) none
      first.map fun (q, t, p) => (q, t, p, { x with credit := credit, lastCtx := ctx + 1, reserve := none })

/-- The state in which a wave starts (R274, R84). -/
def launchWave (t : Task) (crew idx core slot py px : Nat) : Wave :=
  let p := t.record
  let q := bits (pk p 6) 48 16
  { life := .placed, core := core, slot := slot, py := py, px := px, crew := crew, widx := idx, crewIdx := t.placed
    shape := pk p 5, phase := pkPhase p, ctx := t.ctx, quantum := if q = 0 then 4096 else 64 * q
    pc := pk p 0, s := put 0 (put 0 [] 60 (pk p 2)) 61 (pk p 1) }

/-- The free context of a core that a newly placed wave takes: R60, R275 and R288 ask for a free one only, and the model takes the
lowest-numbered (DESIGN CHOICE, log entry 110). -/
def State.freeSlot (s : State) (core : Nat) : Nat :=
  ((List.range 16).find? fun k => !(s.residents core).any fun w => w.slot == k).getD 0

/-- A core takes the carve-out option of a crew: a change discards its L1 (R191). -/
def State.carve (s : State) (core option : Nat) : State :=
  s.modCoreAt core fun c => if c.option = option then c else { c with option := option, l1 := [], ro := [] }

/-- Place one wave of a crew. -/
def State.placeWave (s : State) (t : Task) (crew idx : Nat) (x : Nat × Nat × Nat) : State :=
  let s := s.carve x.1 (pkCarve t.record)
  { s with nextId := s.nextId + 1 }.setWave s.nextId (launchWave t crew idx x.1 (s.freeSlot x.1) x.2.1 x.2.2)

/-- Place every wave of a crew: the state and the waves' numbers. -/
def State.placeWaves (s : State) (t : Task) (crew : Nat) : Nat → List (Nat × Nat × Nat) → State × List Nat
  | _, [] => (s, [])
  | i, x :: r =>
    let (s', ns) := State.placeWaves (s.placeWave t crew i x) t crew (i + 1) r
    (s', s.nextId :: ns)

/-- Change a task. -/
def State.modTask (s : State) (id : Nat) (f : Task → Task) : State :=
  { s with tasks := s.tasks.map fun t => if t.id = id then f t else t }

/-- `CREW_PLACE`: the dispatcher of a sector places the next crew whole; after the last crew of a task its slot is consumed (R275,
R284, R286). Where no translation reaches that slot any more the crew is placed, and the packet stays in its slot (DESIGN CHOICE, log entry
104). -/
def execCrewPlace (sector : Nat) (s : State) : Host.Outcome State Fault Refusal :=
  match if s.controls sector then s.nextCrew sector else none with
  | none => .next (s.reserveNow sector)
  | some (q, t, plan, x) =>
    let last := t.placed + 1 == pkCrews t.record
    let place := s.headPlace sector q
    if last && !((place.map fun l => s.consumeReady q l).getD true) then .next s
    else
      let id := s.nextId
      let s := { s with nextId := id + 1, sectors := put {} s.sectors sector x }
      let (s, ns) := s.placeWaves t id 0 plan
      let c : Crew :=
        { id := id, task := t.id, sector := sector, ctx := t.ctx, idx := t.placed, waves := ns, started := false, killed := false
          gen := [], commits := 0 }
      let s := { s with crews := s.crews ++ [c] }.modTask t.id fun t => { t with placed := t.placed + 1 }
      -- the first crew of a context locks its `fq` leaves (R323)
      let s := s.modRow t.ctx fun r => { r with locked := true }
      if last then
        let s := s.modQueue sector q.pa fun q => { q with cand := none, age := 0 }
        .next ((match place with
          | some l => s.consume sector q l
          | none => s).reserveNow sector)
      else .next ((s.modQueue sector q.pa fun q => { q with age := 0 }).reserveNow sector)

/-- Change a crew. -/
def State.modCrew (s : State) (id : Nat) (f : Crew → Crew) : State :=
  { s with crews := s.crews.map fun c => if c.id = id then f c else c }

/-- `WAVE_START`: every wave of a placed crew starts; a start is an acquire of system scope (R274, R275). -/
def execWaveStart (crew : Nat) (s : State) : Host.Outcome State Fault Refusal :=
  match s.crewOf crew with
  | none => .next s
  | some c =>
    if c.started || c.killed then .next s
    else
      .next ((c.waves.foldl (fun s n =>
        (s.modWave n fun w => if w.life = .placed then { w with life := .running } else w).modCoreAt (s.wave n).core fun k =>
          { k with l1 := [] }) s).modCrew crew fun c => { c with started := true })

/-! Retirement (R276 to R278). -/

/-- A place that retirement acts on: aligned, translated in the task's context, on a device page. -/
def State.retirePlace (s : State) (sector ctx va align : Nat) : Option Loc :=
  if va % align ≠ 0 then none
  else
    match s.sectorTranslate sector ctx va with
    | some e => if e.loc.kind = .device then some (e.at va) else none
    | none => none

/-- The 64 bytes of a record as `task.push` writes them, with its kind (R280). -/
def pushBytes (data : BitVec 512) : Nat × Nat :=
  ((data.extractLsb' 0 448).toNat, ((pk data 7 &&& ~~~(0xFF#64 <<< 32)) ||| (1#64 <<< 32)).toNat)

/-- Slot w of a queue has room (R266 step 2), as the control block's home, which no write holds (R358), says. -/
def State.slotRoom (s : State) (pa w : Nat) : Bool :=
  !s.lineHeld ((pa + 0x200) / 512) && decide (w < readLe s.mem (pa + 0x200) 8 + 2 ^ (readLe s.mem (pa + 0x210) 8 % 32))

/-- Write a record into a slot at its home, its kind last, by a core or by a sector's unit, which `unit` names in the network (R280). -/
def State.putSlot (s : State) (unit : Nat) (core : Option Nat) (l : Loc) (pa w : Nat) (data : BitVec 512) : State :=
  let (low, top) := pushBytes data
  let write (s : State) (cs : List Host.Cell) : State := match core with
    | some c => (s.writeTrip unit (sliceUnit l.slice)).writeFrom c cs
    | none => (s.writeTrip unit (sliceUnit l.slice)).writeHome cs
  (write (write s (leCells l.addr 56 low)) (leCells (l.addr + 56) 8 top)).addLive (bits (pk data 7) 0 32) (pkPhase data) pa w

/-- Claim a slot: the fetch-add of 1 on the write index (R266 step 1), by a core or by a sector's unit, which `unit` names in the network. -/
def State.claim (s : State) (unit : Nat) (core : Option Nat) (q : Loc) : Nat × State :=
  let w := readLe s.mem q.addr 8
  let cs := leCells q.addr 8 (w + 1)
  let s := s.trip unit (sliceUnit q.slice)
  (w, match core with
    | some c => s.writeFrom c cs
    | none => s.writeHome cs)

/-- The push of a successor whose count has reached 0, up to its end or to a wait: for a home, or, the slot claimed, for room in its ring
(R266, R278, R280). `data` is the record as it was read before the claim. A slot that its context cannot reach gets a record and stays empty
(log entry 20). -/
def State.pushSuccessor (s : State) (t : Task) (data : BitVec 512) (q : Loc) : State × Bool :=
  match t.claimed with
  | none =>
    if s.lineFree (q.addr / 512) then
      let (w, s) := s.claim (sectorUnit t.sector) none q
      (s.modTask t.id fun t => { t with claimed := some w }, false)
    else (s, false)
  | some w =>
    let va := s.slotVa q.addr w
    if !s.slotRoom q.addr w || s.sectorWaits t.sector t.ctx va then (s, false)
    else
      let ended (s : State) : State × Bool := (s.modTask t.id fun t => { t with claimed := none, pushing := none }, true)
      match s.retirePlace t.sector t.ctx va 1 with
      | some l =>
        if s.lineFree (l.addr / 512) then
          ended ((s.lookSector t.sector t.ctx va).putSlot (sectorUnit t.sector) none l q.addr w data)
        else (s, false)
      | none => ended (s.emitSector t.sector 0x0007 [dw t.ctx, dw va, 1])

/-- One action of the successor entry at an address (R278): the state, and whether the entry has acted. The entry is read once its line's home
lets it (R358), and the count is judged in the order of arrival at its own (R363). An entry that cannot be read is skipped as one whose
addresses fail (log entry 20). The record's table says 'address' only: it carries the entry's where the entry cannot be read, else the
record's, also where the control block fails (DESIGN CHOICE, log entry 120). -/
def State.successor (s : State) (t : Task) (va : Nat) : State × Bool :=
  let skip (x : Nat) (v : Nat) : State × Bool := (s.emitSector t.sector 0x0007 [dw t.ctx, dw x, dw v], true)
  let waits (a : Nat) : Bool := s.sectorWaits t.sector t.ctx a
  match t.pushing with
  | some (data, q) => s.pushSuccessor t data q
  | none =>
    if waits va then (s, false)
    else
      match s.retirePlace t.sector t.ctx va 16 with
      | none => skip va 1
      | some l =>
        let rec' := readLe s.mem l.addr 8
        let cb := readLe s.mem (l.addr + 8) 8
        if s.lineHeld (l.addr / 512) || waits rec' || waits cb then (s, false)
        else
          match s.retirePlace t.sector t.ctx rec' 64, s.retirePlace t.sector t.ctx cb 1024 with
          | some r, some q =>
            let count := readLe s.mem (r.addr + 0x30) 4
            if !s.lineFree ((r.addr + 0x30) / 512) then (s, false)
            else if count = 0 then skip rec' 2
            else
              let s := [va, rec', cb].foldl (fun s a => s.touchSector t.sector t.ctx a) s
              let s := s.writeHome (leCells (r.addr + 0x30) 4 (count - 1))
              -- the push reads the record before it claims a slot
              if count = 1 then (s.modTask t.id fun t => { t with pushing := some (s.packetAt r, q) }, false) else (s, true)
          | _, _ => skip rec' 1

/-- A wave of a crew still has a store under way, or one whose acknowledgement is (R211, R276). -/
def State.storesOut (s : State) (n : Nat) : Bool :=
  s.cores.any fun c => c.2.inflight.any (fun e => e.wave == n) || c.2.acks.any fun e => e.2 == n

/-- Forget a crew that has retired, and its waves. -/
def State.removeCrew (s : State) (c : Crew) : State :=
  let s := { s with crews := s.crews.filter fun x => x.id != c.id }
  let s := { s with others := s.others.filter fun e => !c.waves.contains e.1 }
  (if c.waves.contains s.wid then { s with w := {} } else s).retireCores

/-- A task has made its retirement actions: it leaves its phase's count, which its mark may close (R303). -/
def State.retireTask (s : State) (t : Task) : State :=
  let s := { s with tasks := s.tasks.filter fun x => x.id != t.id }
  let phase := pkPhase t.record
  let s := s.dropLive t.ctx phase t.pa t.slot
  s.modRow t.ctx fun r => if t.marked && r.phase == phase then { r with closed := true } else r

/-- The decrement of the parent join counter (R277): none while a home holds its line or a line of its walk. -/
def State.parentDecrement (s : State) (t : Task) : Option State :=
  let va := (pk t.record 3).toNat
  if va = 0 then some s
  else if s.sectorWaits t.sector t.ctx va then none
  else
    match s.retirePlace t.sector t.ctx va 8 with
    | some l =>
      if s.lineFree (l.addr / 512) then some ((s.touchSector t.sector t.ctx va).writeHome (leCells l.addr 8 (readLe s.mem l.addr 8 + (2 ^ 64 - 1)))) else none
    | none => some (s.emitSector t.sector 0x0007 [dw t.ctx, dw va, 0])

/-- The record of a successor-list address that acts on no successor (R278). -/
def State.listCheck (s : State) (t : Task) : State :=
  if pk t.record 4 ≠ 0 ∧ (s.retirePlace t.sector t.ctx (pk t.record 4).toNat 64).isNone then
    s.emitSector t.sector 0x0007 [dw t.ctx, pk t.record 4, 3]
  else s

/-- The next action of a task's retirement: its next successor entry, or its end (R276, R278). -/
def State.retireOn (s : State) (c : Crew) (t : Task) : State :=
  let e := t.succ.getD 0
  let list := (pk t.record 4).toNat
  let place := s.retirePlace t.sector t.ctx list 64
  let held := list != 0 && (s.sectorWaits t.sector t.ctx list || (place.map fun l => s.lineHeld (l.addr / 512)).getD false)
  let last := match place with
    | some l => list == 0 || decide ((readByte s.mem l.addr).toNat ≤ e)
    | none => true
  if held then s
  else if last then (s.retireTask t).removeCrew c
  else
    match s.successor t (list + 0x10 + 16 * e) with
    | (s, true) => s.modTask t.id fun t => { t with succ := some (e + 1) }
    | (s, false) => s

/-- `CREW_RETIRE`: a crew whose waves have all finished exiting retires, once their stores have been acknowledged: its retirement is a release of
system scope. The last crew of a task retires the task, one action a step (R276 to R278). -/
def execCrewRetire (crew : Nat) (s : State) : Host.Outcome State Fault Refusal :=
  match s.crewOf crew with
  | none => .next s
  | some c =>
    if !c.started || c.killed || !c.waves.all (fun n => (s.wave n).life == .exited && !s.storesOut n) then .next s
    else
      match s.taskOf c.task with
      | none => .next (s.removeCrew c)
      | some t =>
        if t.succ.isSome then .next (s.retireOn c t)
        else if t.retired + 1 < pkCrews t.record then
          .next ((s.modTask t.id fun t => { t with retired := t.retired + 1 }).removeCrew c)
        else if pk t.record 4 != 0 && s.sectorWaits t.sector t.ctx (pk t.record 4).toNat then .next s
        else
          match s.parentDecrement t with
          | none => .next s
          | some s => .next ((s.modTask t.id fun t => { t with retired := t.retired + 1, succ := some 0 }).listCheck t)

/-! Phases (R302, R303). -/

/-- `phase.end` (R303). -/
def execPhaseEnd (s : State) : Host.Outcome State Fault Refusal :=
  finishSeq 4 s (.ok (match s.crewOf s.w.crew with
    | some c => s.modTask c.task fun t => { t with marked := true }
    | none => s))

/-- `PHASE_ADVANCE` (R303). -/
def execPhaseAdvance (ctx : Nat) (s : State) : Host.Outcome State Fault Refusal :=
  let r := s.rowAt ctx
  if r.closed && !r.live.any (fun x => x.1 == r.phase) then
    .next (s.modRow ctx fun r => { r with phase := (r.phase + 1) % 2 ^ 16, closed := false })
  else .next s

/-! `task.push` (R280). -/

/-- The checks of `task.push`: the places of the record and of the control block. -/
def pushPlaces (s : State) (r q : DWord) : Res (Loc × Loc) := do
  aligned r 64
  aligned q 1024
  let lr ← s.access .load r
  let lq ← s.access .store q
  need (lr.kind == .device) .scope r
  need (lq.kind == .device) .scope q
  .ok (lr, lq)

/-- The push of the word at the program counter that a trap has met in its wait for room (R280, R325; log entry 68). A handler's own word has none. -/
def Wave.heldPush (w : Wave) : Option HeldPush := if w.sys then none else w.pushAt.filter fun x => x.pc == w.pc

/-- The slot that it has claimed in a queue. -/
def Wave.heldClaim (w : Wave) (q : Loc) : Option DWord := (w.heldPush.filter fun x => x.push.q.addr == q.addr).map (·.push.w)

/-- It goes on waiting, where no WATCHDOG has abandoned it: s[sd] was written before the trap (R280). -/
def Wave.waitsOn (w : Wave) (d : Nat) : Option Push := (w.heldPush.filter fun x => !x.again && x.push.d == d).map (·.push)

/-- A push whose slot w is claimed: s[sd] takes w, and the wave stalls for room (R280). What a trap has kept for a word of the user view stands
while the handler pushes. -/
def Wave.startPush (x : Wave) (d : Nat) (w : DWord) (q : Loc) (record : BitVec 512) : Wave :=
  { (x.setKey d w) with
    pushWait := some { d := d, w := w, old := x.sVal d, q := q, record := record }
    pushAt := if x.sys then x.pushAt else none
    blocked := true }

/-- `task.push`: the claim (R280). A word that a trap has met in its wait for room goes on waiting when it is issued again; one that WATCHDOG has
abandoned does all of its work again but for the claim, which stands (R325; log entry 68). The wave then stalls until TASK_PUSH_SLOT_WRITE; in a
reproducible context the whole push is made at the commit (R295, R297). -/
def execTaskPush (d a b : BitVec 6) (s : State) : Host.Outcome State Fault Refusal :=
  let r := s.getS a
  let q := s.getS b
  if s.w.pushWait.isSome then .next s.stall
  else if s.repro then
    finishSeq 4 s (do
      reproWait s
      let (lr, lq) ← pushPlaces s r q
      releaseWait s
      let (v, t) ← (s.release 5).load r lr 64
      let t := t.touchTlb false q.toNat
      let data := BitVec.ofNat 512 v
      if d = 0 then t.buffer [.push lq data]
      else .ok (t.hold (.push (sKey t.w.sys d) lq data) 0))
  else if let some p := s.w.waitsOn (sKey s.w.sys d) then
    .next (s.modW fun x => { x with pushWait := some p, pushAt := none, blocked := true })
  else
    match (do
      let (lr, lq) ← pushPlaces s r q
      releaseWait s
      let (v, t) ← s.load r lr 64
      let t := s.recordLoaded t lr 64 r [lq.addr / 512]
      ready (t.atomOpen t.w.core lq)
      need (!t.poison.contains (lq.addr / 128)) .poison q
      let t := t.release 5
      let (w, t) := match s.w.heldClaim lq with
        | some w => (w, t)
        | none =>
          let (w, t) := t.claim (clusterOf s.w.core) (some s.w.core) lq
          (dw w, t)
      .ok ((t.touchTlb false q.toNat).modW fun x => x.startPush (sKey x.sys d) w lq (BitVec.ofNat 512 v)) : Res State) with
    | .ok t => .next t
    | r => finish s r

/-- `TASK_PUSH_SLOT_WRITE`: there is room, and the record enters its slot; or the slot's fault is taken at the `task.push`, which then keeps
s[sd] and is not issued again (R280). While its cluster is reset the wave's port injects nothing (R372). -/
def execTaskPushSlotWrite (s : State) : Host.Outcome State Fault Refusal :=
  match s.w.pushWait with
  | none => .next s
  | some p =>
    if !s.slotRoom p.q.addr p.w.toNat || s.w.trapping.isSome || s.core.inReset then .next s
    else
      let va := dw (s.slotVa p.q.addr p.w.toNat)
      let t := s.modW fun x => { x with pushWait := none }
      match s.access .store va with
      | .ok l =>
        if l.kind ≠ .device then .next (t.raise 0 .storeFault va 0 0)
        else if s.atomOpen s.w.core l then
          .next ((((t.touchTlb false va.toNat).putSlot (clusterOf s.w.core) (some s.w.core) l p.q.addr p.w.toNat p.record).advance 4).retire)
        else .next s
      | .error .wait => .next s
      | .error _ => .next (t.raise 0 .storeFault va 0 0)

/-! Signal words (R281, R282). -/

/-- The checks of a signal word's address. -/
def signalPlace (s : State) (a : Acc) (ea : DWord) : Res Loc := do
  aligned ea 8
  let l ← s.access a ea
  need (l.kind == .device) .scope ea
  .ok l

/-- `sig.add` (R281). -/
def execSigAdd (d a b : BitVec 6) (s : State) : Host.Outcome State Fault Refusal :=
  let ea := s.getS a
  let v := s.getS b
  finishSeq 4 s (do
    reproWait s
    let l ← signalPlace s .store ea
    releaseWait s
    let t := (s.release 5).touchTlb false ea.toNat
    if s.repro then
      need (!s.poison.contains (l.addr / 128)) .poison ea
      if d = 0 then t.buffer [.atom 0 true l v 0]
      else .ok (t.hold (.atom (sKey s.w.sys d) 0 true l v 0) 0)
    else
      let (old, t) ← atomWork t ea l 8 0 v.toNat 0
      .ok (t.sendS d (dw old)))

/-- The condition of `sig.wait` (R282). -/
def sigHolds (c : BitVec 2) (word v : DWord) : Bool :=
  match c with
  | 0 => word == v
  | 1 => v.sle word
  | 2 => word.sle v
  | _ => word != v

/-- `sig.wait` (R282): the word is read at its home; an acquire of system scope. -/
def execSigWait (d a b : BitVec 6) (c : BitVec 2) (s : State) : Host.Outcome State Fault Refusal :=
  let ea := s.getS a
  finishSeq 4 s (do
    reproWait s
    if freshQuantum s then .ok () else .error .commit
    let l ← signalPlace s .load ea
    ready (s.atomOpen s.w.core l && s.storesPerformed)
    need (!s.poison.contains (l.addr / 128)) .poison ea
    let word := dw (readLe s.mem l.addr 8)
    ready (sigHolds c word (s.getS b))
    .ok (((((s.atomTrip s.w.core l).dropL1 s.w.core [(l.addr, 0)]).touchTlb false ea.toNat).acquire 5).setS d word))

/-- `SIG_WAIT_WAKE`: the home notifies a wave that waits on a signal word, and it looks again (R282). -/
def execSigWaitWake (s : State) : Host.Outcome State Fault Refusal := .next (s.modW fun w => { w with blocked := false })

/-! Crew barriers (R283, R299). -/

/-- The barrier that a register's value selects. -/
def barrierOf (v : DWord) : Nat := bits v 0 2

/-- Generation Gb of the wave's crew. -/
def State.genOf (s : State) (b : Nat) : Nat := ((s.crewOf s.w.crew).map fun c => look 0 c.gen b).getD 0

/-- Arrival count A(w, b). -/
def Wave.arrivals (w : Wave) (b : Nat) : Nat := look 0 w.arr b

/-- Every wave of the crew that has not exited has arrived (R283). -/
def State.genReady (s : State) (c : Crew) (b : Nat) : Bool :=
  let ws := (c.waves.map s.wave).filter fun w => w.life != .exited && w.life != .killed
  !ws.isEmpty && ws.all fun w => decide (look 0 c.gen b + 1 ≤ w.arrivals b)

/-- A generation completes: its waiters look again. -/
def State.completeGen (s : State) (c : Crew) (b : Nat) : State :=
  (c.waves.foldl (fun s n => s.modWave n fun w => { w with blocked := false }) s).modCrew c.id fun c =>
    { c with gen := put 0 c.gen b (look 0 c.gen b + 1) }

/-- An arrival: a release of sector scope (R227). In a crew of one wave it completes the generation (R283). -/
def State.arrive (s : State) (b : Nat) : State :=
  let s := (s.release 2).modW fun w => { w with arr := put 0 w.arr b (s.genOf b + 1) }
  match s.crewOf s.w.crew with
  | some c => if c.waves.length = 1 then s.completeGen c b else s
  | none => s

/-- What an arrival waits for: the quantum before it has committed (R295), earlier stores are acknowledged (R227), and the last
generation has completed. -/
def arriveCheck (s : State) (b : Nat) : Res Unit := do
  if freshQuantum s then .ok () else .error .commit
  releaseWait s
  ready (s.w.arrivals b == s.genOf b)

/-- `crew.arrive` (R283). -/
def execCrewArrive (a : BitVec 6) (s : State) : Host.Outcome State Fault Refusal :=
  let b := barrierOf (s.getS a)
  finishSeq 4 s (do
    arriveCheck s b
    .ok (s.arrive b))

/-- A wave waits at a barrier (R299). -/
def State.atBarrier (s : State) (b : Nat) : State := (s.modW fun w => { w with barWait := some b }).stall

/-- `crew.wait` (R283): an acquire of sector scope. -/
def execCrewWait (a : BitVec 6) (s : State) : Host.Outcome State Fault Refusal :=
  let b := barrierOf (s.getS a)
  if freshQuantum s then
    if s.w.arrivals b ≤ s.genOf b then finishSeq 4 s (.ok (s.acquire 2)) else .next (s.atBarrier b)
  else finishSeq 4 s (.error .commit)

/-- `crew.bar` (R283): its arrival is made once, then it waits (log entry 21). -/
def execCrewBar (a : BitVec 6) (s : State) : Host.Outcome State Fault Refusal :=
  let b := barrierOf (s.getS a)
  let wait (s : State) : Host.Outcome State Fault Refusal :=
    if s.w.arrivals b ≤ s.genOf b then finishSeq 4 s (.ok ((s.acquire 2).modW fun w => { w with barAt := none }))
    else .next (s.atBarrier b)
  if s.w.barAt = some (s.w.pc, b) then wait s
  else
    match arriveCheck s b with
    | .ok _ => wait ((s.arrive b).modW fun w => { w with barAt := some (s.w.pc, b) })
    | .error e => finishSeq 4 s (.error e)

/-- `BARRIER_GENERATION_COMPLETE` (R283, R299): between two commits of a reproducible crew, so every waiting wave goes on in the
quantum after the highest one that a wave ended before arriving. -/
def execBarrierGenerationComplete (crew b : Nat) (s : State) : Host.Outcome State Fault Refusal :=
  match s.crewOf crew with
  | none => .next s
  | some c => .next (if decide (b < 4) && s.genReady c b && !c.killed && !c.committing then s.completeGen c b else s)

/-! Quanta and commits (R294 to R300). -/

/-- `qnt` (R300). -/
def execQnt (s : State) : Host.Outcome State Fault Refusal := finishSeq 4 s (.ok (if s.repro then s.endQuantum else s))

/-- The wave's count has reached Q (R295). -/
def State.countExpired (s : State) : Bool := s.repro && !s.w.qended && decide (s.w.quantum ≤ s.w.qcount)

/-- `QUANTUM_COUNT_EXPIRY` (R295). -/
def execQuantumCountExpiry (s : State) : Host.Outcome State Fault Refusal :=
  .next (if s.countExpired then s.endQuantum.modW fun w => { w with qexp := true } else s)

/-- The wave waits at a barrier generation that has not completed: it counts as having ended the quantum with an empty buffer (R299). -/
def waitsAtBarrier (c : Crew) (w : Wave) : Bool :=
  match w.barWait with
  | some b => decide (look 0 c.gen b < w.arrivals b) && w.buf.isEmpty && w.ret.isNone
  | none => false

/-- The lane words of the quantum have been executed and have what they read (R232, R294). -/
def Wave.quantumLanes (w : Wave) : Bool :=
  (w.qlane && w.unch.all (·.late.isEmpty)) || (w.lq.all (Entry.later w.quantum) && w.parked.isNone && w.unch.all (·.returned))

/-- The wave has ended its quantum, and all that stands in it has been done but for the commit itself: engine reads of global memory, which see
only earlier commits, and engine writes, which the commit applies (R232, R233). A faulted copy and the read streams go on after the commit, and
read memory as it found it (`Wave.snapReads`; log entry 75). -/
def Wave.quantumDone (w : Wave) : Bool :=
  w.qended && w.quantumLanes && w.ops.all (fun o => !o.accepted || o.cmd.kind.skimSide || o.landed || (o.cmd.kind.load && o.fault.isSome))
    && [4, 5, 6, 7].all fun n => (w.stream n).lane || (w.stream n).vals.isEmpty

/-- Commit n may begin (R232, R299). -/
def State.commitReady (s : State) (c : Crew) : Bool :=
  let ws := (c.waves.map s.wave).filter fun w => w.life != .exited && w.life != .killed
  c.started && !c.killed && ws.any (·.qended) && ws.all (fun w => w.quantumDone || waitsAtBarrier c w)
    && (List.range 4).all fun b => !s.genReady c b

/-- Device lines that a buffered item writes. -/
def BufItem.lines (i : BufItem) : List Nat :=
  match i with
  | .bytes l cells => if l.kind = .device then cells.map (·.1 / 512) else []
  | .atom _ _ l _ _ => if l.kind = .device then [l.addr / 512] else []
  | .push q _ => [q.addr / 512]
  | .engine _ cs => cs.filterMap fun c => if c.1.kind = .device then some (c.2.1 / 512) else none
  | .scatter _ vs => vs.flatMap fun v => v.2.filterMap fun c => if c.1.kind = .device then some (c.2.1 / 512) else none
  | .acq _ => []

/-- Device lines that the returning operation writes. -/
def RetOp.lines (r : RetOp) : List Nat :=
  match r with
  | .atom _ _ _ l _ _ => if l.kind = .device then [l.addr / 512] else []
  | .push _ q _ => [q.addr / 512]
  | .cst4 _ es => es.map fun e => e.1.addr / 512
  | .latom ops _ _ => ops.map fun o => o.2.1.addr / 512
  | .rsum ops => ops.flatMap fun o => o.2.2.map fun l => l.addr / 512

/-- A store to another device at the commit leaves the device; one that fails is discarded (R369). -/
def State.commitPeer (s : State) (l : Loc) : State :=
  let (err, s) := s.peerRefuses l.home
  if err then s.dropStore l.home l.addr else s

/-- The commit unit, which stands in the wave's sector, sends a write or an atomic to the home of a place, to the host, or to another device
(R349). -/
def State.commitTrip (s : State) (write : Bool) (l : Loc) : State :=
  let unit := sectorUnit (sectorOf s.w.core)
  if l.kind = .peer then if s.routed l.home then s.exchange write unit (peerPort (s.portOf l.home)) else s
  else s.exchangeAt write unit l

/-- An atomic at the commit: the old value and the state after it (R233, R298). Another device has let it in at its word (R369, log entry 95). -/
def State.commitAtom (s : State) (core op : Nat) (wide : Bool) (l : Loc) (v cmp : DWord) : Nat × State :=
  let n := if wide then 8 else 4
  let f (old : Nat) : Option Nat := if wide then atomNew op 64 old v.toNat cmp.toNat else latomNew op old v.toNat cmp.toNat
  match l.kind with
  | .device => s.atomHome core l n f
  | .host => s.atomHost core l n f
  | .peer =>
    let (bs, s) := (s.commitTrip false l).outside n
    (bytesToNat bs, s)

/-- The cores of the crew of the wave that acts. -/
def State.crewCores (s : State) : List Nat := nub (((s.crewOf s.w.crew).map fun c => c.waves.map fun n => (s.wave n).core).getD [])

/-- A push at the commit by the wave that acts: the slot's number once the push has ended; none while a home holds a line or, the slot claimed, the
ring has no room (R266, R298). A slot that faults gives the wave STORE_FAULT, at the word where the quantum ends after it, which stands `back` bytes
before the program counter (R280, log entry 20). -/
def State.commitPush (s : State) (q : Loc) (data : BitVec 512) (back : Nat) : Option Nat × State :=
  match s.w.slotAt with
  | none =>
    if s.lineFree (q.addr / 512) then
      let (w, s) := s.claim (sectorUnit (sectorOf s.w.core)) (some s.w.core) q
      (none, s.modW fun x => { x with slotAt := some (dw w) })
    else (none, s)
  | some w =>
    let w := w.toNat
    let va := dw (s.slotVa q.addr w)
    let ended (s : State) : Option Nat × State := (some w, s.modW fun x => { x with slotAt := none })
    let fault : Option Nat × State := ended ((s.modW fun x => { x with pc := x.pc - dw back }).raise 0 .storeFault va 0 0)
    if !s.slotRoom q.addr w then (none, s)
    else
      match s.access .store va with
      | .ok l =>
        if l.kind ≠ .device then fault
        else if s.lineFree (l.addr / 512) then
          ended (((s.touchTlb false va.toNat).putSlot (sectorUnit (sectorOf s.w.core)) (some s.w.core) l q.addr w data).dropLines s.crewCores [l.addr / 512])
        else (none, s)
      | .error .wait => (none, s)
      | .error _ => fault

/-- What an engine holds is applied: the bytes on one line are one write (R298, R364). Those for another device leave the device; the engine has
asked for them when it took them (log entry 95). -/
def State.commitCells (s : State) (cs : List (Loc × Nat × Byte × Byte)) : State :=
  let key (c : Loc × Nat × Byte × Byte) : PageKind × Nat × Nat := (c.1.kind, if c.1.kind = .peer then c.1.home else 0, c.2.1 / 512)
  (cs.map key).eraseDups.foldl (fun s k =>
    match cs.filter fun c => key c == k with
    | [] => s
    | c :: r => (s.commitTrip true c.1).engineWrite s.w.core c.1 ((c :: r).map (·.2))) s

/-- One item of the buffer of the wave that acts. -/
def State.commitItem (s : State) (i : BufItem) : State × Bool :=
  match i with
  | .bytes l cells =>
    (match l.kind with
      | .device => (s.commitTrip true l).writeFrom s.w.core cells
      | .host => { s.commitTrip true l with hostMem := writeCells s.hostMem cells }
      | .peer => s.commitPeer l, true)
  | .atom op wide l v cmp => ((s.commitAtom s.w.core op wide l v cmp).2, true)
  | .push q data =>
    match s.commitPush q data 0 with
    | (some _, s) => (s, true)
    | (none, s) => (s, false)
  | .engine _ cs => (s.commitCells cs, true)
  | .scatter _ vs => (vs.foldl (fun s v => s.commitCells v.2) s, true)
  | .acq scope => (s.acquire scope, true)

/-- The buffer of the wave that acts, in sequence order, up to a push that waits: the state, and whether all has been applied. -/
def State.commitBuf (s : State) : List BufItem → State × Bool
  | [] => (s.modW fun w => { w with buf := [] }, true)
  | i :: r =>
    match s.commitItem i with
    | (s, true) => State.commitBuf s r
    | (s, false) => (s.modW fun w => { w with buf := i :: r }, false)

/-- The returning operation of the wave that acts: its destination is written now (R298). -/
def State.commitRet (s : State) : State × Bool :=
  let done (s : State) : State × Bool := (((if s.w.retAcq = 0 then s else s.acquire s.w.retAcq).modW fun w => { w with ret := none, retAcq := 0 }), true)
  match s.w.ret with
  | none => (s, true)
  | some (.atom d op wide l v cmp) =>
    let (old, s) := s.commitAtom s.w.core op wide l v cmp
    done (s.modW fun w => w.setKey d (extend (if wide then 8 else 4) (!wide) old))
  | some (.push d q data) =>
    match s.commitPush q data 4 with
    | (some w, s) => done (s.modW fun x => x.setKey d (dw w))
    | (none, s) => (s, false)
  | some (.cst4 d es) =>
    let (v, s) := s.cstApply s.w.core es
    done (s.modW fun w => w.setKey d v)
  | some (.latom ops dst op) =>
    let (vs, s) := s.latomAll s.w.core op ops
    done (match dst with
      | .v r => s.modW fun w => { w with unch := w.unch.map fun (u : Unch) =>
          if u.held then { u with held := false, writes := vs.map fun e => (vKey r.toNat e.1, e.2) } else u }
      | d => s.writeDst d false vs)
  | some (.rsum ops) => done (ops.foldl (fun s (L, a, ls) => s.rsumLane s.w.core L a ls) s)

/-- The buffers of a crew's waves, in wave order, up to a push that waits. -/
def State.commitWaves (s : State) : List Nat → State × Bool
  | [] => (s, true)
  | n :: r =>
    let t := s.focus n
    match t.commitBuf t.w.buf with
    | (t, true) =>
      match t.commitRet with
      | (t, true) => State.commitWaves t r
      | (t, false) => (t, false)
    | (t, false) => (t, false)

/-- A wave after the commit: the next quantum begins. -/
def Wave.nextQuantum (w : Wave) : Wave :=
  if w.life = .exited ∨ w.life = .killed then w
  else
    -- a lane word's end has set the counts already
    let n := w.counted
    let w := if w.qlane then w else { w with qcount := w.qcount - n, lq := w.lq.map (Entry.rebase n) }
    -- scalar words that stand after that end have been executed in the quantum that begins, an `exit` among them
    { w with qended := w.qagain, qbefore := w.qagain && w.qbefore, qagain := false, qlane := false, qexp := false, qlw := false
             qused := decide (0 < w.qcount) || (w.qlane && w.life == Life.exiting), qn := w.qn + 1
             blocked := false, laneBlocked := false }.overrun

/-- The engine reads of global memory that have yet to be made when the quantum's commit begins see memory as it finds it (R232). -/
def Wave.snapReads (w : Wave) (m : Memory × Memory) : Wave :=
  { w with
    ops := w.ops.map fun o =>
      if o.snap.isNone && o.cmd.kind.load && !o.cmd.kind.skimSide && o.accepted && !o.landed then { o with snap := some m } else o
    q := w.q.map fun (n, x) => (n, if decide (n < 4) && x.bound && !x.lane && x.snap.isNone then { x with snap := some m } else x) }

/-- A commit begins: the reads of the crew's waves that are left keep memory as it is. -/
def State.beginCommit (s : State) (c : Crew) : State :=
  if c.committing then s
  else c.waves.foldl (fun s n => s.modWave n fun w => w.snapReads (s.mem, s.hostMem)) s

/-- `QUANTUM_COMMIT`: the next commit of a crew applies the buffers of its waves (R232, R298), none of whose clusters is being reset (R372). -/
def execQuantumCommit (crew : Nat) (s : State) : Host.Outcome State Fault Refusal :=
  match s.crewOf crew with
  | none => .next s
  | some c =>
    let ws := c.waves.map s.wave
    let lines := nub (ws.flatMap fun w => w.buf.flatMap BufItem.lines ++ ((w.ret.map RetOp.lines).getD []))
    if !(c.committing || s.commitReady c) || !lines.all s.lineFree || ws.any (fun w => (s.coreAt w.core).inReset) then .next s
    else
      -- the commit makes the releases of the quantum's buffered operations: its counts come first (R106)
      let (t, all) := (((nub (ws.map (·.core))).foldl State.deliverCore (s.beginCommit c)).modCrew crew fun c =>
        { c with committing := true }).commitWaves c.waves
      let t := (t.focus s.wid).dropLines (nub (ws.map (·.core))) lines
      if all then
        .next ((c.waves.foldl (fun s n => s.modWave n Wave.nextQuantum) t).modCrew crew fun c =>
          { c with commits := c.commits + 1, committing := false })
      else .next t

end Sys2Proof.Machine
end

