-- ==== Sys2Proof/Machine/Network.lean ====
section
/-! DEFINITION. The network and the slices (R349 to R369): the way of a store from its queue to its home and of its acknowledgement
back, copies of lines and the forwarding of lines, requests from host links and peers, links, the delivery of exception counts
(R106), and event records (R370, R371). -/

namespace Sys2Proof.Machine

open Sys2Proof

/-! Stores (R193, R197, R224, R350, R354, R358). -/

/-- A plain store updates the load-store-path L1 line of the core that issued it (R193, R385). -/
def Core.storeL1 (c : Core) (cells : List Host.Cell) : Core :=
  { c with l1 := c.l1.map fun e => (e.1, writeCells e.2 (cells.filter fun x => x.1 / 128 == e.1)) }

/-- Every read of the wave before the store has returned (R224). -/
def Wave.readsReturned (w : Wave) : Bool := w.sret.isEmpty && w.unch.all (·.returned)

/-- `STORE_QUEUE_DRAIN`: the oldest store of the wave leaves its queue (R224): to its home, to host memory, or to a peer (R193). A store waits in the
queue for its flow's allowance (R354), and while its cluster is reset (R372). -/
def execStoreQueueDrain (s : State) : Host.Outcome State Fault Refusal :=
  match s.w.stq with
  | [] => .next s
  | e :: rest =>
    if !s.w.readsReturned || s.core.inReset then .next s
    else
      let t := s.modW fun w => { w with stq := rest, blocked := false, laneBlocked := false }
      match e.loc.kind with
      | .device =>
        let f := s.flow .req (clusterOf s.w.core) (sliceUnit e.loc.slice)
        if s.allow .req (clusterOf s.w.core) (sliceUnit e.loc.slice) = 0 then .next s
        else
          let r : HomeReq :=
            { line := e.loc.addr / 512, cells := e.cells, agent := { core := s.w.core, id := e.id, wave := e.wave }, slice := e.loc.slice
              stamp := 0, started := false, asked := [], acks := [] }
          .next ((t.modCore fun c => { c.storeL1 e.cells with inflight := c.inflight ++ [e] }).setFlow (f.inject (.write r)))
      | .host =>
        let t : State := { t.pass .req (clusterOf s.w.core) (hostPort 0) with hostMem := writeCells t.hostMem e.cells }
        .next (t.modCore fun c => { c with acks := c.acks ++ [(e.id, e.wave)] })
      | .peer =>
        let q : PeerReq := { core := s.w.core, id := e.id, dev := e.loc.home, addr := e.loc.addr }
        let t : State := { t.pass .req (clusterOf s.w.core) (peerPort (s.portOf q.dev)) with peerReqs := t.peerReqs ++ [q] }
        .next (t.modCore fun c => { c with inflight := c.inflight ++ [e] })

/-- A sector drops its copies of a line (R358 step 2). -/
def State.invalidateSector (s : State) (sector line : Nat) : State :=
  let drop1 (c : Core) : Core :=
    { c with ro := c.ro.filter (fun k => k / 4 != line)
             probes := c.probes.map fun p => if p.1.addr / 512 = line then (p.1, true, p.2.2) else p }
  let s := ((s.cores.map (·.1)).filter fun n => sectorOf n == sector).foldl (fun s n => s.modCoreAt n drop1) s
  { s with copies := s.copies.filter fun c => !(c.2 == line && c.1 / 12 == sector) }

/-- `PACKET_DELIVERY`: the packet of flow k that is next in sequence is delivered to its unit, and its allowance returns (R350, R354): a write, or a
read or an AtomicOp from outside, to its home, or an invalidation to a sector, which drops its copies and acknowledges (R358). Acknowledgements
are delivered by `INVALIDATION_ACK`, `STORE_ACK` and `INSTALL_ACK`, and copies by `GUEST_COPY_INSTALL` and `REPLICA_INSTALL`. -/
def execPacketDelivery (k : Nat) (s : State) : Host.Outcome State Fault Refusal :=
  match s.flows[k]? with
  | none => .next s
  | some f =>
    match s.deliverFrom f with
    | some (.write r, t) => .next { t with nextId := s.nextId + 1, homeReqs := s.homeReqs ++ [{ r with stamp := s.nextId }] }
    | some (.unit r, t) => .next { t with nextId := s.nextId + 1, unitReqs := s.unitReqs ++ [{ r with stamp := s.nextId }] }
    | some (.inv line, t) => .next ((t.invalidateSector (f.dst - sectorUnit 0) line).send .ack f.dst f.src (.invAck line))
    | _ => .next s

/-- The vector without the bits of some sectors (R358 step 3). -/
def clearSectors (v : BitVec 12) (ss : List Nat) : BitVec 12 := ss.foldl (fun v k => v &&& ~~~(BitVec.ofNat 12 (2 ^ k))) v

/-- How a request from outside completes: the completion leaves over its link (R16, R368). -/
def State.reply (s : State) (src : Nat) (r : Reply) : State := { s with replies := s.replies.filter (fun x => x.1 != src) ++ [(src, r)] }

/-- The port by which a host link or a peer stands in the network (R349): that of the link, or the one that the route table gives. -/
def State.outsidePort (s : State) (src : Nat) : Nat := if src < 578 then hostPort (src - 576) else peerPort (s.portOf (src - 578))

/-- The writes of a host link or a peer that have arrived and are not performed: under way to their homes, or there. -/
def State.ownWrites (s : State) (src : Nat) : List Nat :=
  (s.homeReqs.filter fun r => r.agent.core == src).map (·.agent.id)
    ++ s.flows.flatMap fun f => (f.packets.map (·.2) ++ f.waiting).filterMap fun
      | .write r => if r.agent.core = src then some r.agent.id else none
      | _ => none

/-- Its reads and AtomicOps, likewise. -/
def State.ownUnits (s : State) (src : Nat) : List Nat :=
  (s.unitReqs.filter fun r => r.src == src).map (·.id)
    ++ s.flows.flatMap fun f => (f.packets.map (·.2) ++ f.waiting).filterMap fun
      | .unit r => if r.src = src then some r.id else none
      | _ => none

/-- A write request that performs at its home: R358 steps 3 and 4. The acknowledgement starts back to the core that waits for it, or to the
host link or the peer whose write it is (R368), where a posted write of a host link needs no completion (R16); the queue units that watch the
line are told. -/
def State.performReq (s : State) (k : Nat) (r : HomeReq) : State :=
  let v := clearSectors (look 0 s.vec r.line) r.asked
  let t := (({ s with vec := put 0 s.vec r.line v, homeReqs := s.homeReqs.eraseIdx k }).notifyQueues r.line).perform r.cells
  if 576 ≤ r.agent.core then
    let t := t.pass .ack (sliceUnit r.slice) (t.outsidePort r.agent.core)
    if 578 ≤ r.agent.core then t.reply r.agent.core .ack else t
  else if (t.coreAt r.agent.core).inflight.any fun e => e.id == r.agent.id then
    let t := t.modCoreAt r.agent.core fun c =>
      { c with inflight := c.inflight.filter (fun e => e.id != r.agent.id), acks := c.acks ++ [(r.agent.id, r.agent.wave)] }
    t.send .ack (sliceUnit r.slice) (clusterOf r.agent.core) (.storeAck r.agent.core r.agent.id)
  else t

/-- An earlier request of the same outside source that a request must not overtake: a write of its host link, which keeps that link's order
(R16), or any request of its peer, whose requests form one flow (R368). -/
def State.behindOwn (s : State) (src id : Nat) : Bool :=
  decide (576 ≤ src) && ((s.ownWrites src).any (fun x => decide (x < id))
    || (decide (578 ≤ src) && (s.ownUnits src).any fun x => decide (x < id)))

/-- Write request k of the homes may start: it is the first of what has arrived for its line (R358, R363), no install of the line is outstanding
(R358 step 1), and it overtakes nothing of its own source. -/
def State.homeReady (s : State) (k : Nat) (r : HomeReq) : Bool :=
  !r.started && !s.installs.any (fun i => i.line == r.line)
    && !(s.homeReqs.take k).any (fun x => x.line == r.line)
    && !s.unitReqs.any (fun x => x.on r.line && decide (x.stamp < r.stamp))
    && !s.behindOwn r.agent.core r.agent.id

/-- The invalidations of a line leave for some sectors (R358 step 2). -/
def State.sendInvs (s : State) (slice line : Nat) (sectors : List Nat) : State :=
  sectors.foldl (fun s x => s.send .inv (sliceUnit slice) (sectorUnit x) (.inv line)) s

/-- `HOME_WRITE`: write request k sends its invalidations; with none to send it is performed (R358). -/
def execHomeWrite (k : Nat) (s : State) : Host.Outcome State Fault Refusal :=
  match s.homeReqs[k]? with
  | none => .next s
  | some r =>
    if !s.homeReady k r then .next s
    else
      let acks := vecSectors (look 0 s.vec r.line)
      if acks.isEmpty then .next (s.performReq k r)
      else
        .next ({ s with homeReqs := s.homeReqs.set k { r with started := true, asked := acks, acks := acks } }.sendInvs r.slice r.line acks)

/-- The packet that is due in a flow, if it is this one: the state once it has been delivered. -/
def State.take (s : State) (f : Flow) (p : Packet) : Option State := (s.deliverFrom f).bind fun e => if e.1 = p then some e.2 else none

/-- `INVALIDATION_ACK`: a sector's acknowledgement reaches the home of write request k; the last one performs the write (R358), while no install of
the line is outstanding (R359). -/
def execInvalidationAck (k sector : Nat) (s : State) : Host.Outcome State Fault Refusal :=
  match s.homeReqs[k]? with
  | none => .next s
  | some r =>
    if !(r.started && r.acks.contains sector) then .next s
    else
      match s.take (s.flow .ack (sectorUnit sector) (sliceUnit r.slice)) (.invAck r.line) with
      | none => .next s
      | some t =>
        let left := r.acks.filter fun x => x != sector
        if left.isEmpty && s.installs.any (fun i => i.line == r.line) then .next s
        else .next (if left.isEmpty then t.performReq k r else { t with homeReqs := t.homeReqs.set k { r with acks := left } })

/-- `STORE_ACK`: acknowledgement k on its way to a core arrives (R211), in the order of its flow (R350); that of a store to host memory comes over
a link. The numbers after them stand for the core's stores to peers, which their target has performed (R368): none of a device that the
route table gives no way to (R352). -/
def execStoreAck (core k : Nat) (s : State) : Host.Outcome State Fault Refusal :=
  let acks := (s.coreAt core).acks
  let done (t : State) : State := t.modCoreAt core fun c => { c with acks := c.acks.eraseIdx k }
  match acks[k]? with
  | some a =>
    let p := Packet.storeAck core a.1
    match s.flows.find? fun f => f.cls == .ack && f.dst == clusterOf core && (f.packets.any (·.2 == p) || f.waiting.contains p) with
    | none => .next (done (s.pass .ack (hostPort 0) (clusterOf core)))
    | some f => .next (((s.take f p).map done).getD s)
  | none =>
    match (s.peerReqs.filter fun r => r.core == core)[k - acks.length]? with
    | none => .next s
    | some r =>
      if !s.routed r.dev then .next s
      else
        .next (({ s with peerReqs := s.peerReqs.filter fun x => x != r }.pass .ack (peerPort (s.portOf r.dev)) (clusterOf core)).modCoreAt core fun c =>
          { c with inflight := c.inflight.filter fun e => e.id != r.id })

/-! Copies (R355 to R359). -/

/-- Ways of a slice's set that pinned lines take, and those that lines with dirty sectors take at most: which slice homes such a line its address
alone does not say (R192, R212, R356). -/
def State.heldWays (s : State) (slice line : Nat) : Nat × Nat :=
  let here (x : Nat) : Bool := l2Set x == l2Set line
  (s.pins.countP fun e => e.2 % 1024 == slice && here e.1, (nub ((s.dirty.map (·.1 / 4)).filter here)).length)

/-- A slice takes a copy, if a way of its set is free or holds a clean, unpinned line (R356): one of its other copies goes where the ways would
not do, by a free choice, and so does the choice where dirty lines may hold them all (log entry 8). -/
def State.addCopy (s : State) (slice line : Nat) : State :=
  if s.copies.contains (slice, line) then s
  else
    let (pinned, dirty) := s.heldWays slice line
    let mine := s.copies.filter fun c => c.1 == slice && l2Set c.2 == l2Set line
    let (room, s) := if pinned + dirty < 16 then (true, s) else s.choose
    if !room then s
    else if pinned + mine.length < 16 then { s with copies := s.copies ++ [(slice, line)] }
    else
      let (i, s) := s.pick mine.length
      { s with copies := (s.copies.filter fun c => some c != mine[i]?) ++ [(slice, line)] }

/-- The packet of install k arrives at its slice, which holds the copy from then on, if it takes it (R356, R357), and acknowledges to the home
(R359). -/
def install (replica : Bool) (k : Nat) (s : State) : Host.Outcome State Fault Refusal :=
  match s.installs[k]? with
  | none => .next s
  | some i =>
    if i.installed || i.replica != replica then .next s
    else
      match s.take (s.flow .rsp (sliceUnit i.home) (sliceUnit i.slice)) (.install i.line) with
      | none => .next s
      | some t =>
        let t := { t with installs := s.installs.set k { i with installed := true } }.addCopy i.slice i.line
        .next (t.send .ack (sliceUnit i.slice) (sliceUnit i.home) (.installAck i.line))

/-- `GUEST_COPY_INSTALL` (R356). -/
def execGuestCopyInstall (k : Nat) (s : State) : Host.Outcome State Fault Refusal := install false k s

/-- `REPLICA_INSTALL` (R357). -/
def execReplicaInstall (k : Nat) (s : State) : Host.Outcome State Fault Refusal := install true k s

/-- `INSTALL_ACK`: the acknowledgement of install k reaches the home (R359). -/
def execInstallAck (k : Nat) (s : State) : Host.Outcome State Fault Refusal :=
  match s.installs[k]? with
  | none => .next s
  | some i =>
    match if i.installed then s.take (s.flow .ack (sliceUnit i.slice) (sliceUnit i.home)) (.installAck i.line) else none with
    | none => .next s
    | some t => .next { t with installs := s.installs.eraseIdx k }

/-! Peer L1 forwarding (R360 to R362). -/

/-- The elements of a result that wait for a 128-byte unit are read (R362): their values join it, or its fault is that of a poisoned unit
(R203). -/
def Unch.readLate (u : Unch) (s : State) (unit : Nat) : Unch :=
  let (here, rest) := u.late.partition fun e => e.2.1.addr / 128 == unit
  match here with
  | [] => u
  | e :: _ =>
    if s.poison.contains unit then { u with writes := [], late := [], err := some (.poison, e.2.2.1) }
    else
      { u with late := rest, writes := u.writes ++ here.map fun (key, l, _, t) => (key, elemImage t (readLe s.mem l.addr (elemSize t))) }

/-- The result makes an acquire of sector scope or wider when its elements of a unit are read (R225). -/
def Unch.acquires (u : Unch) (unit : Nat) : Bool := wide u.acq && u.late.any fun e => e.2.1.addr / 128 == unit

/-- Every element of the core's waves that waits for a unit is read now, and a load that is an acquire makes it now (R211, R225). -/
def State.readLate (s : State) (core unit : Nat) : State :=
  let mine := s.waveIds.filter fun n => (s.wave n).core == core
  let t := mine.foldl (fun t n =>
    t.modWave n fun w => { w with unch := w.unch.map fun u => u.readLate s unit, blocked := false, laneBlocked := false }) s
  if mine.any fun n => (s.wave n).unch.any fun u => u.acquires unit then t.modCoreAt core fun c => { c with l1 := [] } else t

/-- `PROBE`: probe k of the core reaches the core that the predictor names, and the loads that wait for the line are read there (R361, R362). A
hit raises the confidence to 3; a miss lowers it, and the request goes on to the guest lookup or to the home (R360), which may hold it
(R358). While its cluster is reset the port injects nothing (R372). -/
def execProbe (k : Nat) (s : State) : Host.Outcome State Fault Refusal :=
  match s.core.probes[k]? with
  | none => .next s
  | some (l, inv, hit) =>
    if hit || s.core.inReset then .next s
    else
      let u := l.addr / 128
      let (peer, conf) := look (0, 0) s.core.pred (predIndex u)
      let dst := sectorOf s.w.core * 48 + peer
      if conf ≠ 0 ∧ (s.coreAt dst).ro.contains u then
        .next (((s.trip (clusterOf s.w.core) (clusterOf dst)).modCore fun c =>
          { c with pred := put (0, 0) c.pred (predIndex u) (peer, 3), probes := c.probes.set k (l, inv, true) }).readLate s.w.core u)
      else if !s.missOpen s.w.core l then .next s
      else
        let t := (s.trip (clusterOf s.w.core) (clusterOf dst)).modCore fun c =>
          { c with pred := put (0, 0) c.pred (predIndex u) (if conf ≤ 1 then (0, 0) else (peer, conf - 1)), probes := c.probes.eraseIdx k }
        .next ((if s.poison.contains u then t else t.roTake s.w.core l u).readLate s.w.core u)

/-- `FORWARDED_LINE_ARRIVAL`: the line of probe k arrives, and is installed unless an invalidation has reached the core since the
probe's issue (R362). The loads that waited for it have been read: those issued before the probe was answered in that step, and a later one in
its own (`State.joins`). -/
def execForwardedLineArrival (k : Nat) (s : State) : Host.Outcome State Fault Refusal :=
  match s.core.probes[k]? with
  | none => .next s
  | some (l, inv, hit) =>
    if !hit then .next s
    else
      let u := l.addr / 128
      let t := if inv || s.core.ro.contains u then s else (s.l1Room s.w.core u).modCore fun c => { c with ro := u :: c.ro }
      .next (t.modCore fun c => { c with probes := c.probes.eraseIdx k })

/-! Requests from outside the device (R16, R363, R367 to R369). -/


/-- The new value of an AtomicOp of n bytes, or none where it writes nothing (R16). -/
def busNew (op : BusOp) (n old : Nat) : Option Nat :=
  match op with
  | .fetchAdd _ v => atomNew 0 (8 * n) old (v.toNat % 2 ^ (8 * n)) 0
  | .cas _ o v => atomNew 9 (8 * n) old (v.toNat % 2 ^ (8 * n)) (o.toNat % 2 ^ (8 * n))
  | _ => none

/-- Consecutive bytes as cells. -/
def cellsAt (a : Nat) (bs : List Byte) : List Host.Cell := bs.zipIdx.map fun e => (a + e.2, e.1)

/-- A packet of a host link or a peer leaves its port for a slice (R349, R354); the request it carries has taken the next number of arrival. -/
def State.sendOutside (s : State) (src slice : Nat) (p : Packet) : State :=
  { s with nextId := s.nextId + 1 }.send .req (s.outsidePort src) (sliceUnit slice) p

/-- A write from outside is sent to the homes: one request for each line (R358, R364), to the slice that `home` gives for its address. -/
def State.outsideWrite (s : State) (src : Nat) (home : Nat → Nat) (addr : Nat) (bs : List Byte) : State :=
  let cells := cellsAt addr bs
  (nub ((cells.map fun c => c.1 / 512).reverse)).reverse.foldl (fun s line =>
    s.sendOutside src (home (512 * line)) (.write
      { line := line, cells := cells.filter (fun c => c.1 / 512 == line), agent := { core := src, id := s.nextId, wave := 0 }
        slice := home (512 * line), stamp := 0, started := false, asked := [], acks := [] })) s

/-- What a request from outside does on arrival: a write, a read, a FetchAdd and a CAS go to their homes; a Swap completes with Unsupported
Request (R16, R367). -/
def State.outsideRequest (s : State) (src : Nat) (home : Nat → Nat) (r : BusReq) : State :=
  match r.op with
  | .write bs => s.outsideWrite src home r.addr bs
  | .swap _ _ => s.reply src .unsupported
  | op =>
    s.sendOutside src (home r.addr) (.unit { src := src, addr := r.addr, op := op, id := s.nextId, slice := home r.addr, stamp := 0 })

/-- The home slice of an address for a stripe class and a home (R192, R366). -/
def homeOf (stripe home addr : Nat) : Nat := ({ kind := .device, addr := addr, stripe := stripe, home := home, rm := false } : Loc).slice

/-- The request lies within the 48 bits of device physical addresses (R15). -/
def inDevice (r : BusReq) : Bool := decide (r.addr + busBytes r.op ≤ 2 ^ 48)

/-- `HOST_LINK_REQUEST` (R16): in the recovery state link 0 alone is up (R375). A request names no page, so its home is that of the device stripe
class (log entry 76). -/
def execHostLinkRequest (link : Nat) (r : BusReq) (s : State) : Host.Outcome State Fault Refusal :=
  if 2 ≤ link ∨ (link = 1 ∧ s.fw.recovery) then .next s
  else if inDevice r then .next (s.outsideRequest (576 + link) (homeOf 3 0) r)
  else .fault (.noSuchAddress (r.addr + busBytes r.op - 1))

/-- The aperture lets the request in: its range, and its right (R366, R369). -/
def apertureAllows (v : DWord) (r : BusReq) : Bool :=
  let size := bits v 0 6
  let base := bits v 14 34 * 2 ^ 14
  size != 0 && decide (base ≤ r.addr) && decide (r.addr + busBytes r.op ≤ base + 2 ^ size)
    && match r.op with
      | .read _ => v.getLsbD 8
      | .write _ => v.getLsbD 9
      | _ => v.getLsbD 10

/-- `PEER_REQUEST_ARRIVAL`: a request of another pod device is checked against its aperture, whose stripe class and home give its home (R366). One
that fails completes with an error; a store is then discarded, with a record of the peer port (R367, R369). -/
def execPeerRequestArrival (src : Nat) (r : BusReq) (s : State) : Host.Outcome State Fault Refusal :=
  let v := look 0 s.apertures src
  if 64 ≤ src ∨ s.fw.recovery then .next s
  else if apertureAllows v r then
    if inDevice r then .next (s.outsideRequest (578 + src) (homeOf (bits v 11 2) (bits v 48 10)) r)
    else .fault (.noSuchAddress (r.addr + busBytes r.op - 1))
  else
    let t := s.reply (578 + src) .error
    match r.op with
    | .write _ => .next (t.emit 4 (s.portOf src) 0x000A [dw src, dw r.addr])
    | _ => .next t

/-- The 512-byte lines that a request names. -/
def UnitReq.lines (r : UnitReq) : List Nat := (List.range ((r.addr + busBytes r.op - 1) / 512 + 1 - r.addr / 512)).map (r.addr / 512 + ·)

/-- Request k may be performed at its home: what has arrived for a line before it has been performed there (R358, R363), no install of a line that
it may write is outstanding (R359), no read meets a write under way (R358), and it overtakes nothing of its own source. -/
def State.unitReady (s : State) (k : Nat) (r : UnitReq) : Bool :=
  (r.lines.all fun line =>
    !s.homeReqs.any (fun x => x.line == line && (x.started || decide (x.stamp < r.stamp)))
      && (match r.op with
        | .read _ => true
        | _ => !(s.unitReqs.take k).any (fun x => x.on line) && !s.installs.any fun i => i.line == line))
    && !s.behindOwn r.src r.id

/-- `ATOMIC_UNIT_OPERATION`: request k of a host link or a peer is performed at its home: an AtomicOp by the atomic unit (R363), or a read; its
completion carries the old value or the bytes (R16, R368), an error where the bytes are poisoned (R203; log entry 76). An AtomicOp at an address
that is no multiple of its size is performed there, whichever lines it touches (DESIGN CHOICE, log entry 84). The operations of the
device's own waves and units are performed in the steps that issue them, by the same rule (log entry 24). -/
def execAtomicUnitOperation (k : Nat) (s : State) : Host.Outcome State Fault Refusal :=
  match s.unitReqs[k]? with
  | none => .next s
  | some r =>
    if !s.unitReady k r then .next s
    else
      let n := busBytes r.op
      let t := { s with unitReqs := s.unitReqs.eraseIdx k }.pass .rsp (sliceUnit r.slice) (s.outsidePort r.src)
      if s.poison.any fun u => decide (r.addr / 128 ≤ u) && decide (128 * u < r.addr + n) then .next (t.reply r.src .error)
      else
        let t := t.reply r.src (.data (readBytes s.mem r.addr n))
        match busNew r.op n (readLe s.mem r.addr n) with
        | some v => .next (t.writeHome (leCells r.addr n v))
        | none => .next t

/-- `PEER_REQUEST_TIMEOUT`: store k to a peer has not completed within 2^20 cc: it is discarded, with a record of the peer port
(R369). Loads and atomics meet the error in the step that issues them (log entry 6). -/
def execPeerRequestTimeout (k : Nat) (s : State) : Host.Outcome State Fault Refusal :=
  match s.peerReqs[k]? with
  | none => .next s
  | some r =>
    .next (({ s with peerReqs := s.peerReqs.eraseIdx k }.modCoreAt r.core fun c =>
      { c with inflight := c.inflight.filter fun e => e.id != r.id }).dropStore r.dev r.addr)

/-! Links (R351, R352). -/

/-- Links of each kind: rink segments, die links, peer ports (R351). -/
def linkCount (kind : Nat) : Nat := if kind = 0 then 24 else if kind = 1 then 6 else if kind = 2 then 12 else 0

/-- The sector controller that reports a link (log entry 12): of a peer port its own (R351). -/
def linkSector (kind num : Nat) : Nat := if kind = 0 then num / 2 else if kind = 1 then 2 * num else num

/-- `LINK_OUT_OF_SERVICE`: the buffers of a link that is to retrain have drained (R352). -/
def execLinkOutOfService (kind num : Nat) (s : State) : Host.Outcome State Fault Refusal :=
  if s.linksDraining.contains (kind, num) then
    .next ({ s with linksDraining := s.linksDraining.filter (fun x => x != (kind, num)), linksDown := s.linksDown ++ [(kind, num)] }.emitSector
      (linkSector kind num) 0x000B [dw kind, dw num, 1])
  else .next s

/-- The management command that runs ends with a status (R383). -/
def State.mgDone (s : State) (status : Nat) : State := { s with mg := { s.mg with status := status, busy := false } }

/-- The command that runs now, if any (R383). -/
def Mg.runs (m : Mg) (code : Nat) : Bool := m.busy && m.cmd == code

/-- `LINK_BACK_IN_SERVICE`: training ends and the link returns (R352, R380); a command that asked for it ends. -/
def execLinkBackInService (kind num : Nat) (s : State) : Host.Outcome State Fault Refusal :=
  if s.linksDown.contains (kind, num) then
    let t := { s with linksDown := s.linksDown.filter fun x => x != (kind, num) }
    .next ((if t.mg.runs 5 then t.mgDone 0 else t).emitSector (linkSector kind num) 0x000B [dw kind, dw num, 0])
  else .next s

/-! Counts and event records (R106, R370, R371, R382). -/

/-- `COUNT_DELIVERY` (R106). -/
def execCountDelivery (core : Nat) (s : State) : Host.Outcome State Fault Refusal := .next (s.deliverCore core)

/-- The ring is enabled and has room for a record (R382). -/
def Mg.ringReady (m : Mg) : Bool :=
  decide (6 ≤ m.evsize.toNat) && decide (m.evsize.toNat ≤ 16) && m.evhead - m.evtail != BitVec.ofNat 64 (2 ^ m.evsize.toNat)

/-- A record's 64 bytes (R370). -/
def recordCells (a kind num : Nat) (e : BitVec 32 × Nat × Nat × List DWord) : List Host.Cell :=
  let (seq, dropped, code, payload) := e
  leCells a 8 (num % 4096 + kind * 2 ^ 12 + code * 2 ^ 16 + seq.toNat * 2 ^ 32)
    ++ leCells (a + 8) 8 dropped
    ++ (List.range 6).flatMap fun k => leCells (a + 16 + 8 * k) 8 ((payload[k]?).getD 0).toNat

/-- The unit that sends a source's records (R370): a sector controller, the counter unit in that of sector 0 (R104), or a peer port. -/
def eventUnit (kind num : Nat) : Nat := if kind = 1 then sectorUnit num else if kind = 4 then peerPort num else sectorUnit 0

/-- `EVENT_RECORD_WRITE`: a source writes its oldest record to the ring; none is written in the recovery state (R371, R375, R382). -/
def execEventRecordWrite (kind num : Nat) (s : State) : Host.Outcome State Fault Refusal :=
  let src := look {} s.events (evKey kind num)
  match src.held with
  | [] => .next s
  | e :: rest =>
    if s.fw.recovery || !s.mg.ringReady then .next s
    else
      let slot := s.mg.evhead.toNat % 2 ^ s.mg.evsize.toNat
      .next { s.pass .evt (eventUnit kind num) (hostPort 0) with
        hostMem := writeCells s.hostMem (recordCells (s.mg.evbase.toNat + 64 * slot) kind num e)
        events := put {} s.events (evKey kind num) { src with held := rest }
        mg := { s.mg with evhead := s.mg.evhead + 1 } }

end Sys2Proof.Machine
end

