-- ==== Sys2Proof/Machine/Platform.lean ====
section
/-! DEFINITION. Bring-up, firmware, servicing, power and the management interface (R375 to R383), DRAM refresh (R194), allowances
(R289, R381), uncorrectable errors (R203, R205, R146), and cluster reset (R372). -/

namespace Sys2Proof.Machine

open Sys2Proof

/-! DRAM channels (R194, R380). -/

/-- `REFRESH_WINDOW`: a channel's window starts; it changes only times (R194). -/
def execRefreshWindow (channel : Nat) (s : State) : Host.Outcome State Fault Refusal :=
  .next (if 576 ≤ channel || s.inRefresh.contains channel then s else { s with inRefresh := s.inRefresh ++ [channel] })

/-- `REFRESH_WINDOW_END` (R194). -/
def execRefreshWindowEnd (channel : Nat) (s : State) : Host.Outcome State Fault Refusal :=
  .next { s with inRefresh := s.inRefresh.filter fun c => c != channel }

/-- `REFRESH_STATE_CHANGE`: a region's sensor reads a temperature: doubled refresh above 85 °C, normal again below 82 °C, with one record
for each change (R194). -/
def execRefreshStateChange (region : Nat) (celsius : Int) (s : State) : Host.Outcome State Fault Refusal :=
  if 144 ≤ region ∨ s.fw.recovery then .next s
  else if 85 < celsius ∧ !s.doubled.contains region then
    .next ({ s with doubled := s.doubled ++ [region] }.emitSector (region / 12) 0x0002 [dw region, 1])
  else if celsius < 82 ∧ s.doubled.contains region then
    .next ({ s with doubled := s.doubled.filter fun r => r != region }.emitSector (region / 12) 0x0002 [dw region, 0])
  else .next s

/-- `DRAM_RETRAIN_END`: the channel's retraining ends, and with it the command that asked for it (R380). -/
def execDramRetrainEnd (channel : Nat) (s : State) : Host.Outcome State Fault Refusal :=
  if s.retraining = some channel then
    let t := { s with retraining := none }
    .next (if t.mg.runs 4 then t.mgDone 0 else t)
  else .next s

/-! Allowances (R289, R381). -/

/-- How far a temperature above 90 °C lowers a_logic from 255. -/
def logicCutAt (celsius : Int) : Nat := min 255 (16 * (celsius - 90).toNat)

/-- a_logic of a core (R381): 0 while its DRAM region is at its rating, else what the temperature leaves, less the power steps. -/
def State.aLogic (s : State) (core : Nat) : Nat :=
  if s.atRating.contains (clusterOf core) then 0 else 255 - look 0 s.logicCut (clusterOf core) - 16 * s.powerSteps

/-- a_dram of a core (R289). -/
def State.aDram (s : State) (core : Nat) : Nat := if s.doubled.contains (clusterOf core) then 96 else 255

/-- `THERMAL_ALLOWANCE_UPDATE`: a core's allowance takes its value (R289). -/
def execThermalAllowanceUpdate (core : Nat) (s : State) : Host.Outcome State Fault Refusal :=
  .next (if 576 ≤ core || s.fw.recovery then s else s.modCoreAt core fun c => { c with allowance := min (s.aLogic core) (s.aDram core) })

/-- `LOGIC_ALLOWANCE_SET`: a_logic of a cluster from its hottest logic sensor (R381). -/
def execLogicAllowanceSet (cluster : Nat) (celsius : Int) (s : State) : Host.Outcome State Fault Refusal :=
  .next (if 144 ≤ cluster || s.fw.recovery then s else { s with logicCut := put 0 s.logicCut cluster (logicCutAt celsius) })

/-- `POWER_ALLOWANCE_STEP`: above 2,200 W every a_logic goes down by 16, and up again below 2,100 W (R381). -/
def execPowerAllowanceStep (watts : Nat) (s : State) : Host.Outcome State Fault Refusal :=
  .next { s with powerSteps := if s.fw.recovery then s.powerSteps else if 2200 < watts then min 16 (s.powerSteps + 1) else if watts < 2100 then s.powerSteps - 1 else s.powerSteps }

/-- `DRAM_REGION_AT_RATING`: a region reads 95 °C or above, or below 92 °C again (R381). -/
def execDramRegionAtRating (region : Nat) (celsius : Int) (s : State) : Host.Outcome State Fault Refusal :=
  .next (
    if 144 ≤ region || s.fw.recovery then s
    else if 95 ≤ celsius then { s with atRating := if s.atRating.contains region then s.atRating else s.atRating ++ [region] }
    else if celsius < 92 then { s with atRating := s.atRating.filter fun r => r != region }
    else s)

/-! Uncorrectable errors (R146, R203, R205). -/

/-- `UNCORRECTABLE_ERROR_POISON`: an error arises in the 128-byte sector of a device address (unit 0), in the skim block at an offset of a
bus (unit 1), or, for the errors that R146 and R201 report, in the cell `addr` of the lane memory of wave `num` (unit 2). -/
def execUncorrectableErrorPoison (unit num addr : Nat) (s : State) : Host.Outcome State Fault Refusal :=
  .next (
    if unit = 0 then
      if 2 ^ 48 ≤ addr ∨ s.poison.contains (addr / 128) then s else { s with poison := addr / 128 :: s.poison }
    else if unit = 1 then
      let k := (num * 2 ^ 22 + addr) / 128
      if 288 ≤ num ∨ 2 ^ 22 ≤ addr ∨ s.skimBad.contains k then s else { s with skimBad := k :: s.skimBad }
    else
      s.modWave num fun w => if w.resident && !w.lmBad.contains addr then { w with lmBad := addr :: w.lmBad } else w)

/-! Cluster reset (R372, R373). -/

/-- The four cores of a cluster. -/
def clusterCores (cluster : Nat) : List Nat := (List.range 4).map (4 * cluster + ·)

/-- Kill the crew of wave n of a cluster that is reset, unless an earlier wave has taken it along (R372 step 2). -/
def State.containWave (s : State) (n : Nat) : State :=
  let w := s.wave n
  if w.resident then s.killCrew w.crew .contain .none w.pc w.resume else s

/-- Steps 1 to 3 of R372: the cores stop, their crews are killed, and stores that have not left their queues are gone; answers to
those that have are discarded. -/
def State.resetCluster (s : State) (cluster trigger : Nat) : State :=
  let cores := clusterCores cluster
  let s := cores.foldl (fun s n => s.modCoreAt n fun c => { c with inReset := true }) s
  let s := (s.waveIds.filter fun n => cores.contains (s.wave n).core).foldl State.containWave s
  let s := cores.foldl (fun s n => s.modCoreAt n fun c => { c with inflight := [], acks := [], sb := [], sbWait := [], probes := [], fills := [] }) s
  s.emitSector (cluster / 12) 0x0009 [dw cluster, dw trigger]

/-- `CLUSTER_RESET`: the sector controller contains a fault of a cluster: trigger 0 an error in its logic, 1 a core that does not answer,
2 a request (R372). While its sector switches images only the cores stop (R383). -/
def execClusterReset (cluster trigger : Nat) (s : State) : Host.Outcome State Fault Refusal :=
  if 144 ≤ cluster ∨ s.fw.recovery then .next s
  else if s.controls (cluster / 12) then .next (s.resetCluster cluster trigger)
  else
    let t := (clusterCores cluster).foldl (fun s n => s.modCoreAt n fun c => { c with inReset := true }) s
    .next { t with fw := { t.fw with resets := t.fw.resets ++ [(cluster, trigger)] } }

/-- A core after its cluster's reset (R372 step 5): option 0 and a cycle count of 0 (R82, R191), its caches, TLBs and predictor clear. What
Trowel still holds for it, `queued`, stays pending (R348). -/
def Core.afterReset (c : Core) (queued : List (Nat × Nat)) : Core :=
  { c with option := 0, cycle := 0, dtlb := [], ctlb := [], l1 := [], ro := [], lcc := [], slalom := [], pred := [], probes := [], fills := []
           trowelPending := c.trowelPending.filter queued.contains, inReset := false }

/-- The requests of a core that its sector's Trowel holds (R341). -/
def State.trowelOf (s : State) (core : Nat) : List (Nat × Nat) :=
  ((s.sector (sectorOf core)).trowel.filter fun r => r.core == core).map fun r => (r.addr, r.cls)

/-- The sweep of a cluster's reset: answers to the cluster are discarded, and their allowances return (R372 steps 3 and 4). -/
def Flow.sweepAcks (cluster : Nat) (f : Flow) : Flow :=
  if f.cls = .ack ∧ f.dst = cluster then
    { f with dlvSeq := f.sendSeq, packets := [], waiting := [] }
  else f

/-- `RESET_SWEEP_END`: the sweep has returned every allowance, and the cores go back into service (R372 steps 4 and 5). -/
def execResetSweepEnd (cluster : Nat) (s : State) : Host.Outcome State Fault Refusal :=
  if s.fw.resets.any fun r => r.1 == cluster then .next s
  else
    .next (((clusterCores cluster).foldl (fun s n =>
      if (s.coreAt n).inReset then s.modCoreAt n fun c => c.afterReset (s.trowelOf n) else s)
      (if (clusterCores cluster).any fun n => (s.coreAt n).inReset then { s with flows := s.flows.map (Flow.sweepAcks cluster) } else s)).retireCores)

/-! Firmware images (R376 to R378). -/

/-- Bytes i to i + n - 1 of an image as a little-endian number. -/
def imgLe (image : List Byte) (i n : Nat) : Nat := bytesToNat ((image.drop i).take n)

/-- The body of an image. -/
def imgBody (image : List Byte) : List Byte := (image.drop 0x80).take (imgLe image 4 4)

/-- An image judged by R377: 0 valid, 2 invalid, 3 older than the anti-rollback counter and valid otherwise. -/
def imgStatus (rollback : Nat) (image : List Byte) : Nat :=
  let n := imgLe image 4 4
  let version := imgLe image 8 1
  let ok :=
    decide (0x80 + n ≤ image.length) && imgLe image 0 4 == 0x53574657 && n % 64 == 0 && decide (version < 64) && imgLe image 9 1 == 0xA1
      && imgLe image 10 6 == 0 && imgLe image 0x50 0x30 == 0
      && imgLe image 0x10 64 == (Config.shake256 (imgBody image)).toNat
      && Config.falconVerify Config.vendorDigest (image.take 0x80) (image.drop (0x80 + n))
  if !ok then 2 else if version < rollback then 3 else 0

/-- The image in the firmware store judged at boot. -/
def Firmware.boot (f : Firmware) : Nat := if f.store.isEmpty then 0 else imgStatus f.rollback f.store

/-- The digest of the body of the image in the firmware store (R379). -/
def Firmware.digest (f : Firmware) : BitVec 512 := if f.store.isEmpty then Config.deliveredDigest else Config.shake256 (imgBody f.store)

/-- What a device reset does to dirty L2 sectors: each reaches DRAM or is lost (log entry 5). -/
def State.loseDirty (s : State) : State :=
  s.dirty.foldl (fun s e =>
    let (kept, s) := s.choose
    if kept then s else { s with mem := setRegion s.mem (128 * e.1) 128 e.2 }) s

/-- The device after a reset (R375): DRAM and skim contents stay, host memory is the host's own, and what fuses and the firmware store
hold stays; the firmware sets the send allowances anew (R354; log entry 23); every other state is that of `State.reset`. A boot that fails leaves the recovery state. -/
def State.restart (s : State) : State :=
  let s := s.loseDirty
  let status := s.fw.boot
  { State.reset with
    mem := s.mem, poison := s.poison, hostMem := s.hostMem, skim := s.skim, skimBad := s.skimBad
    nextId := s.nextId, agenda := s.agenda, free := s.free + 1, allowances := putAll 0 [] (Config.allowances s.free)
    cores := s.cores.filterMap fun e => if e.2.retired || e.2.retiring then some (e.1, { retired := true }) else none
    sectors := if s.fw.store.isEmpty then [] else
      (List.range 12).foldl (fun m k => put {} m k { image := (s.fw.digest ^^^ Config.deliveredDigest).toNat }) []
    fw := { store := s.fw.store, rollback := s.fw.rollback, recovery := status != 0 }
    mg := { status := status } }

/-- `DEVICE_RESET` (R375). -/
def execDeviceReset (s : State) : Host.Outcome State Fault Refusal := .next s.restart

/-- A sector's Trowel queue when its firmware switches: its requests are dropped, and the counts of their blocks return to 0 (R341,
R348). -/
def State.dropTrowel (s : State) (sector : Nat) : State :=
  let t := (s.sector sector).trowel.foldl (fun s r => s.modCoreAt r.core fun c =>
    { c with lcc := c.lcc.map (fun b => if b.addr = r.addr then { b with count := 0 } else b)
             trowelPending := c.trowelPending.filter fun x => x != (r.addr, r.cls) }) s
  t.modSector sector fun x => { x with trowel := [] }

/-- `SECTOR_FIRMWARE_SWITCH`: the sector whose turn it is runs the new image; the last one ends the activation (R378). Cluster resets that
waited for it go on (R383). -/
def execSectorFirmwareSwitch (sector : Nat) (s : State) : Host.Outcome State Fault Refusal :=
  match s.fw.switching with
  | [] => .next s
  | x :: rest =>
    if x ≠ sector then .next s
    else
      let due := s.fw.resets.filter fun r => r.1 / 12 == sector
      let t := (s.dropTrowel sector).modSector sector fun y => { y with image := (s.fw.digest ^^^ Config.deliveredDigest).toNat }
      let t := { t with fw := { t.fw with switching := rest, resets := t.fw.resets.filter fun r => r.1 / 12 != sector } }
      let t := due.foldl (fun t r => t.resetCluster r.1 r.2) t
      .next (if rest.isEmpty && t.mg.runs 2 then t.mgDone 0 else t)

/-! The management interface (R382, R383). -/

/-- `mg.id` (R382): the device, stepping 0xA1 and level 0x02. -/
def mgId : DWord := dw (0x0576 + 0xA1 * 2 ^ 16 + 0x02 * 2 ^ 24)

/-- What the host reads in the management window (R382): each register, `mg.cmd` with its status and busy bits; 0 where there is none. -/
def State.mgRead (s : State) (reg : Nat) : DWord :=
  if reg = 0x000 then mgId
  else if reg = 0x008 then dw (s.mg.cmd % 2 ^ 8 + s.mg.status % 2 ^ 8 * 2 ^ 8 + (if s.mg.busy then 2 ^ 16 else 0))
  else if reg = 0x010 ∨ reg = 0x018 ∨ reg = 0x020 ∨ reg = 0x028 then look 0 s.mg.arg ((reg - 0x010) / 8)
  else if reg = 0x040 then s.mg.evbase
  else if reg = 0x048 then s.mg.evsize
  else if reg = 0x050 then s.mg.evhead
  else if reg = 0x058 then s.mg.evtail
  else 0

/-- A write to the management window reaches it: it arrives on host link 0, whose order it keeps, so it stays behind that link's earlier writes
(R16, R382). -/
def State.mgOpen (s : State) : Bool := (s.ownWrites 576).isEmpty

/-- `EVENT_RING_CONFIG`: a write to `mg.evbase` or `mg.evsize` restarts the ring (R382). Bits that the register does not have ignore it
(R5). -/
def execEventRingConfig (size : Bool) (v : DWord) (s : State) : Host.Outcome State Fault Refusal :=
  let mg := { s.mg with evhead := 0, evtail := 0 }
  .next (if s.mgOpen then
      { s with mg := if size then { mg with evsize := dw (bits v 0 5) } else { mg with evbase := v &&& ~~~0xFFF } }
    else s)

/-- The codes that the device accepts (R375, R383). -/
def State.mgCodeOk (s : State) (code : Nat) : Bool := decide (1 ≤ code) && decide (code ≤ if s.fw.recovery then 2 else 9)

/-- `MG_REGISTER_WRITE`: a write to a management register. `mg.cmd` starts its command unless one runs; a code that no command has
completes at once (R382, R383). -/
def execMgRegisterWrite (reg : Nat) (v : DWord) (s : State) : Host.Outcome State Fault Refusal :=
  .next (
    if !s.mgOpen then s
    else if reg = 0x008 then
      if s.mg.busy then s
      else
        let code := bits v 0 8
        let t := { s with mg := { s.mg with cmd := code, busy := true } }
        if s.mgCodeOk code then t else t.mgDone 1
    else if reg = 0x010 ∨ reg = 0x018 ∨ reg = 0x020 ∨ reg = 0x028 then
      { s with mg := { s.mg with arg := put 0 s.mg.arg ((reg - 0x010) / 8) v } }
    else if reg = 0x058 then { s with mg := { s.mg with evtail := v } }
    else s)

/-- An argument register. -/
def Mg.argN (m : Mg) (k : Nat) : Nat := (look 0 m.arg k).toNat

/-- A management command runs while its code stands in `mg.cmd` with busy set. -/
def command (code : Nat) (s : State) (f : State → State) : Host.Outcome State Fault Refusal :=
  .next (if s.mg.runs code then f s else s)

/-- `STAGE_IMAGE` (R377, R383). -/
def execStageImage (s : State) : Host.Outcome State Fault Refusal :=
  command 1 s fun s =>
    let image := readBytes s.hostMem (s.mg.argN 0) (s.mg.argN 1)
    let status := imgStatus s.fw.rollback image
    (if status = 0 then { s with fw := { s.fw with staged := some image } } else s).mgDone status

/-- `ACTIVATE` (R378): the staged image is verified again and written to the store, and the sectors switch in turn; from the recovery
state the device starts again (R375). -/
def execActivate (s : State) : Host.Outcome State Fault Refusal :=
  command 2 s fun s =>
    if !s.fw.switching.isEmpty then s
    else
      match s.fw.staged with
      | none => s.mgDone 4
      | some image =>
        let status := imgStatus s.fw.rollback image
        if status ≠ 0 then s.mgDone status
        else
          let t := { s with fw := { s.fw with store := image, staged := none, rollback := imgLe image 8 1, switching := List.range 12 } }
          if s.fw.recovery then { t with fw := { t.fw with switching := [] } }.restart else t

/-- Little-endian cells of a wide value. -/
def digestCells (a : Nat) (d : BitVec 512) : List Host.Cell := leCells a 64 d.toNat

/-- The 72-byte bitmap of retired cores (R379). -/
def State.retiredMap (s : State) : Nat :=
  (s.cores.filter fun e => e.2.retired && decide (e.1 < 576)).foldl (fun n e => n + 2 ^ e.1) 0

/-- The 1,024 bytes of an attestation report at an address (R379, Table 2). -/
def State.report (s : State) (a nonce : Nat) : List Host.Cell :=
  cellsAt a (readBytes s.hostMem nonce 32)
    ++ digestCells (a + 0x20) Config.identityDigest
    ++ (List.range 12).flatMap (fun k => digestCells (a + 0x60 + 64 * k) (BitVec.ofNat 512 (s.sector k).image ^^^ Config.deliveredDigest))
    ++ leCells (a + 0x360) 8 (s.fw.rollback + 0xA1 * 2 ^ 8 + 0x02 * 2 ^ 16)
    ++ leCells (a + 0x368) 72 s.retiredMap
    ++ leCells (a + 0x3B0) 80 0

/-- `ATTEST` (R379): the report and its signature go to host memory. -/
def execAttest (s : State) : Host.Outcome State Fault Refusal :=
  command 3 s fun s =>
    let cells := s.report (s.mg.argN 1) (s.mg.argN 0)
    let sign := Config.falconSign (Config.shake256 (cells.map (·.2)))
    { s with hostMem := writeCells (writeCells s.hostMem cells) (cellsAt (s.mg.argN 2) sign) }.mgDone 0

/-- `RETRAIN_DRAM_CHANNEL` (R380): the command ends with the retraining; one channel retrains at a time. -/
def execRetrainDramChannel (s : State) : Host.Outcome State Fault Refusal :=
  command 4 s fun s =>
    if 576 ≤ s.mg.argN 0 then s.mgDone 1 else if s.retraining.isSome then s else { s with retraining := some (s.mg.argN 0) }

/-- `RETRAIN_LINK` (R352, R380): the link drains; the command ends when it is back. -/
def execRetrainLink (s : State) : Host.Outcome State Fault Refusal :=
  command 5 s fun s =>
    let l := (s.mg.argN 0, s.mg.argN 1)
    if linkCount l.1 ≤ l.2 then s.mgDone 1
    else if s.linksDraining.contains l || s.linksDown.contains l then s
    else { s with linksDraining := s.linksDraining ++ [l] }

/-- `RESET_CLUSTER` (R372, R383). -/
def execResetCluster (s : State) : Host.Outcome State Fault Refusal :=
  command 6 s fun s => if 144 ≤ s.mg.argN 0 then s.mgDone 1 else (s.resetCluster (s.mg.argN 0) 2).mgDone 0

/-- A core is retired, or retires once its crews have. -/
def Core.leaving (c : Core) : Bool := c.retired || c.retiring

/-- Request the retirement of cores (R380). -/
def State.retireAll (s : State) (cores : List Nat) : State :=
  (cores.foldl (fun s n => s.modCoreAt n fun c => if c.leaving then c else { c with retiring := true }) s).retireCores

/-- `RETIRE_CORE` (R380). -/
def execRetireCore (s : State) : Host.Outcome State Fault Refusal :=
  command 7 s fun s =>
    if 576 ≤ s.mg.argN 0 then s.mgDone 1
    else if (s.coreAt (s.mg.argN 0)).leaving then s.mgDone 5
    else (s.retireAll [s.mg.argN 0]).mgDone 0

/-- `RETIRE_CLUSTER`: each of its four cores; its slice stays (R380). -/
def execRetireCluster (s : State) : Host.Outcome State Fault Refusal :=
  command 8 s fun s =>
    if 144 ≤ s.mg.argN 0 then s.mgDone 1
    else if (clusterCores (s.mg.argN 0)).all fun n => (s.coreAt n).leaving then s.mgDone 5
    else (s.retireAll (clusterCores (s.mg.argN 0))).mgDone 0

/-- `SET_PEER_ROUTE` (R352, R383). -/
def execSetPeerRoute (s : State) : Host.Outcome State Fault Refusal :=
  command 9 s fun s =>
    let dev := s.mg.argN 0
    let port := s.mg.argN 1
    if dev < 64 ∧ (port < 12 ∨ port = 15) then
      { s with routes := put 0 s.routes dev (if port = 15 then 0 else port + 1) }.mgDone 0
    else s.mgDone 1

end Sys2Proof.Machine
end

