-- ==== Sys2Proof/Machine/ScalarInt.lean ====
section
/-! DEFINITION. The scalar integer instructions (R63 to R66). -/

namespace Sys2Proof.Machine

open Sys2Proof

/-- Leading zero bits, 0 to 64. -/
def leadingZeros (a : DWord) : Nat := if a = 0 then 64 else 63 - Nat.log2 a.toNat

/-- Trailing zero bits of the bits from `k` up, `n` of them left. -/
def trailingFrom (a : DWord) : Nat → Nat → Nat
  | 0, _ => 0
  | n + 1, k => if a.getLsbD k then 0 else 1 + trailingFrom a n (k + 1)

/-- Trailing zero bits, 0 to 64. -/
def trailingZeros (a : DWord) : Nat := trailingFrom a 64 0

/-- Set bits. -/
def setBits (a : DWord) : Nat := (List.range 64).countP a.getLsbD

/-- An operation of two registers, with the value it writes to sd (R63). -/
def binary (f : DWord → DWord → DWord) (d a b : BitVec 6) (s : State) : Host.Outcome State Fault Refusal :=
  finishSeq 4 s (.ok (s.setS d (f (s.getS a) (s.getS b))))

/-- An operation of one register (R63). -/
def unary (f : DWord → DWord) (d a : BitVec 6) (s : State) : Host.Outcome State Fault Refusal :=
  finishSeq 4 s (.ok (s.setS d (f (s.getS a))))

/-- A division: IDIV0 for b = 0, and sd unwritten (R64). -/
def division (f : DWord → DWord → DWord) (d a b : BitVec 6) (s : State) : Host.Outcome State Fault Refusal :=
  finishSeq 4 s (do
    need (s.getS b != 0) .idiv0 0
    .ok (s.setS d (f (s.getS a) (s.getS b))))

/-- An operation of a register and an immediate (R65). -/
def immediate (f : DWord → DWord → DWord) (d a : BitVec 6) (i : Imm) (s : State) : Host.Outcome State Fault Refusal :=
  finishSeq (immLen i) s (.ok (s.setS d (f (s.getS a) (immVal i))))

/-- A shift by a constant (R66). -/
def shiftImm (f : DWord → BitVec 6 → DWord) (d a n : BitVec 6) (s : State) : Host.Outcome State Fault Refusal :=
  finishSeq 4 s (.ok (s.setS d (f (s.getS a) n)))

/-- `add` (R63, Table 1). -/
def execAdd (d a b : BitVec 6) (s : State) : Host.Outcome State Fault Refusal :=
  binary (fun a b => a + b) d a b s

/-- `sub` (R63, Table 1). -/
def execSub (d a b : BitVec 6) (s : State) : Host.Outcome State Fault Refusal :=
  binary (fun a b => a - b) d a b s

/-- `and` (R63, Table 1). -/
def execAnd (d a b : BitVec 6) (s : State) : Host.Outcome State Fault Refusal :=
  binary (fun a b => a &&& b) d a b s

/-- `or` (R63, Table 1). -/
def execOr (d a b : BitVec 6) (s : State) : Host.Outcome State Fault Refusal :=
  binary (fun a b => a ||| b) d a b s

/-- `xor` (R63, Table 1). -/
def execXor (d a b : BitVec 6) (s : State) : Host.Outcome State Fault Refusal :=
  binary (fun a b => a ^^^ b) d a b s

/-- `andn` (R63, Table 1). -/
def execAndn (d a b : BitVec 6) (s : State) : Host.Outcome State Fault Refusal :=
  binary (fun a b => a &&& ~~~b) d a b s

/-- `shl` (R63, Table 1). -/
def execShl (d a b : BitVec 6) (s : State) : Host.Outcome State Fault Refusal :=
  binary (fun a b => a <<< (b.toNat % 64)) d a b s

/-- `shr` (R63, Table 1). -/
def execShr (d a b : BitVec 6) (s : State) : Host.Outcome State Fault Refusal :=
  binary (fun a b => a >>> (b.toNat % 64)) d a b s

/-- `sra` (R63, Table 1). -/
def execSra (d a b : BitVec 6) (s : State) : Host.Outcome State Fault Refusal :=
  binary (fun a b => a.sshiftRight (b.toNat % 64)) d a b s

/-- `mul` (R63, Table 1). -/
def execMul (d a b : BitVec 6) (s : State) : Host.Outcome State Fault Refusal :=
  binary (fun a b => a * b) d a b s

/-- `mulh` (R63, Table 1). -/
def execMulh (d a b : BitVec 6) (s : State) : Host.Outcome State Fault Refusal :=
  binary (fun a b => BitVec.ofInt 64 (a.toInt * b.toInt / 2 ^ 64)) d a b s

/-- `mulhn` (R63, Table 1). -/
def execMulhn (d a b : BitVec 6) (s : State) : Host.Outcome State Fault Refusal :=
  binary (fun a b => dw (a.toNat * b.toNat / 2 ^ 64)) d a b s

/-- `min` (R63, Table 1). -/
def execMin (d a b : BitVec 6) (s : State) : Host.Outcome State Fault Refusal :=
  binary (fun a b => if a.slt b then a else b) d a b s

/-- `max` (R63, Table 1). -/
def execMax (d a b : BitVec 6) (s : State) : Host.Outcome State Fault Refusal :=
  binary (fun a b => if a.slt b then b else a) d a b s

/-- `minn` (R63, Table 1). -/
def execMinn (d a b : BitVec 6) (s : State) : Host.Outcome State Fault Refusal :=
  binary (fun a b => if a.ult b then a else b) d a b s

/-- `maxn` (R63, Table 1). -/
def execMaxn (d a b : BitVec 6) (s : State) : Host.Outcome State Fault Refusal :=
  binary (fun a b => if a.ult b then b else a) d a b s

/-- `slt` (R63, Table 1). -/
def execSlt (d a b : BitVec 6) (s : State) : Host.Outcome State Fault Refusal :=
  binary (fun a b => if a.slt b then 1 else 0) d a b s

/-- `sltn` (R63, Table 1). -/
def execSltn (d a b : BitVec 6) (s : State) : Host.Outcome State Fault Refusal :=
  binary (fun a b => if a.ult b then 1 else 0) d a b s

/-- `seq` (R63, Table 1). -/
def execSeq (d a b : BitVec 6) (s : State) : Host.Outcome State Fault Refusal :=
  binary (fun a b => if a = b then 1 else 0) d a b s

/-- `addw` (R63, Table 1). -/
def execAddw (d a b : BitVec 6) (s : State) : Host.Outcome State Fault Refusal :=
  binary (fun a b => (a.extractLsb' 0 32 + b.extractLsb' 0 32).signExtend 64) d a b s

/-- `subw` (R63, Table 1). -/
def execSubw (d a b : BitVec 6) (s : State) : Host.Outcome State Fault Refusal :=
  binary (fun a b => (a.extractLsb' 0 32 - b.extractLsb' 0 32).signExtend 64) d a b s

/-- `clz` (R63, Table 1). -/
def execClz (d a : BitVec 6) (s : State) : Host.Outcome State Fault Refusal :=
  unary (fun a => dw (leadingZeros a)) d a s

/-- `ctz` (R63, Table 1). -/
def execCtz (d a : BitVec 6) (s : State) : Host.Outcome State Fault Refusal :=
  unary (fun a => dw (trailingZeros a)) d a s

/-- `pop` (R63, Table 1). -/
def execPop (d a : BitVec 6) (s : State) : Host.Outcome State Fault Refusal :=
  unary (fun a => dw (setBits a)) d a s

/-- `div` (R63, R64). -/
def execDiv (d a b : BitVec 6) (s : State) : Host.Outcome State Fault Refusal :=
  division (fun a b => BitVec.ofInt 64 (a.toInt.tdiv b.toInt)) d a b s

/-- `divn` (R63, R64). -/
def execDivn (d a b : BitVec 6) (s : State) : Host.Outcome State Fault Refusal :=
  division (fun a b => a / b) d a b s

/-- `rem` (R63, R64). -/
def execRem (d a b : BitVec 6) (s : State) : Host.Outcome State Fault Refusal :=
  division (fun a b => BitVec.ofInt 64 (a.toInt.tmod b.toInt)) d a b s

/-- `remn` (R63, R64). -/
def execRemn (d a b : BitVec 6) (s : State) : Host.Outcome State Fault Refusal :=
  division (fun a b => a % b) d a b s

/-- `addi` (R65). -/
def execAddi (d a : BitVec 6) (i : Imm) (s : State) : Host.Outcome State Fault Refusal :=
  immediate (fun a i => a + i) d a i s

/-- `andi` (R65). -/
def execAndi (d a : BitVec 6) (i : Imm) (s : State) : Host.Outcome State Fault Refusal :=
  immediate (fun a i => a &&& i) d a i s

/-- `ori` (R65). -/
def execOri (d a : BitVec 6) (i : Imm) (s : State) : Host.Outcome State Fault Refusal :=
  immediate (fun a i => a ||| i) d a i s

/-- `xori` (R65). -/
def execXori (d a : BitVec 6) (i : Imm) (s : State) : Host.Outcome State Fault Refusal :=
  immediate (fun a i => a ^^^ i) d a i s

/-- `slti` (R65). -/
def execSlti (d a : BitVec 6) (i : Imm) (s : State) : Host.Outcome State Fault Refusal :=
  immediate (fun a i => if a.slt i then 1 else 0) d a i s

/-- `sltni` (R65). -/
def execSltni (d a : BitVec 6) (i : Imm) (s : State) : Host.Outcome State Fault Refusal :=
  immediate (fun a i => if a.ult i then 1 else 0) d a i s

/-- `muli` (R65). -/
def execMuli (d a : BitVec 6) (i : Imm) (s : State) : Host.Outcome State Fault Refusal :=
  immediate (fun a i => a * i) d a i s

/-- `shli` (R65, R66). -/
def execShli (d a n : BitVec 6) (s : State) : Host.Outcome State Fault Refusal :=
  shiftImm (fun a n => a <<< n.toNat) d a n s

/-- `shri` (R65, R66). -/
def execShri (d a n : BitVec 6) (s : State) : Host.Outcome State Fault Refusal :=
  shiftImm (fun a n => a >>> n.toNat) d a n s

/-- `srai` (R65, R66). -/
def execSrai (d a n : BitVec 6) (s : State) : Host.Outcome State Fault Refusal :=
  shiftImm (fun a n => a.sshiftRight n.toNat) d a n s

/-- `pca`: the pc plus four times the immediate (R65). -/
def execPca (d : BitVec 6) (i : Imm) (s : State) : Host.Outcome State Fault Refusal :=
  finishSeq (immLen i) s (.ok (s.setS d (s.w.pc + 4 * immVal i)))

end Sys2Proof.Machine
end

