-- ==== Sys2Proof/Machine/LaneQueue.lean ====
section
/-! DEFINITION. The lane queue: enqueueing runs (R72 to R75, R337, R339), waiting instructions (R76 to R79), the start of a run
(R341 to R343), parks (R118), the end of a wave (R81), and the empty word and breakpoint of the grid (R317, R318). -/

namespace Sys2Proof.Machine

open Sys2Proof

/-! Lane blocks (R337 to R339, R345). -/

/-- 128 bytes as an image. -/
def imageOf (m : Memory) (a : Nat) : BitVec 1024 := BitVec.ofNat 1024 (readLe m a 128)

/-- The traces without those of a block (R345). -/
def dropTraces (t : List Trace) (a : Nat) : List Trace := t.filter fun x => x.addr != a

/-- Added to the class of a request that Trowel has declined: none is sent again until the block is filled again (R341). -/
def declined : Nat := 4

/-- A core after the block at a device address has been read with this image: filled, verified, or replaced (R337, R339, R345). -/
def Core.putBlock (c : Core) (a : Nat) (image : BitVec 1024) : Core :=
  match c.lcc.find? fun b => b.addr == a with
  | some b =>
    if b.image = image then { c with lcc := c.lcc.map fun x => if x.addr = a then { x with verified := true } else x }
    else
      { c with lcc := c.lcc.map fun x => if x.addr = a then { x with image := image, verified := true, count := 0 } else x
               slalom := dropTraces c.slalom a
               trowelPending := c.trowelPending.filter fun x => x.1 != a || x.2 < declined }
  | none =>
    let lcc := addWay (fun b => b.addr / 128 % 64) 8 { addr := a, image := image, verified := true, count := 0 } c.lcc
    { c with lcc := lcc
             slalom := (dropTraces c.slalom a).filter fun x => lcc.any fun b => b.addr == x.addr
             trowelPending := c.trowelPending.filter fun x => x.1 != a || x.2 < declined }

/-- The block at a virtual address as a run would take it: its device address where it is cached, and its image; none where it
cannot be fetched (R337). -/
def State.block (s : State) (va : Nat) : Option (Option Nat × BitVec 1024) :=
  match s.translate true va with
  | none => none
  | some e =>
    let l := e.at va
    if !e.permits .fetch s.w.sys then none
    else
      match l.kind with
      | .peer => none
      | .host => some (none, imageOf s.hostMem l.addr)
      | .device =>
        match s.core.lcc.find? fun b => b.addr == l.addr && b.verified with
        | some b => some (some l.addr, b.image)
        | none => if s.poison.contains (l.addr / 128) then none else some (some l.addr, imageOf s.mem l.addr)

/-- A block at this place would come from its home: the lane code cache does not hold it verified. -/
def State.blockMiss (s : State) (l : Loc) : Bool := l.kind == .device && !(s.core.lcc.any fun b => b.addr == l.addr && b.verified)

/-- The fetch of a block waits: for its walk, for a fill in flight (R347), or for its line, which a write at its home holds (R358). -/
def State.blockWaits (s : State) (va : Nat) : Bool :=
  s.translateWaits s.w.core s.w.ctx true va
    || match s.codePage va with
      | some l => s.blockMiss l && (s.fillJoins 1 va || !s.missOpen s.w.core l)
      | none => false

/-- Append a run of a checked target, with what it captures (R73, R74). -/
def State.enqueueRun (s : State) (target : DWord) : State :=
  let va := target.toNat / 128 * 128
  match s.block va with
  | none => (s.touchTlb true va).modW fun w => { w with lq := w.lq ++ [.run (s.newRun target 0 (some (dw va)))] }
  | some (a, image) =>
    let t : State := match s.codePage va with
      | some l => if s.blockMiss l then s.missTrip s.w.core l else if l.kind == PageKind.host then s.atomTrip s.w.core l else s
      | none => s
    let t := t.touchTlb true va
    let t := match a with
      | some a => t.modCore fun c => c.putBlock a image
      | none => t
    t.modW fun w => { w with lq := w.lq ++ [.run { s.newRun target image none with place := a }] }

/-- R25: bits 6..4 zero and a slot below ten. -/
def targetOk (t : DWord) : Bool := bits t 4 3 == 0 && decide (bits t 0 4 < 10)

/-- The work of `lexec` (R74). -/
def lexecWork (s : State) (target : DWord) : Res State := do
  need (targetOk target) .misalignCode 0
  ready (s.w.lqCount < 32)
  ready (!s.blockWaits (target.toNat / 128 * 128))
  .ok (s.enqueueRun target)

/-- `lexec` (R74). -/
def execLexec (a : BitVec 6) (i : Imm) (s : State) : Host.Outcome State Fault Refusal :=
  finishSeq (immLen i) s (lexecWork s (s.getS a + immVal i))

/-- `lexec.c` (R75). -/
def execLexecC (c a : BitVec 6) (i : Imm) (s : State) : Host.Outcome State Fault Refusal :=
  finishSeq (immLen i) s (if s.getS c = 0 then .ok s else lexecWork s (s.getS a + immVal i))

/-! Waiting instructions (R76 to R79). -/

/-- A waiting instruction that writes a value of lane-side state. -/
def waiting (d : BitVec 6) (f : State → DWord) (s : State) : Host.Outcome State Fault Refusal :=
  finishSeq 4 s (do
    s.lanesWait
    .ok (s.setS d (f s)))

/-- Lanes with m0 and mK set. -/
def lanesSet (w : Wave) (k : BitVec 3) : Nat := (List.range w.lanes).countP fun L => w.mBit 0 L && w.mBit k.toNat L

/-- `lany` (R77). -/
def execLany (d : BitVec 6) (k : BitVec 3) (s : State) : Host.Outcome State Fault Refusal :=
  waiting d (fun s => if lanesSet s.w k = 0 then 0 else 1) s

/-- `lall` (R77). -/
def execLall (d : BitVec 6) (k : BitVec 3) (s : State) : Host.Outcome State Fault Refusal :=
  waiting d (fun s => if lanesSet s.w k = lanesSet s.w 0 then 1 else 0) s

/-- `lcount` (R77). -/
def execLcount (d : BitVec 6) (k : BitVec 3) (s : State) : Host.Outcome State Fault Refusal :=
  waiting d (fun s => dw (lanesSet s.w k)) s

/-- `lread` (R78). REGRANGE is judged before the wait of R76: no rule gives an order between the two (DESIGN CHOICE, log entry 97). -/
def execLread (d a : BitVec 6) (n : BitVec 9) (s : State) : Host.Outcome State Fault Refusal :=
  finishSeq 4 s (do
    need (decide (n.toNat < s.w.regs)) .regrange 0
    s.lanesWait
    let L := (s.getS a).toNat
    .ok (s.setS d (if L < s.w.lanes then (s.w.v32 n.toNat L).setWidth 64 else 0)))

/-- `lsync` (R79, R260). -/
def execLsync (s : State) : Host.Outcome State Fault Refusal :=
  finishSeq 4 s (do
    s.lanesWait
    scatterWait s
    .ok s)

/-! The start of a run (R341 to R343). -/

/-- Send a translation request: not while one is pending (R348); a full queue refuses it and the block's count returns to 0
(R341). -/
def State.trowelRequest (s : State) (a : Nat) (image : BitVec 1024) (cls : Nat) : State :=
  if s.core.trowelPending.contains (a, cls) || s.core.trowelPending.contains (a, cls + declined) then s
  else if 32 ≤ (s.sector (sectorOf s.w.core)).trowel.length then
    s.modCore fun c => { c with lcc := c.lcc.map fun b => if b.addr = a then { b with count := 0 } else b }
  else
    (s.modCore fun c => { c with trowelPending := (a, cls) :: c.trowelPending }).modSector (sectorOf s.w.core) fun x =>
      { x with trowel := x.trowel ++ [{ core := s.w.core, addr := a, image := image, cls := cls }] }

/-- `LANE_RUN_START`: the grid takes the head run and counts it in its block, where that is cached; the run may enter a trace at its first
slot, and asks for one where none serves its class (R341, R342, R343). -/
def execLaneRunStart (s : State) : Host.Outcome State Fault Refusal :=
  match s.w.lq with
  | .run r :: _ =>
    if r.started then .next s
    else
      let t := s.modW fun w => { w.setRun { r with started := true } with laneBlocked := false }
      match r.place, r.place.bind t.core.blockAt with
      | some a, some b =>
        let n := min 127 (b.count + 1)
        let cls := maskClass t.w b.image
        let t := t.modCore fun c => { c with lcc := c.lcc.map fun x => if x.addr = a then { x with count := n } else x }
        let none := (findTrace t.core a cls b.image).isNone
        let t := if b.count = 63 ∨ (64 ≤ b.count ∧ none) then t.trowelRequest a b.image cls else t
        .next (if some r.slot == Block.lowest r.image then t.swapPoint else t)
      | _, _ => .next t
  | _ => .next s

/-- `UNCHECKED_RESULT_RETURN`: result k returns; where it is the last that a park waits for, the park ends (R118, R120). -/
def execUncheckedResultReturn (k : Nat) (s : State) : Host.Outcome State Fault Refusal :=
  match s.w.unch[k]? with
  | none => .next s
  | some u =>
    if u.returned || u.held || !u.late.isEmpty then .next s
    else
      -- a younger result that has returned keeps its values
      let younger := (s.w.unch.drop (k + 1)).filter (·.returned) |>.flatMap fun x => x.writes.map (·.1)
      let es := u.writes.filter fun e => !younger.contains e.1
      let t := s.modW fun w =>
        { w with v := putAll 0 w.v es, unch := w.unch.set k { u with returned := true }, laneBlocked := false, blocked := false }
      match t.w.parked with
      | some (target, word) => .next (if t.w.unch.all (·.returned) then (t.parkDone target word).laneStepped else t)
      | none => .next t

/-- `RNG_COUNTER_RESET` at the head of the queue (R130). -/
def execRngCounterReset (s : State) : Host.Outcome State Fault Refusal :=
  match s.w.lq with
  | .cmd _ _ _ .rngReset :: rest => .next (s.modW fun w => { w with lq := rest, rng := [], laneBlocked := false, blocked := false })
  | _ => .next s

/-- A block that a fill has read at its home arrives: a poisoned one is dropped (R337, R339, R340). -/
def State.blockArrives (s : State) (core a : Nat) : State :=
  if s.poison.contains (a / 128) then s else s.modCoreAt core fun c => c.putBlock a (imageOf s.mem a)

/-- `LANE_BLOCK_FILL`: fill k of a core, a lane block that a hint has asked for and that the cache does not hold unverified, arrives (R337,
R340, R347). -/
def execLaneBlockFill (core k : Nat) (s : State) : Host.Outcome State Fault Refusal :=
  match (s.coreAt core).fills[k]? with
  | some ⟨_, _, _, 1, _, some l⟩ =>
    if (s.coreAt core).lcc.any (fun b => b.addr == l.addr && !b.verified) || !s.missOpen core l then .next s
    else .next (((s.missTrip core l).modCoreAt core fun c => { c with fills := c.fills.eraseIdx k }).blockArrives core l.addr)
  | _ => .next s

/-- The fill of a block that a hint has started. -/
def Fill.block (f : Fill) (a : Nat) : Bool := f.kind == 1 && (f.loc.map (·.addr)) == some a

/-- `UNVERIFIED_BLOCK_REFETCH`: the block that a hint has fetched is read again at its home and compared with the image that the cache holds
unverified (R339). A demand fetch makes the same comparison in its own step (`State.enqueueRun`). -/
def execUnverifiedBlockRefetch (core block : Nat) (s : State) : Host.Outcome State Fault Refusal :=
  let c := s.coreAt core
  match c.fills.find? fun f => f.block block with
  | some ⟨_, _, _, _, _, some l⟩ =>
    if c.lcc.any (fun b => b.addr == block && !b.verified) && s.missOpen core l then
      .next (((s.missTrip core l).modCoreAt core fun c => { c with fills := c.fills.filter fun f => !f.block block }).blockArrives core block)
    else .next s
  | _ => .next s

/-! The end of a wave (R81). -/

/-- `exit`: the scalar stream ends; in the system view the set-aside entries are discarded first (R81). -/
def execExit (s : State) : Host.Outcome State Fault Refusal :=
  if s.w.sys && !s.w.lanesDone then .next s.stall
  else .next (s.modW fun w =>
    { w with life := .exiting, aside := if w.sys then [] else w.aside, wdog := 0, qused := w.qused || s.repro, blocked := true })

/-- A wave whose context is free again: what its crew still needs of it stays (R81 step 5, R283). -/
def Wave.freed (w : Wave) : Wave :=
  { life := .exited, core := w.core, slot := w.slot, crew := w.crew, widx := w.widx, crewIdx := w.crewIdx, shape := w.shape
    ctx := w.ctx, arr := w.arr, qn := w.qn }

/-- The wave's scoreboard entries: COPY_FAULT where one is faulted or blocked, else a wait while any is left (R81 step 4, R241). -/
def exitEntries (s : State) : Res Unit :=
  match s.sbView.findSome? (s.w.waitVerdict s.sbView true) with
  | some t => s.copyFault t
  | none => ready s.sbView.isEmpty

/-- The steps of R81 that must have ended before the wave is freed. -/
def freeCheck (s : State) : Res Unit := do
  ready (s.w.life == .exiting && !s.core.inReset)
  s.lanesWait
  scatterWait s
  ready (!s.repro || (s.w.buf.isEmpty && s.w.ret.isNone && !s.w.qused))
  exitEntries s
  s.sweepWait fun _ => true
  ready (s.w.stq.isEmpty && s.w.trapping.isNone && s.w.pushWait.isNone)

/-- `WAVE_FREE`: the wave is freed once the steps of R81 have ended; in a reproducible context its quantum ends first. -/
def execWaveFree (s : State) : Host.Outcome State Fault Refusal :=
  match freeCheck s with
  | .ok _ => .next ((s.deliverCore s.w.core).modW Wave.freed)
  | .error (.trap c fva) => .next (s.raise 0 c fva 0 0)
  | .error (.engine c fva cpf cpr) => .next ((s.setEngine cpf cpr).raise 0 c fva 0 0)
  | .error (.chunk fva k) => .next ((s.dropSweep k).raise 0 .chunk fva 0 0)
  | .error _ =>
    .next (if s.w.life == .exiting && s.repro && s.w.lanesDone && s.w.qused then s.endQuantum else s)

/-! The grid's empty word and breakpoint. -/

/-- `lnop` (R317). -/
def execLnop (w : LaneWord) (s : State) : Host.Outcome State Fault Refusal := finishLane w.mark s (.ok s)

/-- `lbrk`: BREAK where some lane is active (R318). -/
def execLbrk (w : LaneWord) (s : State) : Host.Outcome State Fault Refusal :=
  finishLane w.mark s (do
    need (s.w.active w.guard).isEmpty .brk ((w.fld 0 13).setWidth 64)
    .ok s)

end Sys2Proof.Machine
end

