-- ==== Sys2Proof/Machine/System.lean ====
section
/-! DEFINITION. The system instructions and steps: calls and breakpoints (R316), the return from a trap (R314), TLB and cache
maintenance (R215, R321, R322), `fq` (R323), single-stepping (R324), the watchdog (R325), trap entry (R310), code prefetch and the
path fence of code (R336 to R340, R347), and Trowel (R341, R342). -/

namespace Sys2Proof.Machine

open Sys2Proof

/-! Calls, breakpoints and returns. -/

/-- In a reproducible context `sys` and `brk` count as one instruction (R316). -/
def State.countWord (s : State) : State :=
  s.modW fun w => { w with qcount := if s.repro then w.qcount + 1 else w.qcount, qused := w.qused || s.repro }

/-- `sys` (R316). -/
def execSys (i : BitVec 13) (s : State) : Host.Outcome State Fault Refusal :=
  .next (s.countWord.raise 0 .syscall (i.setWidth 64) 0 0)

/-- `brk` (R316). -/
def execBrk (i : BitVec 13) (s : State) : Host.Outcome State Fault Refusal :=
  .next (s.countWord.raise 0 .brk (i.setWidth 64) 0 0)

/-- The set-aside entries with which the lane stream resumes (R314), or the failed check of R25. -/
def resumeEntries (w : Wave) : Res (List Entry) :=
  match w.aside with
  | [] => .ok []
  | e :: rest =>
    if w.drop then .ok rest
    else
      match e with
      | .run r =>
        if w.elpc = 0 then .ok (e :: rest)
        else do
          need (targetOk w.elpc) .misalignCode 0
          let slot := bits w.elpc 0 4
          -- a `qskip` under way goes on in its own slot alone
          let r := { r with slot := slot, ran := true, traced := false, skip := if slot = r.slot then r.skip else none }
          match Block.highest r.image with
          | some h => .ok (if h < slot then rest else .run r :: rest)
          | none => .ok (.run r :: rest)
      | _ => .ok (e :: rest)

/-- What a word that a trap has abandoned had done, an arrival or a claim, is kept for that word alone: it goes where the wave resumes
elsewhere (R283, R310, R325). -/
def Wave.resumeAt (w : Wave) (pc : DWord) : Wave :=
  { w with pc := pc, jumped := true, barAt := w.barAt.filter fun x => x.1 == pc, pushAt := w.pushAt.filter fun x => x.pc == pc }

/-- The quantum where `eret` resumes (R294, R295, R314; log entry 108): the words set aside stand behind the handler's, then what had issued ahead of
the trap's place, and the end that the scalar stream had reached; where they are more than a quantum takes, the count ends it first. -/
def Wave.resumeQuantum (w : Wave) (es : List Entry) : Wave :=
  { w with lq := es.map (Entry.behind w.qcount), qcount := w.qcount + w.qahead, qahead := 0, qended := w.qended || w.qheld
           qheld := false }.overrun

/-- `eret` (R314). The armed single step starts here (R324). -/
def execEret (s : State) : Host.Outcome State Fault Refusal :=
  match (do sysOnly s; s.lanesWait; resumeEntries s.w) with
  | .ok es =>
    .next (s.countWord.modW fun w =>
      { (w.resumeQuantum es).resumeAt (if w.kind = 2 then w.rpc else w.epc) with
        drop := false, sys := false, aside := [], wdog := 0, blocked := false, laneBlocked := false, stepWait := false
        stepping := w.stepArmed }.retryStreams)
  | .error (.trap c fva) => .next (s.raise 0 c fva 0 0)
  | .error (.engine c fva cpf cpr) => .next ((s.setEngine cpf cpr).raise 0 c fva 0 0)
  | .error (.chunk fva k) => .next ((s.dropSweep k).raise 0 .chunk fva 0 0)
  | .error _ => .next s.stall

/-- `step` (R324). -/
def execStep (s : State) : Host.Outcome State Fault Refusal :=
  finishSeq 4 s (do
    sysOnly s
    .ok (s.modW fun w => { w with stepArmed := true }))

/-- `fq` (R323). -/
def execFq (d : BitVec 6) (i : BitVec 13) (s : State) : Host.Outcome State Fault Refusal :=
  finishSeq 4 s (do
    need (decide (i.toNat < 8)) .illegal 0
    .ok (s.setS d (s.row.leaf i.toNat)))

/-- `TRAP_ENTRY`: a trap that has waited for the wave's dot-path work and held results enters (R310). -/
def execTrapEntry (s : State) : Host.Outcome State Fault Refusal :=
  match s.w.trapping with
  | some x => .next (if s.w.trapBusy then s else s.enterTrap x.kind x.cause x.fva x.place x.word x.vec)
  | none => .next s

/-- The watchdog's count has reached the limit under which it began (R309, R325). -/
def State.watchdogDue (s : State) : Bool :=
  decide (0 < s.w.wdog) && decide (s.w.wdogLim * 4096 ≤ s.w.wdog) && (s.w.life == .running || s.w.life == .exiting)
    && s.w.trapping.isNone

/-- A free number of cycles passes for a wave that retires nothing. In the user view they count toward the watchdog's limit, unless that
is 0 (R325); in the system view a free choice says whether they do (R313; log entry 43). -/
def State.passTime (s : State) : State :=
  let (n, t) := s.passCycles
  let (counts, t) := if t.w.sys then t.choose else (true, t)
  let limit := if t.w.wdog = 0 then bits t.row.wdog 0 32 else t.w.wdogLim
  if counts && limit != 0 then t.modW fun w => { w with wdog := w.wdog + n, wdogLim := limit } else t

/-- `WATCHDOG` (R325): time passes, and the limit is taken where it is reached. -/
def execWatchdog (s : State) : Host.Outcome State Fault Refusal :=
  let s := s.passTime
  .next (if s.watchdogDue then s.raise 0 .watchdog (dw s.w.wdogLim) 0 0 else s)

/-! TLB maintenance (R215, R321). -/

/-- Which translations an invalidation covers: every one, a context's, or those of some pages of a context. -/
inductive Cover where
  | all
  | ctx (c : Nat)
  | pages (c : Nat) (es : List TlbEntry)
  deriving DecidableEq, Repr

/-- Every translation that a TLB of the device holds, or that a sector has given since an invalidation last covered it: a page that the tables no
longer map may still have dirty sectors, copies and pins (R215). -/
def State.allTlbs (s : State) : List TlbEntry :=
  s.cores.flatMap (fun c => c.2.dtlb ++ c.2.ctlb) ++ s.sectors.flatMap fun x => x.2.tlb ++ x.2.seen

/-- Every translation that the tables below a table give for the addresses from `va` up: only entries with a byte set can be valid. -/
def tableLeaves (mem : Memory) (ctx : Nat) : List (Nat × Nat) → Nat → Nat → List TlbEntry
  | [], _, _ => []
  | (lo, n) :: rest, table, va =>
    (nub ((region mem table (8 * 2 ^ n)).map fun c => (c.1 - table) / 8)).flatMap fun i =>
      let a := va + i * 2 ^ lo
      let e := readLe mem (table + 8 * i) 8
      if nbits e 0 2 = 3 then (leafOf e lo ctx a).toList
      else if nbits e 0 2 = 1 then
        match rest with
        | [] => []
        | (_, n') :: _ =>
          let next := nbits e 8 40 * 2 ^ 8
          if nbits e 2 6 = 0 ∧ nbits e 48 16 = 0 ∧ next % (8 * 2 ^ n') = 0 then tableLeaves mem ctx rest next a else []
      else []

/-- Every translation of a context: those that a TLB holds, and those that its tables give now (R319). -/
def State.ctxPages (s : State) (ctx : Nat) : List TlbEntry :=
  let root := (s.rowAt ctx).root
  (s.allTlbs.filter fun e => e.ctx == ctx)
    ++ (if root.getLsbD 0 then tableLeaves s.mem ctx levels (nbits root.toNat 23 25 * 2 ^ 23) 0 else []).map fun e =>
      e.withPasid (nbits (s.rowAt ctx).pr.toNat 0 20)

/-- The TLB entry is invalidated. -/
def Cover.entry (k : Cover) (e : TlbEntry) : Bool :=
  match k with
  | .all => true
  | .ctx c => e.ctx == c
  | .pages c es => e.ctx == c && es.any fun x => decide (e.va < x.va + x.size) && decide (x.va < e.va + e.size)

/-- The context is covered: pins charged to it go. -/
def Cover.ctxIn (k : Cover) (c : Nat) : Bool :=
  match k with
  | .all => true
  | .ctx c' => c == c'
  | .pages c' _ => c == c'

/-- The place lies on a page that one of the entries maps. -/
def onPages (es : List TlbEntry) (l : Loc) : Bool :=
  es.any fun e => e.loc.sameSpace l && decide (e.loc.addr ≤ l.addr) && decide (l.addr < e.loc.addr + e.size)

/-- The pages that an invalidation covers, none for every page of every context. -/
def State.covered (s : State) (k : Cover) : Option (List TlbEntry) :=
  match k with
  | .all => none
  | .ctx c => some (s.ctxPages c)
  | .pages _ es => some es

/-- A device line lies on a covered page. -/
def lineCovered (pages : Option (List TlbEntry)) (line : Nat) : Bool :=
  match pages with
  | none => true
  | some es => onPages es { kind := .device, addr := 512 * line, stripe := 0, home := 0, rm := false }

/-- An access of a wave through a covered translation. -/
def Cover.holds (k : Cover) (c : Nat) (l : Loc) : Bool :=
  match k with
  | .all => true
  | .ctx c' => c == c'
  | .pages c' es => c == c' && onPages es l

/-- A descriptor load or store that still has to be made (R137). -/
def Entry.place : Entry → Option Loc
  | .cmd _ _ _ (.dLd _ _ l) => some l
  | .cmd _ _ _ (.dSt _ l) => some l
  | _ => none

/-- The line lies on no page that the device has translated since an invalidation covered it: what names the page of such a line is not known, so an
invalidation writes its dirty sectors back and drops its copies too, as a home and a slice may at any time (R215, R322, R356; log entry 109). -/
def State.stray (s : State) (line : Nat) : Bool :=
  !onPages s.allTlbs { kind := .device, addr := 512 * line, stripe := 0, home := 0, rm := false }

/-- The dirty sectors and copies of the line go with an invalidation. -/
def State.lineGoes (s : State) (pages : Option (List TlbEntry)) (line : Nat) : Bool := lineCovered pages line || s.stray line

/-- Every access through a covered translation that an invalidation waits for has been made (R137, R215 step 4), no copy of a covered line is on
its way to a slice (R215 step 3, R359), and no write holds one whose copies go (R358). -/
def State.coverIdle (s : State) (k : Cover) : Bool :=
  let pages := s.covered k
  (s.waveIds.all fun n =>
    let w := s.wave n
    w.stq.all (fun e => !k.holds w.ctx e.loc)
      && (w.lq ++ w.aside).all (fun e => (e.place.map fun l => !k.holds w.ctx l).getD true)
      && (s.coreAt w.core).inflight.all fun e => e.wave != n || !k.holds w.ctx e.loc)
    && s.installs.all (fun i => !s.lineGoes pages i.line)
    && s.copies.all fun c => !s.lineGoes pages c.2 || s.lineFree c.2

/-- Steps 1 to 3 of R215 for the pages covered, and the invalidation itself. -/
def State.invalidateTlbs (s : State) (k : Cover) : State :=
  let pages := s.covered k
  let pins := s.pins.filter fun e => k.ctxIn (e.2 / 1024 - 1) && (lineCovered pages e.1 || !(k matches .pages _ _))
  let s := s.unpin (pins.map (·.1))
  let lines := nub ((s.copies.map (·.2)).filter (s.lineGoes pages))
  let s := lines.foldl State.invalidate { s with dirty := s.dirty.filter fun e => !s.lineGoes pages (e.1 / 4) }
  let keep (t : List TlbEntry) : List TlbEntry := t.filter fun e => !k.entry e
  let s := (s.cores.map (·.1)).foldl (fun s n => s.modCoreAt n fun c =>
    { c with dtlb := keep c.dtlb, ctlb := keep c.ctlb
             fills := c.fills.filter fun f => f.loc.isSome || !k.ctxIn f.ctx }) s
  (s.sectors.map (·.1)).foldl (fun s n => s.modSector n fun x => { x with tlb := keep x.tlb, seen := keep x.seen }) s

/-- A TLB instruction: a full fence of system scope, then the invalidation (R321). -/
def tlbOp (k : State → Cover) (s : State) : Host.Outcome State Fault Refusal :=
  finishSeq 4 s (do
    sysOnly s
    s.lanesWait
    scatterWait s
    releaseWait s
    fullWait s
    ready (s.coverIdle (k s))
    .ok ((s.release 4).freshen.invalidateTlbs (k s)))

/-- `tlb.all` (R321). -/
def execTlbAll (s : State) : Host.Outcome State Fault Refusal := tlbOp (fun _ => .all) s

/-- `tlb.va` (R321). -/
def execTlbVa (a : BitVec 6) (s : State) : Host.Outcome State Fault Refusal :=
  tlbOp (fun s =>
    let va := (s.getS a).toNat
    let here (e : TlbEntry) : Bool := e.ctx == s.w.ctx && decide (e.va ≤ va) && decide (va < e.va + e.size)
    .pages s.w.ctx (s.allTlbs.filter here ++ (if va < 2 ^ 52 then (s.walk s.w.ctx va).toList else []))) s

/-- `tlb.ctx` (R321). -/
def execTlbCtx (a : BitVec 6) (s : State) : Host.Outcome State Fault Refusal :=
  tlbOp (fun s => .ctx (bits (s.getS a) 0 32)) s

/-! Cache maintenance (R322). -/

/-- The device lines that overlap a virtual range of the wave's context. -/
def State.rangeLines (s : State) (va len : Nat) : List Nat :=
  if len = 0 then []
  else
    nub ((List.range ((va + len - 1) / 512 + 1 - va / 512)).filterMap fun i =>
      match s.translate false ((va / 512 + i) * 512) with
      | some e =>
        let l := e.at ((va / 512 + i) * 512)
        if l.kind = .device then some (l.addr / 512) else none
      | none => none)

/-- The translation of some line of a range has to wait for a walk (R347, R358). -/
def State.rangeWaits (s : State) (va len : Nat) : Bool :=
  decide (0 < len) && (List.range ((va + len - 1) / 512 + 1 - va / 512)).any fun i =>
    s.translateWaits s.w.core s.w.ctx false ((va / 512 + i) * 512)

/-- No store of the wave to the lines is on its way to its home. -/
def State.linesIdle (s : State) (lines : List Nat) : Bool :=
  (s.w.stq ++ s.core.inflight.filter fun e => e.wave == s.wid).all fun e =>
    e.loc.kind != .device || e.cells.all fun c => !lines.contains (c.1 / 512)

/-- The dirty sectors of a line are written to DRAM. -/
def State.writeBack (s : State) (line : Nat) : State := { s with dirty := s.dirty.filter fun e => e.1 / 4 != line }

/-- Discard one dirty sector: DRAM's bytes stand again, but where the home had already written it back (log entry 5); and whether it was
discarded. -/
def State.discardSector (s : State) (k : Nat) (old : Memory) : State × Bool :=
  let (kept, s) := s.choose
  if kept then ({ s with dirty := drop s.dirty k }, false)
  else ({ s with mem := setRegion s.mem (128 * k) 128 old, dirty := drop s.dirty k }, true)

/-- Discard the dirty sectors of a line; and whether any was discarded. -/
def State.discardSectors (s : State) : List (Nat × Memory) → State × Bool
  | [] => (s, false)
  | (k, old) :: r =>
    let (t, a) := s.discardSector k old
    let (t, b) := State.discardSectors t r
    (t, a || b)

/-- Discard a line with its copies and the issuing core's L1 copy; a line whose dirty sectors go takes a new stamp (R322, R364). A pinned
line is written back. -/
def State.discardLine (s : State) (line : Nat) : State :=
  if (look? s.pins line).isSome then s.writeBack line
  else
    let (t, gone) := s.discardSectors (s.dirty.filter fun e => e.1 / 4 == line)
    let t := if gone then { t with stamps := put 0 t.stamps line (look 0 t.stamps line + 1) } else t
    ((t.invalidate line).modCore fun c => { c with l1 := c.l1.filter fun e => e.1 / 4 != line })

/-- The TLBs after a cache instruction has translated the lines of its range. -/
def State.touchLines (s : State) (va len : Nat) : State :=
  if len = 0 then s
  else (List.range ((va + len - 1) / 512 + 1 - va / 512)).foldl (fun s i => s.touchTlb false ((va / 512 + i) * 512)) s

/-- A cache instruction over the lines of its range (R322). -/
def cacheOp (priv : Bool) (f : State → Nat → State) (a b : BitVec 6) (s : State) : Host.Outcome State Fault Refusal :=
  finishSeq 4 s (do
    need (!priv || s.w.sys) .priv 0
    ready (!s.rangeWaits (s.getS a).toNat (bits (s.getS b) 0 32))
    let lines := s.rangeLines (s.getS a).toNat (bits (s.getS b) 0 32)
    ready (s.linesIdle lines && lines.all fun l => s.lineFree l)
    .ok (lines.foldl f (s.touchLines (s.getS a).toNat (bits (s.getS b) 0 32))))

/-- `cache.wb` (R322). -/
def execCacheWb (a b : BitVec 6) (s : State) : Host.Outcome State Fault Refusal := cacheOp false State.writeBack a b s

/-- `cache.inv` (R322). -/
def execCacheInv (a b : BitVec 6) (s : State) : Host.Outcome State Fault Refusal := cacheOp true State.discardLine a b s

/-- Write a line back and discard it. A sector that was dirty until this instruction has written it back is discarded with the line, and the
discard counts as one write; whether one still was, the home having perhaps written it back before, is a free choice (R322, R364; log
entries 5 and 70). -/
def State.flushLine (s : State) (line : Nat) : State :=
  if (look? s.pins line).isSome then s.writeBack line
  else
    let (was, t) := if s.dirty.any (fun e => e.1 / 4 == line) then s.choose else (false, s)
    let t := (t.writeBack line).discardLine line
    if was then { t with stamps := put 0 t.stamps line (look 0 t.stamps line + 1) } else t

/-- `cache.wbinv` (R322). -/
def execCacheWbinv (a b : BitVec 6) (s : State) : Host.Outcome State Fault Refusal := cacheOp true State.flushLine a b s

/-! Code (R336 to R340, R347). -/

/-- Walks that the cores of a sector have in flight for hints, one for each page (R195, R347). -/
def State.walksOf (s : State) (sector : Nat) : Nat :=
  (s.cores.filter fun c => sectorOf c.1 == sector).foldl (fun n c =>
    n + (c.2.fills.foldl (fun (seen : List Fill) f =>
      if f.loc.isSome || seen.any (fun g => s.walksPage g f.ctx f.va) then seen else f :: seen) []).length) 0

/-- `ipref` (R340): a fill or a walk starts, unless the line is there or on its way (R347); the hint is dropped where the sector's 16 walkers
work and its queue of 64 is full (R195). -/
def execIpref (k : BitVec 1) (a : BitVec 6) (i : Imm) (s : State) : Host.Outcome State Fault Refusal :=
  let unit := (effAddr s a i).toNat / 128 * 128
  finishSeq (immLen i) s (.ok (
    if 2 ^ 52 ≤ unit then s
    else
      let f : Fill := { ctx := s.w.ctx, sys := s.w.sys, va := unit, kind := k.toNat, root := s.row.root, loc := none }
      let hit := match tlbFind s.core.ctlb s.w.ctx unit with
        | some e => some e
        | none => tlbFind (s.sector (sectorOf s.w.core)).tlb s.w.ctx unit
      let start (f : Fill) : State := s.modCore fun c => { c with fills := c.fills ++ [f] }
      match hit with
      | none =>
        match s.core.fills.find? fun g => s.walksPage g s.w.ctx unit with
        | some g => if s.core.fills.contains { f with root := g.root } then s else start { f with root := g.root }
        | none => if 80 ≤ s.walksOf (sectorOf s.w.core) then s else start f
      | some e =>
        if e.permits .fetch s.w.sys ∧ e.loc.kind = .device then
          let l := e.at unit
          if s.core.fills.any (fun g => g.kind == k.toNat && (g.loc.map (·.addr)) == some l.addr) then s
          else if k = 0 ∧ (s.core.codeLine (l.addr / 128)).isSome then s
          else if k = 1 ∧ (s.core.lcc.any fun b => b.addr == l.addr && b.verified) then s
          else start { f with loc := some l }
        else s))

/-- `PAGE_WALK_COMPLETE`: the walk of fill k of a core ends (R340, R347). An access that waits for it ends it in its own step (`State.touchTlb`,
`State.raise`). -/
def execPageWalkComplete (core k : Nat) (s : State) : Host.Outcome State Fault Refusal :=
  match (s.coreAt core).fills[k]? with
  | some f => .next (if f.loc.isSome || s.walkHeld f.root f.va then s else s.endWalk core f)
  | none => .next s

/-- `ICACHE_FILL`: fill k of a core, a scalar line, arrives once its home serves it; a poisoned line is dropped (R336, R340, R358). -/
def execIcacheFill (core k : Nat) (s : State) : Host.Outcome State Fault Refusal :=
  match (s.coreAt core).fills[k]? with
  | some ⟨_, _, _, 0, _, some l⟩ =>
    if !s.missOpen core l then .next s
    else
      let t := (s.missTrip core l).modCoreAt core fun c => { c with fills := c.fills.eraseIdx k }
      .next (if s.poison.contains (l.addr / 128) || ((t.coreAt core).codeLine (l.addr / 128)).isSome then t
        else t.modCoreAt core fun c => c.addCode (l.addr / 128) (region s.mem (l.addr / 128 * 128) 128))
  | _ => .next s

/-- `pfence.code` (R338). -/
def execPfenceCode (s : State) : Host.Outcome State Fault Refusal :=
  finishSeq 4 s (do
    if freshQuantum s then .ok () else .error .commit
    s.lanesWait
    writesWait s
    .ok (s.modCore fun c => { c with icache := [], lcc := c.lcc.map fun b => { b with verified := false } }))

/-! Trowel (R341, R342). -/

/-- `TROWEL_TRANSLATION_COMPLETE`: the request at the head of a sector's queue ends in a trace or is declined (R341). -/
def execTrowelTranslationComplete (sector : Nat) (no : Bool) (s : State) : Host.Outcome State Fault Refusal :=
  match if s.fw.recovery then [] else (s.sector sector).trowel with
  | [] => .next s
  | r :: rest =>
    let t := s.modSector sector fun x =>
      { x with trowel := rest, finished := if no then x.finished else x.finished ++ [r] }
    .next (t.modCoreAt r.core fun c =>
      let p := c.trowelPending.filter fun x => x != (r.addr, r.cls)
      { c with trowelPending := if no then (r.addr, r.cls + declined) :: p else p })

/-- `TRACE_INSTALL`: finished trace k of a sector reaches its core, which drops it where the block's image has changed (R342). -/
def execTraceInstall (sector k : Nat) (s : State) : Host.Outcome State Fault Refusal :=
  match (s.sector sector).finished[k]? with
  | none => .next s
  | some r =>
    let t := s.modSector sector fun x => { x with finished := x.finished.eraseIdx k }
    .next (if (s.coreAt r.core).lcc.any fun b => b.addr == r.addr && b.image == r.image then
        t.modCoreAt r.core fun c =>
          { c with slalom := addWay (fun x => x.addr / 128 % 32) 8 { addr := r.addr, cls := r.cls, image := r.image }
                               (c.slalom.filter fun x => !(x.addr == r.addr && x.cls == r.cls)) }
      else t)

end Sys2Proof.Machine
end

