-- ==== Sys2Proof/Machine/Dispatch.lean ====
section
/-! DEFINITION. The one dispatch: each instruction and each device step to its meaning. -/

namespace Sys2Proof.Machine

open Sys2Proof

/-- What one instruction or device step does. -/
def exec (i : Instr) (s : State) : Host.Outcome State Fault Refusal :=
  match i with
  | .add d a b => Sys2Proof.Machine.execAdd d a b s
  | .sub d a b => Sys2Proof.Machine.execSub d a b s
  | .and d a b => Sys2Proof.Machine.execAnd d a b s
  | .or d a b => Sys2Proof.Machine.execOr d a b s
  | .xor d a b => Sys2Proof.Machine.execXor d a b s
  | .andn d a b => Sys2Proof.Machine.execAndn d a b s
  | .shl d a b => Sys2Proof.Machine.execShl d a b s
  | .shr d a b => Sys2Proof.Machine.execShr d a b s
  | .sra d a b => Sys2Proof.Machine.execSra d a b s
  | .mul d a b => Sys2Proof.Machine.execMul d a b s
  | .mulh d a b => Sys2Proof.Machine.execMulh d a b s
  | .mulhn d a b => Sys2Proof.Machine.execMulhn d a b s
  | .div d a b => Sys2Proof.Machine.execDiv d a b s
  | .divn d a b => Sys2Proof.Machine.execDivn d a b s
  | .rem d a b => Sys2Proof.Machine.execRem d a b s
  | .remn d a b => Sys2Proof.Machine.execRemn d a b s
  | .min d a b => Sys2Proof.Machine.execMin d a b s
  | .max d a b => Sys2Proof.Machine.execMax d a b s
  | .minn d a b => Sys2Proof.Machine.execMinn d a b s
  | .maxn d a b => Sys2Proof.Machine.execMaxn d a b s
  | .slt d a b => Sys2Proof.Machine.execSlt d a b s
  | .sltn d a b => Sys2Proof.Machine.execSltn d a b s
  | .seq d a b => Sys2Proof.Machine.execSeq d a b s
  | .clz d a => Sys2Proof.Machine.execClz d a s
  | .ctz d a => Sys2Proof.Machine.execCtz d a s
  | .pop d a => Sys2Proof.Machine.execPop d a s
  | .addw d a b => Sys2Proof.Machine.execAddw d a b s
  | .subw d a b => Sys2Proof.Machine.execSubw d a b s
  | .addi d a im => Sys2Proof.Machine.execAddi d a im s
  | .andi d a im => Sys2Proof.Machine.execAndi d a im s
  | .ori d a im => Sys2Proof.Machine.execOri d a im s
  | .xori d a im => Sys2Proof.Machine.execXori d a im s
  | .shli d a n => Sys2Proof.Machine.execShli d a n s
  | .shri d a n => Sys2Proof.Machine.execShri d a n s
  | .srai d a n => Sys2Proof.Machine.execSrai d a n s
  | .slti d a im => Sys2Proof.Machine.execSlti d a im s
  | .sltni d a im => Sys2Proof.Machine.execSltni d a im s
  | .muli d a im => Sys2Proof.Machine.execMuli d a im s
  | .pca d im => Sys2Proof.Machine.execPca d im s
  | .beq a b o => Sys2Proof.Machine.execBeq a b o s
  | .bne a b o => Sys2Proof.Machine.execBne a b o s
  | .blt a b o => Sys2Proof.Machine.execBlt a b o s
  | .bge a b o => Sys2Proof.Machine.execBge a b o s
  | .bltn a b o => Sys2Proof.Machine.execBltn a b o s
  | .bgen a b o => Sys2Proof.Machine.execBgen a b o s
  | .j o => Sys2Proof.Machine.execJ o s
  | .call o => Sys2Proof.Machine.execCall o s
  | .jlr d a im => Sys2Proof.Machine.execJlr d a im s
  | .loop a o => Sys2Proof.Machine.execLoop a o s
  | .lexec a im => Sys2Proof.Machine.execLexec a im s
  | .lexecC c a im => Sys2Proof.Machine.execLexecC c a im s
  | .lany d k => Sys2Proof.Machine.execLany d k s
  | .lall d k => Sys2Proof.Machine.execLall d k s
  | .lcount d k => Sys2Proof.Machine.execLcount d k s
  | .lsync => Sys2Proof.Machine.execLsync s
  | .lread d a n => Sys2Proof.Machine.execLread d a n s
  | .exit => Sys2Proof.Machine.execExit s
  | .rdcyc d => Sys2Proof.Machine.execRdcyc d s
  | .csrr d c => Sys2Proof.Machine.execCsrr d c s
  | .csrw a c => Sys2Proof.Machine.execCsrw a c s
  | .scw d a t => Sys2Proof.Machine.execScw d a t s
  | .xcnt d k f => Sys2Proof.Machine.execXcnt d k f s
  | .xclr k f => Sys2Proof.Machine.execXclr k f s
  | .dLd n a im => Sys2Proof.Machine.execDLd n a im s
  | .dSt n a im => Sys2Proof.Machine.execDSt n a im s
  | .dMov n m => Sys2Proof.Machine.execDMov n m s
  | .dSet n a f => Sys2Proof.Machine.execDSet n a f s
  | .dGet d m f => Sys2Proof.Machine.execDGet d m f s
  | .accClr n => Sys2Proof.Machine.execAccClr n s
  | .accAnc n a => Sys2Proof.Machine.execAccAnc n a s
  | .ldb d a im => Sys2Proof.Machine.execLdb d a im s
  | .ldbn d a im => Sys2Proof.Machine.execLdbn d a im s
  | .ldh d a im => Sys2Proof.Machine.execLdh d a im s
  | .ldhn d a im => Sys2Proof.Machine.execLdhn d a im s
  | .ldw d a im => Sys2Proof.Machine.execLdw d a im s
  | .ldwn d a im => Sys2Proof.Machine.execLdwn d a im s
  | .ldd d a im => Sys2Proof.Machine.execLdd d a im s
  | .stb d a im => Sys2Proof.Machine.execStb d a im s
  | .sth d a im => Sys2Proof.Machine.execSth d a im s
  | .stw d a im => Sys2Proof.Machine.execStw d a im s
  | .std d a im => Sys2Proof.Machine.execStd d a im s
  | .atomAdd d a b w o => Sys2Proof.Machine.execAtomAdd d a b w o s
  | .atomAnd d a b w o => Sys2Proof.Machine.execAtomAnd d a b w o s
  | .atomOr d a b w o => Sys2Proof.Machine.execAtomOr d a b w o s
  | .atomXor d a b w o => Sys2Proof.Machine.execAtomXor d a b w o s
  | .atomMin d a b w o => Sys2Proof.Machine.execAtomMin d a b w o s
  | .atomMax d a b w o => Sys2Proof.Machine.execAtomMax d a b w o s
  | .atomMinn d a b w o => Sys2Proof.Machine.execAtomMinn d a b w o s
  | .atomMaxn d a b w o => Sys2Proof.Machine.execAtomMaxn d a b w o s
  | .atomSwap d a b w o => Sys2Proof.Machine.execAtomSwap d a b w o s
  | .atomCas d a b w o => Sys2Proof.Machine.execAtomCas d a b w o s
  | .ldv d a im => Sys2Proof.Machine.execLdv d a im s
  | .fence k x => Sys2Proof.Machine.execFence k x s
  | .pfence p => Sys2Proof.Machine.execPfence p s
  | .pinL2 d a => Sys2Proof.Machine.execPinL2 d a s
  | .unpinL2 a => Sys2Proof.Machine.execUnpinL2 a s
  | .pref l a im => Sys2Proof.Machine.execPref l a im s
  | .cpPlane d a b n c => Sys2Proof.Machine.execCpPlane d a b n c s
  | .cpPlaneSw d a b n c => Sys2Proof.Machine.execCpPlaneSw d a b n c s
  | .cpStore d a b n c => Sys2Proof.Machine.execCpStore d a b n c s
  | .cpSkim d a b n c => Sys2Proof.Machine.execCpSkim d a b n c s
  | .cpFill d a b n c => Sys2Proof.Machine.execCpFill d a b n c s
  | .cpWait a => Sys2Proof.Machine.execCpWait a s
  | .cpTest d a => Sys2Proof.Machine.execCpTest d a s
  | .cpRetry a => Sys2Proof.Machine.execCpRetry a s
  | .srBind n a im => Sys2Proof.Machine.execSrBind n a im s
  | .srStop n => Sys2Proof.Machine.execSrStop n s
  | .taskPush d a b => Sys2Proof.Machine.execTaskPush d a b s
  | .crewBar a => Sys2Proof.Machine.execCrewBar a s
  | .crewArrive a => Sys2Proof.Machine.execCrewArrive a s
  | .crewWait a => Sys2Proof.Machine.execCrewWait a s
  | .qnt => Sys2Proof.Machine.execQnt s
  | .phaseEnd => Sys2Proof.Machine.execPhaseEnd s
  | .sigWait d a b c => Sys2Proof.Machine.execSigWait d a b c s
  | .sigAdd d a b => Sys2Proof.Machine.execSigAdd d a b s
  | .sys im => Sys2Proof.Machine.execSys im s
  | .brk im => Sys2Proof.Machine.execBrk im s
  | .eret => Sys2Proof.Machine.execEret s
  | .tlbAll => Sys2Proof.Machine.execTlbAll s
  | .tlbVa a => Sys2Proof.Machine.execTlbVa a s
  | .tlbCtx a => Sys2Proof.Machine.execTlbCtx a s
  | .cacheWb a b => Sys2Proof.Machine.execCacheWb a b s
  | .cacheInv a b => Sys2Proof.Machine.execCacheInv a b s
  | .cacheWbinv a b => Sys2Proof.Machine.execCacheWbinv a b s
  | .fq d im => Sys2Proof.Machine.execFq d im s
  | .step => Sys2Proof.Machine.execStep s
  | .ipref k a im => Sys2Proof.Machine.execIpref k a im s
  | .pfenceCode => Sys2Proof.Machine.execPfenceCode s
  | .cst4 d a b => Sys2Proof.Machine.execCst4 d a b s
  | .mov f => Sys2Proof.Machine.execMov f s
  | .laneAdd f => Sys2Proof.Machine.execLaneAdd f s
  | .laneSub f => Sys2Proof.Machine.execLaneSub f s
  | .laneMul f => Sys2Proof.Machine.execLaneMul f s
  | .laneMulh w => Sys2Proof.Machine.execLaneMulh w s
  | .mad w => Sys2Proof.Machine.execMad w s
  | .laneAnd f => Sys2Proof.Machine.execLaneAnd f s
  | .laneOr f => Sys2Proof.Machine.execLaneOr f s
  | .laneXor f => Sys2Proof.Machine.execLaneXor f s
  | .laneAndn f => Sys2Proof.Machine.execLaneAndn f s
  | .laneShl f => Sys2Proof.Machine.execLaneShl f s
  | .laneShr f => Sys2Proof.Machine.execLaneShr f s
  | .laneSra f => Sys2Proof.Machine.execLaneSra f s
  | .laneMin f => Sys2Proof.Machine.execLaneMin f s
  | .laneMax f => Sys2Proof.Machine.execLaneMax f s
  | .abs f => Sys2Proof.Machine.execAbs f s
  | .neg f => Sys2Proof.Machine.execNeg f s
  | .laneClz w => Sys2Proof.Machine.execLaneClz w s
  | .lanePop w => Sys2Proof.Machine.execLanePop w s
  | .laneDiv w => Sys2Proof.Machine.execLaneDiv w s
  | .laneRem w => Sys2Proof.Machine.execLaneRem w s
  | .bfx w => Sys2Proof.Machine.execBfx w s
  | .bfi w => Sys2Proof.Machine.execBfi w s
  | .cmp w => Sys2Proof.Machine.execCmp w s
  | .mand w => Sys2Proof.Machine.execMand w s
  | .mor w => Sys2Proof.Machine.execMor w s
  | .mxor w => Sys2Proof.Machine.execMxor w s
  | .mnot w => Sys2Proof.Machine.execMnot w s
  | .mset w => Sys2Proof.Machine.execMset w s
  | .mget w => Sys2Proof.Machine.execMget w s
  | .rng w => Sys2Proof.Machine.execRng w s
  | .lid w => Sys2Proof.Machine.execLid w s
  | .rdx w => Sys2Proof.Machine.execRdx w s
  | .wrx w => Sys2Proof.Machine.execWrx w s
  | .bmix w => Sys2Proof.Machine.execBmix w s
  | .fadd f => Sys2Proof.Machine.execFadd f s
  | .fsub f => Sys2Proof.Machine.execFsub f s
  | .fmul f => Sys2Proof.Machine.execFmul f s
  | .fma w => Sys2Proof.Machine.execFma w s
  | .fmin f => Sys2Proof.Machine.execFmin f s
  | .fmax f => Sys2Proof.Machine.execFmax f s
  | .fabs f => Sys2Proof.Machine.execFabs f s
  | .fneg f => Sys2Proof.Machine.execFneg f s
  | .fcmp w => Sys2Proof.Machine.execFcmp w s
  | .fdiv w => Sys2Proof.Machine.execFdiv w s
  | .rcp f => Sys2Proof.Machine.execRcp f s
  | .rsqrt f => Sys2Proof.Machine.execRsqrt f s
  | .sqrt w => Sys2Proof.Machine.execSqrt w s
  | .exp2 w => Sys2Proof.Machine.execExp2 w s
  | .log2 w => Sys2Proof.Machine.execLog2 w s
  | .sin w => Sys2Proof.Machine.execSin w s
  | .cos w => Sys2Proof.Machine.execCos w s
  | .tanh w => Sys2Proof.Machine.execTanh w s
  | .cvt f => Sys2Proof.Machine.execCvt f s
  | .pack w => Sys2Proof.Machine.execPack w s
  | .unpack w => Sys2Proof.Machine.execUnpack w s
  | .mkscale w => Sys2Proof.Machine.execMkscale w s
  | .unscale w => Sys2Proof.Machine.execUnscale w s
  | .shift w => Sys2Proof.Machine.execShift w s
  | .rot w => Sys2Proof.Machine.execRot w s
  | .spread w => Sys2Proof.Machine.execSpread w s
  | .foldSum w => Sys2Proof.Machine.execFoldSum w s
  | .foldMax w => Sys2Proof.Machine.execFoldMax w s
  | .foldMin w => Sys2Proof.Machine.execFoldMin w s
  | .scan w => Sys2Proof.Machine.execScan w s
  | .refold w => Sys2Proof.Machine.execRefold w s
  | .ptrans w => Sys2Proof.Machine.execPtrans w s
  | .pick w => Sys2Proof.Machine.execPick w s
  | .pAdd w => Sys2Proof.Machine.execPAdd w s
  | .pMul w => Sys2Proof.Machine.execPMul w s
  | .pFma w => Sys2Proof.Machine.execPFma w s
  | .pMax w => Sys2Proof.Machine.execPMax w s
  | .pMin w => Sys2Proof.Machine.execPMin w s
  | .rotL1 w => Sys2Proof.Machine.execRotL1 w s
  | .foldSq w => Sys2Proof.Machine.execFoldSq w s
  | .dot w => Sys2Proof.Machine.execDot w s
  | .dotSp w => Sys2Proof.Machine.execDotSp w s
  | .sweep w => Sys2Proof.Machine.execSweep w s
  | .sweepSp w => Sys2Proof.Machine.execSweepSp w s
  | .spack w => Sys2Proof.Machine.execSpack w s
  | .resolve w => Sys2Proof.Machine.execResolve w s
  | .accCmp w => Sys2Proof.Machine.execAccCmp w s
  | .accMerge w => Sys2Proof.Machine.execAccMerge w s
  | .accSave w => Sys2Proof.Machine.execAccSave w s
  | .accLoad w => Sys2Proof.Machine.execAccLoad w s
  | .accFlags w => Sys2Proof.Machine.execAccFlags w s
  | .dotI4 w => Sys2Proof.Machine.execDotI4 w s
  | .ldLm w => Sys2Proof.Machine.execLdLm w s
  | .stLm w => Sys2Proof.Machine.execStLm w s
  | .ldG w => Sys2Proof.Machine.execLdG w s
  | .stG w => Sys2Proof.Machine.execStG w s
  | .ldRo w => Sys2Proof.Machine.execLdRo w s
  | .ldSk w => Sys2Proof.Machine.execLdSk w s
  | .stSk w => Sys2Proof.Machine.execStSk w s
  | .latom w => Sys2Proof.Machine.execLatom w s
  | .atomRsum w => Sys2Proof.Machine.execAtomRsum w s
  | .qpeek w => Sys2Proof.Machine.execQpeek w s
  | .qskip w => Sys2Proof.Machine.execQskip w s
  | .lnop w => Sys2Proof.Machine.execLnop w s
  | .lbrk w => Sys2Proof.Machine.execLbrk w s
  | .laneRunStart => Sys2Proof.Machine.execLaneRunStart s
  | .uncheckedResultReturn k => Sys2Proof.Machine.execUncheckedResultReturn k s
  | .descriptorCommandApply => Sys2Proof.Machine.execDescriptorCommandApply s
  | .accControlApply => Sys2Proof.Machine.execAccControlApply s
  | .copyCommandAccept => Sys2Proof.Machine.execCopyCommandAccept s
  | .srBindAccept => Sys2Proof.Machine.execSrBindAccept s
  | .srStopAccept => Sys2Proof.Machine.execSrStopAccept s
  | .scoreboardEntryGrant core => Sys2Proof.Machine.execScoreboardEntryGrant core s
  | .copyLineLand ticket line => Sys2Proof.Machine.execCopyLineLand ticket line s
  | .copyOperationComplete ticket => Sys2Proof.Machine.execCopyOperationComplete ticket s
  | .boundSweepStart => Sys2Proof.Machine.execBoundSweepStart s
  | .sweepComplete k => Sys2Proof.Machine.execSweepComplete k s
  | .streamValueFetch q lane => Sys2Proof.Machine.execStreamValueFetch q lane s
  | .streamScatterDrain q lane => Sys2Proof.Machine.execStreamScatterDrain q lane s
  | .pageRequestResponse sector k ok => Sys2Proof.Machine.execPageRequestResponse sector k ok s
  | .pageWalkComplete core k => Sys2Proof.Machine.execPageWalkComplete core k s
  | .icacheFill core k => Sys2Proof.Machine.execIcacheFill core k s
  | .laneBlockFill core k => Sys2Proof.Machine.execLaneBlockFill core k s
  | .unverifiedBlockRefetch core block => Sys2Proof.Machine.execUnverifiedBlockRefetch core block s
  | .trowelTranslationComplete sector declined => Sys2Proof.Machine.execTrowelTranslationComplete sector declined s
  | .traceInstall sector k => Sys2Proof.Machine.execTraceInstall sector k s
  | .scalarLoadReturn k => Sys2Proof.Machine.execScalarLoadReturn k s
  | .storeQueueDrain => Sys2Proof.Machine.execStoreQueueDrain s
  | .storeAck core k => Sys2Proof.Machine.execStoreAck core k s
  | .homeWrite k => Sys2Proof.Machine.execHomeWrite k s
  | .invalidationAck k sector => Sys2Proof.Machine.execInvalidationAck k sector s
  | .installAck k => Sys2Proof.Machine.execInstallAck k s
  | .guestCopyInstall k => Sys2Proof.Machine.execGuestCopyInstall k s
  | .replicaInstall k => Sys2Proof.Machine.execReplicaInstall k s
  | .probe k => Sys2Proof.Machine.execProbe k s
  | .forwardedLineArrival k => Sys2Proof.Machine.execForwardedLineArrival k s
  | .atomicUnitOperation k => Sys2Proof.Machine.execAtomicUnitOperation k s
  | .packetDelivery k => Sys2Proof.Machine.execPacketDelivery k s
  | .hostLinkRequest link req => Sys2Proof.Machine.execHostLinkRequest link req s
  | .peerRequestArrival src req => Sys2Proof.Machine.execPeerRequestArrival src req s
  | .peerRequestTimeout k => Sys2Proof.Machine.execPeerRequestTimeout k s
  | .linkOutOfService kind num => Sys2Proof.Machine.execLinkOutOfService kind num s
  | .linkBackInService kind num => Sys2Proof.Machine.execLinkBackInService kind num s
  | .dramRetrainEnd channel => Sys2Proof.Machine.execDramRetrainEnd channel s
  | .refreshWindow channel => Sys2Proof.Machine.execRefreshWindow channel s
  | .refreshStateChange region celsius => Sys2Proof.Machine.execRefreshStateChange region celsius s
  | .thermalAllowanceUpdate core => Sys2Proof.Machine.execThermalAllowanceUpdate core s
  | .logicAllowanceSet cluster celsius => Sys2Proof.Machine.execLogicAllowanceSet cluster celsius s
  | .powerAllowanceStep watts => Sys2Proof.Machine.execPowerAllowanceStep watts s
  | .countDelivery core => Sys2Proof.Machine.execCountDelivery core s
  | .eventRecordWrite kind num => Sys2Proof.Machine.execEventRecordWrite kind num s
  | .queueNotify sector k => Sys2Proof.Machine.execQueueNotify sector k s
  | .taskPacketPop sector k => Sys2Proof.Machine.execTaskPacketPop sector k s
  | .bulkCopyPacket sector k => Sys2Proof.Machine.execBulkCopyPacket sector k s
  | .bulkCopyComplete sector k choice => Sys2Proof.Machine.execBulkCopyComplete sector k choice s
  | .signalPacket sector k => Sys2Proof.Machine.execSignalPacket sector k s
  | .taskPushSlotWrite => Sys2Proof.Machine.execTaskPushSlotWrite s
  | .candidateAging sector k cycles => Sys2Proof.Machine.execCandidateAging sector k cycles s
  | .crewPlace sector => Sys2Proof.Machine.execCrewPlace sector s
  | .waveStart crew => Sys2Proof.Machine.execWaveStart crew s
  | .barrierGenerationComplete crew b => Sys2Proof.Machine.execBarrierGenerationComplete crew b s
  | .sigWaitWake => Sys2Proof.Machine.execSigWaitWake s
  | .quantumCountExpiry => Sys2Proof.Machine.execQuantumCountExpiry s
  | .quantumCommit crew => Sys2Proof.Machine.execQuantumCommit crew s
  | .waveFree => Sys2Proof.Machine.execWaveFree s
  | .crewRetire crew => Sys2Proof.Machine.execCrewRetire crew s
  | .phaseAdvance ctx => Sys2Proof.Machine.execPhaseAdvance ctx s
  | .trapEntry => Sys2Proof.Machine.execTrapEntry s
  | .watchdog => Sys2Proof.Machine.execWatchdog s
  | .clusterReset cluster trigger => Sys2Proof.Machine.execClusterReset cluster trigger s
  | .resetSweepEnd cluster => Sys2Proof.Machine.execResetSweepEnd cluster s
  | .deviceReset => Sys2Proof.Machine.execDeviceReset s
  | .sectorFirmwareSwitch sector => Sys2Proof.Machine.execSectorFirmwareSwitch sector s
  | .rngCounterReset => Sys2Proof.Machine.execRngCounterReset s
  | .xthrWrite v => Sys2Proof.Machine.execXthrWrite v s
  | .queueRegister v => Sys2Proof.Machine.execQueueRegister v s
  | .queueUnregister v => Sys2Proof.Machine.execQueueUnregister v s
  | .ctxctlWrite v => Sys2Proof.Machine.execCtxctlWrite v s
  | .ctxskimWrite v => Sys2Proof.Machine.execCtxskimWrite v s
  | .fqvalWrite v => Sys2Proof.Machine.execFqvalWrite v s
  | .apctlWrite v => Sys2Proof.Machine.execApctlWrite v s
  | .eventRingConfig size v => Sys2Proof.Machine.execEventRingConfig size v s
  | .mgRegisterWrite reg v => Sys2Proof.Machine.execMgRegisterWrite reg v s
  | .stageImage => Sys2Proof.Machine.execStageImage s
  | .activate => Sys2Proof.Machine.execActivate s
  | .attest => Sys2Proof.Machine.execAttest s
  | .retrainDramChannel => Sys2Proof.Machine.execRetrainDramChannel s
  | .retrainLink => Sys2Proof.Machine.execRetrainLink s
  | .resetCluster => Sys2Proof.Machine.execResetCluster s
  | .retireCore => Sys2Proof.Machine.execRetireCore s
  | .retireCluster => Sys2Proof.Machine.execRetireCluster s
  | .setPeerRoute => Sys2Proof.Machine.execSetPeerRoute s
  | .refreshWindowEnd channel => Sys2Proof.Machine.execRefreshWindowEnd channel s
  | .uncorrectableErrorPoison unit num addr => Sys2Proof.Machine.execUncorrectableErrorPoison unit num addr s
  | .dramRegionAtRating region celsius => Sys2Proof.Machine.execDramRegionAtRating region celsius s

end Sys2Proof.Machine
end

