-- ==== Sys2Proof/Machine/Streams.lean ====
section
/-! DEFINITION. The two streams of a wave and the order of acts: fetching and running one scalar instruction (R21, R44, R60 to R62, R70,
R324), running the next thing of the lane queue (R26, R27, R72, R118), and what acts next where the environment leaves it open. -/

namespace Sys2Proof.Machine

open Sys2Proof

/-! The scalar stream. -/

/-- What a fetch gives: an instruction with its length in words, the first fault in the order of R44, or a wait (R347, R358). -/
inductive Fetched where
  | wait
  | instr (i : Instr) (two : Bool)
  | fault (c : Cause) (fva : DWord)
  deriving DecidableEq, Repr

/-- The trap cause of a word that the decoder refuses. -/
def Bad.cause : Bad → Cause
  | .illegal => .illegal
  | .unimpl => .unimpl
  | .pairRule => .pairrule

/-- The word after a first word, where the instruction waits for it (R21): empty after a word not marked "Ext: yes". -/
def State.secondWord (s : State) (w : Word) : Option Word :=
  if extOpcode (w.extractLsb' 25 7).toNat then s.fetchWord (s.w.pc + 4) else some 0

/-- The scalar instruction at the program counter (R21, R22, R44, R70, R71). -/
def State.fetchScalar (s : State) : Fetched :=
  let pc := s.w.pc
  if bits pc 0 2 ≠ 0 then .fault .misalignCode 0
  else if s.codeWaits pc.toNat then .wait
  else
    match s.fetchWord pc with
    | none => .fault .fetchFault pc
    | some w =>
      if extOpcode (w.extractLsb' 25 7).toNat && s.codeWaits (pc + 4).toNat then .wait
      else match s.secondWord w with
      | none => .fault .fetchFault (pc + 4)
      | some next =>
        if isExtWord w && s.w.jumped then .fault .midinsn pc
        else
          match decodeScalar w next with
          | .ok i => .instr i (extOpcode (w.extractLsb' 25 7).toNat)
          | .error b => .fault (Bad.cause b) 0

/-- The code TLB and the I-cache after the fetch: of the second word too, where the first one waits for it (R21, R336). -/
def State.touchFetch (s : State) : State :=
  if bits s.w.pc 0 2 ≠ 0 then s
  else
    match s.fetchWord s.w.pc with
    | none => s
    | some w =>
      let t := s.touchCode s.w.pc
      if extOpcode (w.extractLsb' 25 7).toNat then t.touchCode (s.w.pc + 4) else t

/-- The instructions that let the lane stream run while they wait (R76, R79): `xcnt` and `xclr`, which wait as those do (R107, R108),
among them (log entry 67). -/
def isWaiting : Instr → Bool
  | .lany _ _ => true
  | .lall _ _ => true
  | .lcount _ _ => true
  | .lread _ _ _ => true
  | .dGet _ _ _ => true
  | .lsync => true
  | .xcnt _ _ _ => true
  | .xclr _ _ => true
  | _ => false

/-- A single step that finds no unit to run: STEP is taken at once (R324). -/
def State.stepNow (s : State) : Host.Outcome State Fault Refusal := .next (s.raise 0 .step 0 0 0)

/-- A push has claimed a slot that its ring has room for: the wave goes on to write it, and does not stall. -/
def State.pushGoes (s : State) : Bool := (s.w.pushWait.map fun p => s.slotRoom p.q.addr p.w.toNat).getD false

/-- The end of an instruction under a single step (R324): a waiting instruction that waits lets the lane stream run until its wait ends; another
stall takes STEP at once, and an arrival that the instruction has made stays. The drain of an `exit` is no stall (R81; log entry 67). -/
def stepStall (i : Instr) (o : Host.Outcome State Fault Refusal) : Host.Outcome State Fault Refusal :=
  match o with
  | .next t =>
    if t.w.stepping && t.w.blocked && t.w.life == .running then
      if isWaiting i then .next (t.modW fun w => { w with stepWait := true }) else if t.pushGoes then .next t else t.stepNow
    else .next t
  | o => o

/-- A word issues when it first takes its turn, and may then stall (R61, R85): the core notes the wave context, and the wave that its word has
issued. -/
def noteIssue (s : State) (o : Host.Outcome State Fault Refusal) : Host.Outcome State Fault Refusal :=
  match o with
  | .next t =>
    let t := if s.w.issued then t else t.modCoreAt s.w.core fun c => { c with lastIssue := s.w.slot + 1 }
    .next (t.modW fun w => { w with issued := w.blocked && w.life == .running })
  | o => o

/-- A turn whose packets cannot all pass does not happen yet: one waits at its ingress (R350, R354), and the unit stays as in `w`. -/
def orWait (w : State) (o : Host.Outcome State Fault Refusal) : Host.Outcome State Fault Refusal :=
  match o with
  | .next t => .next (if t.jam then w else t)
  | o => o

/-- A turn begins with no packet that waits. -/
def State.unjam (s : State) : State := { s with jam := false }

/-- The core issues words: it is not in reset, and its allowance is not 0 (R289, R372). -/
def State.issues (s : State) : Bool := !s.core.inReset && s.core.allowance != 0

/-- The scalar stream of the wave may issue: it runs, no trap or push waits, and its quantum has not ended. -/
def State.scalarOpen (s : State) : Bool :=
  s.w.life == .running && s.w.trapping.isNone && s.w.pushWait.isNone && !s.w.qended && s.issues

/-- The scalar stream takes its turn: the quantum's count may end it (R295); else the instruction at the program counter runs. -/
def scalarTurn (s : State) : Host.Outcome State Fault Refusal :=
  if !s.scalarOpen then .next s
  else if s.countExpired then exec .quantumCountExpiry s
  else if s.w.stepping && s.w.lstep then (if s.w.lq.isEmpty || s.w.laneBlocked then s.stepNow else .next s)
  else
    match s.fetchScalar with
    | .wait => .next s.stall
    | .fault c fva => orWait s.stall (.next (s.unjam.touchFetch.raise 0 c fva 0 0))
    | .instr i _ => noteIssue s (stepStall i (orWait s.stall (exec i s.unjam.touchFetch)))

/-! The lane stream. -/

/-- The lane stream of the wave may go on: no park, no quantum's end, no element that waits for a probe (R225, R235; log entry 44) and no trap
holds it, but for a word under way, which a trap waits for (R310 step 1), and a single step lets it run: one of the lane stream, a waiting
instruction, or the drain of an `exit` (R81, R324). -/
def State.laneOpen (s : State) : Bool :=
  (s.w.life == .running || s.w.life == .exiting) && (s.w.trapping.isNone || s.w.stgAt.isSome) && s.w.parked.isNone && !s.w.qlane && s.issues
    && !(s.repro && (s.w.lq.head?.map (Entry.later s.w.quantum)).getD false)
    && s.w.unch.all (fun u => u.late.isEmpty)
    && (!s.w.stepping || s.w.lstep || s.w.stepWait || s.w.life == .exiting)

/-- The event that a lane command is (R72). -/
def Cmd.event : Cmd → Instr
  | .dLd _ _ _ => .descriptorCommandApply
  | .dSt _ _ => .descriptorCommandApply
  | .dMov _ _ => .descriptorCommandApply
  | .dSet _ _ _ => .descriptorCommandApply
  | .accClr _ => .accControlApply
  | .accAnc _ _ => .accControlApply
  | .copy _ => .copyCommandAccept
  | .srBind _ _ _ _ => .srBindAccept
  | .srStop _ => .srStopAccept
  | .rngReset => .rngCounterReset

/-- What the grid finds at the slot that is due in a started run: its instruction, or the first fault in the order of R44. -/
def Run.fetch (r : Run) : Fetched :=
  match r.bad with
  | some a => .fault .fetchFault a
  | none =>
    if !Block.valid r.image r.slot then .fault .invslot 0
    else
      let w := Block.slot r.image r.slot
      match headerBad r.image w with
      | some b => .fault (Bad.cause b) 0
      | none =>
        match decodeLane w with
        | .ok i => .instr i false
        | .error b => .fault (Bad.cause b) 0

/-- The lane stream finds nothing that it can do. -/
def State.laneStall (s : State) : State := s.modW fun w => { w with laneBlocked := true }

/-- The lane stream takes its turn: the command or the word at the head of the queue (R26, R27, R72). -/
def laneTurn (s : State) : Host.Outcome State Fault Refusal :=
  if !s.laneOpen then .next s
  else
    match s.w.lq with
    | [] => .next s
    | .cmd _ _ _ c :: _ => orWait s.laneStall (exec c.event s.unjam)
    | .run r :: _ =>
      if !r.started then exec .laneRunStart s
      else
        match r.fetch with
        | .wait => .next s
        | .fault c fva => .next (s.raise 1 c fva s.laneTarget s.laneBits)
        | .instr i _ => orWait s.laneStall (exec i s.unjam)

/-! What acts next. -/

/-- A step that only the lane stream takes, at the head of its queue. -/
def laneHead : Instr → Bool
  | .descriptorCommandApply => true
  | .accControlApply => true
  | .copyCommandAccept => true
  | .srBindAccept => true
  | .srStopAccept => true
  | .rngCounterReset => true
  | .laneRunStart => true
  | _ => false

/-- A device step takes its turn. A word of the instruction set is no device step. -/
def eventTurn (i : Instr) (s : State) : Host.Outcome State Fault Refusal :=
  if (encode i).isSome then .next s else if laneHead i then laneTurn s else orWait s (exec i s.unjam)

/-- The wave that acts may find something to do again. -/
def State.unblock (s : State) : State := s.modW fun w => { w with blocked := false, laneBlocked := false }

/-- Wave n acts now. -/
def State.focusOn (s : State) (n : Nat) : State := if n = s.wid then s else (s.focus n).unblock

/-- The environment's next act. -/
def Turn.act (t : Turn) (s : State) : Host.Outcome State Fault Refusal :=
  match t with
  | .scalar n => scalarTurn (s.focusOn n)
  | .lane n => laneTurn (s.focusOn n)
  | .event n i => eventTurn i (s.focusOn n)

/-- The meaning of a device step, its operands given. -/
abbrev Act := State → Host.Outcome State Fault Refusal

/-- The step changes the state. -/
def changes (s : State) (f : Act) : Bool :=
  match f s with
  | .next t => t != s
  | _ => false

/-- The steps of the wave's own units and of its core that may be due. -/
def waveEvents (s : State) : List Act :=
  let upTo (n : Nat) (f : Nat → Act) : List Act := (List.range n).map f
  let c := s.w.core
  [execTrapEntry, execTaskPushSlotWrite, execSigWaitWake, execWaveFree]
    ++ upTo s.w.sret.length execScalarLoadReturn ++ upTo s.w.unch.length execUncheckedResultReturn ++ [execStoreQueueDrain]
    ++ upTo (s.core.acks.length + s.peerReqs.length) (execStoreAck c)
    ++ s.w.ops.flatMap (fun o => o.todo.map (fun x => execCopyLineLand o.cmd.ticket x.line) ++ [execCopyOperationComplete o.cmd.ticket])
    ++ [execBoundSweepStart] ++ upTo s.w.sweeps.length execSweepComplete
    ++ s.w.q.flatMap (fun e => (List.range s.w.lanes).flatMap fun L =>
         [execStreamValueFetch e.1 L, execStreamScatterDrain e.1 L])
    ++ [execScoreboardEntryGrant c] ++ upTo s.core.probes.length execProbe ++ upTo s.core.probes.length execForwardedLineArrival
    ++ upTo s.core.fills.length (execPageWalkComplete c) ++ upTo s.core.fills.length (execIcacheFill c)
    ++ upTo s.core.fills.length (execLaneBlockFill c)
    ++ (s.core.lcc.filter (fun b => !b.verified)).map (fun b => execUnverifiedBlockRefetch c b.addr)

/-- The steps of the network, the slices, the sectors and the management interface that may be due. -/
def deviceEvents (s : State) : List Act :=
  let upTo (n : Nat) (f : Nat → Act) : List Act := (List.range n).map f
  upTo s.flows.length execPacketDelivery ++ upTo s.homeReqs.length execHomeWrite
    ++ (s.homeReqs.zipIdx.flatMap fun e => e.1.acks.map fun x => execInvalidationAck e.2 x)
    ++ upTo s.installs.length execGuestCopyInstall ++ upTo s.installs.length execReplicaInstall ++ upTo s.installs.length execInstallAck
    ++ upTo s.unitReqs.length execAtomicUnitOperation
    ++ (s.sectors.flatMap fun e =>
          (List.range e.2.queues.length).flatMap (fun k =>
            [execQueueNotify e.1 k, execTaskPacketPop e.1 k, execBulkCopyPacket e.1 k, execSignalPacket e.1 k])
          ++ upTo e.2.bulk.length (fun k => execBulkCopyComplete e.1 k 0) ++ [execCrewPlace e.1, execTrowelTranslationComplete e.1 false]
          ++ upTo e.2.finished.length (execTraceInstall e.1))
    ++ (s.crews.flatMap fun c =>
          [execWaveStart c.id] ++ upTo 4 (execBarrierGenerationComplete c.id) ++ [execQuantumCommit c.id, execCrewRetire c.id])
    ++ s.ctxs.map (fun e => execPhaseAdvance e.1)
    ++ (s.linksDraining.map fun l => execLinkOutOfService l.1 l.2) ++ (s.linksDown.map fun l => execLinkBackInService l.1 l.2)
    ++ (s.retraining.toList.map execDramRetrainEnd) ++ s.fw.switching.map execSectorFirmwareSwitch
    ++ [execStageImage, execActivate, execAttest, execRetrainDramChannel, execRetrainLink, execResetCluster, execRetireCore,
        execRetireCluster, execSetPeerRoute]
    ++ ((s.cores.filter fun e => e.2.inReset).map fun e => execResetSweepEnd (clusterOf e.1))
    ++ s.events.map fun e => execEventRecordWrite (e.1 / 4096) (e.1 % 4096)

/-- The next wave in the order of their numbers. -/
def State.nextWave (s : State) : Option Nat :=
  match s.others.find? fun e => decide (s.wid < e.1) with
  | some e => some e.1
  | none => (s.others.head?).map (·.1)

/-- A ready wave of the core: its scalar stream may issue, and it is not known to be stalled (R61). Under a step of its lane stream no scalar word
issues; its turn comes where there is no unit to run, to take STEP (R324), or where its quantum has reached Q words (R295). -/
def State.readyWave (s : State) (n : Nat) : Bool :=
  let w := s.wave n
  w.core == s.w.core && w.life == .running && w.trapping.isNone && w.pushWait.isNone && !w.qended && !w.blocked && s.issues
    && (!(w.stepping && w.lstep) || w.lq.isEmpty || w.laneBlocked
      || ((s.rowAt w.ctx).repro && decide (w.quantum ≤ w.qcount)))

/-- How many contexts after the one that issued last a context comes (R61). No rule says where the round robin starts while no word has
issued on the core: it starts at context 0 (DESIGN CHOICE, log entry 111). -/
def State.turnsTo (s : State) (slot : Nat) : Nat := (slot + 16 - s.core.lastIssue % 16) % 16

/-- The ready wave of the core whose turn it is: round robin in context order, from the context after the one that issued last (R61). -/
def State.robin (s : State) : Option Nat :=
  (s.waveIds.filter s.readyWave).foldl (fun best n =>
    match best with
    | some m => if s.turnsTo (s.wave n).slot < s.turnsTo (s.wave m).slot then some n else some m
    | none => some n) none

/-- What acts where the environment has said nothing (log entry 3): the scalar stream of the core's ready wave whose turn it is (R61); where
none is ready, the lane stream of the wave that acts; then the first step of its units or of the device that changes the state; then the
next wave. -/
def autoTurn (s : State) : Host.Outcome State Fault Refusal :=
  if let some n := s.robin then (if n = s.wid then scalarTurn s else .next (s.focus n))
  else if s.laneOpen && !s.w.laneBlocked && !s.w.lq.isEmpty then laneTurn s
  else
    match ((waveEvents s ++ deviceEvents s).map fun (f : Act) (s : State) => orWait s (f s.unjam)).find? (changes s.unblock) with
    | some f => f s.unblock
    | none =>
      match s.nextWave with
      | some n => .next (s.focusOn n)
      | none => .next s.unblock

end Sys2Proof.Machine
end

