-- ==== Sys2Proof/Machine/Step.lean ====
section
/-! DEFINITION. One step of the machine: what the environment's agenda names acts, and where it is empty what `autoTurn` finds. -/

namespace Sys2Proof.Machine

open Sys2Proof

/-- The turn that is due. -/
def turn (s : State) : Host.Outcome State Fault Refusal :=
  match s.agenda with
  | t :: rest => t.act { s with agenda := rest }
  | [] => autoTurn s

/-- The end of a step: each dispatcher's reservation is the one that R287 gives in the new state. -/
def settled (o : Host.Outcome State Fault Refusal) : Host.Outcome State Fault Refusal :=
  match o with
  | .next t => .next t.reserveAll
  | .fault f => .fault f
  | .refused r => .refused r

/-- One step. -/
def step (s : State) : Host.Outcome State Fault Refusal := settled (turn s)

/-- The page of an address, mapped to the device page of the same address for the context of the wave that acts. -/
def fetchPage (s : State) : TlbEntry :=
  { ctx := s.w.ctx, va := s.w.pc.toNat / 2 ^ 14 * 2 ^ 14, size := 2 ^ 14
    loc := { kind := .device, addr := s.w.pc.toNat / 2 ^ 14 * 2 ^ 14 % 2 ^ 48, stripe := 0, home := 0, rm := false }
    r := true, w := true, x := true, s := false }

/-- The wave that acts runs and nothing holds its streams. -/
def freshWave (w : Wave) : Wave :=
  { w with life := .running, pc := (dw (w.pc.toNat / 8 * 8 % 2 ^ 48)), trapping := none, pushWait := none, pushAt := none, qended := false, qlane := false, qbefore := false
           qcount := 0, stepping := false, stepWait := false, blocked := false, laneBlocked := false, parked := none, stgAt := none
           issued := false }

/-- The state with an instruction of `nbits` bits `w`, numbered as the opcode table numbers them, where the next step fetches it. A
scalar word stands in device memory at the program counter, on a page that the core's code TLB maps; a lane word is slot 0 of a run at
the head of the lane queue, and the lane stream is next. -/
def State.withFetchWord (s : State) (nbits w : Nat) : State :=
  let s := { s with w := freshWave s.w, agenda := [.scalar s.wid] }
  let s := s.modCore fun c => { c with inReset := false, allowance := if c.allowance = 0 then 255 else c.allowance }
  if nbits ≤ 64 then
    let e := fetchPage s
    let a := (e.at s.w.pc.toNat).addr
    let s := { s with mem := writeCells s.mem (leCells a 8 (w % 2 ^ nbits)), poison := s.poison.filter fun k => k != a / 128 }
    s.modCore fun c =>
      { c with ctlb := e :: c.ctlb.filter (fun x => !(x.ctx == e.ctx && x.va == e.va))
               icache := (a / 128, region s.mem (a / 128 * 128) 128) :: c.icache.filter fun x => x.1 != a / 128 }
  else
    -- one valid slot, level 2, class 2 with the stepping tag of the part
    let image : BitVec 1024 := BitVec.ofNat 1024 (1 + 2 * 2 ^ 10 + 2 * 2 ^ 12 + 0xA1 * 2 ^ 20 + w % 2 ^ 96 * 2 ^ 64)
    let r := s.newRun 0 image none
    { s with w := { s.w with lq := [.run { r with started := true }], unch := [] }, agenda := [.lane s.wid] }

end Sys2Proof.Machine
end

