-- ==== Sys2Proof/Safety.lean ====
section
/-! DEFINITION. What the claims call a sound state: what every step keeps. -/

namespace Sys2Proof.Machine

/-- Every byte memory of the device stands in its canonical form: device memory, host memory, skim space, and the bytes that DRAM still
holds of dirty sectors. -/
def State.memWf (s : State) : Prop :=
  Memory.wf s.mem = true ∧ Memory.wf s.hostMem = true ∧ Memory.wf s.skim = true ∧ ∀ e ∈ s.dirty, Memory.wf e.2 = true

/-- The exception counters and thresholds fit their 40 bits (R104, R109). -/
def State.countersFit (s : State) : Prop :=
  (∀ k, look 0 s.counters k < 2 ^ 40) ∧ ∀ k, look 0 s.thresholds k < 2 ^ 40

end Sys2Proof.Machine
end

