-- ==== Sys2Proof/Certificates/Slice0/Obligations.lean ====
section
/-! DEFINITION. The statements for the provers, from the numbered rules of spec/, with the vocabulary they share. -/

namespace Sys2Proof.Machine

open Sys2Proof

/-! Vocabulary of the scalar statements. -/

/-- The next instruction ends no single step of the scalar stream (R324). -/
def State.noStep (s : State) : Prop := (s.w.stepping && !s.w.lstep) = false

/-- The wave's marks and counts after one more scalar instruction has retired (R295, R325). -/
def Wave.retired (w : Wave) (repro : Bool) : Wave :=
  { w with blocked := false, barWait := none, wdog := 0, stepWait := false, issued := false, qused := w.qused || repro
           qcount := if repro then w.qcount + 1 else w.qcount }

/-- The scalar registers of a state by key, with the register of a field replaced; s0 discards the write (R19). -/
def State.regSet (s : State) (d : BitVec 6) (v : DWord) (k : Nat) : DWord :=
  if k = sKey s.w.sys d ∧ k ≠ 0 then v else s.w.sVal k

/-- `t` is `u` after the scalar instruction has retired: the scalar registers read as `val` says, the pc is as given, and every other
piece of state is as in `u`. -/
def Retires (u t : State) (pc : DWord) (jumped : Bool) (val : Nat → DWord) : Prop :=
  (∀ k, t.w.sVal k = val k) ∧
    t = { u with w := { u.w.retired u.repro with s := t.w.s, sret := t.w.sret, pc := pc, jumped := jumped } }

/-- The instruction goes on in sequence: it writes `v` to the register of `d`, moves the pc past its `len` bytes, and changes nothing
else. -/
def Completes (i : Instr) (s : State) (d : BitVec 6) (v : DWord) (len : Nat) : Prop :=
  ∃ t, exec i s = .next t ∧ Retires s t (s.w.pc + dw len) false (s.regSet d v)

/-- The same for an instruction whose other effects have led to `u`. -/
def CompletesIn (i : Instr) (s u : State) (d : BitVec 6) (v : DWord) (len : Nat) : Prop :=
  ∃ t, exec i s = .next t ∧ Retires u t (s.w.pc + dw len) false (s.regSet d v)

/-- The same for an instruction that writes no scalar register. -/
def Passes (i : Instr) (s u : State) (len : Nat) : Prop :=
  ∃ t, exec i s = .next t ∧ Retires u t (s.w.pc + dw len) false s.w.sVal

/-- The instruction meets a trap of kind 0 before it has any effect. -/
def Traps (i : Instr) (s : State) (c : Cause) (fva : DWord) : Prop := exec i s = .next (s.raise 0 c fva 0 0)

/-- A data address of the wave translates to `e`, with no line of its walk held by a write (R188, R347, R358). -/
def State.maps (s : State) (va : DWord) (e : TlbEntry) : Prop :=
  s.translateWaits s.w.core s.w.ctx false va.toNat = false ∧ s.translate false va.toNat = some e

/-- A data address of the wave does not translate, with no line of its walk held by a write. -/
def State.unmapped (s : State) (va : DWord) : Prop :=
  s.translateWaits s.w.core s.w.ctx false va.toNat = false ∧ s.translate false va.toNat = none

/-- Bits of a doubleword counted from the top that are clear before the first one set. -/
def clearFromTop (x : DWord) (n : Nat) : Prop := n ≤ 64 ∧ (∀ i < n, x.getLsbD (63 - i) = false) ∧ (n < 64 → x.getLsbD (63 - n) = true)

/-- Bits of a doubleword counted from the bottom that are clear before the first one set. -/
def clearFromBottom (x : DWord) (n : Nat) : Prop := n ≤ 64 ∧ (∀ i < n, x.getLsbD i = false) ∧ (n < 64 → x.getLsbD n = true)

/-- The register operations of R63 with the value each writes to sd. -/
def registerOps (s : State) (d a b : BitVec 6) : List (Instr × DWord) :=
  let x := s.getS a
  let y := s.getS b
  [(.add d a b, x + y), (.sub d a b, x - y), (.and d a b, x &&& y), (.or d a b, x ||| y), (.xor d a b, x ^^^ y),
   (.andn d a b, x &&& ~~~y), (.shl d a b, x <<< (y.toNat % 64)), (.shr d a b, x >>> (y.toNat % 64)),
   (.sra d a b, x.sshiftRight (y.toNat % 64)), (.mul d a b, x * y),
   (.mulh d a b, (x.signExtend 128 * y.signExtend 128).extractLsb' 64 64),
   (.mulhn d a b, (x.setWidth 128 * y.setWidth 128).extractLsb' 64 64),
   (.min d a b, if x.toInt ≤ y.toInt then x else y), (.max d a b, if x.toInt ≤ y.toInt then y else x),
   (.minn d a b, if x.toNat ≤ y.toNat then x else y), (.maxn d a b, if x.toNat ≤ y.toNat then y else x),
   (.slt d a b, if x.toInt < y.toInt then 1 else 0), (.sltn d a b, if x.toNat < y.toNat then 1 else 0),
   (.seq d a b, if x = y then 1 else 0), (.addw d a b, ((x + y).setWidth 32).signExtend 64),
   (.subw d a b, ((x - y).setWidth 32).signExtend 64)]

/-- The divisions of R64 with the value each writes for a divisor that is not 0. -/
def divisionOps (s : State) (d a b : BitVec 6) : List (Instr × DWord) :=
  let x := s.getS a
  let y := s.getS b
  [(.div d a b, x.sdiv y), (.divn d a b, x / y), (.rem d a b, x.srem y), (.remn d a b, x % y)]

/-- The immediate operations of R65 with the value each writes to sd. -/
def immediateOps (s : State) (d a : BitVec 6) (i : Imm) : List (Instr × DWord) :=
  let x := s.getS a
  let y := immVal i
  [(.addi d a i, x + y), (.andi d a i, x &&& y), (.ori d a i, x ||| y), (.xori d a i, x ^^^ y),
   (.slti d a i, if x.toInt < y.toInt then 1 else 0), (.sltni d a i, if x.toNat < y.toNat then 1 else 0),
   (.muli d a i, x * y), (.pca d i, s.w.pc + 4 * y)]

/-- The shifts by a constant (R66). -/
def constantShifts (s : State) (d a n : BitVec 6) : List (Instr × DWord) :=
  [(.shli d a n, s.getS a <<< n.toNat), (.shri d a n, s.getS a >>> n.toNat), (.srai d a n, (s.getS a).sshiftRight n.toNat)]

/-- The branches of R67 with their conditions. -/
def branches (s : State) (a b : BitVec 6) (o : Imm) : List (Instr × Prop) :=
  let x := s.getS a
  let y := s.getS b
  [(.beq a b o, x = y), (.bne a b o, x ≠ y), (.blt a b o, x.toInt < y.toInt), (.bge a b o, y.toInt ≤ x.toInt),
   (.bltn a b o, x.toNat < y.toNat), (.bgen a b o, y.toNat ≤ x.toNat)]

end Sys2Proof.Machine

open Sys2Proof Sys2Proof.Machine

/-- R63, R19, R62: every register operation goes on in sequence with its value in sd and no other effect. -/
def Sys2Proof.Machine.RegisterOperationWritesItsResultClaim : Prop :=
  ∀ (s : State) (d a b : BitVec 6), s.noStep → ∀ p ∈ registerOps s d a b, Completes p.1 s d p.2 4

/-- R63: the counts of leading zeros, trailing zeros and set bits. -/
def Sys2Proof.Machine.BitCountsAreCountsClaim : Prop :=
  ∀ (s : State) (d a : BitVec 6), s.noStep →
    (∃ n, clearFromTop (s.getS a) n ∧ Completes (.clz d a) s d (dw n) 4) ∧
    (∃ n, clearFromBottom (s.getS a) n ∧ Completes (.ctz d a) s d (dw n) 4) ∧
    Completes (.pop d a) s d (dw ((List.range 64).filter fun i => (s.getS a).getLsbD i).length) 4

/-- R63, R19, R62: every register operation goes on in sequence with its value in sd and no other effect; the counts of bits among them. -/
def Obligations.RegisterOperationWritesItsResult : Prop :=
  RegisterOperationWritesItsResultClaim ∧ BitCountsAreCountsClaim

/-- R64: a divisor of 0 traps IDIV0 and writes nothing; else quotient or remainder is written. -/
def Obligations.ScalarDivisionWritesOrTraps : Prop :=
  ∀ (s : State) (d a b : BitVec 6), ∀ p ∈ divisionOps s d a b,
    (s.getS b = 0 → Traps p.1 s .idiv0 0) ∧ (s.getS b ≠ 0 → s.noStep → Completes p.1 s d p.2 4)

/-- R65, R66, R20, R21: immediates and shifts by a constant; an extension word widens the immediate to 37 bits. -/
def Obligations.ImmediateOperationWritesItsResult : Prop :=
  (∀ lo, immVal ⟨lo, none⟩ = lo.signExtend 64) ∧ (∀ lo p, (immVal ⟨lo, some p⟩).toInt = (lo.toNat + p.toInt * 2 ^ 13 : Int)) ∧
  ∀ (s : State) (d a n : BitVec 6) (i : Imm), s.noStep →
    (∀ p ∈ immediateOps s d a i, Completes p.1 s d p.2 (if i.ext.isSome then 8 else 4)) ∧
    ∀ p ∈ constantShifts s d a n, Completes p.1 s d p.2 4

/-- R67: a branch passes control to its own address plus four times its offset where its condition holds, else it goes on. -/
def Sys2Proof.Machine.BranchPassesControlOnItsConditionClaim : Prop :=
  ∀ (s : State) (a b : BitVec 6) (o : Imm), s.noStep → ∀ p ∈ branches s a b o, ∃ t, exec p.1 s = .next t ∧
    (p.2 → Retires s t (s.w.pc + 4 * immVal o) true s.w.sVal) ∧
    (¬ p.2 → Retires s t (s.w.pc + dw (if o.ext.isSome then 8 else 4)) false s.w.sVal)

/-- R68, R69, R307: jumps, calls and loops. R68 names s63 as the link of `call`; that the system view's `call` writes t15, which is s63 there,
is a reading (log entry 29). -/
def Sys2Proof.Machine.JumpCallAndLoopPassControlClaim : Prop :=
  ∀ (s : State) (d a : BitVec 6) (o : BitVec 25) (i : Imm), s.noStep →
    (∃ t, exec (.j o) s = .next t ∧ Retires s t (s.w.pc + 4 * o.signExtend 64) true s.w.sVal) ∧
    (∃ t, exec (.call o) s = .next t ∧ Retires s t (s.w.pc + 4 * o.signExtend 64) true (s.regSet 63 (s.w.pc + 4))) ∧
    (let target := s.getS a + immVal i
     (target.toNat % 4 = 0 → ∃ t, exec (.jlr d a i) s = .next t ∧
        Retires s t target true (s.regSet d (s.w.pc + dw (if i.ext.isSome then 8 else 4)))) ∧
     (target.toNat % 4 ≠ 0 → Traps (.jlr d a i) s .misalignCode 0)) ∧
    (let n := s.getS a - 1
     ∃ t, exec (.loop a i) s = .next t ∧
       (n ≠ 0 → Retires s t (s.w.pc + 4 * immVal i) true (s.regSet a n)) ∧
       (n = 0 → Retires s t (s.w.pc + dw (if i.ext.isSome then 8 else 4)) false (s.regSet a n)))

/-- R67, R68, R69, R307: branches, jumps, calls and loops pass control where their rules say, with the link or the count they write. That
`call` in the system view writes its link to t15 is a reading of R68 with R307. It rests on readings of the model that are no rule: log
entry 29. -/
def Obligations.ControlTransferPassesControl : Prop :=
  BranchPassesControlOnItsConditionClaim ∧ JumpCallAndLoopPassControlClaim

namespace Sys2Proof.Machine

/-! Vocabulary of the statements about traps and special registers. -/

/-- The user-view registers that an instruction in either view may read, by number, with their values (R84, R289, R111, R129). -/
def userCsrs (s : State) : List (BitVec 12 × DWord) :=
  [(0x000, dw s.w.widx), (0x001, dw s.w.crewIdx), (0x002, (s.w.shape.setWidth 32).setWidth 64), (0x003, dw (s.w.rows * s.w.cols)),
   (0x004, dw s.w.phase), (0x008, dw s.core.allowance), (0x009, dw s.w.lqCount), (0x010, s.w.cause), (0x011, s.w.epc),
   (0x012, s.w.elpc), (0x013, (s.w.eword.setWidth 32).setWidth 64), (0x014, ((s.w.eword >>> 32).setWidth 32).setWidth 64),
   (0x015, ((s.w.eword >>> 64).setWidth 32).setWidth 64), (0x016, s.w.fva), (0x020, s.w.rngseed),
   (0x021, if s.w.wrapOk then 1 else 0), (0x030, s.w.fptrap.setWidth 64)]

/-- The registers of the system view that may be read, by number, with their values (R308, R292, R323, R366). -/
def systemCsrs (s : State) : List (BitVec 12 × DWord) :=
  [(0x801, s.w.status), (0x802, s.w.rpc), (0x803, dw (s.w.core + Config.deviceIndex.toNat * 2 ^ 16)), (0x840, s.row.xsel),
   (0x841, dw (look 0 s.thresholds s.xselKey)), (0x850, dw (s.row.pinQuota + s.row.pinCount * 2 ^ 24)), (0x852, s.rfmap),
   (0x860, s.w.cpf), (0x861, s.w.cpr), (0x870, s.ctxsel), (0x871, s.ctxctl), (0x872, dw (s.sector (sectorOf s.w.core)).thmin),
   (0x873, dw (bits s.fqsel 0 3 + if (s.rowAt s.ctxSel).locked then 2 ^ 63 else 0)),
   (0x874, (s.rowAt s.ctxSel).leaf (bits s.fqsel 0 3)), (0x875, (s.rowAt s.ctxSel).root), (0x876, (s.rowAt s.ctxSel).skim),
   (0x877, (s.rowAt s.ctxSel).pr), (0x878, (s.rowAt s.ctxSel).vec), (0x879, (s.rowAt s.ctxSel).wdog), (0x880, s.apsel),
   (0x881, look 0 s.apertures s.apsel.toNat)]
  ++ (List.range 16).map fun k => (BitVec.ofNat 12 (0x810 + k), s.w.sVal (48 + k))

/-- Writes of a wave's own special registers, with the wave that each leaves (R84, R111, R129, R308, R315). -/
def waveCsrWrites (w : Wave) (v : DWord) : List (BitVec 12 × Bool × Wave) :=
  [(0x010, true, { w with cause := v &&& 0x3F }), (0x011, true, { w with epc := v }), (0x012, true, { w with elpc := v }),
   (0x013, true, { w with eword := w.eword.extractLsb' 32 64 ++ v.setWidth 32 }),
   (0x014, true, { w with eword := w.eword.extractLsb' 64 32 ++ v.setWidth 32 ++ w.eword.extractLsb' 0 32 }),
   (0x015, true, { w with eword := v.setWidth 32 ++ w.eword.extractLsb' 0 64 }), (0x016, true, { w with fva := v }),
   (0x020, false, { w with rngseed := v }), (0x030, false, { w with fptrap := v.setWidth 4 }),
   (0x021, false, { w with wrapOk := v.getLsbD 0, lq := if v.getLsbD 1 then w.lq ++ [.cmd w.pc 0 w.qcount .rngReset] else w.lq }),
   (0x801, true, { w with drop := v.getLsbD 2, stepArmed := v.getLsbD 3, lstep := v.getLsbD 4 }), (0x802, true, { w with rpc := v })]

/-- Writes of context-table registers and the values each accepts, with the row it leaves (R308, R309, R323, R325, R326). -/
def rowCsrWrites (r : CtxRow) (v : DWord) : List (BitVec 12 × Bool × CtxRow) :=
  [(0x875, v &&& 0xFFFF0000007FFFFE == 0, { r with root := v }), (0x877, v &&& 0x7FFFFFFFFFF00000 == 0, { r with pr := v }),
   (0x878, v &&& 3 == 0, { r with vec := v }), (0x879, v &&& 0xFFFFFFFF00000000 == 0, { r with wdog := v })]

/-- The registers that `csrw` writes in the system view (R84 Table 3, R308 Table 1, R366): every other number is read-only or none. -/
def csrWritable (c : BitVec 12) : Bool :=
  let n := c.toNat
  decide (0x010 ≤ n ∧ n ≤ 0x016) || n == 0x020 || n == 0x021 || n == 0x030 || n == 0x801 || n == 0x802 || decide (0x810 ≤ n ∧ n ≤ 0x81F)
    || n == 0x840 || n == 0x841 || n == 0x850 || n == 0x862 || decide (0x870 ≤ n ∧ n ≤ 0x879) || n == 0x880 || n == 0x881

/-- A value that `sys.ctxskim` accepts: reserved bits clear, and a window that lies in skim space (R309). -/
def skimFits (v : DWord) : Prop := v &&& 0xFF800000FFC0007F = 0 ∧ v.toNat % 2 ^ 22 + v.toNat / 2 ^ 32 % 2 ^ 23 ≤ 2 ^ 22

/-- A value that `sys.apctl` accepts: reserved bits clear, a size of 0 or of 14 to 47 with a base of its alignment, and a home of its class
(R366). -/
def apertureFits (v : DWord) : Prop :=
  let size := v.toNat % 2 ^ 6
  v &&& 0xFC000000000020C0 = 0 ∧
    (size = 0 ∨ (14 ≤ size ∧ size ≤ 47 ∧ v.toNat / 2 ^ 14 % 2 ^ 34 * 2 ^ 14 % 2 ^ size = 0)) ∧
    v.toNat / 2 ^ 48 % 2 ^ 10 < match v.toNat / 2 ^ 11 % 4 with
      | 0 => 576
      | 1 => 12
      | 2 => 4
      | _ => 1

/-- Writes of registers of device units and of the context table, each with the values that it accepts and the state that it leaves; any
other value traps ILLEGAL (R110, R213, R290, R292, R309, R323, R366). -/
def deviceCsrWrites (s : State) (v : DWord) : List (BitVec 12 × Prop × State) :=
  let c := s.ctxsel.toNat
  let r := s.rowAt c
  let x := s.row.xsel.toNat
  let leaf := s.fqsel.toNat % 2 ^ 3
  let fq : DWord := if leaf = 0 then v &&& 0xFFFF else if leaf = 6 then v &&& 0xF else v
  let row (y : CtxRow) : State := { s with ctxs := put {} s.ctxs c y }
  let n := sectorOf s.w.core
  [(0x840, True, { s with ctxs := put {} s.ctxs s.w.ctx { s.row with xsel := v &&& 0x3FF } }),
   (0x841, 1 ≤ x / 2 ^ 4 % 2 ^ 4 ∧ x / 2 ^ 4 % 2 ^ 4 ≤ 9,
     { s with thresholds := put 0 s.thresholds (x % 2 ^ 4 * 64 + x / 2 ^ 4 % 2 ^ 4 * 4 + x / 2 ^ 8 % 2 ^ 2) (v.toNat % 2 ^ 40) }),
   (0x850, True, { s with ctxs := put {} s.ctxs s.w.ctx { s.row with pinQuota := v.toNat % 2 ^ 24 } }),
   (0x870, True, { s with ctxsel := v &&& 0xFFFFFFFF }),
   (0x871, True, row (if s.drained c
     then { r with weight := v.toNat % 2 ^ 8, stop := v.getLsbD 8, repro := v.getLsbD 9, phase := v.toNat / 2 ^ 12 % 2 ^ 16 }
     else { r with weight := v.toNat % 2 ^ 8, stop := v.getLsbD 8 })),
   (0x872, True, { s with sectors := put {} s.sectors n { s.sector n with thmin := v.toNat % 2 ^ 8 } }),
   (0x873, True, { s with fqsel := v &&& 7 }),
   (0x874, True, row (if r.locked then r else { r with fq := put 0 r.fq leaf (fq ^^^ fqReset leaf) })),
   (0x876, skimFits v, if s.drained c then row { r with skim := v } else s),
   (0x880, True, { s with apsel := v &&& 0x3F }),
   (0x881, apertureFits v, { s with apertures := put 0 s.apertures s.apsel.toNat v })]

/-- The opcodes that run in the system view alone (R42, R56, R252, R314, R321, R322, R324). -/
def systemOpcodes (a b : BitVec 6) : List Instr :=
  [.eret, .step, .tlbAll, .tlbVa a, .tlbCtx a, .cacheInv a b, .cacheWbinv a b, .cpRetry a]

/-- The fields of a wave that trap entry with cause `c` writes; every other field is as before (R310, R311, R324). A `task.push` in its wait for
room has written its register and holds its slot (R280), but WATCHDOG abandons it: its register reads as before it (R325). -/
def entersFrom (c : Cause) (w t : Wave) : Prop :=
  (∀ k, t.sVal k = match w.pushWait with
    | some p => if c = .watchdog ∧ k = p.d ∧ k ≠ 0 then p.old else w.sVal k
    | none => w.sVal k) ∧
  t = { w with
    s := t.s, sret := t.sret, v := t.v, pend := t.pend, unch := t.unch, parked := none, trapping := none, blocked := false, barWait := none, wdog := 0, sbGrant := 0
    pushWait := none, pushAt := (w.pushWait.map fun p => { pc := w.pc, push := p, again := c == .watchdog }) <|> w.pushAt
    rng := t.rng, issued := false, qended := t.qended, qbefore := t.qbefore, qheld := t.qheld, qagain := t.qagain, qexp := t.qexp
    qlane := t.qlane, qcount := t.qcount, qahead := t.qahead, qused := t.qused
    swTaken := false, stepping := false, stepWait := t.stepWait, stepArmed := t.stepArmed, kind := t.kind, cause := t.cause, firstCause := t.firstCause, fva := t.fva
    epc := t.epc, elpc := t.elpc, eword := t.eword, rpc := t.rpc, aside := t.aside, lq := [], sys := true, pc := t.pc, jumped := true
    life := .running }

/-- An entry of the lane queue but for its count of the quantum's instructions and the trace its run follows. -/
def Entry.plain : Entry → Entry
  | .run r => .run { r with qmark := 0, traced := false }
  | .cmd a w _ c => .cmd a w 0 c

/-- An entry follows no trace (R343). -/
def Entry.traceless : Entry → Prop
  | .run r => r.traced = false
  | .cmd .. => True

/-- The lane-queue entries that a trap of a kind sets aside (R72, R130, R310): a head run that has executed all its slots is gone, but for a lane
trap's, and so is a reset that has its place ahead of the first entry. -/
def Wave.leftAside (w : Wave) (kind : Nat) : List Entry := (if kind = 1 then w.lq else w.popDone.lq).dropWhile Entry.isReset

/-- Some lane of the virtual grid has the mask register's bit set. -/
def someLane (w : Wave) (k : BitVec 3) : Prop := ∃ L < w.lanes, w.mBit k.toNat L = true

/-- Every lane has it set. -/
def everyLane (w : Wave) (k : BitVec 3) : Prop := ∀ L < w.lanes, w.mBit k.toNat L = true

/-- The lane commands that carry no check at issue but the room of the queue, with what enters it (R72, R137, R257). -/
def plainCommands (n m : BitVec 4) (q : BitVec 3) : List (Instr × Cmd) :=
  [(.dMov n m, .dMov n.toNat m.toNat), (.srStop q, .srStop q.toNat)]

/-- The commands that form an address at issue, with the bytes it is aligned to, the kind of access, and what enters the queue (R137,
R256). -/
def addressCommands (s : State) (n : BitVec 4) (q : BitVec 3) (a : BitVec 6) (i : Imm) (l : Loc) :
    List (Instr × Nat × Acc × Cause × Cmd) :=
  let ea := s.getS a + immVal i
  [(.dLd n a i, 16, .load, .loadFault, .dLd n.toNat ea l), (.dSt n a i, 16, .store, .storeFault, .dSt n.toNat l),
   (.srBind q a i, 32, .load, .loadFault, .srBind q.toNat ea l s.w.sys)]

/-- The copy commands (R243). -/
def copyCommands (d a b : BitVec 6) (n : BitVec 4) (c : BitVec 3) : List (Instr × CopyKind) :=
  [(.cpPlane d a b n c, .plane), (.cpPlaneSw d a b n c, .planeSw), (.cpStore d a b n c, .store), (.cpSkim d a b n c, .skim),
   (.cpFill d a b n c, .fill)]

/-- The wave with a command of the instruction behind its lane queue (R72). -/
def Wave.queued (w : Wave) (i : Instr) (c : Cmd) : Wave := { w with lq := w.lq ++ [.cmd w.pc (wordOf i) w.qcount c] }

/-- `u` is `s` but for what a translated access leaves in TLBs and in fills whose walk it has ended, and the packets of its walk (R195, R347,
R349). -/
def tlbOnly (s u : State) : Prop :=
  u = { s with cores := u.cores, sectors := u.sectors, flows := u.flows, jam := u.jam } ∧
    (∀ n, u.coreAt n = { s.coreAt n with dtlb := (u.coreAt n).dtlb, ctlb := (u.coreAt n).ctlb, fills := (u.coreAt n).fills }) ∧
    ∀ n, u.sector n = { s.sector n with tlb := (u.sector n).tlb, seen := (u.sector n).seen }

end Sys2Proof.Machine

/-- R309, R310, R311, R312, R72, R130, R343: a trap met in the user view enters the handler that its context's row named when it was met. -/
def Sys2Proof.Machine.UserTrapEntersTheHandlerClaim : Prop :=
  ∀ (s : State) (kind : Nat) (c : Cause) (fva at' : DWord) (word : BitVec 96) (vec : DWord),
    kind ≤ 2 → s.w.sys = false → vec ≠ 0 → (s.w.trapBusy = false →
      s.raise kind c fva at' word = (s.endsWalks c fva).enterTrap kind c fva at' word s.row.vec) ∧
    let t := s.enterTrap kind c fva at' word vec
    entersFrom c s.w t.w ∧ t.w.pc = vec ∧ t.w.rpc = s.w.pc ∧ t.w.kind.toNat = kind ∧ t.w.cause = dw c.code ∧ t.w.fva = fva ∧
    t.w.aside.map Entry.plain = (s.w.leftAside kind).map Entry.plain ∧ (∀ e ∈ t.w.aside, e.traceless) ∧
    t.w.rng = (if (s.w.leftAside kind).length < (if kind = 1 then s.w.lq else s.w.popDone.lq).length then [] else s.w.rng) ∧
    (kind = 0 → t.w.epc = s.w.pc ∧ t.w.elpc = { s.w with lq := s.w.leftAside 0 }.resume ∧ t.w.eword = 0) ∧
    (kind = 1 → t.w.epc = s.w.pc ∧ t.w.elpc = at' ∧ t.w.eword = word) ∧
    (kind = 2 → t.w.epc = at' ∧ t.w.elpc = 0 ∧ t.w.eword = word) ∧
    t.w.pend = [] ∧ t = { s with w := t.w, cores := t.cores }

/-- R313: a trap in the system view, or one with no handler, kills every wave of the crew and changes no memory. -/
def Sys2Proof.Machine.UnhandledTrapKillsTheCrewClaim : Prop :=
  ∀ (s : State) (kind : Nat) (c : Cause) (fva at' : DWord) (word : BitVec 96) (k : Crew),
    s.crewOf s.w.crew = some k → (s.w.sys = true ∨ (s.w.trapBusy = false ∧ s.row.vec = 0)) →
    let t := s.raise kind c fva at' word
    (∀ n ∈ k.waves, (t.wave n).life = .killed ∧ (t.wave n).lq = [] ∧ (t.wave n).stq = []) ∧
    t.mem = s.mem ∧ t.hostMem = s.hostMem ∧ t.skim = s.skim ∧ t.ctxs = s.ctxs ∧ t.counters = s.counters ∧
    (t.crewOf s.w.crew).map Crew.killed = some true ∧
    (look {} t.events (evKey 1 k.sector)).seq = (look {} s.events (evKey 1 k.sector)).seq + 1

/-- R310, R184, R121, R309: a trap met while its wave has dot-path work or held results under way enters at TRAP_ENTRY, once they have ended,
with the handler that stood when the trap was met. -/
def Sys2Proof.Machine.TrapWaitsForSweepsClaim : Prop :=
  ∀ (s : State) (x : TrapReq), s.w.sys = false →
    (s.w.trapBusy = true → x.vec = s.row.vec →
      s.raise x.kind x.cause x.fva x.place x.word = { s.endsWalks x.cause x.fva with w := { s.w with trapping := some x } }) ∧
    (s.w.trapping = some x → s.w.trapBusy = true → exec .trapEntry s = .next s) ∧
    (s.w.trapping = some x → s.w.trapBusy = false →
      exec .trapEntry s = .next (s.enterTrap x.kind x.cause x.fva x.place x.word x.vec))

/-- R310 to R313: a trap of the user view enters the handler, once unbound dot-path work has ended; one that nothing can handle kills the
crew. It rests on readings of the model that are no rule: log entries 12, 30, 68, 108. -/
def Obligations.TrapEntryFollowsItsSteps : Prop :=
  UserTrapEntersTheHandlerClaim ∧ UnhandledTrapKillsTheCrewClaim ∧ TrapWaitsForSweepsClaim

/-- R316: `sys` and `brk` take SYSCALL and BREAK with their immediate in `ctl.fva`. -/
def Sys2Proof.Machine.SystemCallAndBreakpointEnterTheHandlerClaim : Prop :=
  ∀ (s : State) (i : BitVec 13), s.w.sys = false → s.w.trapBusy = false → s.row.vec ≠ 0 →
    ∀ p ∈ [(Instr.sys i, (0x0B : DWord)), (Instr.brk i, 0x0A)], ∃ t, exec p.1 s = .next t ∧
      t.w.sys = true ∧ t.w.pc = s.row.vec ∧ t.w.cause = p.2 ∧ t.w.fva = i.setWidth 64 ∧ t.w.epc = s.w.pc ∧ t.w.rpc = s.w.pc ∧
      t.w.kind = 0 ∧ (∀ k, t.w.sVal k = s.w.sVal k) ∧ t = { s with w := t.w, cores := t.cores } ∧
      entersFrom (if p.2 = 0x0B then .syscall else .brk) s.w t.w

/-- R314: `eret` resumes both streams of the user view. That an arrival at a `crew.bar` is kept for its own word alone, a claim of a
`task.push` likewise, and a `qskip` under way where the lane stream resumes in its slot, are the model's choices (log entries 21, 68,
93), and so are the counts of the quantum (log entry 108). It rests on readings of the model that are no rule: log entries 21, 68, 93,
108. -/
def Obligations.EretResumesTheStreams : Prop :=
  ∀ s : State, s.w.sys = true → s.lanesWait = .ok () →
    (∀ r rest, s.w.aside = .run r :: rest → s.w.drop = false → s.w.elpc ≠ 0 →
      bits s.w.elpc 4 3 = 0 ∧ bits s.w.elpc 0 4 < 10) →
    let n := s.w.qcount + if s.repro then 1 else 0
    let past := (s.w.qended || s.w.qheld) && !s.w.qlane && decide (s.w.quantum < n + s.w.qahead)
    ∃ t, exec .eret s = .next t ∧ t.w.sys = false ∧ t.w.pc = (if s.w.kind = 2 then s.w.rpc else s.w.epc) ∧ t.w.drop = false ∧
      t.w.aside = [] ∧ t.w.stepping = s.w.stepArmed ∧ (∀ k, t.w.sVal k = s.w.sVal k) ∧ t = { s with w := t.w } ∧
      t.w = { s.w with drop := false, sys := false, lq := t.w.lq, aside := [], pc := t.w.pc, jumped := true, wdog := 0, blocked := false
                       laneBlocked := false, stepWait := false, stepping := s.w.stepArmed, q := t.w.q, qcount := n + s.w.qahead, qahead := 0
                       qused := s.w.qused || s.repro, qended := s.w.qended || s.w.qheld, qheld := false
                       qexp := s.w.qexp || past, qagain := s.w.qagain || past
                       barAt := s.w.barAt.filter fun x => x.1 == t.w.pc, pushAt := s.w.pushAt.filter fun x => x.pc == t.w.pc } ∧
      (s.w.firstCause ≠ .streamFault → t.w.q = s.w.q) ∧
      (s.w.aside = [] → t.w.lq = []) ∧
      (∀ e rest, s.w.aside = e :: rest → s.w.drop = true → t.w.lq = rest.map (Entry.behind n)) ∧
      (∀ e rest, s.w.aside = e :: rest → s.w.drop = false → s.w.elpc = 0 → t.w.lq = (e :: rest).map (Entry.behind n)) ∧
      (∀ r rest h, s.w.aside = .run r :: rest → s.w.drop = false → s.w.elpc ≠ 0 → Block.highest r.image = some h →
        (bits s.w.elpc 0 4 ≤ h → t.w.lq = (.run { r with
            slot := bits s.w.elpc 0 4, ran := true, traced := false
            skip := if bits s.w.elpc 0 4 = r.slot then r.skip else none } :: rest).map (Entry.behind n)) ∧
        (h < bits s.w.elpc 0 4 → t.w.lq = rest.map (Entry.behind n)))

/-- R42: an opcode of the system view traps PRIV in the user view. -/
def Sys2Proof.Machine.SystemOpcodeTrapsPrivInTheUserViewClaim : Prop :=
  ∀ (s : State) (a b : BitVec 6), s.w.sys = false → ∀ i ∈ systemOpcodes a b, Traps i s .priv 0

/-- R83, R84, R308, R42: what `csrr` reads, and where it traps. -/
def Sys2Proof.Machine.CsrReadGivesTheRegisterClaim : Prop :=
  ∀ (s : State) (d : BitVec 6), s.noStep →
    (∀ p ∈ userCsrs s, Completes (.csrr d p.1) s d p.2 4) ∧
    (s.w.sys = true → ∀ p ∈ systemCsrs s, Completes (.csrr d p.1) s d p.2 4) ∧
    (s.w.sys = false → ∀ p ∈ systemCsrs s, Traps (.csrr d p.1) s .priv 0) ∧
    (∀ c, c ∉ (userCsrs s).map Prod.fst → c ∉ (systemCsrs s).map Prod.fst → Traps (.csrr d c) s .illegal 0)

/-- R83, R84, R110, R264, R308, R309, R366: what `csrw` leaves of each register that may be written, which values trap ILLEGAL, and where the
register's number does. -/
def Sys2Proof.Machine.CsrWriteSetsTheRegisterClaim : Prop :=
  ∀ (s : State) (a : BitVec 6), s.noStep →
    (∀ p ∈ waveCsrWrites s.w (s.getS a), p.1 ≠ 0x801 →
      (s.w.sys = true ∨ p.2.1 = false) → Passes (.csrw a p.1) s { s with w := p.2.2 } 4) ∧
    (∀ p ∈ waveCsrWrites s.w (s.getS a), s.w.sys = false → p.2.1 = true → Traps (.csrw a p.1) s .priv 0) ∧
    (s.w.sys = true → s.w.stepping = false → Passes (.csrw a 0x801) s
      { s with w := { s.w with drop := (s.getS a).getLsbD 2, stepArmed := (s.getS a).getLsbD 3, lstep := (s.getS a).getLsbD 4 } } 4) ∧
    (s.w.sys = true → ∀ p ∈ rowCsrWrites (s.rowAt s.ctxSel) (s.getS a),
      (p.2.1 = true → Passes (.csrw a p.1) s { s with ctxs := put {} s.ctxs s.ctxSel p.2.2 } 4) ∧
      (p.2.1 = false → Traps (.csrw a p.1) s .illegal 0)) ∧
    (s.w.sys = true → ∀ k < 16, ∃ t, exec (.csrw a (BitVec.ofNat 12 (0x810 + k))) s = .next t ∧
      Retires s t (s.w.pc + 4) false fun j => if j = 48 + k then s.getS a else s.w.sVal j) ∧
    (s.w.sys = true → ∀ p ∈ deviceCsrWrites s (s.getS a),
      (p.2.1 → Passes (.csrw a p.1) s p.2.2 4) ∧ (¬ p.2.1 → Traps (.csrw a p.1) s .illegal 0)) ∧
    (s.w.sys = true → s.qregWaits (s.getS a) = false → ∀ u, exec (if (s.getS a).getLsbD 0 then .queueUnregister (s.getS a) else .queueRegister (s.getS a)) s = .next u →
      Passes (.csrw a 0x862) s u 4) ∧
    (s.w.sys = true → s.qregWaits (s.getS a) = true → exec (.csrw a 0x862) s = .next { s with w := { s.w with blocked := true } }) ∧
    (s.w.sys = false → ∀ c, csrWritable c = true → 0x800 ≤ c.toNat → Traps (.csrw a c) s .priv 0) ∧
    (∀ c, csrWritable c = false → Traps (.csrw a c) s .illegal 0)

/-- R83, R84, R308, R309, R42: what `csrr` reads, what `csrw` leaves, and where each traps. It rests on readings of the model that are no
rule: log entries 9, 14, 35, 36, 59, 78, 107. -/
def Obligations.SpecialRegisterReadAndWrite : Prop :=
  CsrReadGivesTheRegisterClaim ∧ CsrWriteSetsTheRegisterClaim

/-- R76, R77, R78, R79, R137: the waiting instructions, once every lane-queue entry has completed. It rests on readings of the model that
are no rule: log entries 25, 97. -/
def Obligations.WaitingInstructionReadsLaneState : Prop :=
  ∀ (s : State) (d a : BitVec 6) (k : BitVec 3) (n : BitVec 9) (m : BitVec 4) (f : BitVec 7), s.noStep → s.lanesWait = .ok () →
    (someLane s.w k → Completes (.lany d k) s d 1 4) ∧ (¬ someLane s.w k → Completes (.lany d k) s d 0 4) ∧
    (everyLane s.w k → Completes (.lall d k) s d 1 4) ∧ (¬ everyLane s.w k → Completes (.lall d k) s d 0 4) ∧
    Completes (.lcount d k) s d (dw ((List.range s.w.lanes).filter fun L => s.w.mBit k.toNat L).length) 4 ∧
    (n.toNat < s.w.regs → Completes (.lread d a n) s d
      (if (s.getS a).toNat < s.w.lanes then (s.w.v32 n.toNat (s.getS a).toNat).setWidth 64 else 0) 4) ∧
    (scatterWait s = .ok () → Passes .lsync s s 4) ∧
    (f.toNat < 9 → Completes (.dGet d m f) s d (getField (s.w.dReg m.toNat) f.toNat) 4)

/-- R78, R137, R323: where a register number or a field selector is out of range the instruction traps. -/
def Sys2Proof.Machine.SelectorOutOfRangeTrapsClaim : Prop :=
  ∀ (s : State) (d a : BitVec 6) (n : BitVec 9) (m : BitVec 4) (f : BitVec 7) (i : BitVec 13),
    (s.w.regs ≤ n.toNat → Traps (.lread d a n) s .regrange 0) ∧ (9 ≤ f.toNat → Traps (.dGet d m f) s .illegal 0) ∧
    (9 ≤ f.toNat → Traps (.dSet m a f) s .illegal 0) ∧ (8 ≤ i.toNat → Traps (.fq d i) s .illegal 0)

/-- R76: a waiting instruction with lane work left changes nothing but the mark that its wave is not ready. -/
def Sys2Proof.Machine.WaitingInstructionWaitsClaim : Prop :=
  ∀ (s : State) (d : BitVec 6) (k : BitVec 3), s.w.lanesDone = false →
    ∀ i ∈ [Instr.lany d k, .lall d k, .lcount d k, .lsync], exec i s = .next { s with w := { s.w with blocked := true } }

/-- R72, R74, R75, R25, R73, R347, R358: `lexec` appends a run with the scalar registers it captures, and waits for room and for its block. -/
def Obligations.LexecAppendsARun : Prop :=
  ∀ (s : State) (a c : BitVec 6) (i : Imm), s.noStep →
    let target := s.getS a + immVal i
    let len := if i.ext.isSome then 8 else 4
    (bits target 4 3 = 0 → bits target 0 4 < 10 → s.w.lqCount < 32 → s.blockWaits (target.toNat / 128 * 128) = false →
      ∃ (u : State) (r : Run), Passes (.lexec a i) s u len ∧ (s.getS c ≠ 0 → Passes (.lexecC c a i) s u len) ∧
        u.w = { s.w with lq := s.w.lq ++ [.run r] } ∧
        u = { s with w := u.w, cores := u.cores, sectors := u.sectors, flows := u.flows, jam := u.jam } ∧
        (∀ n, u.coreAt n = { s.coreAt n with ctlb := (u.coreAt n).ctlb, lcc := (u.coreAt n).lcc, slalom := (u.coreAt n).slalom
                                             trowelPending := (u.coreAt n).trowelPending, fills := (u.coreAt n).fills }) ∧
        (∀ n, u.sector n = { s.sector n with tlb := (u.sector n).tlb, seen := (u.sector n).seen }) ∧
        r.target = target ∧ r.slot = bits target 0 4 ∧ r.started = false ∧ r.seed = s.w.rngseed ∧ r.fptrap = s.w.fptrap ∧
        (∀ k : BitVec 6, look 0 r.regs k.toNat = s.getS k) ∧
        ((s.block (target.toNat / 128 * 128)).isNone → r.bad = some (dw (target.toNat / 128 * 128))) ∧
        ∀ x image, s.block (target.toNat / 128 * 128) = some (x, image) → r.image = image ∧ r.bad = none) ∧
    (s.getS c ≠ 0 → exec (.lexecC c a i) s = exec (.lexec a i) s) ∧ (s.getS c = 0 → Passes (.lexecC c a i) s s len) ∧
    (bits target 4 3 ≠ 0 ∨ 10 ≤ bits target 0 4 → Traps (.lexec a i) s .misalignCode 0) ∧
    (bits target 4 3 = 0 → bits target 0 4 < 10 → (32 ≤ s.w.lqCount ∨ s.blockWaits (target.toNat / 128 * 128) = true) →
      exec (.lexec a i) s = .next { s with w := { s.w with blocked := true } })

/-- R72, R137, R170, R171, R243, R244, R256, R257: a lane command takes the next entry of the lane queue with what it captures at issue. -/
def Obligations.LaneCommandTakesAQueueEntry : Prop :=
  ∀ (s : State) (d a b : BitVec 6) (n m : BitVec 4) (q c : BitVec 3) (p : BitVec 1) (f : BitVec 7) (i : Imm), s.noStep →
    s.w.lqCount < 32 →
    (∀ x ∈ plainCommands n m q, Passes x.1 s { s with w := s.w.queued x.1 x.2 } 4) ∧
    (∀ e, s.maps (s.getS a + immVal i) e →
      let ea := s.getS a + immVal i
      ∀ x ∈ addressCommands s n q a i (e.at ea.toNat), ea.toNat % x.2.1 = 0 → e.permits x.2.2.1 s.w.sys = true →
        ∃ u, Passes x.1 s u (if i.ext.isSome then 8 else 4) ∧ u.w = s.w.queued x.1 x.2.2.2.2 ∧
          tlbOnly { s with w := u.w } u) ∧
    (f.toNat < 9 → fieldOk f.toNat (s.getS a) = true →
      Passes (.dSet n a f) s { s with w := s.w.queued (.dSet n a f) (.dSet n.toNat f.toNat (s.getS a)) } 4) ∧
    (p.toNat < s.w.accPlanes → Passes (.accClr p) s { s with w := s.w.queued (.accClr p) (.accClr p.toNat) } 4) ∧
    (p.toNat < s.w.accPlanes → -512 ≤ (s.getS a).toInt → (s.getS a).toInt ≤ 511 →
      Passes (.accAnc p a) s { s with w := s.w.queued (.accAnc p a) (.accAnc p.toNat ((s.getS a).setWidth 10)) } 4) ∧
    ∀ x ∈ copyCommands d a b n c, ∃ u, CompletesIn x.1 s u d (dw s.w.ticket) 4 ∧
      u.w = { s.w.queued x.1 (.copy { kind := x.2, ticket := s.w.ticket, base := s.getS a, view := s.getS b, dn := n.toNat, circ := c
                                      sys := s.w.sys }) with
              ticket := s.w.ticket + 1, ops := u.w.ops, s := u.w.s, sret := u.w.sret } ∧
      u = { s with w := u.w } ∧
      ∃ o : CopyOp, u.w.ops = s.w.ops ++ [o] ∧ o.cmd.ticket = s.w.ticket ∧ o.cmd.kind = x.2 ∧ o.accepted = false ∧ o.done = false

/-- R137, R160, R171, R200, R245, R256: the checks of a lane command at issue; one that fails traps and nothing is enqueued. -/
def Sys2Proof.Machine.LaneCommandIssueTrapsClaim : Prop :=
  ∀ (s : State) (a : BitVec 6) (n : BitVec 4) (q : BitVec 3) (p : BitVec 1) (f : BitVec 7) (i : Imm) (l : Loc),
    let ea := s.getS a + immVal i
    (∀ x ∈ addressCommands s n q a i l, ea.toNat % x.2.1 ≠ 0 → Traps x.1 s .align ea) ∧
    (∀ x ∈ addressCommands s n q a i l, ea.toNat % x.2.1 = 0 → s.unmapped ea → Traps x.1 s x.2.2.2.1 ea) ∧
    (∀ e, s.maps ea e → ∀ x ∈ addressCommands s n q a i l, ea.toNat % x.2.1 = 0 →
      e.permits x.2.2.1 s.w.sys = false → Traps x.1 s .perm ea) ∧
    (f.toNat < 9 → fieldOk f.toNat (s.getS a) = false → Traps (.dSet n a f) s .desc (dw (n.toNat + f.toNat * 16 + 7 * 512))) ∧
    (s.w.accPlanes ≤ p.toNat → Traps (.accClr p) s .regrange 0 ∧ Traps (.accAnc p a) s .regrange 0) ∧
    (p.toNat < s.w.accPlanes → ((s.getS a).toInt < -512 ∨ 511 < (s.getS a).toInt) →
      Traps (.accAnc p a) s .anchor (dw (2 * 512 + if p = 1 then 16 else 0)))

/-- R42, R78, R137, R160, R171, R200, R245, R256, R323: the checks that trap at issue, before any effect. It rests on readings of the model
that are no rule: log entry 97. -/
def Obligations.InstructionTrapsAtIssue : Prop :=
  SystemOpcodeTrapsPrivInTheUserViewClaim ∧ SelectorOutOfRangeTrapsClaim ∧ LaneCommandIssueTrapsClaim

namespace Sys2Proof.Machine

/-! Vocabulary of the statements about memory and the other scalar instructions. -/

/-- The scalar loads with their bytes and whether they extend the sign (R197). -/
def scalarLoads (d a : BitVec 6) (i : Imm) : List (Instr × Nat × Bool) :=
  [(.ldb d a i, 1, true), (.ldbn d a i, 1, false), (.ldh d a i, 2, true), (.ldhn d a i, 2, false), (.ldw d a i, 4, true),
   (.ldwn d a i, 4, false), (.ldd d a i, 8, false)]

/-- The scalar stores with their bytes (R197). -/
def scalarStores (d a : BitVec 6) (i : Imm) : List (Instr × Nat) := [(.stb d a i, 1), (.sth d a i, 2), (.stw d a i, 4), (.std d a i, 8)]

/-- The scalar atomics with their operation codes (R57, R206). -/
def scalarAtomics (d a b : BitVec 6) (w : Bool) (o : BitVec 2) : List (Instr × Nat) :=
  [(.atomAdd d a b w o, 0), (.atomAnd d a b w o, 1), (.atomOr d a b w o, 2), (.atomXor d a b w o, 3), (.atomMin d a b w o, 4),
   (.atomMax d a b w o, 5), (.atomMinn d a b w o, 6), (.atomMaxn d a b w o, 7), (.atomSwap d a b w o, 8), (.atomCas d a b w o, 9)]

/-- Every byte memory reads as before, at every address, and so do version stamps, poison and host memory. -/
def sameBytes (s t : State) : Prop :=
  (∀ a, readByte t.mem a = readByte s.mem a) ∧ (∀ a, readByte t.hostMem a = readByte s.hostMem a) ∧
    (∀ a, readByte t.skim a = readByte s.skim a) ∧ t.stamps = s.stamps ∧ t.poison = s.poison

/-- Device memory reads as before outside `n` bytes from an address; host memory and skim space read as before. -/
def sameBytesBut (s t : State) (a n : Nat) : Prop :=
  (∀ x, x < a ∨ a + n ≤ x → readByte t.mem x = readByte s.mem x) ∧ (∀ x, readByte t.hostMem x = readByte s.hostMem x) ∧
    ∀ x, readByte t.skim x = readByte s.skim x

/-- The lane-side state of a wave, its special registers and its life are as before. -/
def sameWave (w t : Wave) : Prop :=
  t.v = w.v ∧ t.m = w.m ∧ t.d = w.d ∧ t.acc = w.acc ∧ t.anchor = w.anchor ∧ t.lm = w.lm ∧ t.rng = w.rng ∧ t.q = w.q ∧ t.lq = w.lq ∧
    t.sys = w.sys ∧ t.cause = w.cause ∧ t.epc = w.epc ∧ t.elpc = w.elpc ∧ t.eword = w.eword ∧ t.fva = w.fva ∧ t.rpc = w.rpc ∧
    t.kind = w.kind ∧ t.rngseed = w.rngseed ∧ t.fptrap = w.fptrap ∧ t.wrapOk = w.wrapOk ∧ t.life = w.life ∧ t.ticket = w.ticket

/-- What a translated access that fills caches may leave: TLBs, fills whose walk it has ended, L1 lines of both paths, copy vectors, installs, the
counts of flows, and the choice of a way. -/
def cachesOnly (s u : State) : Prop :=
  u = { s with cores := u.cores, sectors := u.sectors, vec := u.vec, vecHome := u.vecHome, installs := u.installs, flows := u.flows
               jam := u.jam, free := u.free } ∧
    (∀ n, u.coreAt n = { s.coreAt n with dtlb := (u.coreAt n).dtlb, ctlb := (u.coreAt n).ctlb, l1 := (u.coreAt n).l1
                                         ro := (u.coreAt n).ro, fills := (u.coreAt n).fills }) ∧
    ∀ n, u.sector n = { s.sector n with tlb := (u.sector n).tlb, seen := (u.sector n).seen }

/-- No store of a list holds the byte at an address of a space. -/
def holdsNot (es : List StoreEntry) (l : Loc) (a : Nat) : Prop := ∀ e ∈ es, e.loc.sameSpace l = true → ∀ c ∈ e.cells, c.1 ≠ a

/-- The wait of the ordered forms of a scalar atomic with this order field (R206). -/
def orderReady (s : State) (o : BitVec 2) : Prop := o.getLsbD 1 = true → s.storesAcked = true

end Sys2Proof.Machine

/-- R197, R62, R188: a scalar load sends the extended bytes to its register, and nothing else changes but caches. -/
def Sys2Proof.Machine.ScalarLoadSendsTheBytesClaim : Prop :=
  ∀ (s : State) (d a : BitVec 6) (i : Imm) (e : TlbEntry), s.noStep → reproWait s = .ok () →
    let ea := s.getS a + immVal i
    let l := e.at ea.toNat
    s.maps ea e → e.permits .load s.w.sys = true → l.kind ≠ .peer →
    ∀ x ∈ scalarLoads d a i, ea.toNat % x.2.1 = 0 → (s.fromHome l x.2.1 && !s.missOpen s.w.core l) = false →
      s.poisoned l x.2.1 = false →
      ∃ u, CompletesIn x.1 s u d
        (if x.2.2 then (BitVec.ofNat (8 * x.2.1) (s.lsLe l l.addr x.2.1)).signExtend 64 else dw (s.lsLe l l.addr x.2.1))
        (if i.ext.isSome then 8 else 4) ∧ cachesOnly { s with w := u.w } u ∧ u.w = { s.w with sret := u.w.sret }

/-- R193, R197, R224: a load takes the youngest byte that its wave's store queue holds for the address, else the youngest of its core's stores
under way, else the L1 line, else the byte at the home; off device pages host memory's byte. -/
def Sys2Proof.Machine.LoadForwardsTheYoungestStoreClaim : Prop :=
  ∀ (s : State) (l : Loc) (a : Nat), s.w.buf = [] →
    (∀ older e younger b, s.w.stq = older ++ e :: younger → e.loc.sameSpace l = true →
      (e.cells.find? fun c => c.1 == a) = some (a, b) → holdsNot younger l a → s.lsByte l a = b) ∧
    (∀ older e younger b, holdsNot s.w.stq l a → s.core.inflight = older ++ e :: younger → e.loc.sameSpace l = true →
      (e.cells.find? fun c => c.1 == a) = some (a, b) → holdsNot younger l a → s.lsByte l a = b) ∧
    (holdsNot s.w.stq l a → holdsNot s.core.inflight l a →
      (∀ m, l.kind = .device → look? s.core.l1 (a / 128) = some m → s.lsByte l a = readByte m a) ∧
      (l.kind = .device → look? s.core.l1 (a / 128) = none → s.lsByte l a = readByte s.mem a) ∧
      (l.kind ≠ .device → s.lsByte l a = readByte s.hostMem a))

/-- R62, R188, R193, R197, R224: a scalar load sends the extended bytes to its register, the youngest of its own wave's and core's stores
first. It rests on readings of the model that are no rule: log entries 6, 44. -/
def Obligations.ScalarLoadSendsTheBytes : Prop :=
  ScalarLoadSendsTheBytesClaim ∧ LoadForwardsTheYoungestStoreClaim

/-- R197, R224: a scalar store puts its little-endian bytes behind its wave's store queue, and no memory changes. -/
def Sys2Proof.Machine.ScalarStoreEntersTheStoreQueueClaim : Prop :=
  ∀ (s : State) (d a : BitVec 6) (i : Imm) (e : TlbEntry), s.noStep → s.repro = false →
    let ea := s.getS a + immVal i
    let l := e.at ea.toNat
    s.maps ea e → e.permits .store s.w.sys = true → s.w.stq.length < 64 →
    ∀ x ∈ scalarStores d a i, ea.toNat % x.2 = 0 →
      ∃ u, Passes x.1 s u (if i.ext.isSome then 8 else 4) ∧
        u.w = { s.w with stq := s.w.stq ++ [{ id := s.nextId, wave := s.wid, loc := l, cells := u.w.stq.getLast?.elim [] (·.cells) }] } ∧
        (∀ c ∈ u.w.stq.getLast?, c.cells = (List.range x.2).map fun k => (l.addr + k, (s.getS d).extractLsb' (8 * k) 8)) ∧
        tlbOnly { s with w := u.w, nextId := s.nextId + 1 } u

/-- R232, R297: in a reproducible context a scalar store with room goes to its wave's commit buffer. -/
def Sys2Proof.Machine.ReproducibleStoreEntersTheCommitBufferClaim : Prop :=
  ∀ (s : State) (d a : BitVec 6) (i : Imm) (e : TlbEntry), s.noStep → s.repro = true → s.lanesWait = .ok () →
    let ea := s.getS a + immVal i
    let l := e.at ea.toNat
    s.maps ea e → e.permits .store s.w.sys = true →
    ∀ x ∈ scalarStores d a i, ea.toNat % x.2 = 0 →
      let item := BufItem.bytes l (leCells l.addr x.2 (s.getS d).toNat)
      (bufCharge (s.w.buf ++ [item]) ≤ 512 →
        ∃ u, Passes x.1 s u (if i.ext.isSome then 8 else 4) ∧ u.w = { s.w with buf := s.w.buf ++ [item] } ∧
          tlbOnly { s with w := u.w } u) ∧
      (512 < bufCharge (s.w.buf ++ [item]) → s.w.qused = true →
        exec x.1 s = .next { s with w := { s.w with qended := true, qbefore := true, blocked := true } }) ∧
      (512 < bufCharge (s.w.buf ++ [item]) → s.w.qused = false → Traps x.1 s .commitOverflow (dw (bufCharge [item])))

/-- R197, R224, R232, R297: a scalar store enters the store queue, or in a reproducible context the commit buffer. -/
def Obligations.ScalarStoreEntersItsQueue : Prop :=
  ScalarStoreEntersTheStoreQueueClaim ∧ ReproducibleStoreEntersTheCommitBufferClaim

/-- R197, R200, R188, R320, R365: a scalar access, the accesses of `ldv` and `cst4` and of its entries among them, that is misaligned, does not
translate or is not permitted traps and has no effect. -/
def Obligations.ScalarAccessTrapsBeforeAnyEffect : Prop :=
  ∀ (s : State) (d a b : BitVec 6) (w : Bool) (o : BitVec 2) (i : Imm), reproWait s = .ok () →
    let ea := s.getS a + immVal i
    (∀ x ∈ scalarLoads d a i, (ea.toNat % x.2.1 ≠ 0 → Traps x.1 s .align ea) ∧
      (ea.toNat % x.2.1 = 0 → s.unmapped ea → Traps x.1 s .loadFault ea) ∧
      ∀ e, ea.toNat % x.2.1 = 0 → s.maps ea e → e.permits .load s.w.sys = false → Traps x.1 s .perm ea) ∧
    (∀ x ∈ scalarStores d a i, (ea.toNat % x.2 ≠ 0 → Traps x.1 s .align ea) ∧
      (ea.toNat % x.2 = 0 → s.unmapped ea → Traps x.1 s .storeFault ea) ∧
      ∀ e, ea.toNat % x.2 = 0 → s.maps ea e → e.permits .store s.w.sys = false → Traps x.1 s .perm ea) ∧
    (∀ x ∈ scalarAtomics d a b w o, ((s.getS a).toNat % (if w then 8 else 4) ≠ 0 → Traps x.1 s .align (s.getS a)) ∧
      ((s.getS a).toNat % (if w then 8 else 4) = 0 → s.unmapped (s.getS a) → Traps x.1 s .storeFault (s.getS a)) ∧
      ∀ e, (s.getS a).toNat % (if w then 8 else 4) = 0 → s.maps (s.getS a) e → e.permits .atomic s.w.sys = false →
        Traps x.1 s .perm (s.getS a)) ∧
    (ea.toNat % 4 ≠ 0 → Traps (.ldv d a i) s .align ea) ∧ (ea.toNat % 4 = 0 → s.unmapped ea → Traps (.ldv d a i) s .loadFault ea) ∧
    (∀ e, ea.toNat % 4 = 0 → s.maps ea e → e.permits .load s.w.sys = false → Traps (.ldv d a i) s .perm ea) ∧
    (let rec' := s.getS a
     let n := (s.getS b).toNat
     (rec'.toNat % 128 ≠ 0 → Traps (.cst4 d a b) s .align rec') ∧
     (rec'.toNat % 128 = 0 → s.storesAcked = true → 0 < n → n ≤ 4 →
       (s.unmapped rec' → Traps (.cst4 d a b) s .loadFault rec') ∧
       ∀ e, s.maps rec' e → (e.permits .load s.w.sys = false → Traps (.cst4 d a b) s .perm rec') ∧
         (let l := e.at rec'.toNat
          let es := (List.range n).map (cstEntry (BitVec.ofNat 1024 (s.lsLe l l.addr 128)))
          e.permits .load s.w.sys = true → l.kind ≠ .peer → (s.fromHome l 128 && !s.missOpen s.w.core l) = false →
          s.poisoned l 128 = false → (∀ x ∈ es, x.ok = true) →
          ∀ k x ls, es[k]? = some x → cstLocs s (es.take k) = .ok ls →
            (x.addr % (if x.wide then 8 else 4) ≠ 0 → Traps (.cst4 d a b) s .align (dw x.addr)) ∧
            (x.addr % (if x.wide then 8 else 4) = 0 → s.unmapped (dw x.addr) → Traps (.cst4 d a b) s .storeFault (dw x.addr)) ∧
            ∀ y, x.addr % (if x.wide then 8 else 4) = 0 → s.maps (dw x.addr) y → y.permits .store s.w.sys = false →
              Traps (.cst4 d a b) s .perm (dw x.addr))))

/-- R206: the value each atomic leaves, on 64 bits and on 32. -/
def Sys2Proof.Machine.AtomicOperationGivesTheNewValueClaim : Prop :=
  (∀ x y c : DWord, let f (op : Nat) := atomNew op 64 x.toNat y.toNat c.toNat
    f 0 = some (x + y).toNat ∧ f 1 = some (x &&& y).toNat ∧ f 2 = some (x ||| y).toNat ∧ f 3 = some (x ^^^ y).toNat ∧
    f 4 = some (if x.toInt ≤ y.toInt then x else y).toNat ∧ f 5 = some (if x.toInt ≤ y.toInt then y else x).toNat ∧
    f 6 = some (if x.toNat ≤ y.toNat then x else y).toNat ∧ f 7 = some (if x.toNat ≤ y.toNat then y else x).toNat ∧
    f 8 = some y.toNat ∧ f 9 = if x = c then some y.toNat else none) ∧
  ∀ x y c : Word, let f (op : Nat) := atomNew op 32 x.toNat y.toNat c.toNat
    f 0 = some (x + y).toNat ∧ f 1 = some (x &&& y).toNat ∧ f 2 = some (x ||| y).toNat ∧ f 3 = some (x ^^^ y).toNat ∧
    f 4 = some (if x.toInt ≤ y.toInt then x else y).toNat ∧ f 5 = some (if x.toInt ≤ y.toInt then y else x).toNat ∧
    f 6 = some (if x.toNat ≤ y.toNat then x else y).toNat ∧ f 7 = some (if x.toNat ≤ y.toNat then y else x).toNat ∧
    f 8 = some y.toNat ∧ f 9 = if x = c then some y.toNat else none

/-- R206, R207: an atomic on a device page returns the old value and leaves the new one, and no other byte changes. -/
def Sys2Proof.Machine.ScalarAtomicActsAtTheHomeClaim : Prop :=
  ∀ (s : State) (d a b : BitVec 6) (w : Bool) (o : BitVec 2) (e : TlbEntry), s.noStep → s.repro = false →
    let n := if w then 8 else 4
    let ea := s.getS a
    let l := e.at ea.toNat
    ea.toNat % n = 0 → s.maps ea e → e.permits .atomic s.w.sys = true → l.kind = .device → orderReady s o →
    s.storesPerformed = true → s.atomOpen s.w.core l = true → s.poison.contains (l.addr / 128) = false →
    let old := readLe s.mem l.addr n
    ∀ x ∈ scalarAtomics d a b w o, ∃ t, exec x.1 s = .next t ∧
      (∀ k, t.w.sVal k = s.regSet d (if w then dw old else (BitVec.ofNat 32 old).signExtend 64) k) ∧ t.w.pc = s.w.pc + 4 ∧
      readLe t.mem l.addr n = (atomNew x.2 (8 * n) old ((s.getS b).toNat % 2 ^ (8 * n)) ((s.getS d).toNat % 2 ^ (8 * n))).getD old ∧
      sameBytesBut s t l.addr n ∧ sameWave s.w t.w ∧ t.ctxs = s.ctxs ∧ t.crews = s.crews

/-- R206, R207: the value that each atomic leaves, and the atomic at its home. It rests on readings of the model that are no rule: log
entries 24, 33. -/
def Obligations.ScalarAtomicActsAtTheHome : Prop :=
  AtomicOperationGivesTheNewValueClaim ∧ ScalarAtomicActsAtTheHomeClaim

/-- R210, R235, R364: `ldv` returns the line's version stamp and the word at its home, and its core keeps no older copy of the line in L1. -/
def Sys2Proof.Machine.VersionedLoadReturnsStampAndWordClaim : Prop :=
  ∀ (s : State) (d a : BitVec 6) (i : Imm) (e : TlbEntry), s.noStep → s.repro = false →
    let ea := s.getS a + immVal i
    let l := e.at ea.toNat
    ea.toNat % 4 = 0 → s.maps ea e → e.permits .load s.w.sys = true →
    (l.kind ≠ .device → Traps (.ldv d a i) s .scope ea) ∧
    (l.kind = .device → s.atomOpen s.w.core l = true → s.storesPerformed = true → s.poison.contains (l.addr / 128) = false →
      ∃ u, CompletesIn (.ldv d a i) s u d (look 0 s.stamps (l.addr / 512) ++ BitVec.ofNat 32 (readLe s.mem l.addr 4))
        (if i.ext.isSome then 8 else 4) ∧ cachesOnly { s with w := u.w } u ∧ u.w = { s.w with sret := u.w.sret } ∧
        u.vec = s.vec ∧ u.vecHome = s.vecHome ∧ u.installs = s.installs ∧ u.free = s.free ∧ ∀ x ∈ u.core.l1, x.1 / 4 ≠ l.addr / 512)

/-- R211, R223, R235, R338, R385: fences, once what they wait for has ended. A full fence of any scope waits for its core's stores under way
and evicts the load-store lines and the skim line buffer (log entry 44). It rests on readings of the model that are no rule: log entries
39, 44, 52. -/
def Obligations.FenceCompletes : Prop :=
  ∀ (s : State) (sc p : BitVec 3), s.noStep → s.lanesWait = .ok () → scatterWait s = .ok () → s.storesAcked = true →
    (2 ≤ sc.toNat → Passes (.fence 1 sc) s { s with cores := put {} s.cores s.w.core { s.core with l1 := [] } } 4) ∧
    (sc.toNat < 2 → Passes (.fence 1 sc) s s 4 ∧ Passes (.fence 2 sc) s s 4) ∧
    (∀ k : BitVec 2, k ≠ 1 → (k = 3 → s.core.inflight = []) → ∃ t, exec (.fence k sc) s = .next t ∧ t.w.pc = s.w.pc + 4 ∧ sameBytes s t ∧ sameWave s.w t.w ∧
      (∀ j, t.w.sVal j = s.w.sVal j) ∧
      (k = 3 → (t.coreAt s.w.core).l1 = [] ∧ (t.coreAt s.w.core).skimBuf = []) ∧
      (k = 0 → 2 ≤ sc.toNat → (t.coreAt s.w.core).l1 = [])) ∧
    (s.w.writesDone = true →
      Passes (.pfence p) s { s with cores := put {} s.cores s.w.core (match p with
        | 0 => { s.core with l1 := [] }
        | 1 => { s.core with ro := [] }
        | 2 => { s.core with lineBuf := [], lineOld := [] }
        | _ => { s.core with skimBuf := [] }) } 4 ∧
      (freshQuantum s = true → Passes .pfenceCode s
        { s with cores := put {} s.cores s.w.core
                            { s.core with icache := [], lcc := s.core.lcc.map fun b => { b with verified := false } } } 4))

/-- R211, R235: a release or a full fence waits while a store of its wave is not acknowledged, and a full fence of any scope while a store of its
core is under way (log entry 44). -/
def Sys2Proof.Machine.ReleaseWaitsForAcknowledgementsClaim : Prop :=
  ∀ (s : State) (k : BitVec 2) (sc : BitVec 3), s.lanesWait = .ok () → scatterWait s = .ok () →
    let waits : State := { s with w := { s.w with blocked := true } }
    (k ≠ 1 → s.storesAcked = false → exec (.fence k sc) s = .next waits) ∧
    (s.storesAcked = true → s.core.inflight ≠ [] → exec (.fence 3 sc) s = .next waits)

/-- R76, R211: a waiting instruction whose condition does not hold changes nothing but the mark that its wave is not ready. It rests on
readings of the model that are no rule: log entries 37, 44. -/
def Obligations.WaitingInstructionWaits : Prop :=
  WaitingInstructionWaitsClaim ∧ ReleaseWaitsForAcknowledgementsClaim

/-- R212, R213: the status of `pin.l2` is the first that applies, and `unpin.l2` returns the charge. -/
def Sys2Proof.Machine.PinningGivesItsStatusClaim : Prop :=
  ∀ (s : State) (d a : BitVec 6), s.noStep →
    let va := (s.getS a).toNat
    s.translateWaits s.w.core s.w.ctx false va = false →
    (s.translate false va = none → (∃ u, CompletesIn (.pinL2 d a) s u d 3 4 ∧ tlbOnly s u) ∧ ∃ u, Passes (.unpinL2 a) s u 4 ∧ tlbOnly s u) ∧
    ∀ e, s.translate false va = some e →
      let l := e.at va
      let line := l.addr / 512
      (l.kind ≠ .device → ∃ u, CompletesIn (.pinL2 d a) s u d 3 4 ∧ tlbOnly s u) ∧
      (l.kind = .device → (look? s.pins line).isSome → ∃ u, CompletesIn (.pinL2 d a) s u d 0 4 ∧ tlbOnly s u) ∧
      (l.kind = .device → look? s.pins line = none →
        (15 ≤ s.pinnedWays l → ∃ u, CompletesIn (.pinL2 d a) s u d 1 4 ∧ tlbOnly s u) ∧
        (s.pinnedWays l < 15 → s.row.pinQuota ≤ s.row.pinCount →
          ∃ u, CompletesIn (.pinL2 d a) s u d 2 4 ∧ tlbOnly s u) ∧
        (s.pinnedWays l < 15 → s.row.pinCount < s.row.pinQuota →
          ∃ u, CompletesIn (.pinL2 d a) s u d 0 4 ∧ tlbOnly { s with pins := u.pins, ctxs := u.ctxs } u ∧
            u.rowAt s.w.ctx = { s.row with pinCount := s.row.pinCount + 1 } ∧ (∀ c, c ≠ s.w.ctx → u.rowAt c = s.rowAt c) ∧
            look? u.pins line = some ((s.w.ctx + 1) * 1024 + l.slice) ∧ ∀ k, k ≠ line → look? u.pins k = look? s.pins k)) ∧
      (∀ v, l.kind = .device → look? s.pins line = some v → v / 1024 = s.w.ctx + 1 →
        ∃ u, Passes (.unpinL2 a) s u 4 ∧ tlbOnly { s with
            pins := drop s.pins line
            ctxs := put {} s.ctxs s.w.ctx { s.row with pinCount := s.row.pinCount - 1 } } u) ∧
      ((∀ v, look? s.pins line = some v → l.kind = .device → v / 1024 ≠ s.w.ctx + 1) → ∃ u, Passes (.unpinL2 a) s u 4 ∧ tlbOnly s u)

/-- R214, R340: prefetches complete on every operand and change no register, no memory and no order. -/
def Sys2Proof.Machine.PrefetchChangesNoValueClaim : Prop :=
  ∀ (s : State) (k : BitVec 1) (a : BitVec 6) (i : Imm), s.noStep → ∀ x ∈ [Instr.pref k a i, .ipref k a i],
    ∃ u, Passes x s u (if i.ext.isSome then 8 else 4) ∧ u.w = s.w ∧ sameBytes s u ∧
      u = { s with cores := u.cores, sectors := u.sectors, vec := u.vec, vecHome := u.vecHome, installs := u.installs
                   flows := u.flows, jam := u.jam, free := u.free }

/-- R212, R213, R214, R340: pins with their status and charge, and prefetches; neither changes a byte of memory. It rests on readings of the
model that are no rule: log entry 11. -/
def Obligations.PinAndPrefetchChangeNoValue : Prop :=
  PinningGivesItsStatusClaim ∧ PrefetchChangesNoValueClaim

/-- R365: `cst4` writes its values where every stamp stands, and reports the first that does not, or a record that is malformed. -/
def Sys2Proof.Machine.CompareStampsThenStoreClaim : Prop :=
  ∀ (s : State) (d a b : BitVec 6) (e : TlbEntry) (es : List CstEntry) (ls : List (Loc × BitVec 32 × Bool × Nat)), s.noStep →
    s.repro = false → s.storesAcked = true → (s.getS a).toNat % 128 = 0 →
    ((s.getS b).toNat = 0 ∨ 4 < (s.getS b).toNat →
      ∃ t, exec (.cst4 d a b) s = .next t ∧ (∀ k, t.w.sVal k = s.regSet d 3 k) ∧ t.w.pc = s.w.pc + 4 ∧
        sameBytes s t ∧ sameWave s.w t.w) ∧
    (let l := e.at (s.getS a).toNat
     0 < (s.getS b).toNat → (s.getS b).toNat ≤ 4 → s.maps (s.getS a) e → e.permits .load s.w.sys = true →
     l.kind ≠ .peer → (s.fromHome l 128 && !s.missOpen s.w.core l) = false → s.poisoned l 128 = false →
     es = (List.range (s.getS b).toNat).map (cstEntry (BitVec.ofNat 1024 (s.lsLe l l.addr 128))) →
     ((∃ x ∈ es, x.ok = false) →
       ∃ t, exec (.cst4 d a b) s = .next t ∧ (∀ k, t.w.sVal k = s.regSet d 3 k) ∧ t.w.pc = s.w.pc + 4 ∧
         sameBytes s t ∧ sameWave s.w t.w) ∧
     ((∀ x ∈ es, x.ok = true) → cstLocs s es = .ok ls → (∀ x ∈ ls, s.atomOpen s.w.core x.1 = true) →
       (∀ x ∈ ls, ∀ y ∈ ls, x.1.slice = y.1.slice) →
       (∀ k x, ls[k]? = some x → look 0 s.stamps (x.1.addr / 512) ≠ x.2.1 →
         (∀ j y, j < k → ls[j]? = some y → look 0 s.stamps (y.1.addr / 512) = y.2.1) →
         ∃ t, exec (.cst4 d a b) s = .next t ∧ sameBytes s t ∧ t.w.pc = s.w.pc + 4 ∧ sameWave s.w t.w ∧
           ∀ j, t.w.sVal j = s.regSet d (dw ((look 0 s.stamps (x.1.addr / 512)).toNat * 2 ^ 32 + k * 16 + 1)) j) ∧
       ((∀ x ∈ ls, look 0 s.stamps (x.1.addr / 512) = x.2.1) →
         ∃ t, exec (.cst4 d a b) s = .next t ∧ t.w.pc = s.w.pc + 4 ∧ sameWave s.w t.w ∧
           (∀ x, ls.head? = some x →
             ∀ j, t.w.sVal j = s.regSet d (dw ((look 0 t.stamps (x.1.addr / 512)).toNat * 2 ^ 32)) j) ∧
           t.mem = writeCells s.mem (ls.flatMap fun y => leCells y.1.addr (if y.2.2.1 then 8 else 4) y.2.2.2) ∧
           t.hostMem = s.hostMem ∧ t.skim = s.skim)) ∧
     ((∀ x ∈ es, x.ok = true) → cstLocs s es = .ok ls → (∀ x ∈ ls, s.atomOpen s.w.core x.1 = true) →
       (∃ x ∈ ls, ∃ y ∈ ls, x.1.slice ≠ y.1.slice) →
       ∃ t, exec (.cst4 d a b) s = .next t ∧ (∀ k, t.w.sVal k = s.regSet d 2 k) ∧ t.w.pc = s.w.pc + 4 ∧ sameBytes s t ∧ sameWave s.w t.w))

/-- R210, R364, R365: `ldv` returns the line's stamp and word, and `cst4` writes where every stamp stands. It rests on readings of the model
that are no rule: log entries 24, 33. -/
def Obligations.VersionedLoadAndCompareStamps : Prop :=
  VersionedLoadReturnsStampAndWordClaim ∧ CompareStampsThenStoreClaim

namespace Sys2Proof.Machine

/-! Vocabulary of the statements about tasks, crews, system instructions and copies. -/

/-- The wave's operations that a ticket names are accepted and complete, and what it covers of sweeps has ended (R249, R250). -/
def ticketDone (s : State) (t : Nat) : Prop :=
  (∀ o ∈ s.w.opsOf t, o.accepted = true ∧ o.done = true ∧ s.opBlocked o = none) ∧
    (s.w.coversSweeps t = true → s.w.wordsIssued = true ∧ s.w.sweeps.filter (boundTo t) = [])

/-- What a full fence of sector scope or wider waits for (R211, R223, R235, R260). -/
def fenceReady (s : State) : Prop := s.lanesWait = .ok () ∧ scatterWait s = .ok () ∧ s.storesAcked = true ∧ s.core.inflight = []

/-- The wave's crew, as every instruction of R283 finds it. -/
def inCrew (s : State) (c : Crew) : Prop := s.crewOf s.w.crew = some c

/-- No translation of a TLB of the device, or that a sector remembers to have given, is one that the test holds for. -/
def noTlbEntry (s : State) (p : TlbEntry → Bool) : Prop :=
  ∀ n, (∀ e ∈ (s.coreAt n).dtlb ++ (s.coreAt n).ctlb, p e = false) ∧ ∀ e ∈ (s.sector n).tlb ++ (s.sector n).seen, p e = false

end Sys2Proof.Machine

/-- R250, R251, R244: `cp.wait` ends and `cp.test` answers 1 where the operations named are complete; a ticket that has not been given
waits for nothing. -/
def Sys2Proof.Machine.CopyWaitEndsWithItsOperationsClaim : Prop :=
  ∀ (s : State) (d a : BitVec 6), s.noStep →
    let t := (s.getS a).toNat
    ((s.w.ticket ≤ t ∨ ticketDone s t) → Passes (.cpWait a) s s 4) ∧
    (s.w.ticket ≤ t → Completes (.cpTest d a) s d 1 4) ∧
    (t < s.w.ticket → (∃ o ∈ s.w.opsOf t, o.fault.isSome) → Completes (.cpTest d a) s d 2 4) ∧
    (t < s.w.ticket → (∀ o ∈ s.w.opsOf t, o.fault = none) → (∃ o ∈ s.w.opsOf t, o.done = false) → Completes (.cpTest d a) s d 0 4) ∧
    (t < s.w.ticket → (∀ o ∈ s.w.opsOf t, o.fault = none) → ticketDone s t → Completes (.cpTest d a) s d 1 4) ∧
    (t < s.w.ticket → ∀ o ∈ s.w.opsOf t, o.accepted = false → exec (.cpWait a) s = .next { s with w := { s.w with blocked := true } })

/-- R252: `cp.retry` clears the fault marks of the operations that its ticket names, in the system view. -/
def Sys2Proof.Machine.CopyRetryClearsTheMarksClaim : Prop :=
  ∀ (s : State) (a : BitVec 6), s.noStep → s.w.sys = true →
    ∃ t, exec (.cpRetry a) s = .next t ∧ t.w.pc = s.w.pc + 4 ∧ (∀ k, t.w.sVal k = s.w.sVal k) ∧ sameWave s.w t.w ∧
      (∀ o ∈ t.w.opsOf (s.getS a).toNat, o.fault = none) ∧ t = { s with w := t.w, cores := t.cores }

/-- R244, R250, R251, R252: waiting for a ticket's operations, testing it, and clearing its fault marks. It rests on readings of the model
that are no rule: log entry 50. -/
def Obligations.CopyWaitTestAndRetry : Prop :=
  CopyWaitEndsWithItsOperationsClaim ∧ CopyRetryClearsTheMarksClaim

/-- R280, R266, R325: `task.push` reads its record, claims a slot by a fetch-add of 1 on the write index, writes the slot's number to its
register, and stalls until the slot write. Where a trap has met it in that wait, the word goes on waiting with its claim; where WATCHDOG has
abandoned it, it does all of this again but claims no second slot (log entry 68). -/
def Sys2Proof.Machine.TaskPushClaimsThenWritesClaim : Prop :=
  ∀ (s : State) (d a b : BitVec 6) (er eq : TlbEntry), s.noStep → s.repro = false → s.w.pushWait = none → s.storesAcked = true →
    let r := s.getS a
    let q := s.getS b
    let lr := er.at r.toNat
    let lq := eq.at q.toNat
    r.toNat % 64 = 0 → q.toNat % 1024 = 0 → s.maps r er → s.maps q eq →
    er.permits .load s.w.sys = true → eq.permits .store s.w.sys = true → lr.kind = .device → lq.kind = .device →
    (s.fromHome lr 64 && !s.missOpen s.w.core lr) = false → s.poisoned lr 64 = false → s.atomOpen s.w.core lq = true →
    s.poison.contains (lq.addr / 128) = false →
    let record := BitVec.ofNat 512 (s.lsLe lr lr.addr 64)
    let stalls (t : State) (w : DWord) : Prop :=
      (∀ k, t.w.sVal k = s.regSet d w k) ∧ t.w.pc = s.w.pc ∧ t.w.blocked = true ∧ sameWave s.w t.w ∧
      t.w.pushWait = some { d := sKey s.w.sys d, w := w, old := s.getS d, q := lq, record := record }
    let w := readLe s.mem lq.addr 8
    ((s.w.sys = true ∨ ∀ h, s.w.pushAt = some h → h.pc = s.w.pc →
        h.push.q.addr ≠ lq.addr ∧ (h.again = true ∨ h.push.d ≠ sKey s.w.sys d)) →
      ∃ t, exec (.taskPush d a b) s = .next t ∧ stalls t (dw w) ∧
        readLe t.mem lq.addr 8 = (w + 1) % 2 ^ 64 ∧ sameBytesBut s t lq.addr 8) ∧
    ∀ h, s.w.sys = false → s.w.pushAt = some h → h.pc = s.w.pc →
      (h.push.q.addr = lq.addr → (h.again = true ∨ h.push.d ≠ sKey s.w.sys d) →
        ∃ t, exec (.taskPush d a b) s = .next t ∧ stalls t h.push.w ∧ t.w.pushAt = none ∧ sameBytes s t) ∧
      (h.again = false → h.push.d = sKey s.w.sys d →
        exec (.taskPush d a b) s = .next { s with w := { s.w with pushWait := some h.push, pushAt := none, blocked := true } })

/-- R280, R266, R372: the slot write of a claimed push writes the record with its kind at the slot, where the ring has room and the cluster is
not being reset; where the slot cannot be reached the wave takes the slot's fault. -/
def Sys2Proof.Machine.ClaimedPushWritesItsSlotClaim : Prop :=
  ∀ (s : State) (p : Push) (e : TlbEntry), s.noStep → s.w.pushWait = some p → s.w.trapping = none →
    let va := dw (s.slotVa p.q.addr p.w.toNat)
    let l := e.at va.toNat
    (s.slotRoom p.q.addr p.w.toNat = false ∨ s.core.inReset = true → exec .taskPushSlotWrite s = .next s) ∧
    (s.slotRoom p.q.addr p.w.toNat = true → s.core.inReset = false → s.unmapped va →
      exec .taskPushSlotWrite s = .next (State.raise { s with w := { s.w with pushWait := none } } 0 .storeFault va 0 0)) ∧
    (s.slotRoom p.q.addr p.w.toNat = true → s.core.inReset = false → s.maps va e → e.permits .store s.w.sys = true → l.kind = .device →
      s.atomOpen s.w.core l = true →
      ∃ t, exec .taskPushSlotWrite s = .next t ∧ t.w.pushWait = none ∧ t.w.pc = s.w.pc + 4 ∧ (∀ k, t.w.sVal k = s.w.sVal k) ∧
        readLe t.mem l.addr 56 = (p.record.extractLsb' 0 448).toNat ∧
        readLe t.mem (l.addr + 56) 8 = (((p.record.extractLsb' 448 64) &&& 0xFFFFFF00FFFFFFFF) ||| 0x0000000100000000).toNat ∧
        sameBytesBut s t l.addr 64 ∧ sameWave s.w t.w)

/-- R266, R280: `task.push` claims a slot, stalls, and its slot write writes the record where the ring has room. It rests on readings of the
model that are no rule: log entries 24, 68. -/
def Obligations.TaskPushClaimsThenWrites : Prop :=
  TaskPushClaimsThenWritesClaim ∧ ClaimedPushWritesItsSlotClaim

/-- R283, R227: an arrival raises the wave's count of the barrier, and a wait ends once the generation has reached it. It rests on readings
of the model that are no rule: log entry 21. -/
def Obligations.CrewBarrierArrivesAndWaits : Prop :=
  ∀ (s : State) (a : BitVec 6) (c : Crew), s.noStep → inCrew s c → freshQuantum s = true →
    let b := (s.getS a).toNat % 4
    let g := look 0 c.gen b
    (s.storesAcked = true → s.w.arrivals b = g → 1 < c.waves.length →
      ∃ t, exec (.crewArrive a) s = .next t ∧ t.w.arrivals b = g + 1 ∧ (∀ k, k ≠ b → t.w.arrivals k = s.w.arrivals k) ∧
        t.w.pc = s.w.pc + 4 ∧ (∀ k, t.w.sVal k = s.w.sVal k) ∧ t.crewOf s.w.crew = some c ∧ sameBytes s t ∧ sameWave s.w t.w) ∧
    (s.w.arrivals b ≤ g → Passes (.crewWait a) s { s with cores := put {} s.cores s.w.core { s.core with l1 := [] } } 4) ∧
    (g < s.w.arrivals b → exec (.crewWait a) s = .next { s with w := { s.w with barWait := some b, blocked := true } }) ∧
    (s.storesAcked = true → s.w.arrivals b = g → c.waves.length = 1 → s.w.barAt ≠ some (s.w.pc, b) →
      ∃ t, exec (.crewBar a) s = .next t ∧ t.w.pc = s.w.pc + 4 ∧ t.w.arrivals b = g + 1 ∧ t.genOf b = g + 1 ∧
        (∀ k, t.w.sVal k = s.w.sVal k) ∧ sameBytes s t ∧ sameWave s.w t.w) ∧
    (s.storesAcked = true → s.w.arrivals b = g → 1 < c.waves.length → s.w.barAt ≠ some (s.w.pc, b) →
      ∃ t, exec (.crewBar a) s = .next t ∧ t.w.pc = s.w.pc ∧ t.w.barWait = some b ∧ t.w.arrivals b = g + 1 ∧
        t.w.barAt = some (s.w.pc, b) ∧ (∀ k, t.w.sVal k = s.w.sVal k) ∧ sameBytes s t ∧ sameWave s.w t.w)

/-- R281, R282: `sig.add` adds at the home and returns the old value; `sig.wait` ends where its condition holds of the word. It rests on
readings of the model that are no rule: log entries 24, 33. -/
def Obligations.SignalAddAndWait : Prop :=
  ∀ (s : State) (d a b : BitVec 6) (c : BitVec 2) (e : TlbEntry), s.noStep → s.repro = false →
    let ea := s.getS a
    let v := s.getS b
    let l := e.at ea.toNat
    ea.toNat % 8 = 0 → s.maps ea e → l.kind = .device → s.poison.contains (l.addr / 128) = false →
    let old := readLe s.mem l.addr 8
    (e.permits .store s.w.sys = true → s.storesAcked = true → s.atomOpen s.w.core l = true →
      ∃ t, exec (.sigAdd d a b) s = .next t ∧ (∀ k, t.w.sVal k = s.regSet d (dw old) k) ∧ t.w.pc = s.w.pc + 4 ∧
        readLe t.mem l.addr 8 = (old + v.toNat) % 2 ^ 64 ∧ sameBytesBut s t l.addr 8 ∧ sameWave s.w t.w) ∧
    (e.permits .load s.w.sys = true → s.storesPerformed = true → s.atomOpen s.w.core l = true →
      let holds : Prop :=
        (c = 0 ∧ dw old = v) ∨ (c = 1 ∧ v.toInt ≤ (dw old).toInt) ∨ (c = 2 ∧ (dw old).toInt ≤ v.toInt) ∨ (c = 3 ∧ dw old ≠ v)
      (holds → ∃ t, exec (.sigWait d a b c) s = .next t ∧ (∀ k, t.w.sVal k = s.regSet d (dw old) k) ∧ t.w.pc = s.w.pc + 4 ∧
        sameBytes s t ∧ sameWave s.w t.w ∧ (t.coreAt s.w.core).l1 = []) ∧
      (¬ holds → exec (.sigWait d a b c) s = .next { s with w := { s.w with blocked := true } }))

/-- R82, R84, R100, R106, R107, R108, R300, R303, R323, R324: the other scalar instructions that complete in sequence. -/
def Sys2Proof.Machine.OtherScalarInstructionsCompleteClaim : Prop :=
  ∀ (s : State) (d : BitVec 6) (f : BitVec 4) (k : BitVec 2) (i : BitVec 13), s.noStep →
    (∃ c : DWord, s.core.cycle.toNat ≤ c.toNat ∧ CompletesIn (.rdcyc d) s
      { s with free := s.free + 1, cores := put {} s.cores s.w.core { s.core with cycle := c } } d c 4) ∧
    (i.toNat < 8 → Completes (.fq d i) s d (s.row.leaf i.toNat) 4) ∧
    (s.repro = false → Passes .qnt s s 4) ∧
    (s.repro = true → ∃ t, exec .qnt s = .next t ∧ t.w.pc = s.w.pc + 4 ∧ t.w.qended = true ∧ t = { s with w := t.w }) ∧
    (∀ c x, inCrew s c → s.taskOf c.task = some x → ∃ t, exec .phaseEnd s = .next t ∧ t.w.pc = s.w.pc + 4 ∧
      (t.taskOf c.task).map Task.marked = some true ∧ sameBytes s t ∧ t.ctxs = s.ctxs ∧ sameWave s.w t.w ∧ ∀ j, t.w.sVal j = s.w.sVal j) ∧
    (s.w.sys = true → s.w.stepping = false → Passes .step s { s with w := { s.w with stepArmed := true } } 4) ∧
    (s.lanesWait = .ok () → s.w.counts = [] →
      Completes (.xcnt d k f) s d (dw (look 0 s.counters (s.w.cset * 64 + f.toNat * 4 + k.toNat))) 4 ∧
      ∃ t, exec (.xclr k f) s = .next t ∧ t.w.pc = s.w.pc + 4 ∧ look 0 t.counters (s.w.cset * 64 + f.toNat * 4 + k.toNat) = 0 ∧
        (∀ j, j ≠ s.w.cset * 64 + f.toNat * 4 + k.toNat → look 0 t.counters j = look 0 s.counters j) ∧
          sameBytes s t ∧ sameWave s.w t.w ∧ ∀ j, t.w.sVal j = s.w.sVal j)

/-- R98, R100: `scw` makes the same scale word as `mkscale` with round to nearest even, with the tag of its field. -/
def Sys2Proof.Machine.ScaleWordOfAScalarClaim : Prop :=
  ∀ (s : State) (d a : BitVec 6) (t : BitVec 2), s.noStep →
    let x : Word := (s.getS a).setWidth 32
    Completes (.scw d a t) s d (dw (scaleWord .rne false t.toNat x).bits) 4 ∧
    (s.getS a = 0x3F800000 → Completes (.scw d a t) s d (dw (0x3F800000 + t.toNat)) 4) ∧
    (s.getS a = 0x7FC00001 → Completes (.scw d a t) s d (dw (0x7FC00000 + t.toNat)) 4)

/-- R82, R84, R98, R100, R104, R106, R107, R108, R300, R303, R323, R324: the other scalar instructions that complete in sequence. It rests
on readings of the model that are no rule: log entry 2. -/
def Obligations.OtherScalarInstructionsComplete : Prop :=
  OtherScalarInstructionsCompleteClaim ∧ ScaleWordOfAScalarClaim

/-- R81: `exit` ends the scalar stream, and the wave is freed once the steps of R81 have ended. It rests on readings of the model that are
no rule: log entry 52. -/
def Obligations.ExitEndsTheWave : Prop :=
  ∀ s : State,
    ((s.w.sys = false ∨ s.w.lanesDone = true) → ∃ t, exec .exit s = .next t ∧ t.w.life = .exiting ∧ (s.w.sys = true → t.w.aside = []) ∧
      (s.w.sys = false → t.w.aside = s.w.aside) ∧ (∀ k, t.w.sVal k = s.w.sVal k) ∧ t = { s with w := t.w } ∧
      t.w = { s.w with life := .exiting, aside := t.w.aside, wdog := 0, qused := t.w.qused, blocked := true }) ∧
    (s.w.life = .exiting → s.core.inReset = false → s.repro = false → s.lanesWait = .ok () →
      scatterWait s = .ok () → s.sbView = [] → s.w.sweeps = [] →
      s.w.stq = [] → s.w.trapping = none → s.w.pushWait = none →
      ∃ t, exec .waveFree s = .next t ∧ t.w.life = .exited ∧ t.w.s = [] ∧ t.w.v = [] ∧ t.w.lq = [] ∧ t.w.core = s.w.core ∧
        t.w.crew = s.w.crew ∧ t.w.arr = s.w.arr ∧ sameBytes s t) ∧
    (s.w.life = .running → exec .waveFree s = .next s)

/-- R321, R215: a TLB instruction leaves no translation that it covers in any TLB of the device. -/
def Sys2Proof.Machine.TlbInstructionInvalidatesClaim : Prop :=
  ∀ (s : State) (a : BitVec 6), s.noStep → s.w.sys = true → fenceReady s →
    (s.coverIdle .all = true → ∃ t, exec .tlbAll s = .next t ∧ t.w.pc = s.w.pc + 4 ∧ (∀ k, t.w.sVal k = s.w.sVal k) ∧
      noTlbEntry t (fun _ => true) ∧ sameBytes s t ∧ sameWave s.w t.w) ∧
    (s.coverIdle (.ctx ((s.getS a).toNat % 2 ^ 32)) = true → ∃ t, exec (.tlbCtx a) s = .next t ∧ t.w.pc = s.w.pc + 4 ∧
      (∀ k, t.w.sVal k = s.w.sVal k) ∧ noTlbEntry t (fun e => e.ctx == (s.getS a).toNat % 2 ^ 32) ∧ sameBytes s t ∧ sameWave s.w t.w) ∧
    (let va := (s.getS a).toNat
     let covered (e : TlbEntry) : Bool := e.ctx == s.w.ctx && decide (e.va ≤ va) && decide (va < e.va + e.size)
     s.coverIdle (.pages s.w.ctx (s.allTlbs.filter covered ++ if va < 2 ^ 52 then (s.walk s.w.ctx va).toList else [])) = true →
       ∃ t, exec (.tlbVa a) s = .next t ∧ t.w.pc = s.w.pc + 4 ∧
      (∀ k, t.w.sVal k = s.w.sVal k) ∧ noTlbEntry t covered ∧ sameBytes s t ∧ sameWave s.w t.w)

/-- R322, R212: cache instructions complete over the lines of their range: a write-back changes no byte, and an invalidation leaves no
dirty sector of a line that is not pinned. -/
def Sys2Proof.Machine.CacheInstructionCompletesClaim : Prop :=
  ∀ (s : State) (a b : BitVec 6), s.noStep →
    let lines := s.rangeLines (s.getS a).toNat ((s.getS b).toNat % 2 ^ 32)
    s.rangeWaits (s.getS a).toNat ((s.getS b).toNat % 2 ^ 32) = false → s.linesIdle lines = true → (∀ l ∈ lines, s.lineFree l = true) →
    (∃ t, exec (.cacheWb a b) s = .next t ∧ t.w.pc = s.w.pc + 4 ∧ (∀ k, t.w.sVal k = s.w.sVal k) ∧ sameBytes s t ∧ sameWave s.w t.w ∧
      ∀ l ∈ lines, ∀ e ∈ t.dirty, e.1 / 4 ≠ l) ∧
    (s.w.sys = true → ∃ t, exec (.cacheInv a b) s = .next t ∧ t.w.pc = s.w.pc + 4 ∧ (∀ k, t.w.sVal k = s.w.sVal k) ∧
      (∀ l ∈ lines, ∀ e ∈ t.dirty, e.1 / 4 ≠ l) ∧ (∀ x, x / 512 ∉ lines → readByte t.mem x = readByte s.mem x) ∧
        t.hostMem = s.hostMem ∧
      t.skim = s.skim ∧ sameWave s.w t.w) ∧
    (s.w.sys = true → ∃ t, exec (.cacheWbinv a b) s = .next t ∧ t.w.pc = s.w.pc + 4 ∧ (∀ k, t.w.sVal k = s.w.sVal k) ∧
      (∀ x, readByte t.mem x = readByte s.mem x) ∧ t.hostMem = s.hostMem ∧ t.skim = s.skim ∧ sameWave s.w t.w ∧
      ∀ l ∈ lines, ∀ e ∈ t.dirty, e.1 / 4 ≠ l)

/-- R212, R215, R321, R322: TLB and cache instructions complete and leave nothing that they cover. It rests on readings of the model that
are no rule: log entries 5, 56, 70, 109. -/
def Obligations.TlbAndCacheInstructionsComplete : Prop :=
  TlbInstructionInvalidatesClaim ∧ CacheInstructionCompletesClaim

/-- R324: an armed single step ends with one retired scalar instruction: STEP is taken after its effect. -/
def Sys2Proof.Machine.SingleStepTrapsAfterOneInstructionClaim : Prop :=
  ∀ (s : State) (d a b : BitVec 6), s.w.stepping = true → s.w.lstep = false → s.w.sys = false → s.w.trapBusy = false → s.row.vec ≠ 0 →
    ∀ p ∈ registerOps s d a b, ∃ t, exec p.1 s = .next t ∧ t.w.sys = true ∧ t.w.pc = s.row.vec ∧ t.w.cause = 0x0C ∧
      t.w.epc = s.w.pc + 4 ∧ t.w.stepping = false ∧ t.w.stepArmed = false ∧ (∀ k, t.w.sVal k = s.regSet d p.2 k) ∧
      t = { s with w := t.w, cores := t.cores } ∧ entersFrom .step { s.w.retired s.repro with
        s := t.w.s, sret := t.w.sret, pc := s.w.pc + 4 } t.w

/-- R316, R324: `sys`, `brk` and the end of an armed single step enter the handler with their codes. It rests on readings of the model that
are no rule: log entry 67. -/
def Obligations.SystemCallBreakpointAndStepEnterTheHandler : Prop :=
  SystemCallAndBreakpointEnterTheHandlerClaim ∧ SingleStepTrapsAfterOneInstructionClaim

namespace Sys2Proof.Machine

/-! Vocabulary of the statements about lane words. -/

/-- What a lane word of one element per lane meets no fault of and waits for nothing of: its registers lie in the allocation and none it
reads is pending (R40, R119), and its queues hold and take a value for each active lane (R258, R259). -/
def State.laneReady (s : State) (op : Nat) (w : LaneWord) (unchecked : Bool) : Prop :=
  s.regCheck op w unchecked = .ok () ∧
    (∀ n ∈ queuesOf (wordSources op w), popCheck s n 1 (s.w.active w.guard) = .ok ()) ∧
    dstCheck s w.dst (s.w.active w.guard) = .ok ()

/-- The wave after a word's queue traffic: a pop of each source queue in each active lane, then a push of the results (R258, R259). -/
def Wave.traffic (w : Wave) (op : Nat) (lw : LaneWord) (es : List (Nat × Word)) : Wave :=
  let p := (queuesOf (wordSources op lw)).foldl (fun x n => x.pop n 1 (w.active lw.guard)) w
  match lw.dst with
  | .q n => p.push (4 + n.toNat) es
  | _ => p

/-- Lane registers after results to a destination register in some lanes. -/
def Wave.regsAfter (w : Wave) (d : Dst) (lanes : List Nat) (val : Nat → Word) (r L : Nat) : Word :=
  match d with
  | .v k => if r = k.toNat ∧ L ∈ lanes then val L else w.v32 r L
  | _ => w.v32 r L

/-- The word writes `val` in its active lanes, moves its queues, counts as given, and changes nothing else before the slot ends. -/
def LaneWrites (i : Instr) (s : State) (op : Nat) (w : LaneWord) (val : Nat → Word) (counts : Sparse Nat) : Prop :=
  ∃ u : State, exec i s = .next (u.laneNext w.mark) ∧
    (∀ r L, L < 16384 → u.w.v32 r L = s.w.regsAfter w.dst (s.w.active w.guard) val r L) ∧
    u.w.q = (s.w.traffic op w ((s.w.active w.guard).map fun L => (L, val L))).q ∧
    u = { s with w := { s.w with v := u.w.v, q := u.w.q, counts := counts } }

/-- The word meets a trap of kind 1 at its slot before it has any effect. -/
def LaneTraps (i : Instr) (s : State) (c : Cause) (fva : DWord) : Prop := exec i s = .next (s.raise 1 c fva s.laneTarget s.laneBits)

/-- A word's integer reading of 32 bits (R122). -/
def asInt (w : LaneWord) (x : Word) : Int := if w.ty = 2 then x.toNat else x.toInt

/-- 32 bits of an exact integer: wrapped, or with `.sat` clamped to the range of the type (R122). -/
def toWord (w : LaneWord) (x : Int) : Word :=
  if satOf w then
    if w.ty = 2 then (if x < 0 then 0 else if 2 ^ 32 ≤ x then BitVec.allOnes 32 else BitVec.ofInt 32 x)
    else (if x < -2 ^ 31 then 0x80000000 else if 2 ^ 31 ≤ x then 0x7FFFFFFF else BitVec.ofInt 32 x)
  else BitVec.ofInt 32 x

/-- Position and width of a field spec within the register (R123). -/
def specPos (x : Word) : Nat := x.toNat % 32

/-- Its width, cut at the register's end. -/
def specWidth (x : Word) : Nat := min (min (x.toNat / 256 % 64) 32) (32 - x.toNat % 32)

/-- The integer words with their opcodes, their types, and what each computes (R122, R123, R99). -/
def integerOps (w : LaneWord) : List (Instr × Nat × List Nat × (Word → Word → Word → Word)) :=
  let n := asInt w
  [(.mov (.full w), 0x000, [w.ty], fun x _ _ => x),
   (.laneAdd (.full w), 0x001, [1, 2], fun x y _ => toWord w (n x + n y)),
   (.laneSub (.full w), 0x002, [1, 2], fun x y _ => toWord w (n x - n y)),
   (.laneMul (.full w), 0x003, [1, 2], fun x y _ => toWord w (n x * n y)),
   (.laneMulh w, 0x004, [1, 2], fun x y _ => BitVec.ofInt 32 (n x * n y / 2 ^ 32)),
   (.mad w, 0x005, [1, 2], fun x y z => toWord w (n x * n y + n z)),
   (.laneAnd (.full w), 0x006, [w.ty], fun x y _ => x &&& y), (.laneOr (.full w), 0x007, [w.ty], fun x y _ => x ||| y),
   (.laneXor (.full w), 0x008, [w.ty], fun x y _ => x ^^^ y), (.laneAndn (.full w), 0x009, [w.ty], fun x y _ => x &&& ~~~y),
   (.laneShl (.full w), 0x00A, [w.ty], fun x y _ => if 32 ≤ y.toNat % 64 then 0 else x <<< (y.toNat % 64)),
   (.laneShr (.full w), 0x00B, [w.ty], fun x y _ => if 32 ≤ y.toNat % 64 then 0 else x >>> (y.toNat % 64)),
   (.laneSra (.full w), 0x00C, [w.ty], fun x y _ => x.sshiftRight (min 31 (y.toNat % 64))),
   (.laneMin (.full w), 0x00D, [1, 2], fun x y _ => if n x ≤ n y then x else y),
   (.laneMax (.full w), 0x00E, [1, 2], fun x y _ => if n x ≤ n y then y else x),
   (.abs (.full w), 0x00F, [1], fun x _ _ => toWord w (if x.toInt < 0 then -x.toInt else x.toInt)),
   (.neg (.full w), 0x010, [1], fun x _ _ => toWord w (-x.toInt)),
   (.laneClz w, 0x011, [w.ty], fun x _ _ => BitVec.ofNat 32 ((List.range 32).takeWhile fun i => !x.getLsbD (31 - i)).length),
   (.lanePop w, 0x012, [w.ty], fun x _ _ => BitVec.ofNat 32 ((List.range 32).filter fun i => x.getLsbD i).length),
   (.bfx w, 0x015, [1], fun x y _ => (x.extractLsb' (specPos y) (specWidth y)).signExtend 32),
   (.bfx w, 0x015, [2], fun x y _ => (x.extractLsb' (specPos y) (specWidth y)).setWidth 32),
   (.bfi w, 0x016, [w.ty], fun x y z =>
     let mask : Word := (BitVec.allOnes (specWidth z)).setWidth 32 <<< specPos z
     (x &&& ~~~mask) ||| ((y <<< specPos z) &&& mask)),
   (.unscale w, 0x204, [0], fun x _ _ => x &&& 0xFFFFFFFC)]

/-- The divisions of the grid (R124). -/
def laneDivisions (w : LaneWord) : List (Instr × Nat × Nat × (Word → Word → Word)) :=
  [(.laneDiv w, 0x013, 1, fun x y => x.sdiv y), (.laneDiv w, 0x013, 2, fun x y => x / y), (.laneRem w, 0x014, 1, fun x y => x.srem y),
   (.laneRem w, 0x014, 2, fun x y => x % y)]

/-- The checked words that round to a format: opcode, the type in which literals are read, the format that counts, and the rounded
result of each lane (R96, R98, R127). -/
def roundedOps (w : LaneWord) : List (Instr × Nat × Nat × Nat × (Word → Word → Word → Res FRes)) :=
  let m := rndOf w
  let t := w.ty
  [(.fadd (.full w), 0x100, t, t, fun x y _ => faddFn t m (satOf w) x y), (.fsub (.full w), 0x101, t, t, fun x y _ => fsubFn t m (satOf w) x y),
   (.fmul (.full w), 0x102, t, t, fun x y _ => fmulFn t m (satOf w) x y), (.fma w, 0x103, t, t, fun x y z => fmaFn t m (satOf w) x y z),
   (.fmin (.full w), 0x104, t, t, fun x y _ => fminFn t x y), (.fmax (.full w), 0x105, t, t, fun x y _ => fmaxFn t x y),
   (.fabs (.full w), 0x106, t, t, fun x _ _ => fabsFn t x), (.fneg (.full w), 0x107, t, t, fun x _ _ => fnegFn t x),
   (.fdiv w, 0x109, t, t, fun x y _ => fdivFn m (satOf w) x y),
   (.cvt (.full w), 0x200, (w.fld 23 4).toNat, t, fun x _ _ =>
     cvtFn t (w.fld 23 4).toNat m (Rnd.ofCode (w.fld 21 2)) (satOf w) x),
   (.mkscale w, 0x203, 3, 3, fun x _ _ => .ok (scaleWord m (satOf w) (t - 6) x))]

/-- The special functions, whose results are unchecked (R128, R116). -/
def specialOps (w : LaneWord) : List (Instr × Nat × (Val → Exact)) :=
  [(.rcp (.full w), 0x110, rcpE), (.rsqrt (.full w), 0x111, rsqrtE), (.sqrt w, 0x112, sqrtE), (.exp2 w, 0x113, exp2E),
   (.log2 w, 0x114, log2E), (.sin w, 0x115, sinE), (.cos w, 0x116, cosE), (.tanh w, 0x117, tanhE)]

/-- The kinds of a list of results that FPTRAP looks at (R111). -/
def trappedKinds (s : State) (ks : List (BitVec 4)) : BitVec 4 := ks.foldl (· ||| ·) 0 &&& s.run.fptrap

/-- The words that write a mask register, and the bit each gives a lane (R125, R126). -/
def maskOps (s : State) (w : LaneWord) : List (Instr × Nat × (Nat → Bool)) :=
  let x := fun L => s.w.mBit (w.fld 24 3).toNat L
  let y := fun L => s.w.mBit (w.fld 21 3).toNat L
  let i := fun L => (asInt w (s.src w.ty w.a L), asInt w (s.src w.ty w.b L))
  let f := fun L => cmpV (decodeF w.ty (s.src w.ty w.a L).toNat) (decodeF w.ty (s.src w.ty w.b L).toNat)
  let cc := (w.fld 24 3).toNat
  [(.cmp w, 0x017, fun L => match cc with
     | 0 => (i L).1 == (i L).2
     | 1 => (i L).1 != (i L).2
     | 2 => decide ((i L).1 < (i L).2)
     | 3 => decide ((i L).1 ≤ (i L).2)
     | 4 => decide ((i L).2 < (i L).1)
     | 5 => decide ((i L).2 ≤ (i L).1)
     | 6 => false
     | _ => true),
   (.fcmp w, 0x108, fun L => match cc with
     | 0 => f L == some 0
     | 1 => f L != some 0
     | 2 => f L == some (-1)
     | 3 => f L == some (-1) || f L == some 0
     | 4 => f L == some 1
     | 5 => f L == some 1 || f L == some 0
     | 6 => f L == none
     | _ => f L != none),
   (.mand w, 0x018, fun L => x L && y L), (.mor w, 0x019, fun L => x L || y L), (.mxor w, 0x01A, fun L => x L != y L),
   (.mnot w, 0x01B, fun L => !x L), (.mset w, 0x01C, fun L => s.src 0 w.a L != 0)]

/-- The words that tell a lane where it stands (R126, R131). -/
def identityOps (s : State) (w : LaneWord) : List (Instr × Nat × (Nat → Word)) :=
  [(.mget w, 0x01D, fun L => if s.w.mBit (w.fld 24 3).toNat L then 1 else 0),
   (.lid w, 0x01F, fun L => BitVec.ofNat 32 (match (w.fld 24 3).toNat with
     | 0 => L / s.w.cols
     | 1 => L % s.w.cols
     | 2 => L
     | 3 => s.w.widx
     | _ => s.w.crewIdx))]

/-- What the generator of R129 draws in a lane. -/
def State.rngOut (s : State) (L : Nat) : DWord :=
  rngDraw (look 0 s.w.rng L) s.run.seed (dw (s.w.ctx % 2 ^ 32 * 2 ^ 32 + s.w.crewIdx % 2 ^ 32)) (rngK2 s.w L)

/-- The binary32 word of m × 2⁻²⁴ for m below 2²⁴, which is exact (R129). -/
def unitFraction (m : Nat) : Word :=
  if m = 0 then 0 else BitVec.ofNat 32 ((103 + Nat.log2 m) * 2 ^ 23 + (m * 2 ^ (23 - Nat.log2 m) - 2 ^ 23))

/-- The clashes of two halves that R38 lists: three source fields of one bank, two of kind 10, one of kind 11, two halves of the special
function unit, one destination twice. -/
def pairClash (xop : PairOp) (x : Half) (yop : PairOp) (y : Half) : Prop :=
  let xs := x.srcs xop ++ y.srcs yop
  (∃ k < 4, 3 ≤ (xs.filter fun z => match z with | .v r => r.toNat % 4 == k | _ => false).length) ∨
    2 ≤ (xs.filter fun z => match z with | .s _ => true | _ => false).length ∨ (∃ n, Src.q n ∈ xs) ∨
    (xop ∈ [PairOp.rcp, .rsqrt, .cvt] ∧ yop ∈ [PairOp.rcp, .rsqrt, .cvt]) ∨ x.dst = y.dst

/-- What a half leaves on its way: the results of a special function (R116, R128). -/
def halfIssued (s : State) (p : PairOp) (h : Half) (f : Nat → FRes) : List Unch :=
  if (halfInfo p h).2.2.2 then
    [{ writes := (halfLanes s.w h).map fun L => (h.dst.toNat * 16384 + L, BitVec.ofNat 32 (f L).bits), held := false, err := none
       returned := false }]
  else []

/-- The kinds that a half counts. -/
def halfCounted (s : State) (p : PairOp) (h : Half) (f : Nat → FRes) : List (BitVec 4) :=
  if (halfInfo p h).2.2.1 = 0 then [] else (halfLanes s.w h).map fun L => (f L).kinds

/-- A wave with a half's kinds counted in the half's format. -/
def Wave.halfCount (w : Wave) (p : PairOp) (h : Half) (ks : List (BitVec 4)) : Wave :=
  if (halfInfo p h).2.2.1 = 0 then w else w.addKinds (halfInfo p h).2.2.1 ks

/-- A half's results in the lanes active for it. -/
def halfResults (s : State) (p : PairOp) (h : Half) (f : Nat → FRes) : Prop :=
  ∀ L ∈ halfLanes s.w h, halfFn p h (s.src (halfInfo p h).2.1 h.a L) (s.src (halfInfo p h).2.1 h.b L) = .ok (f L)

end Sys2Proof.Machine

/-- R122, R123, R32, R29: an integer word writes its result in each active lane, and nothing in any other. -/
def Sys2Proof.Machine.IntegerWordWritesActiveLanesClaim : Prop :=
  ∀ (s : State) (w : LaneWord), ∀ x ∈ integerOps w, (w.ty ∈ x.2.2.1 ∨ x.2.2.1 = [0]) → s.laneReady x.2.1 w false →
    LaneWrites x.1 s x.2.1 w (fun L =>
      let t := if x.2.2.1 = [0] then 0 else w.ty
      x.2.2.2 (s.src t w.a L) (s.src t w.b L) (s.src t w.c L)) s.w.counts

/-- R124: a zero divisor in an active lane traps the whole word; else quotients or remainders are written. -/
def Sys2Proof.Machine.LaneDivisionWritesOrTrapsClaim : Prop :=
  ∀ (s : State) (w : LaneWord), ∀ x ∈ laneDivisions w, w.ty = x.2.2.1 → s.laneReady x.2.1 w false →
    ((∃ L ∈ s.w.active w.guard, s.src w.ty w.b L = 0) → LaneTraps x.1 s .idiv0 0) ∧
    ((∀ L ∈ s.w.active w.guard, s.src w.ty w.b L ≠ 0) →
      LaneWrites x.1 s x.2.1 w (fun L => x.2.2.2 (s.src w.ty w.a L) (s.src w.ty w.b L)) s.w.counts)

/-- R122, R123, R124, R29, R32: an integer word writes its result in each active lane and nothing in any other; a zero divisor traps it. -/
def Obligations.IntegerWordWritesActiveLanes : Prop :=
  IntegerWordWritesActiveLanesClaim ∧ LaneDivisionWritesOrTrapsClaim

/-- R96, R98, R105, R111, R127: a word that rounds writes its rounded results and counts their kinds; an enabled kind traps instead. -/
def Sys2Proof.Machine.RoundedWordWritesAndCountsClaim : Prop :=
  ∀ (s : State) (w : LaneWord) (r : Nat → FRes), ∀ x ∈ roundedOps w, s.laneReady x.2.1 w false →
    (∀ L ∈ s.w.active w.guard, x.2.2.2.2 (s.src x.2.2.1 w.a L) (s.src x.2.2.1 w.b L) (s.src x.2.2.1 w.c L) = .ok (r L)) →
    0 < x.2.2.2.1 →
    let ks := (s.w.active w.guard).map fun L => (r L).kinds
    (trappedKinds s ks = 0 → LaneWrites x.1 s x.2.1 w (fun L => BitVec.ofNat 32 (r L).bits) (s.w.addKinds x.2.2.2.1 ks).counts) ∧
    (trappedKinds s ks ≠ 0 → LaneTraps x.1 s .fptrap ((trappedKinds s ks).setWidth 64))

/-- R116, R117, R128: a special function leaves its destination pending, with the results on their way, and writes no register yet; a result
for a scatter queue is pushed at once (the model's choice, log entry 69). It rests on readings of the model that are no rule: log
entries 10, 44, 69. -/
def Obligations.SpecialFunctionIssuesAnUncheckedResult : Prop :=
  ∀ (s : State) (w : LaneWord) (r : Nat → FRes), ∀ x ∈ specialOps w, s.laneReady x.2.1 w true →
    let act := s.w.active w.guard
    (∀ L ∈ act, specialFn x.2.2 (rndOf w) (s.src w.ty w.a L) = .ok (r L)) →
    let ks := act.map fun L => (r L).kinds
    (trappedKinds s ks ≠ 0 → LaneTraps x.1 s .fptrap ((trappedKinds s ks).setWidth 64)) ∧
    (trappedKinds s ks = 0 →
      (∀ n, w.dst = .q n → LaneWrites x.1 s x.2.1 w (fun L => BitVec.ofNat 32 (r L).bits) (s.w.addKinds 3 ks).counts) ∧
      ∀ d, w.dst = .v d →
        ∃ u : State, exec x.1 s = .next (u.laneNext w.mark) ∧ d.toNat ∈ u.w.pend ∧
          (∀ k, k ≠ d.toNat → (k ∈ u.w.pend ↔ k ∈ s.w.pend)) ∧
          u.w.unch = s.w.unch ++ [{ writes := act.map fun L => (d.toNat * 16384 + L, BitVec.ofNat 32 (r L).bits)
                                    held := false, err := none, returned := false }] ∧
          u.w.q = (s.w.traffic x.2.1 w []).q ∧ u.w.counts = (s.w.addKinds 3 ks).counts ∧
          u = { s with w := { s.w with pend := u.w.pend, unch := u.w.unch, q := u.w.q, counts := u.w.counts } })

/-- R37, R39: both halves of a pair word read before either writes, and a trap of either stops both. R38: a pair whose halves clash traps
PAIRRULE instead. -/
def Obligations.PairWordReadsBeforeItWrites : Prop :=
  (∀ (s : State) (mark : Bool) (xop yop : PairOp) (x y : Half) (fx fy : Nat → FRes),
    halfCheck s xop x = .ok () → halfCheck s yop y = .ok () → halfHazard s xop x = .ok () → halfHazard s yop y = .ok () →
    halfResults s xop x fx → halfResults s yop y fy → x.dst ≠ y.dst →
    let kx := halfCounted s xop x fx
    let ky := halfCounted s yop y fy
    (trappedKinds s (kx ++ ky) ≠ 0 → LaneTraps (mkPair mark xop x yop y) s .fptrap ((trappedKinds s (kx ++ ky)).setWidth 64)) ∧
    (trappedKinds s (kx ++ ky) = 0 →
      ∃ u : State, exec (mkPair mark xop x yop y) s = .next (u.laneNext mark) ∧
        (∀ r L, L < 16384 → u.w.v32 r L =
          if (halfInfo yop y).2.2.2 = false ∧ r = y.dst.toNat ∧ L ∈ halfLanes s.w y then BitVec.ofNat 32 (fy L).bits
          else if (halfInfo xop x).2.2.2 = false ∧ r = x.dst.toNat ∧ L ∈ halfLanes s.w x then BitVec.ofNat 32 (fx L).bits
          else s.w.v32 r L) ∧
        (∀ k, k ∈ u.w.pend ↔ k ∈ s.w.pend ∨ (halfInfo xop x).2.2.2 = true ∧ k = x.dst.toNat ∨
          (halfInfo yop y).2.2.2 = true ∧ k = y.dst.toNat) ∧
        u.w.unch = s.w.unch ++ halfIssued s xop x fx ++ halfIssued s yop y fy ∧
        u.w.counts = ((s.w.halfCount xop x kx).halfCount yop y ky).counts ∧
        u = { s with w := { s.w with v := u.w.v, pend := u.w.pend, unch := u.w.unch, counts := u.w.counts } })) ∧
  ∀ (w : BitVec 96) (xop yop : PairOp) (x y : Half), w.getLsbD 94 = true →
    decodeHalf (w.extractLsb' 47 47) = some (xop, x) → decodeHalf (w.extractLsb' 0 47) = some (yop, y) → pairOk xop x yop y = true →
    (pairClash xop x yop y → decodeLane w = .error .pairRule ∧ Bad.cause .pairRule = .pairrule) ∧
    (¬pairClash xop x yop y → decodeLane w = .ok (mkPair (w.getLsbD 95) xop x yop y))

/-- R125, R126, R131: masks and lane identity; the word's queues move as in any word. -/
def Sys2Proof.Machine.MaskAndIdentityWordsClaim : Prop :=
  ∀ (s : State) (w : LaneWord),
    (∀ k : BitVec 3, w.dst = .m k → k ≠ 0 → ∀ x ∈ maskOps s w, s.laneReady x.2.1 w false →
      ∃ u : State, exec x.1 s = .next (u.laneNext w.mark) ∧
        (∀ j L, L < 16384 → u.w.mBit j L = if j = k.toNat ∧ L ∈ s.w.active w.guard then x.2.2 L else s.w.mBit j L) ∧
        u.w.q = (s.w.traffic x.2.1 w []).q ∧ u = { s with w := { s.w with m := u.w.m, q := u.w.q } }) ∧
    ∀ x ∈ identityOps s w, s.regCheck x.2.1 w false = .ok () → dstCheck s w.dst (s.w.active w.guard) = .ok () →
      ∃ u : State, exec x.1 s = .next (u.laneNext w.mark) ∧
        (∀ r L, L < 16384 → u.w.v32 r L = s.w.regsAfter w.dst (s.w.active w.guard) x.2.2 r L) ∧
        u.w.q = (s.w.traffic x.2.1 w ((s.w.active w.guard).map fun L => (L, x.2.2 L))).q ∧
        u = { s with w := { s.w with v := u.w.v, q := u.w.q } }

/-- R129, R130, R132: random numbers are the generator's draws, as bits or as a fraction below 1, and advance each active lane's counter by one;
indirect moves read and write the register that an index selects, and a base of `rdx` that is not allocated traps REGRANGE whichever lanes are
active. -/
def Sys2Proof.Machine.RandomNumbersAndIndirectMovesClaim : Prop :=
  ∀ (s : State) (w : LaneWord),
    let act := s.w.active w.guard
    (s.regCheck 0x01E w false = .ok () → dstCheck s w.dst act = .ok () →
      ((∀ L ∈ act, look 0 s.w.rng L ≠ BitVec.allOnes 64) ∨ s.run.wrapOk = true →
        ∃ u : State, exec (.rng w) s = .next (u.laneNext w.mark) ∧
          (∀ L, look 0 u.w.rng L = if L ∈ act then look 0 s.w.rng L + 1 else look 0 s.w.rng L) ∧
          (∀ val : Nat → Word, (w.ty = 2 ∧ val = fun L => (s.rngOut L).setWidth 32) ∨
              (w.ty = 3 ∧ val = fun L => unitFraction ((s.rngOut L >>> 8).toNat % 2 ^ 24)) →
            (∀ r L, L < 16384 → u.w.v32 r L = s.w.regsAfter w.dst act val r L) ∧
              u.w.q = (s.w.traffic 0x01E w (act.map fun L => (L, val L))).q) ∧
          u = { s with w := { s.w with v := u.w.v, q := u.w.q, rng := u.w.rng } }) ∧
      ((∃ L ∈ act, look 0 s.w.rng L = BitVec.allOnes 64) → s.run.wrapOk = false → LaneTraps (.rng w) s .rngwrap 0)) ∧
    (s.laneReady 0x020 w false →
      let idx := fun L => (w.fld 18 9).toNat + (s.src 0 w.a L).toNat
      ((∀ L ∈ act, idx L < s.w.regs ∧ idx L ∉ s.w.pend) →
        LaneWrites (.rdx w) s 0x020 w (fun L => s.w.v32 (idx L) L) s.w.counts) ∧
      ((∃ L ∈ act, s.w.regs ≤ idx L) → LaneTraps (.rdx w) s .regrange 0)) ∧
    (s.w.regs ≤ (w.fld 18 9).toNat → LaneTraps (.rdx w) s .regrange 0) ∧
    ∀ d : BitVec 9, w.dst = .v d → s.laneReady 0x021 w true →
      let idx := fun L => d.toNat + (s.src 0 w.a L).toNat
      ((∀ L ∈ act, idx L < s.w.regs ∧ idx L ∉ s.w.pend) →
        ∃ u : State, exec (.wrx w) s = .next (u.laneNext w.mark) ∧
          (∀ r L, L < 16384 → u.w.v32 r L = if L ∈ act ∧ r = idx L then s.src 0 w.b L else s.w.v32 r L) ∧
          u.w.q = (s.w.traffic 0x021 w []).q ∧
          u = { s with w := { s.w with v := u.w.v, q := u.w.q } }) ∧
      ((∃ L ∈ act, s.w.regs ≤ idx L) → LaneTraps (.wrx w) s .regrange 0)

/-- R125, R126, R129 to R132: masks, lane identity, random numbers and indirect moves. It rests on readings of the model that are no rule:
log entries 34, 79. -/
def Obligations.MaskIdentityRandomAndIndirectWords : Prop :=
  MaskAndIdentityWordsClaim ∧ RandomNumbersAndIndirectMovesClaim

namespace Sys2Proof.Machine

/-! Vocabulary of the statements about planes and accumulators. -/

/-- What a plane word asks of its descriptors and what it computes: its source descriptors with their formats, its shape rule, the pairs
on whose folds it asks for agreement with the axes of each, the format counted in (0 for none), and element (i, j) of outer plane o. -/
structure PlaneRule where
  instr : Instr
  srcs : List (Desc × Nat)
  shape : Bool
  pairs : List FoldPair
  counts : Nat
  elem : Nat → Nat → Nat → Res FRes

/-- The rule of each plane word (R148 to R158, R384). -/
def planeRules (s : State) (w : LaneWord) : List PlaneRule :=
  let d := s.w.desc (w.fld 26 4).toNat
  let a := s.w.desc (w.fld 22 4).toNat
  let b := s.w.desc (w.fld 18 4).toNat
  let c := s.w.desc (w.fld 14 4).toNat
  let col := w.bit 13
  let k (i j : Nat) : Nat := if col then j else i
  let x (i j : Nat) : Nat := if col then i else j
  let v := s.planeArg w
  let both := [(false, false), (true, true)]
  let across := [(!col, !col)]
  let same (y : Desc) : Bool := y.h == d.h && y.w == d.w
  let level : Bool := a.extent (!col) == d.extent (!col)
  let floats := if 3 ≤ w.ty then w.ty else 0
  let bit (r : Res Nat) : Res FRes := r.map fun y => ⟨y, 0⟩
  let line (f : List Nat → FRes) (i j : Nat) (o : Nat) : Res FRes := (s.w.line a col o (x i j)).map f
  let two (f : Word → Word → Res FRes) (o i j : Nat) : Res FRes := do
    let p ← s.w.readElem a o i j
    let q ← s.w.readElem b o i j
    f (BitVec.ofNat 32 p) (BitVec.ofNat 32 q)
  let move (i : Instr) (elem : Nat → Nat → Nat → Res FRes) : PlaneRule := ⟨i, [(a, w.ty)], same a, [(a, d, both)], 0, elem⟩
  let fold (i : Instr) (counts : Nat) (elem : Nat → Nat → Nat → Res FRes) : PlaneRule :=
    ⟨i, [(a, w.ty)], d.extent col == 1 && level, [(a, d, across)], counts, elem⟩
  let arith (i : Instr) (counts : Nat) (elem : Nat → Nat → Nat → Res FRes) : PlaneRule :=
    ⟨i, [(a, w.ty), (b, w.ty)], same a && same b, [(a, b, both), (a, d, both)], counts, elem⟩
  [move (.shift w) fun o i j => bit (s.w.readAxis a col o (k i j - v) (x i j)),
   move (.rot w) fun o i j => bit (s.w.readAxis a col o ((k i j - v) % (a.extent col : Int)) (x i j)),
   move (.rotL1 w) fun o i j =>
     let g := s.w.grid col
     let n := s.w.cells a col
     let at' := foldMap (a.fold col) g n (k i j)
     let y := unfold (a.fold col) g n (((at'.1 : Int) - v) % (g : Int)).toNat at'.2
     bit (if y < a.extent col then s.w.readAxis a col o y (x i j) else .ok 0),
   ⟨.spread w, [(a, w.ty)], level, [(a, d, across)], 0, fun o i j => bit (s.w.readAxis a col o v (x i j))⟩,
   fold (.foldSum w) floats fun o i j => line (Fold.reduce .sum w.ty (planeRnd w)) i j o,
   fold (.foldMax w) floats fun o i j => line (Fold.reduce .max w.ty .rne) i j o,
   fold (.foldMin w) floats fun o i j => line (Fold.reduce .min w.ty .rne) i j o,
   fold (.foldSq w) w.ty fun o i j => line (sumSq (planeRnd w)) i j o,
   ⟨.scan w, [(a, w.ty)], same a, [(a, d, both)], floats, fun o i j => line (fun ys => scanAt w.ty (planeRnd w) ys (k i j)) i j o⟩,
   ⟨.refold w, [(a, w.ty)], same a, [], 0, fun o i j => bit (s.w.readElem a o i j)⟩,
   ⟨.ptrans w, [(a, w.ty)], d.h == a.w && d.w == a.h, [(a, d, [(false, true), (true, false)])], 0,
     fun o i j => bit (s.w.readElem a o j i)⟩,
   ⟨.pick w, [(a, w.ty), (b, 1)], level && same b, [(a, d, across), (b, d, both)], 0, fun o i j => do
     let y ← s.w.readElem b o i j
     bit (s.w.readAxis a col o (BitVec.ofNat 32 y).toInt (x i j))⟩,
   arith (.pAdd w) floats (two fun p q => if w.ty ≤ 2 then addFn w.ty (planeSat w) p q else faddFn w.ty (planeRnd w) (planeSat w) p q),
   arith (.pMul w) floats (two fun p q => if w.ty ≤ 2 then mulFn w.ty (planeSat w) p q else fmulFn w.ty (planeRnd w) (planeSat w) p q),
   arith (.pMax w) 0 (two fun p q => if w.ty ≤ 2 then maxFn w.ty p q else fmaxFn w.ty p q),
   arith (.pMin w) 0 (two fun p q => if w.ty ≤ 2 then minFn w.ty p q else fminFn w.ty p q),
   ⟨.pFma w, [(a, w.ty), (b, w.ty), (c, w.ty)], same a && same b && same c, [(a, b, both), (a, c, both), (a, d, both)], floats,
     fun o i j => do
       let p ← s.w.readElem a o i j
       let q ← s.w.readElem b o i j
       let r ← s.w.readElem c o i j
       fmaFn w.ty (planeRnd w) (planeSat w) (BitVec.ofNat 32 p) (BitVec.ofNat 32 q) (BitVec.ofNat 32 r)⟩]

/-- What a plane word leaves of each cell of its destination's footprint: the element's bits, or zero in a pad cell (R146, R139). -/
def cellsWritten (d : Desc) (es : List ((Nat × Nat × Nat) × FRes)) (rule : Nat → Nat → Nat → Res FRes) (w : Wave) : Prop :=
  es.map Prod.fst = w.cellsOf d ∧ ∀ e ∈ es,
    (e.1.2.1 < d.h ∧ e.1.2.2 < d.w → rule e.1.1 e.1.2.1 e.1.2.2 = .ok e.2) ∧ (¬ (e.1.2.1 < d.h ∧ e.1.2.2 < d.w) → e.2 = ⟨0, 0⟩)

/-- A plane word ends with the cells `es` written: each cell of dD's footprint and no other byte of lane memory, and the kinds counted where the
word counts (R146, R105). Every other piece of state is as in `s0`. -/
def PlaneDone (s s0 : State) (w : LaneWord) (r : PlaneRule) (d : Desc) (es : List ((Nat × Nat × Nat) × FRes)) : Prop :=
  ∃ u : State, exec r.instr s = .next (u.laneNext w.mark) ∧ u.w.lm = (es.foldl (fun x e => x.writeCell d e) s.w).lm ∧
    (∀ k, (∀ e ∈ es, let q := s.w.place d e.1.1 e.1.2.1 e.1.2.2
        k < lmKey q.1 (q.2 / 2) ∨ lmKey q.1 (q.2 / 2) + (nibs d.fmt + 1) / 2 ≤ k) →
      readByte u.w.lm k = readByte s.w.lm k) ∧
    u = { s0 with w := { s0.w with lm := u.w.lm, lmBad := u.w.lmBad
                                   counts := if r.counts = 0 then s.w.counts
                                     else (s.w.addKinds r.counts (es.map fun e => e.2.kinds)).counts } }

/-- It meets an error of lane memory in step 6: ECC_UNCORR at a byte, with some of the cells written (R146). -/
def PlaneMeetsError (s : State) (r : PlaneRule) (d : Desc) (es : List ((Nat × Nat × Nat) × FRes)) (off : Nat) : Prop :=
  ∃ (t : State) (sub : List ((Nat × Nat × Nat) × FRes)),
    exec r.instr s = .next (t.raise 1 .eccUncorr (dw off) s.laneTarget s.laneBits) ∧ sub.Sublist es ∧
    t.w.lm = (sub.foldl (fun x e => x.writeCell d e) s.w).lm ∧
    t = { s with w := { s.w with lm := t.w.lm, lmBad := t.w.lmBad }, free := t.free }

/-- A plane word whose checks pass and whose waits have ended: its descriptors are valid, agree in their outer planes and have the formats asked
of them (R136), its shape rule holds, its pairs agree in fold (R140, R384), and every footprint lies in the window (R139). It writes its cells
and counts its kinds, or traps FPTRAP where an enabled kind arises (R146, R105, R111); a cell that carries an uncorrectable error ends it with
ECC_UNCORR where the cell is half a byte, and else by a free choice (the model's choice, log entry 15). -/
def PlaneCompletes (s : State) (w : LaneWord) (r : PlaneRule) : Prop :=
  let d := s.w.desc (w.fld 26 4).toNat
  ∀ es : List ((Nat × Nat × Nat) × FRes), s.w.descOk d w.ty d.n = .ok () → (∀ y ∈ r.srcs, s.w.descOk y.1 y.2 d.n = .ok ()) →
    r.shape = true → (∀ p ∈ r.pairs, ∀ c ∈ p.2.2, s.w.agree p.1 c.1 p.2.1 c.2 = true) →
    (∀ y ∈ d :: r.srcs.map Prod.fst, y.base + s.w.footprint y ≤ s.w.lambda) →
    (∀ y ∈ r.srcs, s.sbWait (s.w.descGranules y.1) false = .ok ()) → s.sbWait (s.w.descGranules d) true = .ok () →
    cellsWritten d es r.elem s.w →
    let ks := es.map fun e => e.2.kinds
    (r.counts ≠ 0 → trappedKinds s ks ≠ 0 → LaneTraps r.instr s .fptrap ((trappedKinds s ks).setWidth 64)) ∧
    (r.counts = 0 ∨ trappedKinds s ks = 0 →
      (s.w.badCells d = [] → PlaneDone s s w r d es) ∧
      ∀ off rest, s.w.badCells d = off :: rest →
        (nibs d.fmt = 1 ∨ Config.freeChoice s.free = true → PlaneMeetsError s r d es off) ∧
        (nibs d.fmt ≠ 1 → Config.freeChoice s.free = false → PlaneDone s { s with free := s.free + 1 } w r d es))

/-- A wave's own accumulator plane, with the sweeps on it ended (R160, R169). -/
def planeReady (s : State) (p : Nat) : Prop := p < s.w.accPlanes ∧ s.planeWait p = .ok ()

/-- Chunk sums that a dot word adds to entry (i, j) of a lane (R163, R172, R173). -/
def dotSums (s : State) (w : LaneWord) (sparse : Bool) (L i j : Nat) : List Val :=
  let vr := (w.fld 11 9).toNat
  let fa := rowFmt w.ty (s.w.v32 (vr + i) L)
  let fb := rowFmt w.ty (s.src 0 w.c L)
  if sparse then
    [0, 1].map fun q => chunkSum ([(2 * q, 0), (2 * q, 1), (2 * q + 1, 0), (2 * q + 1, 1)].map fun (g, t) =>
      let e := spValue s.w L (srcReg w.b) j g t
      let k := 4 * g + e.2
      (decodeV fa (byteAt (s.w.v32 (srcReg w.a + 4 * i + k / 4) L) (k % 4)), decodeV fb e.1))
  else
    [chunkSum ((List.range (if w.ty ≤ 5 then 4 else 8)).map fun k =>
      (decodeV fa (dotElem s.w w.ty L (srcReg w.a) i k), decodeV fb (dotElem s.w w.ty L (srcReg w.b) j k)))]

/-- The entry of a lane after those sums are promoted (R163). -/
def dotEntry (s : State) (w : LaneWord) (sparse : Bool) (p L e : Nat) : AccEntry :=
  (dotSums s w sparse L (e / 8) (e % 8)).foldl (fun x sg =>
    x.promote (s.w.anchorOf p L) sg (rowScale w.ty (s.w.v32 ((w.fld 11 9).toNat + e / 8) L)) (rowScale w.ty (s.src 0 w.c L)))
    (s.w.entry p L e)

/-- The chunk sums that a sweep adds to the entry of row r of A and column c of B: elements as the formats of the scale tags read them (R163,
R164, R175), and in a sparse sweep those of A that the indices of dM select (R177). -/
def sweepSums (w : Wave) (x : SweepOp) (fa fb r c : Nat) : List Val :=
  let cell (d : Desc) (i j : Nat) : Nat := let q := w.place d 0 i j; w.readNibs q.1 q.2 (nibs d.fmt)
  let a (k : Nat) : Val := decodeV fa (cell (descOf 0 x.da) r k)
  let b (k : Nat) : Val := decodeV fb (cell (descOf 0 x.db) k c)
  let n := (descOf 0 x.da).w
  if x.sparse then
    (List.range (n / 8)).map fun q => chunkSum ([2 * q, 2 * q + 1].flatMap fun g => [0, 1].map fun t =>
      (a (4 * g + cell (descOf 0 x.dm) g c / 4 ^ t % 4), b (2 * g + t)))
  else
    let len := if x.ty ≤ 5 then 4 else 8
    (List.range (n / len)).map fun q => chunkSum ((List.range len).map fun k => (a (len * q + k), b (len * q + k)))

/-- Entry e of a lane after a sweep: lane (R, C) takes rows 8R on of A and columns 8C on of B, row r with the scale in row r of dS, and every
column with the tile's (R163, R175). -/
def sweepEntry (w : Wave) (x : SweepOp) (L e : Nat) : AccEntry :=
  let r := 8 * (L / w.cols) + e / 8
  let q := w.place (descOf 0 x.ds) 0 r 0
  let row : Word := BitVec.ofNat 32 (w.readNibs q.1 q.2 (nibs (descOf 0 x.ds).fmt))
  let tile : Word := x.tile.setWidth 32
  (sweepSums w x (rowFmt x.ty row) (rowFmt x.ty tile) r (8 * (L % w.cols) + e % 8)).foldl
    (fun y sg => y.promote (w.anchorOf x.plane L) sg (rowScale x.ty row) (rowScale x.ty tile)) (w.entry x.plane L e)

/-- The two elements of a group of four that `spack` keeps: the first two that are not zero, then the lowest of the others (R174). -/
def keptPair (nz : Nat → Bool) : Nat × Nat :=
  match (List.range 4).filter nz with
  | [] => (0, 1)
  | [k] => (0, if k = 0 then 1 else k)
  | i :: j :: _ => (i, j)

/-- The carry-save step of an addend (R162), spelled out. -/
def stepOf (e : AccEntry) (x : BitVec 64) (signed : Bool) : AccEntry :=
  let m := (e.s &&& e.c) ||| (e.s &&& x) ||| (e.c &&& x)
  let t := e.t.toInt + (if m.getLsbD 63 then 1 else 0) - (if signed && x.getLsbD 63 then 1 else 0)
  { e with s := e.s ^^^ e.c ^^^ x, c := m <<< 1, t := BitVec.ofInt 6 t, w := e.w || decide (t < -32 ∨ 31 < t) }

/-- The tags of the scale words that a dot word reads select elements of its width (R164). -/
def tagsFit (s : State) (w : LaneWord) : Prop :=
  w.ty ≤ 5 ∨ ∀ L ∈ s.w.active w.guard,
    (∀ i < 8, tagBad w.ty (s.w.v32 ((w.fld 11 9).toNat + i) L) = false) ∧ tagBad w.ty (s.src 0 w.c L) = false

end Sys2Proof.Machine

/-- R145 to R158: what each plane word leaves in lane memory; and the descriptor checks of dD, which come first (R146, R136). It rests on
readings of the model that are no rule: log entries 15, 65, 66, 80. -/
def Obligations.PlaneWordWritesItsDestination : Prop :=
  ∀ (s : State) (w : LaneWord), ∀ x ∈ planeRules s w, PlaneCompletes s w x ∧
    let d := s.w.desc (w.fld 26 4).toNat
    (d.resv ≠ 0 → LaneTraps x.instr s .desc (dw d.num)) ∧
    (d.resv = 0 → (d.fmt = 0 ∨ 9 < d.fmt) → LaneTraps x.instr s .desc (dw (d.num + 512))) ∧
    (d.resv = 0 → 1 ≤ d.fmt → d.fmt ≤ 9 → d.base % 16 ≠ 0 → LaneTraps x.instr s .desc (dw (d.num + 4 * 512)))

/-- R136, R138, R139: the cells of a footprint lie at distinct places, half byte by half byte. -/
def Sys2Proof.Machine.PlaneCellsDoNotOverlapClaim : Prop :=
  ∀ (w : Wave) (d : Desc), 1 ≤ d.fmt → d.fmt ≤ 9 → (d.n = 1 ∨ (w.planeBytes d + 15) / 16 * 16 ≤ 128 * d.stride) →
    ∀ c ∈ w.cellsOf d, ∀ e ∈ w.cellsOf d, c ≠ e →
      let p := w.place d c.1 c.2.1 c.2.2
      let q := w.place d e.1 e.2.1 e.2.2
      p.1 ≠ q.1 ∨ p.2 + nibs d.fmt ≤ q.2 ∨ q.2 + nibs d.fmt ≤ p.2

/-- R161, R162, R165, R90: the carry-save step adds exactly, modulo 2^70, and so does a raw addition; W is set by exactly the steps whose
top field leaves -32 to 31, and stays. -/
def Sys2Proof.Machine.AccumulatorAdditionIsExactClaim : Prop :=
  (∀ (e : AccEntry) (x : BitVec 64) (signed : Bool), e.step x signed = stepOf e x signed ∧
    ((e.step x signed).value - (e.value + if signed = true then x.toInt else x.toNat)) % 2 ^ 70 = 0) ∧
  (∀ e i : AccEntry, ((e.rawAdd i).value - (e.value + i.value)) % 2 ^ 70 = 0 ∧
    (let y := stepOf (stepOf e i.s false) i.c false
     let t := y.t.toInt + i.t.toInt
     ((e.rawAdd i).w = true ↔ y.w = true ∨ i.w = true ∨ t < -32 ∨ 31 < t) ∧ (e.rawAdd i).t = BitVec.ofInt 6 t ∧
       (e.rawAdd i).s = y.s ∧ (e.rawAdd i).c = y.c) ∧
    (e.rawAdd i).n = (e.n || i.n) ∧ (e.rawAdd i).p = (e.p || i.p) ∧ (e.rawAdd i).m = (e.m || i.m)) ∧
  ∀ (e : AccEntry) (a : BitVec 10), imageEntry (e.image a) = (e, a)

/-- R90, R136, R138, R139, R161, R162, R165: cells of a footprint lie apart, and accumulators add exactly modulo 2^70. -/
def Obligations.PlaneAndAccumulatorArithmetic : Prop :=
  PlaneCellsDoNotOverlapClaim ∧ AccumulatorAdditionIsExactClaim

/-- R160, R163, R164, R172, R173: a dot word promotes its chunk sums into every entry of its plane in each active lane. It rests on readings
of the model that are no rule: log entries 53, 86. -/
def Obligations.DotWordPromotesItsChunks : Prop :=
  ∀ (s : State) (w : LaneWord) (p : BitVec 1), w.dst = .a p → planeReady s p.toNat → tagsFit s w →
    ∀ x ∈ [(Instr.dot w, 0x400, false), (.dotSp w, 0x401, true)], s.regCheck x.2.1 w false = .ok () →
      ∃ u : State, exec x.1 s = .next (u.laneNext w.mark) ∧
        (∀ q L e, L < 16384 → e < 64 → u.w.entry q L e =
          if q = p.toNat ∧ L ∈ s.w.active w.guard then dotEntry s w x.2.2 q L e else s.w.entry q L e) ∧
        u = { s with w := { s.w with acc := u.w.acc } }

/-- R178, R179, R180, R181, R182, R183: the accumulator words read and write the wave's planes as their rules say. It rests on readings of
the model that are no rule: log entries 26, 81, 86, 87. -/
def Obligations.AccumulatorWords : Prop :=
  ∀ (s : State) (w : LaneWord),
    let act := s.w.active w.guard
    let p := if w.bit 24 then 1 else 0
    let res := fun L e => (s.w.entry p L e).resolve (s.w.anchorOf p L) w.ty (rndOf w) (satOf w)
    let ks := act.flatMap fun L => (List.range 64).map fun e => (res L e).kinds
    -- resolve to registers
    (∀ d : BitVec 9, w.dst = .v d → w.bit 20 = false → s.regCheck 0x405 w false = .ok () → planeReady s p →
      (w.bit 26 = true ∨ ∀ L ∈ act, ∀ e < 64, (s.w.entry p L e).w = false) → trappedKinds s ks = 0 →
      ∃ u : State, exec (.resolve w) s = .next (u.laneNext w.mark) ∧
        (∀ r L, L < 16384 → u.w.v32 r L =
          if L ∈ act ∧ d.toNat ≤ r ∧ r < d.toNat + 64 then BitVec.ofNat 32 (res L (r - d.toNat)).bits else s.w.v32 r L) ∧
        (∀ q L e, L < 16384 → e < 64 → u.w.entry q L e =
          if w.bit 25 = true ∧ q = p ∧ L ∈ act then {} else s.w.entry q L e) ∧
        u = { s with w := { s.w with v := u.w.v, acc := u.w.acc, counts := (s.w.addKinds w.ty ks).counts } }) ∧
    -- its traps, in either form
    (s.regCheck 0x405 w false = .ok () → (w.bit 20 = true → lmCheck s w (64 * (tyBits w.ty / 8)) true act = .ok ()) → planeReady s p →
      (w.bit 26 = false → (∃ L ∈ act, ∃ e < 64, (s.w.entry p L e).w = true) →
        LaneTraps (.resolve w) s .accwrap (dw (if p = 1 then 16 else 0))) ∧
      (w.bit 26 = true ∨ (∀ L ∈ act, ∀ e < 64, (s.w.entry p L e).w = false) → trappedKinds s ks ≠ 0 →
        LaneTraps (.resolve w) s .fptrap ((trappedKinds s ks).setWidth 64))) ∧
    -- resolve to lane memory
    (let n := tyBits w.ty / 8
     w.bit 20 = true → s.regCheck 0x405 w false = .ok () → planeReady s p → lmCheck s w (64 * n) true act = .ok () →
      lmAddr s w + 64 * n ≤ 4096 → (w.bit 26 = true ∨ ∀ L ∈ act, ∀ e < 64, (s.w.entry p L e).w = false) → trappedKinds s ks = 0 →
      ∃ u : State, exec (.resolve w) s = .next (u.laneNext w.mark) ∧
        (∀ L ∈ act, ∀ e < 64, readLe u.w.lm (lmKey L (lmAddr s w + e * n)) n = (res L e).bits % 2 ^ (8 * n)) ∧
        (∀ k, (∀ L ∈ act, k < lmKey L (lmAddr s w) ∨ lmKey L (lmAddr s w) + 64 * n ≤ k) → readByte u.w.lm k = readByte s.w.lm k) ∧
        (∀ q L e, L < 16384 → e < 64 → u.w.entry q L e = if w.bit 25 = true ∧ q = p ∧ L ∈ act then {} else s.w.entry q L e) ∧
        u = { s with w := { s.w with lm := u.w.lm, lmBad := u.w.lmBad, acc := u.w.acc, counts := (s.w.addKinds w.ty ks).counts } }) ∧
    -- compares and flags, two bitmap words for each lane
    (∀ d : BitVec 9, w.dst = .v d → s.regCheck 0x406 w false = .ok () → planeReady s p →
      (w.bit 20 = true ∨ (planeReady s (1 - p) ∧ ∀ L ∈ act, s.w.anchorOf p L = s.w.anchorOf (1 - p) L)) →
      ∃ u : State, exec (.accCmp w) s = .next (u.laneNext w.mark) ∧
        (∀ L ∈ act, ∀ e < 64, (u.w.v32 (d.toNat + e / 32) L).getLsbD (e % 32) =
          condHolds (w.fld 21 3).toNat (accOrder (s.w.entry p L e) (if w.bit 20 = true then {} else s.w.entry (1 - p) L e))) ∧
        (∀ r L, L < 16384 → (L ∉ act ∨ r < d.toNat ∨ d.toNat + 2 ≤ r) → u.w.v32 r L = s.w.v32 r L) ∧
        u = { s with w := { s.w with v := u.w.v } }) ∧
    (s.regCheck 0x406 w false = .ok () → planeReady s p → planeReady s (1 - p) → w.bit 20 = false →
      (∃ L ∈ act, s.w.anchorOf p L ≠ s.w.anchorOf (1 - p) L) → LaneTraps (.accCmp w) s .anchor (dw (if p = 1 then 16 else 0))) ∧
    (∀ d : BitVec 9, w.dst = .v d → s.regCheck 0x40A w false = .ok () → planeReady s p →
      ∃ u : State, exec (.accFlags w) s = .next (u.laneNext w.mark) ∧
        (∀ L ∈ act, ∀ e < 64, let y := s.w.entry p L e
          (u.w.v32 (d.toNat + e / 32) L).getLsbD (e % 32) = match (w.fld 21 3).toNat with
            | 0 => y.w
            | 1 => y.n
            | 2 => y.p
            | 3 => y.m
            | 4 => y.w || y.n || y.p || y.m
            | _ => false) ∧
        (∀ r L, L < 16384 → (L ∉ act ∨ r < d.toNat ∨ d.toNat + 2 ≤ r) → u.w.v32 r L = s.w.v32 r L) ∧
        (w.bit 25 = false → u.w.acc = s.w.acc) ∧
        (let f := (w.fld 21 3).toNat
         w.bit 25 = true → ∀ q L e, L < 16384 → e < 64 → let y := s.w.entry q L e
          u.w.entry q L e = if q = p ∧ L ∈ act then
            { y with w := y.w && f != 0 && f != 4, n := y.n && f != 1 && f != 4, p := y.p && f != 2 && f != 4
                     m := y.m && f != 3 && f != 4 } else y) ∧ u = { s with w := { s.w with v := u.w.v, acc := u.w.acc } }) ∧
    -- raw images in lane memory
    (s.regCheck 0x408 w false = .ok () → planeReady s p → lmCheck s w 1536 true act = .ok () → lmAddr s w + 1536 ≤ 4096 →
      ∃ u : State, exec (.accSave w) s = .next (u.laneNext w.mark) ∧
        (∀ L ∈ act, ∀ e < 64, u.w.lmImage L (lmAddr s w) e = (s.w.entry p L e, s.w.anchorOf p L)) ∧
        (∀ k, (∀ L ∈ act, k < lmKey L (lmAddr s w) ∨ lmKey L (lmAddr s w) + 1536 ≤ k) → readByte u.w.lm k = readByte s.w.lm k) ∧
        u = { s with w := { s.w with lm := u.w.lm, lmBad := u.w.lmBad } }) ∧
    (∀ n : BitVec 1, w.dst = .a n → s.regCheck 0x409 w false = .ok () → planeReady s n.toNat → lmCheck s w 1536 false act = .ok () →
      lmEcc s.w act (lmAddr s w) 1536 = .ok () →
      (∀ L ∈ act, ∀ e < 64, (s.w.lmImage L (lmAddr s w) e).2 = (s.w.lmImage L (lmAddr s w) 0).2) →
      ∃ u : State, exec (.accLoad w) s = .next (u.laneNext w.mark) ∧
        (∀ L ∈ act, ∀ e < 64, u.w.entry n.toNat L e = (s.w.lmImage L (lmAddr s w) e).1) ∧
        (∀ L ∈ act, u.w.anchorOf n.toNat L = (s.w.lmImage L (lmAddr s w) 0).2) ∧
        (∀ q L, L < 16384 → (q ≠ n.toNat ∨ L ∉ act) →
          u.w.anchorOf q L = s.w.anchorOf q L ∧ ∀ e < 64, u.w.entry q L e = s.w.entry q L e) ∧
        u = { s with w := { s.w with acc := u.w.acc, anchor := u.w.anchor } }) ∧
    (∀ n : BitVec 1, w.dst = .a n → s.regCheck 0x409 w false = .ok () → planeReady s n.toNat → lmCheck s w 1536 false act = .ok () →
      lmEcc s.w act (lmAddr s w) 1536 = .ok () →
      (∃ L ∈ act, ∃ e < 64, (s.w.lmImage L (lmAddr s w) e).2 ≠ (s.w.lmImage L (lmAddr s w) 0).2) →
      LaneTraps (.accLoad w) s .anchor (dw (512 + if n = 1 then 16 else 0))) ∧
    (∀ n : BitVec 1, w.dst = .a n → w.bit 20 = false → s.regCheck 0x407 w false = .ok () → planeReady s n.toNat →
      lmCheck s w 1536 false act = .ok () → lmEcc s.w act (lmAddr s w) 1536 = .ok () →
      (∀ L ∈ act, ∀ e < 64, (s.w.lmImage L (lmAddr s w) e).2 = s.w.anchorOf n.toNat L) →
      ∃ u : State, exec (.accMerge w) s = .next (u.laneNext w.mark) ∧
        (∀ q L e, L < 16384 → e < 64 → u.w.entry q L e = if q = n.toNat ∧ L ∈ act
          then (s.w.entry n.toNat L e).rawAdd (s.w.lmImage L (lmAddr s w) e).1 else s.w.entry q L e) ∧
        u = { s with w := { s.w with acc := u.w.acc } }) ∧
    (∀ n : BitVec 1, w.dst = .a n → s.regCheck 0x407 w false = .ok () → planeReady s n.toNat →
      (w.bit 20 = false → lmCheck s w 1536 false act = .ok () → lmEcc s.w act (lmAddr s w) 1536 = .ok () →
        (∃ L ∈ act, ∃ e < 64, (s.w.lmImage L (lmAddr s w) e).2 ≠ s.w.anchorOf n.toNat L) →
        LaneTraps (.accMerge w) s .anchor (dw (if n = 1 then 16 else 0))) ∧
      (w.bit 20 = true → planeReady s p → (∃ L ∈ act, s.w.anchorOf p L ≠ s.w.anchorOf n.toNat L) →
        LaneTraps (.accMerge w) s .anchor (dw (if n = 1 then 16 else 0)))) ∧
    (∀ n : BitVec 1, w.dst = .a n → w.bit 20 = true → s.regCheck 0x407 w false = .ok () → planeReady s n.toNat → planeReady s p →
      (∀ L ∈ act, s.w.anchorOf p L = s.w.anchorOf n.toNat L) →
      ∃ u : State, exec (.accMerge w) s = .next (u.laneNext w.mark) ∧
        (∀ q L e, L < 16384 → e < 64 → u.w.entry q L e =
          if q = n.toNat ∧ L ∈ act then (s.w.entry n.toNat L e).rawAdd (s.w.entry p L e) else s.w.entry q L e) ∧
        u = { s with w := { s.w with acc := u.w.acc } })

/-- R174, R175, R176, R177, R170, R171: `spack`, sweeps and the accumulator commands. It rests on readings of the model that are no rule:
log entries 25, 53, 88, 89, 90. -/
def Obligations.SweepAndAccumulatorControl : Prop :=
  ∀ (s : State) (w : LaneWord),
    (∀ d : BitVec 9, w.dst = .v d → s.regCheck 0x404 w false = .ok () → (w.fld 21 3).toNat ≠ 0 →
      ∃ u : State, exec (.spack w) s = .next (u.laneNext w.mark) ∧
        (∀ r L, L < 16384 → (L ∉ s.w.active w.guard ∨ r < d.toNat ∨ d.toNat + 20 ≤ r) → u.w.v32 r L = s.w.v32 r L) ∧
        (∀ L ∈ s.w.active w.guard,
          let x := fun j g k => byteAt (s.w.v32 (srcReg w.a + 4 * j + g) L) k
          let nz := fun j g k => if w.ty = 9 then x j g k != 0 else x j g k % 128 != 0
          (∀ j < 8, ∀ g < 4, ∀ t < 2,
            let k := if t = 0 then (keptPair (nz j g)).1 else (keptPair (nz j g)).2
            byteAt (u.w.v32 (d.toNat + 2 * j + g / 2) L) (2 * g % 4 + t) = x j g k ∧
              (u.w.v32 (d.toNat + 16 + j / 2) L).toNat / 2 ^ (16 * (j % 2) + 4 * g + 2 * t) % 4 = k) ∧
          (u.w.mBit (w.fld 21 3).toNat L = true ↔ ∃ j < 8, ∃ g < 4, 2 < ((List.range 4).filter (nz j g)).length)) ∧
        (∀ k L, L < 16384 → (k ≠ (w.fld 21 3).toNat ∨ L ∉ s.w.active w.guard) → u.w.mBit k L = s.w.mBit k L) ∧
        u = { s with w := { s.w with v := u.w.v, m := u.w.m } }) ∧
    (∀ x ∈ [(Instr.sweep w, 0x402, false), (.sweepSp w, 0x403, true)],
      let n := fun lo => (w.fld lo 4).toNat
      let da := s.w.desc (n 16)
      let xs := sweepDescs s.w x.2.2 w.ty da (s.w.desc (n 12)) (s.w.desc (n 8)) (s.w.desc (n 4))
      let op : SweepOp :=
        { id := s.w.sweepId, sys := s.w.sys, sparse := x.2.2, plane := dstPlane w, ty := w.ty, tile := s.uniform w.a, da := s.w.dReg (n 16)
          db := s.w.dReg (n 12), ds := s.w.dReg (n 8), dm := s.w.dReg (n 4), dsNum := n 8, bound := none, started := true, bad := none
          prior := (s.core.sb.filter fun e => e.owner == s.w.slot && !(e.kind == 1 && e.ref == s.w.sweepId)).map fun e => (e.kind, e.ref)
          foot := xs.map fun y => s.w.interval y.d }
      let foot := xs.map fun y => s.w.sweepEntry s.w.sweepId y.d
      let held : State := (s.modCore fun c => { c with sb := c.sb ++ foot }).modW fun x => { x with swTaken := true }
      s.regCheck x.2.1 w false = .ok () → planeReady s (dstPlane w) → sweepCheck s.w x.2.2 w.ty xs da.w da.num = .ok () →
      s.w.binder = none → s.w.swTaken = false → s.core.sbWait = [] → s.sbUsed + foot.length ≤ 48 → s.w.sbGrant ≠ foot.length →
      -- the entries are recorded, and then the granules and the tags are looked at
      (held.sbWait (xs.flatMap fun y => s.w.descGranules y.d) false = .ok () →
        (sweepTags s.w op = .ok () →
          ∃ u : State, exec x.1 s = .next (u.laneNext w.mark) ∧ u.w.sweeps = s.w.sweeps ++ [op] ∧ u.w.sweepId = s.w.sweepId + 1 ∧
            u.core.sb = s.core.sb ++ foot ∧
            u = { s with w := { s.w with sweeps := u.w.sweeps, sweepId := u.w.sweepId }, cores := u.cores }) ∧
        ∀ c fva, sweepTags s.w op = .error (.trap c fva) →
          exec x.1 s = .next (held.untakeSweep.raise 1 c fva held.untakeSweep.laneTarget held.untakeSweep.laneBits)) ∧
      (held.sbWait (xs.flatMap fun y => s.w.descGranules y.d) false = .error .wait →
        exec x.1 s = .next (held.modW fun y => { y with laneBlocked := true }))) ∧
    (∀ k op, s.w.sweeps[k]? = some op → op.started = true → op.bad = none →
      ∃ t, exec (.sweepComplete k) s = .next t ∧ (∀ y ∈ t.w.sweeps, y.id ≠ op.id) ∧
        (∀ q L e, L < 16384 → e < 64 → t.w.entry q L e =
          if q = op.plane ∧ L < s.w.lanes then sweepEntry s.w op L e else s.w.entry q L e) ∧ t = { s with w := t.w, cores := t.cores }) ∧
    (∀ p a wd q rest, s.w.lq = .cmd a wd q (.accClr p) :: rest → s.planeWait p = .ok () → (s.w.stepping && s.w.lstep) = false →
      ∃ t, exec .accControlApply s = .next t ∧ t.w.lq = rest ∧ (∀ L e, L < 16384 → e < 64 → t.w.entry p L e = {}) ∧
        (∀ r L e, r ≠ p → L < 16384 → e < 64 → t.w.entry r L e = s.w.entry r L e) ∧ t.w.anchor = s.w.anchor ∧
        t = { s with w := t.w }) ∧
    ∀ p v a wd q rest, s.w.lq = .cmd a wd q (.accAnc p v) :: rest → s.planeWait p = .ok () → (s.w.stepping && s.w.lstep) = false →
      ∃ t, exec .accControlApply s = .next t ∧ t.w.lq = rest ∧ (∀ L e, L < 16384 → e < 64 → t.w.entry p L e = {}) ∧
        (∀ L < s.w.lanes, t.w.anchorOf p L = v) ∧ t = { s with w := t.w }

namespace Sys2Proof.Machine

/-! Vocabulary of the statements about lane memory words, queue words and device steps. -/

/-- The lanes' accesses of a global word, checked and translated, with nothing that it waits for (R200, R202, R225, R358). -/
def globalReady (s : State) (op : Nat) (acc : Acc) (w : LaneWord) (align n b : Nat) (devOnly : Bool) (xs : List Access) : Prop :=
  popChecks s op w (s.w.active w.guard) = .ok () ∧
    globalCheck s acc w align devOnly ((s.w.active w.guard).map fun L => (L, laneEa s w (lOff w) L)) n b = .ok xs ∧
    orderBefore s w = .ok ()

/-- What a lane atomic leaves of a word (R208): none where nothing is written. -/
def laneAtom (w : LaneWord) (old v expected : Word) : Option Word :=
  let f (r : Res FRes) : Option Word := some (BitVec.ofNat 32 ((r.toOption).getD ⟨0, 0⟩).bits)
  match (w.fld 1 4).toNat with
  | 0 => if w.tyM = 3 then f (faddFn 3 .rne false old v) else some (old + v)
  | 1 => some (old &&& v)
  | 2 => some (old ||| v)
  | 3 => some (old ^^^ v)
  | 4 => if w.tyM = 3 then f (fminFn 3 old v) else if w.tyM = 2 then some (if old ≤ v then old else v)
    else some (if old.toInt ≤ v.toInt then old else v)
  | 5 => if w.tyM = 3 then f (fmaxFn 3 old v) else if w.tyM = 2 then some (if old ≤ v then v else old)
    else some (if old.toInt ≤ v.toInt then v else old)
  | 6 => some v
  | _ => if old = expected then some v else none

/-- The word at a place after the atomics of some accesses, one after another, each on what the one before it left (R208). -/
def wordAfter (s : State) (w : LaneWord) (xs : List Access) (a : Nat) : Word :=
  (xs.filter fun x => x.loc.addr == a).foldl
    (fun old x => (laneAtom w old (s.src w.tyM w.c x.lane) (s.w.v32 (dstReg w.dst) x.lane)).getD old) (BitVec.ofNat 32 (readLe s.mem a 4))

/-- The lane, the place and the address of a word of a lane atomic that returns, with the old value of each lane in turn (R208). -/
def oldValues (s : State) (w : LaneWord) (xs : List Access) : List (Nat × Word) :=
  (List.range xs.length).filterMap fun i => xs[i]?.map fun x => (x.lane, wordAfter s w (xs.take i) x.loc.addr)

/-- What an ordered atomic of some lanes asks beside its own checks (R225, R235, R350, R358, R363): the wave's stores have been performed, and
the atomic units can take the operations; in a reproducible context the commit performs them (R233). -/
def atomicsOpen (s : State) (w : LaneWord) (xs : List Access) : Prop :=
  orderBefore s w = .ok () ∧ s.poison = [] ∧
    (s.repro = false → s.storesPerformed = true ∧ ∀ x ∈ xs, s.atomOpen s.w.core x.loc = true)

end Sys2Proof.Machine

/-- R199, R201, R190: lane-memory loads and stores reach the bytes that each active lane's address names in its own window. -/
def Sys2Proof.Machine.LaneMemoryWordReachesItsWindowClaim : Prop :=
  ∀ (s : State) (w : LaneWord),
    let act := s.w.active w.guard
    let b := elemSize w.tyM
    let n := lCount w
    (∀ d : BitVec 9, w.dst = .v d → s.regCheck 0x500 w false = .ok () → lmLaneCheck s w false act = .ok () → s.w.lmBad = [] →
      ∃ u : State, exec (.ldLm w) s = .next (u.laneNext w.mark) ∧
        (∀ r L, L < 16384 → u.w.v32 r L = if L ∈ act ∧ d.toNat ≤ r ∧ r < d.toNat + n then
          elemImage w.tyM (readLe s.w.lm (lmKey L ((lmEa s w L).toNat + (r - d.toNat) * b)) b) else s.w.v32 r L) ∧
        u = { s with w := { s.w with v := u.w.v } }) ∧
    (s.regCheck 0x501 w false = .ok () → lmLaneCheck s w true act = .ok () →
      ∃ u : State, exec (.stLm w) s = .next (u.laneNext w.mark) ∧
        (∀ L ∈ act, ∀ j < n, readLe u.w.lm (lmKey L ((lmEa s w L).toNat + j * b)) b =
          (dataReg s w.tyM w.b L j).toNat % 2 ^ (8 * b)) ∧
        (∀ k, (∀ L ∈ act, k < lmKey L (lmEa s w L).toNat ∨ lmKey L (lmEa s w L).toNat + n * b ≤ k) →
          readByte u.w.lm k = readByte s.w.lm k) ∧
        u = { s with w := { s.w with lm := u.w.lm, lmBad := u.w.lmBad } })

/-- R116, R202, R203, R225, R361: `ld.g` and `ld.ro` put the bytes of each active lane's addresses on their way as an unchecked result, those
of a line of `ld.ro` that a probe brings with the probe; device memory, host memory and lane registers are as before. -/
def Sys2Proof.Machine.GlobalLoadIssuesItsBytesClaim : Prop :=
  ∀ (s : State) (w : LaneWord) (d : BitVec 9) (xs : List Access), w.dst = .v d →
    ∀ x ∈ [(Instr.ldG w, 0x502, false), (.ldRo w, 0x504, true)], s.regCheck x.2.1 w true = .ok () →
    let b := elemSize w.tyM
    globalReady s x.2.1 .load w b (lCount w) b false xs → (∀ y ∈ xs, lineWait s x.2.2 b y = false) → (∀ y ∈ xs, y.loc.kind = .device) →
    s.poison = [] → s.w.buf = [] → s.w.stq = [] → (s.core.inflight = [] ∧ s.core.l1 = []) →
    ∃ u : State, exec x.1 s = .next (u.laneNext w.mark) ∧
      (∃ v probed, u.w.unch = s.w.unch ++ [v] ∧ v.err = none ∧ v.returned = false ∧ v.held = false ∧
        (∀ y ∈ xs, probed y = true → x.2.2 = true ∧ ∃ q ∈ u.core.probes, q.1.addr / 128 = y.loc.addr / 128) ∧
        v.writes = (xs.filter fun y => !probed y).map (fun y =>
          ((d.toNat + y.reg) * 16384 + y.lane, elemImage w.tyM (readLe s.mem y.loc.addr b))) ∧
        v.late = (xs.filter probed).map fun y => ((d.toNat + y.reg) * 16384 + y.lane, y.loc, y.va, w.tyM)) ∧
      (∀ j < lCount w, d.toNat + j ∈ u.w.pend) ∧ u.w.v = s.w.v ∧ u.w.m = s.w.m ∧ u.w.lm = s.w.lm ∧ u.w.acc = s.w.acc ∧ u.w.s = s.w.s ∧
      sameBytes s u

/-- R197, R202, R224, R297: `st.g` puts the bytes of its active lanes behind the store queue, one entry for each line, and no memory changes;
where they are more lines than the queue holds, what fits enters, and the word goes on with the rest. -/
def Sys2Proof.Machine.GlobalStoreEntersTheStoreQueueClaim : Prop :=
  ∀ (s : State) (w : LaneWord) (xs : List Access), s.regCheck 0x503 w false = .ok () →
    let b := elemSize w.tyM
    globalReady s 0x503 .store w b (lCount w) b false xs → s.repro = false → s.w.stgAt = none →
    let es := lineEntries (xs.map fun x => (x.loc, leCells x.loc.addr b ((dataReg s w.tyM w.c x.lane x.reg).toNat % 2 ^ (8 * b))))
    let same (u : State) : Prop := (∀ e ∈ u.w.stq.drop s.w.stq.length, e.wave = s.wid) ∧ u.w.v = s.w.v ∧ u.w.m = s.w.m ∧ u.w.lm = s.w.lm ∧
      u.w.acc = s.w.acc ∧ sameBytes s u
    (s.w.stq.length + es.length ≤ 64 →
      ∃ u : State, exec (.stG w) s = .next (u.laneNext w.mark) ∧ same u ∧
        u.w.stq.map (fun e => (e.loc, e.cells)) = s.w.stq.map (fun e => (e.loc, e.cells)) ++ es) ∧
    (64 < es.length →
      ∃ u : State, exec (.stG w) s = .next u ∧ same u ∧ u.w.laneBlocked = true ∧
        u.w.stq.map (fun e => (e.loc, e.cells)) = s.w.stq.map (fun e => (e.loc, e.cells)) ++ es.take (64 - s.w.stq.length) ∧
        u.w.stgAt = some (s.laneTarget, es.drop (64 - s.w.stq.length))) ∧
    ∀ (z : State) (at' : DWord), z = { s with w := { s.w with stgAt := some (at', es) } } → es.length ≤ 64 - s.w.stq.length →
      ∃ u : State, exec (.stG w) z = .next (u.laneNext w.mark) ∧ u.w.stgAt = none ∧
        u.w.stq.map (fun e => (e.loc, e.cells)) = s.w.stq.map (fun e => (e.loc, e.cells)) ++ es

/-- R116, R202, R203, R224, R225: global lane loads become unchecked results, and global lane stores enter the store queue. It rests on
readings of the model that are no rule: log entries 44, 101. -/
def Obligations.GlobalLoadAndStoreUseTheirQueues : Prop :=
  GlobalLoadIssuesItsBytesClaim ∧ GlobalStoreEntersTheStoreQueueClaim

/-- R204, R205: skim words reach the core's bus within the context's window. -/
def Sys2Proof.Machine.SkimWordReachesItsBusClaim : Prop :=
  ∀ (s : State) (w : LaneWord),
    let act := s.w.active w.guard
    let n := lCount w
    let eas := act.map fun L => (L, laneEa s w (lOff w) L)
    orderBefore s w = .ok () → skimCheck s (4 * n) eas = .ok () →
    (∀ d : BitVec 9, w.dst = .v d → s.regCheck 0x505 w true = .ok () → popChecks s 0x505 w act = .ok () → s.skimBad = [] →
      ∃ u : State, exec (.ldSk w) s = .next (u.laneNext w.mark) ∧ u.w.v = s.w.v ∧ u.w.m = s.w.m ∧ u.w.lm = s.w.lm ∧ u.w.acc = s.w.acc ∧
        sameBytes s u ∧
        ∃ v, u.w.unch = s.w.unch ++ [v] ∧ v.err = none ∧ v.writes = (elements eas n 4).map fun (L, j, va) =>
          ((d.toNat + j) * 16384 + L, BitVec.ofNat 32 (bytesToNat ((List.range 4).map fun i => s.skimByte (s.skimKey va.toNat + i))))) ∧
    (s.regCheck 0x506 w false = .ok () → popChecks s 0x506 w act = .ok () →
      ∃ u : State, exec (.stSk w) s = .next (u.laneNext w.mark) ∧ u.w.v = s.w.v ∧ u.w.m = s.w.m ∧ u.w.lm = s.w.lm ∧ u.w.acc = s.w.acc ∧
        u.skim = writeCells s.skim ((elements eas n 4).flatMap fun (L, j, va) =>
          leCells (s.skimKey va.toNat) 4 (dataReg s 0 w.c L j).toNat) ∧
        (∀ a, readByte u.mem a = readByte s.mem a) ∧ (∀ a, readByte u.hostMem a = readByte s.hostMem a))

/-- R190, R199, R201, R204, R205: lane memory and skim words reach the places of their windows. It rests on readings of the model that are
no rule: log entry 15. -/
def Obligations.LaneMemoryAndSkimWordsReachTheirWindows : Prop :=
  LaneMemoryWordReachesItsWindowClaim ∧ SkimWordReachesItsBusClaim

/-- R208, R209, R225, R233: a lane atomic completes, and at its homes each active lane's word takes the operation in turn, lanes ascending,
on what the lane before left; `atom.rsum` completes, and every entry of each target image takes the raw addition of its lanes' images.
In a reproducible context nothing is written before the commit. It rests on readings of the model that are no rule: log entries 24, 54,
69. -/
def Obligations.LaneAtomicActsAtTheHome : Prop :=
  ∀ (s : State) (w : LaneWord) (xs : List Access), atomicsOpen s w xs →
    let act := s.w.active w.guard
    (latomOk w = true → s.regCheck 0x507 w true = .ok () → popChecks s 0x507 w act = .ok () →
      (w.bit 0 = true → dstCheck s w.dst act = .ok ()) →
      globalCheck s .atomic w 4 true (act.map fun L => (L, laneEa s w (lOff w) L)) 1 4 = .ok xs →
      (∀ x ∈ xs, x.loc.addr % 4 = 0) → (s.repro = false ∨ w.bit 0 = true) →
      ∃ u : State, exec (.latom w) s = .next (u.laneNext w.mark) ∧ u.w.v = s.w.v ∧ u.w.m = s.w.m ∧ u.w.lm = s.w.lm ∧ u.w.acc = s.w.acc ∧
        u.hostMem = s.hostMem ∧ u.skim = s.skim ∧
        (s.repro = true → sameBytes s u ∧ u.w.ret = some (.latom (xs.map fun x =>
          (x.lane, x.loc, s.src w.tyM w.c x.lane, s.w.v32 (dstReg w.dst) x.lane)) w.dst (latomOp w))) ∧
        (s.repro = false →
          (∀ x ∈ xs, readLe u.mem x.loc.addr 4 = (wordAfter s w xs x.loc.addr).toNat) ∧
          (∀ a, (∀ x ∈ xs, a < x.loc.addr ∨ x.loc.addr + 4 ≤ a) → readByte u.mem a = readByte s.mem a) ∧
          (∀ d, w.dst = .v d → w.bit 0 = true → d.toNat ∈ u.w.pend ∧
            u.w.unch = s.w.unch ++ [{ writes := (oldValues s w xs).map fun e => (d.toNat * 16384 + e.1, e.2)
                                      held := false, err := none, returned := false }]) ∧
          (∀ n, w.dst = .q n → w.bit 0 = true → u.w.unch = s.w.unch ∧ u.w.q = (s.w.traffic 0x507 w (oldValues s w xs)).q) ∧
          (w.bit 0 = false → u.w.unch = s.w.unch ∧ u.w.pend = s.w.pend))) ∧
    (let a := s.lmBase w.c + lOff w
     let places := fun L => (xs.filter fun x => x.lane == L).map (·.loc)
     let target := fun (m : Memory) L e => imageEntry (imageLe m (places L) (24 * e) 24)
     s.regCheck 0x508 w false = .ok () → popChecks s 0x508 w act = .ok () → 0 ≤ a → a % 16 = 0 → a + 1536 ≤ s.w.lambda →
     globalCheck s .atomic w 512 true (act.map fun L => (L, laneEa s w 0 L)) 3 512 = .ok xs →
     s.sbWait (granules a.toNat 1536) false = .ok () → s.w.lmBad = [] →
     -- the lines of an image are three, and two lanes add into one image or into images that lie apart
     (∀ x ∈ xs, x.loc.addr % 512 = 0) → (∀ L ∈ act, ((places L).map (·.addr)).Nodup) →
     (∀ L ∈ act, ∀ K ∈ act, places L = places K ∨ ∀ x ∈ places L, ∀ y ∈ places K, x.addr ≠ y.addr) →
     -- every copy of the anchor agrees, in the target and in the lane's image
     (∀ L ∈ act, ∀ e < 64, (target s.mem L e).2 = (s.w.lmImage L a.toNat 0).2 ∧ (s.w.lmImage L a.toNat e).2 = (s.w.lmImage L a.toNat 0).2) →
     ∃ u : State, exec (.atomRsum w) s = .next (u.laneNext w.mark) ∧ u.w.lm = s.w.lm ∧ u.w.v = s.w.v ∧ u.w.m = s.w.m ∧ u.w.acc = s.w.acc ∧
       u.hostMem = s.hostMem ∧ u.skim = s.skim ∧
       (s.repro = true → sameBytes s u ∧ u.w.ret = some (.rsum (act.map fun L => (L, a.toNat, places L)))) ∧
       (s.repro = false →
         (∀ L ∈ act, ∀ e < 64, target u.mem L e =
           ((act.filter fun K => places K == places L).foldl (fun x K => x.rawAdd (s.w.lmImage K a.toNat e).1) (target s.mem L e).1,
             (target s.mem L e).2)) ∧
         (∀ L ∈ act, ∀ e < 64, ∀ k < 24, 18 ≤ k →
           readByte u.mem (imagePlace (places L) (24 * e + k)) = readByte s.mem (imagePlace (places L) (24 * e + k))) ∧
         ∀ b, (∀ x ∈ xs, b < x.loc.addr ∨ x.loc.addr + 512 ≤ b) → readByte u.mem b = readByte s.mem b))

/-- R28, R59, R133, R185, R262, R317, R318, R331: queue words, the empty word, the breakpoint and the removed opcodes. It rests on readings
of the model that are no rule: log entries 71, 93. -/
def Obligations.QueueWordsAndEmptyWords : Prop :=
  ∀ (s : State) (w : LaneWord),
    let act := s.w.active w.guard
    exec (.lnop w) s = .next (s.laneNext w.mark) ∧ (act = [] → exec (.lbrk w) s = .next (s.laneNext w.mark)) ∧
    (act ≠ [] → LaneTraps (.lbrk w) s .brk ((w.fld 0 13).setWidth 64)) ∧
    LaneTraps (.bmix w) s .unimpl 0 ∧ LaneTraps (.dotI4 w) s .unimpl 0 ∧
    (∀ n : BitVec 2, w.a = .q n → s.regCheck 0x600 w false = .ok () → popCheck s n.toNat 1 act = .ok () → dstCheck s w.dst act = .ok () →
      let head := fun L => (((look [] (s.w.stream n.toNat).vals L).head?).map (·.v)).getD 0
      ∃ u : State, exec (.qpeek w) s = .next (u.laneNext w.mark) ∧ (∀ r L, L < 16384 → u.w.v32 r L = s.w.regsAfter w.dst act head r L) ∧
        u.w.q = (match w.dst with | .q k => (s.w.push (4 + k.toNat) (act.map fun L => (L, head L))).q | _ => s.w.q) ∧
        u = { s with w := { s.w with v := u.w.v, q := u.w.q } }) ∧
    ∀ n : BitVec 2, w.a = .q n → s.regCheck 0x601 w false = .ok () → s.run.skip = none →
      let x := s.w.stream n.toNat
      let k := ((s.uniform w.b).setWidth 32).toNat
      (k ≠ 0 → x.bound = true ∧ s.w.isIndexSource n.toNat = false ∧ ∀ L ∈ act, look 0 x.used L + k ≤ x.count ∧
        k ≤ (look [] x.vals L).length ∧ ∀ v ∈ look [] x.vals L, v.err = none ∧ v.retry = false) →
      ∃ u : State, exec (.qskip w) s = .next (u.laneNext w.mark) ∧
        (∀ L, look [] (u.w.stream n.toNat).vals L = if L ∈ act then (look [] x.vals L).drop k else look [] x.vals L) ∧
        (∀ L, look 0 (u.w.stream n.toNat).used L = if L ∈ act then look 0 x.used L + k else look 0 x.used L) ∧
        (∀ m, m ≠ n.toNat → u.w.stream m = s.w.stream m) ∧ u = { s with w := { s.w with q := u.w.q } }

/-- R96, R97, R105, R111: packs write their rounded elements and count their kinds, and an enabled kind traps; unpacks write each element
exactly and count nothing. -/
def Sys2Proof.Machine.PackAndUnpackClaim : Prop :=
  ∀ (s : State) (w : LaneWord),
    let act := s.w.active w.guard
    let n := packN w.ty
    (∀ (es : Nat → List FRes) (r : BitVec 9), w.a = .v r → s.regCheck 0x201 w false = .ok () → dstCheck s w.dst act = .ok () →
      (∀ L ∈ act, (es L).length = n ∧ ∀ j x, (es L)[j]? = some x →
        cvtFn w.ty (if w.ty = 9 then 1 else 3) (rndOf w) .rne (satOf w) (s.w.v32 (r.toNat + j) L) = .ok x) →
      let ks := act.flatMap fun L => (es L).map (·.kinds)
      (trappedKinds s ks = 0 → LaneWrites (.pack w) s 0x201 w (fun L => BitVec.ofNat 32 (concatBits (32 / n) ((es L).map (·.bits))))
        (s.w.addKinds w.ty ks).counts) ∧
      (trappedKinds s ks ≠ 0 → LaneTraps (.pack w) s .fptrap ((trappedKinds s ks).setWidth 64))) ∧
    (∀ d : BitVec 9, w.dst = .v d → s.regCheck 0x202 w false = .ok () →
      (∀ m ∈ queuesOf [w.a], popCheck s m 1 act = .ok ()) →
      ∃ u : State, exec (.unpack w) s = .next (u.laneNext w.mark) ∧
        (∀ k L, L < 16384 → u.w.v32 k L = if L ∈ act ∧ d.toNat ≤ k ∧ k < d.toNat + n then
          unpackElem w.ty ((s.src 0 w.a L).toNat / 2 ^ (32 / n * (k - d.toNat)) % 2 ^ (32 / n)) else s.w.v32 k L) ∧
        u.w.q = (s.w.traffic 0x202 w []).q ∧ u = { s with w := { s.w with v := u.w.v, q := u.w.q } })

/-- R96, R97, R98, R105, R111, R127: rounding words, packs and unpacks write their results and count their kinds; an enabled kind traps. It
rests on readings of the model that are no rule: log entry 85. -/
def Obligations.RoundedWordWritesAndCounts : Prop :=
  RoundedWordWritesAndCountsClaim ∧ PackAndUnpackClaim

/-- R26, R34, R118, R324: after a lane word the next slot is due; a marker parks the wave until every unchecked result has returned, and
then clears what is pending. -/
def Obligations.LaneWordEndsAtItsSlot : Prop :=
  ∀ (s : State) (r : Run) (rest : List Entry), s.w.lq = .run r :: rest → (s.w.stepping && s.w.lstep) = false →
    (Run.done { r with slot := r.slot + 1, ran := true } = false →
      (s.laneNext false).w.lq = .run { r with slot := r.slot + 1, ran := true } :: rest) ∧
    (Run.done { r with slot := r.slot + 1, ran := true } = true → (s.laneNext false).w.lq = rest) ∧
    (s.w.unch.all (·.returned) = false → (s.laneNext true).w.parked = some (s.laneTarget, s.laneBits) ∧
      (s.laneNext true).w.pend = s.w.pend) ∧
    (s.w.unch.all (·.returned) = true → (∀ x ∈ s.w.unch, x.err = none) →
      (s.laneNext true).w.parked = none ∧ (s.laneNext true).w.pend = [] ∧ (s.laneNext true).w.unch = []) ∧
    ∀ mark, (s.laneNext mark).w.m = s.w.m ∧ (s.laneNext mark).w.lm = s.w.lm ∧ (s.laneNext mark).mem = s.mem

namespace Sys2Proof.Machine

/-! Vocabulary of the statements about words, steps and the machine as a whole. -/

/-- Scalar words of the manual's encoding tables, each with the word after it and the instruction that it writes there. -/
def scalarSamples : List (Word × Word × Instr) :=
  [(0x00084180, 0, .add 1 2 3), (0x02201FFB, 0, .addi 4 0 ⟨0x1FFB, none⟩), (0x02280000, 0xFF080000, .addi 5 0 ⟨0, some 0x080000⟩),
   (0xA820A010, 0, .ldw 4 5 ⟨0x0010, none⟩), (0xB238BFF8, 0, .stw 7 5 ⟨0x1FF8, none⟩), (0x22301FFD, 0, .bne 6 0 ⟨0x1FFD, none⟩),
   (0x2E000028, 0, .call 0x28), (0x00000000, 0, .add 0 0 0)]

/-- Lane words of the manual's encoding tables. -/
def laneSamples : List (BitVec 96 × Instr) :=
  [(0x000808015060000040000000, .laneAdd (.full ⟨false, 0, 0, .v 4, .v 5, .lit 12, .v 0, 0x040000000⟩)),
   (0x88181402E0380CB0C0000000, .fma ⟨true, 0xB, 0, .v 10, .v 11, .s 7, .v 12, 0x0C0000000⟩),
   (0x4020400A0180208100260188, .laneAdd (.pair false ⟨4, .v 5, .v 6, 0, 0⟩ .fmul ⟨8, .v 9, .s 3, 0, 8⟩))]

/-- The 32 bits of code at a place, lowest byte first (R4). -/
def State.codeWord (s : State) (l : Loc) : Word := s.codeAt l 3 ++ s.codeAt l 2 ++ s.codeAt l 1 ++ s.codeAt l 0

/-- The act `x` is the next one of `s`, and it finds the machine as in `u`: the agenda names it, or the agenda is empty and it is the
wave's turn (log entry 3). -/
def State.nextAct (s u : State) (x : Turn) (turn : Prop) : Prop :=
  (s.agenda = [] ∧ turn ∧ u = s) ∨ ∃ rest, s.agenda = x :: rest ∧ u = { s with agenda := rest }

/-- The scalar stream of the wave acts next, in `u`, and no single step is in progress. -/
def State.scalarNext (s u : State) : Prop :=
  s.nextAct u (.scalar s.wid) (s.robin = some s.wid) ∧ u.scalarOpen = true ∧ u.countExpired = false ∧ u.w.stepping = false

/-- What a turn leaves that has led to `t`: a packet of it that cannot pass yet holds the turn back, and the machine is as in `w` (R350, R354). -/
def passed (w t : State) : State := if t.jam = true then w else t

/-- `t` is where a scalar word that began to issue in `u` has led: a word that issues for the first time makes its wave the one of its core that
issued last (R61, R85), and one that stalls has issued. -/
def noted (u t : State) : State :=
  let t := if u.w.issued = true then t else t.modCoreAt u.w.core fun c => { c with lastIssue := u.w.slot + 1 }
  { t with w := { t.w with issued := t.w.blocked && t.w.life == .running } }

/-- The step `o` ends as instruction `i` does in `u`, once the fetch has gone through the code TLB and the I-cache; each dispatcher's
reservation is then the one of the new state (R287). -/
def issues (u : State) (i : Instr) (o : Host.Outcome State Fault Refusal) : Prop :=
  let v := State.touchFetch { u with jam := false }
  (∀ t, exec i v = .next t → (t.w.stepping = false ∨ t.w.blocked = false) →
    o = settled (.next (noted u (passed { u with w := { u.w with blocked := true } } t)))) ∧
  (∀ f, exec i v = .fault f → o = .fault f) ∧ ∀ f, exec i v = .refused f → o = .refused f

/-- The step `o` takes a fault of the word at the program counter of `u`. -/
def faultsAt (u : State) (c : Cause) (fva : DWord) (o : Host.Outcome State Fault Refusal) : Prop :=
  o = settled (.next (passed { u with w := { u.w with blocked := true } } ((State.touchFetch { u with jam := false }).raise 0 c fva 0 0)))

/-- The step `o` ends as `i` does in `u`, where the lane stream or a device unit takes it; `w` is the machine while it cannot. -/
def runs (u w : State) (i : Instr) (o : Host.Outcome State Fault Refusal) : Prop :=
  (∀ t, exec i { u with jam := false } = .next t → o = settled (.next (passed w t))) ∧
  (∀ f, exec i { u with jam := false } = .fault f → o = .fault f) ∧ ∀ f, exec i { u with jam := false } = .refused f → o = .refused f

/-- The lane stream of the wave finds nothing that it can do. -/
def State.laneHeldUp (s : State) : State := { s with w := { s.w with laneBlocked := true } }

/-- The lane stream of the wave acts next, in `u`. -/
def State.laneNextUp (s u : State) : Prop :=
  s.nextAct u (.lane s.wid) (s.robin = none ∧ s.w.laneBlocked = false) ∧ u.laneOpen = true

/-- The registers that the system view alone writes are alike in two rows of the context table. -/
def sameRow (a b : CtxRow) : Prop :=
  a.root = b.root ∧ a.skim = b.skim ∧ a.pr = b.pr ∧ a.vec = b.vec ∧ a.wdog = b.wdog ∧ a.weight = b.weight ∧ a.stop = b.stop ∧
    a.repro = b.repro ∧ a.fq = b.fq ∧ a.locked = b.locked ∧ a.pinQuota = b.pinQuota ∧ a.xsel = b.xsel

/-- The register files and the lane memory of two waves are alike. -/
def sameFiles (a b : Wave) : Prop :=
  a.s = b.s ∧ a.d = b.d ∧ a.v = b.v ∧ a.m = b.m ∧ a.acc = b.acc ∧ a.anchor = b.anchor ∧ a.lm = b.lm ∧ a.pc = b.pc ∧ a.sys = b.sys

end Sys2Proof.Machine

/-- R18, R20, R21, R28, R29, R30, R37, R43: words of the manual's encoding tables decode to the instructions that it writes beside them, and
words that it calls no instruction are refused by name. -/
def Obligations.DecodeReadsTheManualsWords : Prop :=
  (∀ p ∈ scalarSamples, decodeScalar p.1 p.2.1 = .ok p.2.2) ∧ (∀ p ∈ laneSamples, decodeLane p.1 = .ok p.2) ∧
  decodeScalar 0xFE000000 0 = .error .illegal ∧ decodeScalar 0xF8000000 0 = .error .unimpl ∧
  decodeLane 0x070000000000000000000000 = .error .unimpl

/-- R18 to R40, R56 to R58: decode and encode agree on every scalar and lane instruction, in both directions. -/
def Obligations.DecodeAndEncodeAgree : Prop :=
  (∀ (i : Instr) (e : Enc), i.wf = true → encode i = some e → decode e = .ok i) ∧
  (∀ (w : BitVec 96) (i : Instr), decodeLane w = .ok i → i.wf = true ∧ encode i = some (.lane w)) ∧
  ∀ (w : Word) (p : Option (BitVec 24)) (i : Instr), (extOpcode (w.extractLsb' 25 7).toNat = true ∨ p = none) →
    decodeScalar w (extWord p) = .ok i → i.wf = true ∧ encode i = some (.scalar w p)

/-- R21, R44, R61, R70, R350: a step of the scalar stream fetches the words at the pc and runs the instruction that they decode to; a word that is
none, or a fault of the fetch, is taken in the order of R44. -/
def Sys2Proof.Machine.StepRunsTheScalarInstructionClaim : Prop :=
  ∀ (s u : State) (l : Loc) (i : Instr) (e : Bad), s.scalarNext u → u.codeWaits u.w.pc.toNat = false →
    let w := u.codeWord l
    let two := extOpcode (w.extractLsb' 25 7).toNat
    (two = true → u.codeWaits (u.w.pc + 4).toNat = false) →
    (bits u.w.pc 0 2 ≠ 0 → faultsAt u .misalignCode 0 (step s)) ∧
    (bits u.w.pc 0 2 = 0 → u.codeLoc u.w.pc.toNat = none → faultsAt u .fetchFault u.w.pc (step s)) ∧
    (bits u.w.pc 0 2 = 0 → u.codeLoc u.w.pc.toNat = some l →
      (two = false → isExtWord w = true → u.w.jumped = true → faultsAt u .midinsn u.w.pc (step s)) ∧
      (two = false → isExtWord w = false → decodeScalar w 0 = .ok i → issues u i (step s)) ∧
      (two = false → isExtWord w = false → decodeScalar w 0 = .error e → faultsAt u (Bad.cause e) 0 (step s)) ∧
      (two = true → u.codeLoc (u.w.pc + 4).toNat = none → faultsAt u .fetchFault (u.w.pc + 4) (step s)) ∧
      ∀ l2, two = true → u.codeLoc (u.w.pc + 4).toNat = some l2 →
        (decodeScalar w (u.codeWord l2) = .ok i → issues u i (step s)) ∧
        (decodeScalar w (u.codeWord l2) = .error e → faultsAt u (Bad.cause e) 0 (step s)))

/-- R26, R27, R44, R72, R337: a step of the lane stream runs the word in the slot that is due, or takes the fault of its block or its slot;
a command at the queue's head is the device step of its kind; and a device step that the agenda names runs as it is. -/
def Sys2Proof.Machine.StepRunsTheLaneWordOrDeviceStepClaim : Prop :=
  (∀ (s u : State) (r : Run) (rest : List Entry) (i : Instr), s.laneNextUp u → u.w.lq = .run r :: rest → r.started = true →
    (r.bad = none → Block.valid r.image r.slot = true → headerBad r.image (Block.slot r.image r.slot) = none →
      decodeLane (Block.slot r.image r.slot) = .ok i → runs u u.laneHeldUp i (step s)) ∧
    (∀ a, r.bad = some a → step s = settled (.next (u.raise 1 .fetchFault a u.laneTarget u.laneBits))) ∧
    (r.bad = none → Block.valid r.image r.slot = false → step s = settled (.next (u.raise 1 .invslot 0 u.laneTarget u.laneBits))) ∧
    (∀ e, r.bad = none → Block.valid r.image r.slot = true → headerBad r.image (Block.slot r.image r.slot) = some e →
      step s = settled (.next (u.raise 1 (Bad.cause e) 0 u.laneTarget u.laneBits))) ∧
    ∀ e, r.bad = none → Block.valid r.image r.slot = true → headerBad r.image (Block.slot r.image r.slot) = none →
      decodeLane (Block.slot r.image r.slot) = .error e → step s = settled (.next (u.raise 1 (Bad.cause e) 0 u.laneTarget u.laneBits))) ∧
  (∀ (s u : State) (a : DWord) (x : Word) (k : Nat) (c : Cmd) (rest : List Entry), s.laneNextUp u → u.w.lq = .cmd a x k c :: rest →
    runs u u.laneHeldUp c.event (step s)) ∧
  (∀ (s u : State) (r : Run) (rest : List Entry), s.laneNextUp u → u.w.lq = .run r :: rest → r.started = false →
    step s = settled (exec .laneRunStart u)) ∧
  ∀ (s : State) (i : Instr) (rest : List Turn), s.agenda = .event s.wid i :: rest → encode i = none → laneHead i = false →
    runs { s with agenda := rest } { s with agenda := rest } i (step s)

/-- R21, R26, R27, R44, R61, R70, R72, R337: a step runs the instruction that the due words decode to, or takes the fault of R44. It rests
on readings of the model that are no rule: log entries 3, 23, 67. -/
def Obligations.StepRunsTheDecodedInstruction : Prop :=
  StepRunsTheScalarInstructionClaim ∧ StepRunsTheLaneWordOrDeviceStepClaim

/-- R82, R104, R191, R289, R290, R292, R352, R364, R366, R375: the values that the manual gives for reset. It rests on readings of the model
that are no rule: log entries 1, 27. -/
def Obligations.ResetLeavesTheManualsValues : Prop :=
  State.reset.crews = [] ∧ State.reset.tasks = [] ∧ State.reset.fw.recovery = false ∧ State.reset.mg.busy = false ∧
    (∀ n, (State.reset.wave n).life = .free ∧ (State.reset.sector n).queues = [] ∧ (State.reset.sector n).thmin = 128 ∧
      (State.reset.coreAt n).option = 0 ∧ (State.reset.coreAt n).cycle = 0 ∧ (State.reset.coreAt n).allowance = 255 ∧
      (State.reset.rowAt n).weight = 1 ∧ (State.reset.rowAt n).stop = false ∧ (State.reset.rowAt n).repro = false ∧
      (State.reset.rowAt n).phase = 0 ∧ look 0 State.reset.counters n = 0 ∧ look 0 State.reset.thresholds n = 0 ∧
      look 0 State.reset.stamps n = 0 ∧ look 0 State.reset.vec n = 0 ∧ look 0 State.reset.apertures n = 0 ∧
      look 0 State.reset.routes n = 0) ∧
    State.reset.memWf ∧ State.reset.countersFit

/-- R4, R104, R109: every step of the machine keeps its byte memories in canonical form and its counters within 40 bits. It rests on
readings of the model that are no rule: log entry 1. -/
def Obligations.StepKeepsMemoriesAndCounters : Prop :=
  ∀ s t : State, step s = .next t → (s.memWf → t.memWf) ∧ (s.countersFit → t.countersFit)

/-- R42, R60, R307, R308, R366: an instruction in the user view changes no register of the system view but for the pinned lines that R212 and the
phase that R303 counts: not those of the device and the context table, `sys.thmin` and `sys.rfmap` among them, not t0 to t15 of a wave that lives
on, and where it takes no trap not `sys.status`, `sys.rpc`, `sys.cpf` and `sys.cpr` (`sys.s48` to `sys.s63` are the user view's own registers,
R308). A context without a handler lets a trap kill the crew (R313). No wave's instruction changes the register files, the lane memory or the view
of another wave. -/
def Obligations.InstructionKeepsSystemRegistersAndOtherWaves : Prop :=
  ∀ (s t : State) (i : Instr), (encode i).isSome = true → exec i s = .next t →
    (s.w.sys = false → (∀ c, sameRow (t.rowAt c) (s.rowAt c)) ∧ t.thresholds = s.thresholds ∧ t.apertures = s.apertures ∧
      t.routes = s.routes ∧ t.ctxsel = s.ctxsel ∧ t.fqsel = s.fqsel ∧ t.apsel = s.apsel ∧ (∀ n, (t.sector n).thmin = (s.sector n).thmin) ∧
      t.rfmap = s.rfmap ∧ (t.w.life ≠ .killed → ∀ k, 64 ≤ k → k < 80 → t.w.sVal k = s.w.sVal k) ∧
      (s.row.vec ≠ 0 → t.w.sys = false → t.w.trapping = none →
        t.w.status = s.w.status ∧ t.w.rpc = s.w.rpc ∧ t.w.cpf = s.w.cpf ∧ t.w.cpr = s.w.cpr)) ∧
    t.wid = s.wid ∧ ∀ n, n ≠ s.wid → sameFiles (t.wave n) (s.wave n)

namespace Sys2Proof.Machine

/-! Vocabulary of the statements about device steps. -/

/-- The device step answers the state that `P` describes. -/
def StepsTo (i : Instr) (s : State) (P : State → Prop) : Prop := ∃ t, exec i s = .next t ∧ P t

/-- The command at the head of the lane queue, with the rest of the queue; no single step of the lane stream is in progress. -/
def State.headCmd (s : State) (c : Cmd) (rest : List Entry) : Prop :=
  (∃ a x k, s.w.lq = .cmd a x k c :: rest) ∧ (s.w.stepping && s.w.lstep) = false

/-- A fresh scoreboard entry can be taken now by the wave that acts (R237). -/
def State.entryRoom (s : State) : Prop := s.core.sbWait = [] ∧ s.sbUsed + 1 ≤ 48 ∧ s.w.sbGrant = 0

/-- The event source's next record is numbered one higher (R371). -/
def oneRecord (s t : State) (kind num : Nat) : Prop :=
  (look {} t.events (evKey kind num)).seq = (look {} s.events (evKey kind num)).seq + 1

/-- No record has arisen. -/
def noRecord (s t : State) : Prop := t.events = s.events

/-- A management command runs (R383). -/
def State.commanded (s : State) (code : Nat) : Prop := s.mg.busy = true ∧ s.mg.cmd = code

/-- The command has ended with a status (R383). -/
def ended (t : State) (status : Nat) : Prop := t.mg.busy = false ∧ t.mg.status = status

/-- A read stream's lane has room for the value that it fetches next (R255, R256, R258). -/
def State.fetchDue (s : State) (q lane : Nat) : Prop :=
  q < 4 ∧ (s.w.stream q).bound = true ∧ lane < s.w.lanes ∧ look 0 (s.w.stream q).moved lane < (s.w.stream q).count ∧
    (look [] (s.w.stream q).vals lane).length < 16 ∧ (∀ v ∈ look [] (s.w.stream q).vals lane, v.retry = false) ∧
    ((s.w.stream q).indexed = true → (s.w.stream q).isrc ≠ q) ∧ s.laneHeld q lane = false ∧ s.core.inReset = false

/-- A scatter stream's lane has a value to store, `v` (R255, R259). -/
def State.drainDue (s : State) (q lane : Nat) (v : Word) (rest : List QVal) : Prop :=
  4 ≤ q ∧ q < 8 ∧ (s.w.stream q).bound = true ∧ look [] (s.w.stream q).vals lane = ⟨v, none, false⟩ :: rest ∧
    ((s.w.stream q).indexed = true → (s.w.stream q).isrc ≠ q) ∧ s.laneHeld q lane = false ∧ s.core.inReset = false

/-- Two runs of bytes do not meet. -/
def apart (a n b m : Nat) : Prop := a + n ≤ b ∨ b + m ≤ a

/-- A flow with one packet more under way: it takes the next sequence number (R350). -/
def injected (f : Flow) (p : Packet) : Flow :=
  { f with sendSeq := f.sendSeq + 1, packets := f.packets ++ [(f.sendSeq, p)] }

/-- A flow whose due packet has been delivered (R350). -/
def delivered (f : Flow) : Flow :=
  { f with dlvSeq := f.dlvSeq + 1, packets := f.packets.filter (fun x => x.1 != f.dlvSeq) }

/-- No packet waits for an allowance under which the flow injects (R354). -/
def State.noneWaits (s : State) (f : Flow) : Prop := f.waiting = [] ∧ ∀ h ∈ s.flows, h.shares f.cls f.src f.dst = true → h.waiting = []

/-- The packet of a flow that is next in sequence, and its number (R350). -/
def Flow.due (f : Flow) : Option (BitVec 16 × Packet) := f.packets.find? fun p => p.1 == f.dlvSeq

/-- A packet at the head of a queue is consumed: its kind byte is 0, and the read index has gone up by 1 (R267). -/
def consumed (s t : State) (q : Queue) (l : Loc) : Prop :=
  readByte t.mem (l.addr + 0x3C) = 0 ∧ readLe t.mem (q.pa + 0x200) 8 = (s.readIndex q + 1) % 2 ^ 64

/-- The sector's queue unit may act on a packet of this kind, which is well-formed (R265, R267). -/
def State.packetDue (s : State) (sector k kind : Nat) (q : Queue) (slot : Nat) (l : Loc) (p : BitVec 512) : Prop :=
  s.queueAt sector k = some q ∧ s.controls sector = true ∧ s.headPacket sector q = some (slot, l, p) ∧ pkKind p = kind ∧
    packetBad q p = false ∧ s.consumeReady q l = true ∧ apart (l.addr + 0x3C) 1 (q.pa + 0x200) 8

end Sys2Proof.Machine

/-- R110, R264, R292, R293, R309, R323, R366: what a write to a register of a device unit leaves, and where it is ignored. It rests on
readings of the model that are no rule: log entries 27, 36, 59, 107. -/
def Obligations.DeviceRegisterWriteTakesEffect : Prop :=
  ∀ (s : State) (v : DWord),
    let c := s.ctxsel.toNat
    let r := s.rowAt c
    (let f := bits s.row.xsel 4 4
     1 ≤ f → f ≤ 9 → exec (.xthrWrite v) s = .next
       { s with thresholds := put 0 s.thresholds (bits s.row.xsel 0 4 * 64 + f * 4 + bits s.row.xsel 8 2) (v.toNat % 2 ^ 40) }) ∧
    (let cb := v.toNat / 2 ^ 10 % 2 ^ 42 * 2 ^ 10
     let n := sectorOf s.w.core
     let old := (s.sector n).queues
     let pa := ((s.translate false cb).map fun e => (e.at cb).addr).getD (2 ^ 64)
     let valid := ((s.translate false cb).map fun e => e.loc.kind) = some .device ∧ readLe s.mem (pa + 0x208) 8 % 512 = 0 ∧
       4 ≤ readLe s.mem (pa + 0x210) 8 % 32 ∧ readLe s.mem (pa + 0x210) 8 % 32 ≤ 20
     let owner := readLe s.mem (pa + 0x218) 8 % 2 ^ 32
     let home := ((s.translate false cb).map fun e => (e.at cb).slice).getD 0
     -- the write waits for the walk of its address and for the block's lines, and the TLBs hold the translation after it
     (s.qregWaits (v ||| 1) = true → exec (.queueUnregister v) s = .next s) ∧
     (s.qregWaits (v &&& ~~~1) = true → exec (.queueRegister v) s = .next s) ∧
     (s.qregWaits (v ||| 1) = false → ∃ u, tlbOnly s u ∧ exec (.queueUnregister v) s = .next (u.modSector n fun x =>
       { x with queues := old.filter fun q => !(q.pa == pa || (q.reg == s.w.ctx && q.cb == cb)) })) ∧
     (s.qregWaits (v &&& ~~~1) = false → (¬valid ∨ 64 ≤ (old.filter fun q => q.pa != pa).length) →
       ∃ u, tlbOnly s u ∧ exec (.queueRegister v) s = .next (u.emitSector n 0x0003 [dw cb])) ∧
     (s.qregWaits (v &&& ~~~1) = false → valid → (old.filter fun q => q.pa != pa).length < 64 →
       (∀ q, old.find? (fun q => q.pa == pa) = some q → ∃ u, tlbOnly s u ∧ exec (.queueRegister v) s = .next (u.modSector n fun x =>
         { x with queues := old.map fun y =>
             if y.pa = pa then { q with cb := cb, slice := home, reg := s.w.ctx, ctx := owner, notified := true } else y })) ∧
       ((∀ q ∈ old, q.pa ≠ pa) → ∃ u, tlbOnly s u ∧ exec (.queueRegister v) s = .next (u.modSector n fun x =>
         { x with queues := old ++ [{ cb := cb, pa := pa, slice := home, reg := s.w.ctx, ctx := owner, cand := none, age := 0, stamp := 0, bad := none
                                      notified := true }] })))) ∧
    (s.drained c = true → exec (.ctxctlWrite v) s = .next
      { s with ctxs := put {} s.ctxs c
                 { r with weight := v.toNat % 2 ^ 8, stop := v.getLsbD 8, repro := v.getLsbD 9, phase := v.toNat / 2 ^ 12 % 2 ^ 16 } }) ∧
    (s.drained c = false → exec (.ctxctlWrite v) s = .next
      { s with ctxs := put {} s.ctxs c { r with weight := v.toNat % 2 ^ 8, stop := v.getLsbD 8 } }) ∧
    (let fits := bits v 0 7 = 0 ∧ bits v 22 10 = 0 ∧ bits v 55 9 = 0 ∧ bits v 0 22 + bits v 32 23 ≤ 2 ^ 22
     (fits → s.drained c = true → exec (.ctxskimWrite v) s = .next { s with ctxs := put {} s.ctxs c { r with skim := v } }) ∧
     ((¬ fits ∨ s.drained c = false) → exec (.ctxskimWrite v) s = .next s)) ∧
    StepsTo (.fqvalWrite v) s (fun t => t = { s with ctxs := t.ctxs } ∧ ∀ x n, (t.rowAt x).leaf n =
      if x = c ∧ n = bits s.fqsel 0 3 ∧ r.locked = false then (if n = 0 then v &&& 0xFFFF else if n = 6 then v &&& 0xF else v)
        else (s.rowAt x).leaf n) ∧
    (apctlOk v = true → exec (.apctlWrite v) s = .next { s with apertures := put 0 s.apertures s.apsel.toNat v }) ∧
    (apctlOk v = false → exec (.apctlWrite v) s = .next s)

/-- R62, R73, R118, R120, R130, R137, R282, R295, R325, R341, R343: what the units of a wave do between its instructions. It rests on
readings of the model that are no rule: log entries 2, 43, 44, 55. -/
def Obligations.WaveUnitStepTakesEffect : Prop :=
  ∀ s : State,
    (∀ k key v, s.w.sret[k]? = some (key, v) → StepsTo (.scalarLoadReturn k) s fun t =>
      t.w.sret = s.w.sret.eraseIdx k ∧ look 0 t.w.s key = v ∧ (∀ j, j ≠ key → look 0 t.w.s j = look 0 s.w.s j) ∧
        ((∀ e ∈ s.w.sret.eraseIdx k, e.1 ≠ key) → ∀ j, t.w.sVal j = s.w.sVal j) ∧ t = { s with w := t.w }) ∧
    (∀ k u, s.w.unch[k]? = some u → u.returned = false → u.held = false → u.late = [] →
      (∀ x ∈ s.w.unch.drop (k + 1), x.returned = false) →
      (s.w.parked = none → exec (.uncheckedResultReturn k) s = .next
        { s with w := { s.w with v := putAll 0 s.w.v u.writes, unch := s.w.unch.set k { u with returned := true }
                                 laneBlocked := false, blocked := false } }) ∧
      (∀ p, s.w.parked = some p → (∀ x ∈ s.w.unch.eraseIdx k, x.returned = true) → (∀ x ∈ s.w.unch, x.err = none) →
        StepsTo (.uncheckedResultReturn k) s fun t => t.w.parked = none ∧ t.w.pend = [] ∧ t.w.unch = [] ∧ t.w.m = s.w.m)) ∧
    (∀ r rest, s.w.lq = .run r :: rest → r.started = false → StepsTo .laneRunStart s fun t =>
      (∃ traced, t.w = { s.w with lq := .run { r with started := true, traced := traced } :: rest, laneBlocked := false }) ∧
        t = { s with w := t.w, cores := t.cores, sectors := t.sectors }) ∧
    (∀ rest a x k, s.w.lq = .cmd a x k .rngReset :: rest → exec .rngCounterReset s = .next
      { s with w := { s.w with lq := rest, rng := [], laneBlocked := false, blocked := false } }) ∧
    (∀ n m rest, s.headCmd (.dMov n m) rest → StepsTo .descriptorCommandApply s fun t =>
      t.w.lq = rest ∧ t.w.dReg n = s.w.dReg m ∧ (∀ k, k ≠ n → t.w.dReg k = s.w.dReg k) ∧ t = { s with w := t.w }) ∧
    (∀ n f v rest, s.headCmd (.dSet n f v) rest → f < 9 → fieldOk f v = true → StepsTo .descriptorCommandApply s fun t =>
      t.w.lq = rest ∧ getField (t.w.dReg n) f = v ∧ (∀ g, g < 9 → g ≠ f → getField (t.w.dReg n) g = getField (s.w.dReg n) g) ∧
        (∀ k, k ≠ n → t.w.dReg k = s.w.dReg k) ∧ t = { s with w := t.w }) ∧
    (∀ n va l rest, s.headCmd (.dLd n va l) rest → l.kind ≠ .peer → (s.fromHome l 16 && !s.missOpen s.w.core l) = false →
      s.poisoned l 16 = false → StepsTo .descriptorCommandApply s fun t =>
        t.w.lq = rest ∧ t.w.dReg n = BitVec.ofNat 128 (s.lsLe l l.addr 16) ∧ (∀ k, k ≠ n → t.w.dReg k = s.w.dReg k) ∧
          cachesOnly { s with w := t.w } t) ∧
    (∀ n l rest, s.headCmd (.dSt n l) rest → s.repro = false → s.w.stq.length < 64 → StepsTo .descriptorCommandApply s fun t =>
      t.w.lq = rest ∧ t.w.stq = s.w.stq ++ [{ id := s.nextId, wave := s.wid, loc := l, cells := leCells l.addr 16 (s.w.dReg n).toNat }] ∧
        t.w.d = s.w.d ∧ t = { s with w := t.w, nextId := s.nextId + 1 }) ∧
    exec .sigWaitWake s = .next { s with w := { s.w with blocked := false } } ∧
    (s.repro = true → s.w.qended = false → s.w.quantum ≤ s.w.qcount →
      exec .quantumCountExpiry s = .next { s with w := { s.w with qended := true, qexp := true } }) ∧
    (s.w.qcount < s.w.quantum → exec .quantumCountExpiry s = .next s) ∧
    (let n := Config.stepCycles s.free
     let later : State := { s with free := s.free + 1 }.modCore fun c => { c with cycle := dw (min (2 ^ 64 - 1) (c.cycle.toNat + n)) }
     let limit := if s.w.wdog = 0 then s.row.wdog.toNat % 2 ^ 32 else s.w.wdogLim
     let u : State := if limit = 0 then later else later.modW fun w => { w with wdog := w.wdog + n, wdogLim := limit }
     s.w.sys = false → s.w.life = .running → s.w.trapping = none →
       (0 < u.w.wdog → u.w.wdogLim * 4096 ≤ u.w.wdog → exec .watchdog s = .next (u.raise 0 .watchdog (dw u.w.wdogLim) 0 0)) ∧
       (u.w.wdog = 0 ∨ u.w.wdog < u.w.wdogLim * 4096 → exec .watchdog s = .next u))

/-- R237, R238, R240, R242, R245, R247, R248, R249, R256, R257, R258, R259: what the copy engine and the stream engine do. It rests on
readings of the model that are no rule: log entries 5, 23, 45, 46, 47, 48, 71, 72, 75, 91, 92, 95, 96, 102. -/
def Obligations.EngineStepTakesEffect : Prop :=
  ∀ s : State,
    (∀ c rest, s.headCmd (.copy c) rest → copyCheck s c = .ok () → s.repro = false → s.storesPerformed = true → s.entryRoom →
      let op : CopyOp :=
        { cmd := c, desc := s.w.dReg c.dn, accepted := true, todo := copyItems s.w (s.w.desc c.dn) c, fault := none, held := none
          done := false }
      StepsTo .copyCommandAccept s fun t =>
        t.w.lq = rest ∧
          -- a chunk of the interval in which the copy does nothing has landed already
          t.core.sb = s.core.sb ++ [(footEntry s.w (s.w.desc c.dn) (!c.kind.load) c.kind.load 0 c.ticket).withLeft (op.pending s.w)] ∧
          (∀ o ∈ t.w.ops, o.cmd.ticket = c.ticket → o = op) ∧
          t.w.binder = (if c.kind = .planeSw then some c.ticket else none) ∧ t = { s with w := t.w, cores := t.cores }) ∧
    (∀ q va l sys rest r u x, s.headCmd (.srBind q va l sys) rest → (s.w.stream q).bound = false → s.repro = false →
      s.storesPerformed = true → s.readRecord va l = .ok (r, u) → recordOf r sys = (true, x) → streamValid s.w q x = true →
      streamOut s.w x = none → (x.lane = false ∨ s.entryRoom) → StepsTo .srBindAccept s fun t =>
        t.w.lq = rest ∧ t.w.stream q = x ∧ ∀ m, m ≠ q → t.w.stream m = s.w.stream m) ∧
    -- a stream that stands at the queue is stopped first, in a step of its own that no later check undoes
    (∀ q va l sys rest, s.headCmd (.srBind q va l sys) rest → (s.w.stream q).bound = true → s.w.isIndexSource q = false →
      (∀ L < s.w.lanes, if q < 4 then s.laneHeld q L = false else look [] (s.w.stream q).vals L = []) →
      StepsTo .srBindAccept s fun t => t.w.lq = s.w.lq ∧ (∀ m, t.w.stream m = if m = q then {} else s.w.stream m) ∧
        (∀ e ∈ t.core.sb, ¬ (e.kind = 2 ∧ e.ref = q ∧ e.owner = s.w.slot)) ∧ t = { s with w := t.w, cores := t.cores }) ∧
    (∀ q rest, s.headCmd (.srStop q) rest → s.w.isIndexSource q = false →
      (∀ L < s.w.lanes, if q < 4 then s.laneHeld q L = false else look [] (s.w.stream q).vals L = []) →
      (s.w.stream q).bound = true → StepsTo .srStopAccept s fun t =>
        t.w.lq = rest ∧ (∀ m, t.w.stream m = if m = q then {} else s.w.stream m) ∧
          (∀ e ∈ t.core.sb, ¬ (e.kind = 2 ∧ e.ref = q ∧ e.owner = s.w.slot)) ∧ t = { s with w := t.w, cores := t.cores }) ∧
    (∀ core n k rest, (s.coreAt core).sbWait = (n, k) :: rest →
      let used := (s.coreAt core).sb.length + (s.waveIds.map fun m => if (s.wave m).core = core then (s.wave m).sbGrant else 0).sum
      (used + k ≤ 48 → StepsTo (.scoreboardEntryGrant core) s fun t =>
        (t.coreAt core).sbWait = rest ∧ (t.wave n).sbGrant = k ∧ (t.wave n).laneBlocked = false) ∧
      (48 < used + k → exec (.scoreboardEntryGrant core) s = .next s)) ∧
    (∀ o line i m u, s.w.opOf o.cmd.ticket = some o → (o.todo.find? fun i => i.line == line) = some i → o.cmd.kind.load = true →
      i.loc.isSome = true → i.data = none → s.core.inReset = false → s.lineData o i = some (.ok (m, u)) →
      (∀ x ∈ o.cellsAt s.w line, granuleFree (s.earlier 0 o.cmd.ticket) true x.granule = true) →
      StepsTo (.copyLineLand o.cmd.ticket line) s fun t =>
        t.w.lm = ((o.cellsAt s.w line).foldl (fun w x => w.writeNibs x.lane x.place (nibs o.d.fmt)
          ((x.src.map fun p => elemOf m p (nibs o.d.fmt)).getD 0)) s.w).lm ∧
        (∀ y ∈ t.w.ops, y.cmd.ticket = o.cmd.ticket → ∀ z ∈ y.todo, z.line ≠ line) ∧ t.w.v = s.w.v ∧ t.mem = s.mem) ∧
    (∀ o line i, s.w.opOf o.cmd.ticket = some o → (o.todo.find? fun i => i.line == line) = some i → o.cmd.kind = .fill → o.fault = none →
      o.held = none → i.data = none → s.core.inReset = false →
      (∀ x ∈ o.cellsAt s.w line, granuleFree (s.earlier 0 o.cmd.ticket) false x.granule = true) →
      StepsTo (.copyLineLand o.cmd.ticket line) s fun t =>
        t.skim = writeCells s.skim (mergeMasked s.skim ((o.lineMasked s.w line).map fun c => (s.skimKey c.1, c.2.1, c.2.2))) ∧
        (∀ y ∈ t.w.ops, y.cmd.ticket = o.cmd.ticket → ∀ z ∈ y.todo, z.line ≠ line) ∧ t.w.lm = s.w.lm ∧ t.mem = s.mem) ∧
    (∀ t o, s.w.opOf t = some o → (o.landed = false → exec (.copyOperationComplete t) s = .next s) ∧
      (o.landed = true → o.done = false → s.w.sweeps = [] → StepsTo (.copyOperationComplete t) s fun u =>
        (∀ e ∈ u.core.sb, ¬ (e.kind = 0 ∧ e.ref = t ∧ e.owner = s.w.slot)) ∧
          (∀ y ∈ u.w.ops, y.cmd.ticket = t → y.done = true) ∧ u.w.lm = s.w.lm ∧ sameBytes s u)) ∧
    (∀ x, s.w.sweeps.find? s.sweepReady = some x → sweepTags s.w x = .ok () → exec .boundSweepStart s = .next
      { s with w := { s.w with sweeps := s.w.sweeps.map fun y => if y.id = x.id then { x with started := true } else y } }) ∧
    (∀ q lane a, s.fetchDue q lane →
      let x := s.w.stream q
      let b := streamB x.ty
      s.w.streamAddr x lane (look 0 x.moved lane) = some a →
      (x.lane = true → 0 ≤ a → a + b ≤ s.w.lambda → (∀ g ∈ granules a.toNat b, granuleFree (s.earlier 2 q) false g = true) →
        StepsTo (.streamValueFetch q lane) s fun t =>
          look [] (t.w.stream q).vals lane = look [] x.vals lane ++ [⟨queueVal x.ty (readLe s.w.lm (lmKey lane a.toNat) b), none, false⟩] ∧
            look 0 (t.w.stream q).moved lane = look 0 x.moved lane + 1 ∧
            (∀ m, m ≠ q → (x.indexed = false ∨ m ≠ x.isrc) → t.w.stream m = s.w.stream m) ∧ t.w.lm = s.w.lm ∧
            ((∀ L < s.w.lanes, x.count ≤ look 0 (t.w.stream q).moved L) →
              ∀ e ∈ t.core.sb, ¬ (e.kind = 2 ∧ e.ref = q ∧ e.owner = s.w.slot)) ∧
            t = { s with w := t.w, cores := t.cores }) ∧
      (∀ ps, x.lane = false → s.bytePlaces x.sys .load a b = .ok ps → (∀ p ∈ ps, p.kind = .device) → s.core.lineBuf = [] →
        s.unitsHeld x.snap (unitLocs ps) = false → s.poison = [] → StepsTo (.streamValueFetch q lane) s fun t =>
          look [] (t.w.stream q).vals lane = look [] x.vals lane ++
            [⟨queueVal x.ty (ps.zipIdx.foldl (fun n e => n + (readByte ((x.snap.map Prod.fst).getD s.mem) e.1.addr).toNat * 256 ^ e.2) 0), none, false⟩] ∧
          t.mem = s.mem ∧ t.w.lm = s.w.lm)) ∧
    (∀ q lane v rest a, s.drainDue q lane v rest →
      let x := s.w.stream q
      let b := streamB x.ty
      s.w.streamAddr x lane (look 0 x.used lane) = some a →
      (x.lane = true → (∀ g ∈ granules a.toNat b, granuleFree (s.earlier 2 q) true g = true) →
        StepsTo (.streamScatterDrain q lane) s fun t =>
          look [] (t.w.stream q).vals lane = rest ∧ look 0 (t.w.stream q).used lane = look 0 x.used lane + 1 ∧
            readLe t.w.lm (lmKey lane a.toNat) b = v.toNat % 2 ^ (8 * b) ∧
            (∀ k, k < lmKey lane a.toNat ∨ lmKey lane a.toNat + b ≤ k → readByte t.w.lm k = readByte s.w.lm k) ∧
            t = { s with w := t.w, cores := t.cores }) ∧
      (∀ ps, x.lane = false → s.repro = false → s.bytePlaces x.sys .store a b = .ok ps →
        (∀ p ∈ ps, p.kind = .device ∧ s.atomOpen s.w.core p = true) → (ps.map fun p => p.addr).Nodup →
        StepsTo (.streamScatterDrain q lane) s fun t =>
          look [] (t.w.stream q).vals lane = rest ∧ (∀ k p, ps[k]? = some p → readByte t.mem p.addr = BitVec.ofNat 8 (v.toNat / 256 ^ k)) ∧
            (∀ y, (∀ p ∈ ps, p.addr ≠ y) → readByte t.mem y = readByte s.mem y) ∧ t.w.lm = s.w.lm)) ∧
    (∀ sector k ok r, (s.sector sector).pageReqs[k]? = some r → k < 64 → s.fw.recovery = false →
      StepsTo (.pageRequestResponse sector k ok) s fun t =>
      (t.sector sector).pageReqs = (s.sector sector).pageReqs.eraseIdx k ∧ t.mem = s.mem ∧
        -- after a success the engine walks again
        (ok = true → tlbFind (t.sector sector).tlb r.ctx r.addr.toNat = none ∧
          (r.kind ≠ 2 → tlbFind (t.coreAt (s.wave r.wave).core).dtlb r.ctx r.addr.toNat = none)) ∧
        (r.kind = 2 → ok = true → (t.sector sector).bulk = (s.sector sector).bulk) ∧
        (r.kind = 2 → ok = false → ∀ b ∈ (t.sector sector).bulk, b.id = r.ref → b.refused = true) ∧
        (r.kind = 0 → r.wave = s.wid → ∀ o, s.w.opOf r.ref = some o → ∀ y ∈ t.w.ops, y.cmd.ticket = r.ref →
          y.held = none ∧ y.fault.map Prod.fst = if ok then o.fault.map Prod.fst else some 4))

/-- R193, R211, R224, R349, R350, R352, R354, R355, R356, R357, R358, R359, R360, R361, R362, R364, R368: the way of a store to its home, of
the invalidations that it asks for, and of its acknowledgement back; and copies of lines. It rests on readings of the model that are no
rule: log entries 6, 8, 23, 31, 44. -/
def Obligations.StoreReachesItsHome : Prop :=
  ∀ s : State,
    (∀ e rest, s.w.stq = e :: rest →
      ((s.w.sret ≠ [] ∨ s.w.unch.all (·.returned) = false ∨ s.core.inReset = true) → exec .storeQueueDrain s = .next s) ∧
      (s.w.sret = [] → s.w.unch.all (·.returned) = true → s.core.inReset = false →
        (let f := s.flow .req (clusterOf s.w.core) (144 + e.loc.slice)
         let r : HomeReq :=
           { line := e.loc.addr / 512, cells := e.cells, agent := { core := s.w.core, id := e.id, wave := e.wave }, slice := e.loc.slice
             stamp := 0, started := false, asked := [], acks := [] }
         e.loc.kind = .device →
          let n := s.allow .req (clusterOf s.w.core) (144 + e.loc.slice)
          (n = 0 → exec .storeQueueDrain s = .next s) ∧
          (n ≠ 0 → StepsTo .storeQueueDrain s fun t =>
            t.w.stq = rest ∧ t.core.inflight = s.core.inflight ++ [e] ∧ t.mem = s.mem ∧
              t.flow .req (clusterOf s.w.core) (144 + e.loc.slice) = injected f (.write r))) ∧
        (e.loc.kind = .host → StepsTo .storeQueueDrain s fun t =>
          t.w.stq = rest ∧ t.hostMem = writeCells s.hostMem e.cells ∧ t.core.acks = s.core.acks ++ [(e.id, e.wave)] ∧ t.mem = s.mem) ∧
        (e.loc.kind = .peer → StepsTo .storeQueueDrain s fun t =>
          t.w.stq = rest ∧ t.core.inflight = s.core.inflight ++ [e] ∧ t.mem = s.mem ∧ t.hostMem = s.hostMem ∧
            t.peerReqs = s.peerReqs ++ [{ core := s.w.core, id := e.id, dev := e.loc.home, addr := e.loc.addr }]))) ∧
    -- an ingress holds the allowances that are set for the destination, less one for each packet under way, whichever unit behind it sent them
    (∀ (cls : MsgClass) (src dst : Nat), s.allow cls src dst =
      s.fullAllow cls src dst - ((s.flows.filter fun f => f.shares cls src dst).map fun f => f.packets.length).sum) ∧
    -- delivery, in the order of the flow: the allowance that returns lets the first packet in that waits in the flow
    (∀ k f n r q ws, s.flows[k]? = some f → f.due = some (n, .write r) → f.waiting = q :: ws → exec (.packetDelivery k) s = .next
      { (s.setFlow (injected { delivered f with waiting := ws } q)) with
        nextId := s.nextId + 1, homeReqs := s.homeReqs ++ [{ r with stamp := s.nextId }] }) ∧
    (∀ k f n x, s.flows[k]? = some f → f.due = some (n, x) → s.noneWaits f →
      (∀ r, x = .write r → exec (.packetDelivery k) s = .next
        { (s.setFlow (delivered f)) with nextId := s.nextId + 1, homeReqs := s.homeReqs ++ [{ r with stamp := s.nextId }] }) ∧
      (∀ r, x = .unit r → exec (.packetDelivery k) s = .next
        { (s.setFlow (delivered f)) with nextId := s.nextId + 1, unitReqs := s.unitReqs ++ [{ r with stamp := s.nextId }] }) ∧
      ∀ line sector, x = .inv line → f.cls = .inv → f.dst = 288 + sector →
        let g := s.flow .ack f.dst f.src
        g.waiting = [] → s.allow .ack f.dst f.src ≠ 0 → StepsTo (.packetDelivery k) s fun t =>
          (∀ m, sectorOf m = sector → ∀ u ∈ (t.coreAt m).ro, u / 4 ≠ line) ∧
            (∀ c ∈ t.copies, ¬ (c.2 = line ∧ c.1 / 12 = sector)) ∧
            t.flow .ack f.dst f.src = injected g (.invAck line) ∧ t.mem = s.mem ∧ t.homeReqs = s.homeReqs) ∧
    -- the write at its home
    (∀ k r, s.homeReqs[k]? = some r → s.homeReady k r = true → (∀ c ∈ r.cells, c.1 / 512 = r.line) → r.cells ≠ [] →
      let v := look 0 s.vec r.line
      let sectors := (List.range 12).filter v.getLsbD
      (v = 0 → StepsTo (.homeWrite k) s fun t =>
        t.mem = writeCells s.mem r.cells ∧ t.homeReqs = s.homeReqs.eraseIdx k ∧ look 0 t.stamps r.line = look 0 s.stamps r.line + 1 ∧
          (∀ l, l ≠ r.line → look 0 t.stamps l = look 0 s.stamps l) ∧ t.w = s.w ∧
          (r.agent.core < 578 → (∃ e ∈ (s.coreAt r.agent.core).inflight, e.id = r.agent.id) →
            (t.coreAt r.agent.core).acks = (s.coreAt r.agent.core).acks ++ [(r.agent.id, r.agent.wave)]) ∧
          -- a link or a peer is acknowledged too
          (576 ≤ r.agent.core → s.isOpen .ack (144 + r.slice) (s.outsidePort r.agent.core) = true →
            t.flow .ack (144 + r.slice) (s.outsidePort r.agent.core) = (s.flow .ack (144 + r.slice) (s.outsidePort r.agent.core)).pass) ∧
          (578 ≤ r.agent.core → (r.agent.core, Reply.ack) ∈ t.replies)) ∧
      (v ≠ 0 → StepsTo (.homeWrite k) s fun t =>
        t.homeReqs = s.homeReqs.set k { r with started := true, asked := sectors, acks := sectors } ∧ t.mem = s.mem ∧
          ∀ x ∈ sectors, let f := s.flow .inv (144 + r.slice) (288 + x)
            f.waiting = [] → s.allow .inv (144 + r.slice) (288 + x) ≠ 0 → t.flow .inv (144 + r.slice) (288 + x) = injected f (.inv r.line))) ∧
    (∀ k r sector n, s.homeReqs[k]? = some r → r.started = true → sector ∈ r.acks →
      let f := s.flow .ack (288 + sector) (144 + r.slice)
      f.due = some (n, .invAck r.line) →
      let left := r.acks.filter fun x => x != sector
      -- the last one performs the write, which waits while a copy of the line is on its way
      (left = [] → (∃ i ∈ s.installs, i.line = r.line) → exec (.invalidationAck k sector) s = .next s) ∧
      (left ≠ [] → StepsTo (.invalidationAck k sector) s fun t => t.homeReqs = s.homeReqs.set k { r with acks := left } ∧ t.mem = s.mem) ∧
      ((∀ i ∈ s.installs, i.line ≠ r.line) → left = [] → StepsTo (.invalidationAck k sector) s fun t =>
        t.homeReqs = s.homeReqs.eraseIdx k ∧ t.mem = writeCells s.mem r.cells ∧
          ∀ i < 12, (look 0 t.vec r.line).getLsbD i = ((look 0 s.vec r.line).getLsbD i && !r.asked.contains i))) ∧
    -- the acknowledgement
    (∀ core k a, (s.coreAt core).acks[k]? = some a →
      let p := Packet.storeAck core a.1
      let due := s.flows.find? fun f => f.cls == .ack && f.dst == clusterOf core && (f.packets.any (·.2 == p) || f.waiting.contains p)
      -- that of a store to host memory comes over a link, in one step
      (due = none → ∃ u : State, u = { s with flows := u.flows, jam := u.jam } ∧ exec (.storeAck core k) s =
        .next (u.modCoreAt core fun c => { c with acks := (s.coreAt core).acks.eraseIdx k })) ∧
      ∀ f n x, due = some f → f.due = some (n, x) →
        (x = p → StepsTo (.storeAck core k) s fun t => (t.coreAt core).acks = (s.coreAt core).acks.eraseIdx k ∧ t.mem = s.mem) ∧
        (x ≠ p → exec (.storeAck core k) s = .next s)) ∧
    (∀ core k r, (s.peerReqs.filter fun x => x.core == core)[k]? = some r →
      let i := (s.coreAt core).acks.length + k
      (look 0 s.routes r.dev = 0 → exec (.storeAck core i) s = .next s) ∧
      (look 0 s.routes r.dev ≠ 0 → StepsTo (.storeAck core i) s fun t => t.peerReqs = s.peerReqs.filter (fun x => x != r) ∧
        (t.coreAt core).inflight = (s.coreAt core).inflight.filter (fun e => e.id != r.id) ∧ t.mem = s.mem)) ∧
    -- copies
    (∀ k i, s.installs[k]? = some i → i.installed = false →
      let held := s.heldWays i.slice i.line
      let f := s.flow .rsp (144 + i.home) (144 + i.slice)
      let g := s.flow .ack (144 + i.slice) (144 + i.home)
      let act : Instr := if i.replica then .replicaInstall k else .guestCopyInstall k
      (f.due.map Prod.snd ≠ some (.install i.line) → exec act s = .next s) ∧
      (f.due.map Prod.snd = some (.install i.line) → StepsTo act s fun t =>
        t.installs = s.installs.set k { i with installed := true } ∧ (held.1 + held.2 < 16 → (i.slice, i.line) ∈ t.copies) ∧
          (∀ c ∈ t.copies, c ∈ s.copies ∨ c = (i.slice, i.line)) ∧
          (g.waiting = [] → s.allow .ack (144 + i.slice) (144 + i.home) ≠ 0 → t.flow .ack (144 + i.slice) (144 + i.home) = injected g (.installAck i.line)) ∧
          (f.waiting = [] → t.flow .rsp (144 + i.home) (144 + i.slice) = delivered f) ∧
          t = { s with installs := t.installs, copies := t.copies, free := t.free, flows := t.flows })) ∧
    (∀ k i, s.installs[k]? = some i → i.installed = true →
      let f := s.flow .ack (144 + i.slice) (144 + i.home)
      (f.due.map Prod.snd ≠ some (.installAck i.line) → exec (.installAck k) s = .next s) ∧
      (f.due.map Prod.snd = some (.installAck i.line) → s.noneWaits f →
        exec (.installAck k) s = .next { (s.setFlow (delivered f)) with installs := s.installs.eraseIdx k })) ∧
    (∀ k l inv, s.core.probes[k]? = some (l, inv, false) →
      let u := l.addr / 128
      let p := look (0, 0) s.core.pred (u / 4 % 256)
      let hit := p.2 ≠ 0 ∧ u ∈ (s.coreAt (sectorOf s.w.core * 48 + p.1)).ro
      (¬hit → s.missOpen s.w.core l = false → exec (.probe k) s = .next s) ∧
      -- the port of a cluster that is reset injects nothing
      (s.core.inReset = true → exec (.probe k) s = .next s) ∧
      (s.poison = [] → s.core.inReset = false → (hit ∨ s.missOpen s.w.core l = true) → StepsTo (.probe k) s fun t => t.mem = s.mem ∧
        (t.w.unch = s.w.unch.map fun x => { x with
          late := x.late.filter (fun e => e.2.1.addr / 128 != u)
          writes := x.writes ++ (x.late.filter fun e => e.2.1.addr / 128 == u).map fun e =>
            (e.1, elemImage e.2.2.2 (readLe s.mem e.2.1.addr (elemSize e.2.2.2))) }) ∧
        (hit → t.core.probes = s.core.probes.set k (l, inv, true) ∧ look (0, 0) t.core.pred (u / 4 % 256) = (p.1, 3)) ∧
        (¬hit → t.core.probes = s.core.probes.eraseIdx k ∧ u ∈ t.core.ro))) ∧
    (∀ k l inv, s.core.probes[k]? = some (l, inv, true) → StepsTo (.forwardedLineArrival k) s fun t =>
      t.core.probes = s.core.probes.eraseIdx k ∧ t.mem = s.mem ∧ (inv = false → l.addr / 128 ∈ t.core.ro) ∧
        (inv = true → t.core.ro = s.core.ro))

/-- R15, R16, R106, R192, R352, R363, R366, R367, R369, R370, R371, R382: requests from outside the device, links, and what leaves the
device. That a request of a host link beyond 2^48 stops the machine is the model's choice: R15 gives the space and no stop (log entry
62). It rests on readings of the model that are no rule: log entries 6, 12, 23, 24, 62, 76, 84. -/
def Obligations.OutsideRequestTakesEffect : Prop :=
  ∀ s : State,
    (∀ src (r : BusReq), src < 66 → r.addr + busBytes r.op ≤ 2 ^ 48 → (1 ≤ src → s.fw.recovery = false) →
      let v := look 0 s.apertures (src - 2)
      (2 ≤ src → apertureAllows v r = true) →
      let i := if src < 2 then Instr.hostLinkRequest src r else .peerRequestArrival (src - 2) r
      -- the home of an address by the stripe class and the home of the aperture; the device class for a host link (log entry 76)
      let home (a : Nat) : Nat :=
        ({ kind := .device, addr := a, stripe := if src < 2 then 3 else bits v 11 2, home := if src < 2 then 0 else bits v 48 10
           rm := false } : Loc).slice
      -- the port by which the link or the peer stands in the network
      let port := if src < 2 then 312 + src else 300 + (look 0 s.routes (src - 2) - 1)
      (∀ bs, r.op = .write bs → bs ≠ [] → r.addr / 512 = (r.addr + bs.length - 1) / 512 →
        let dst := home (512 * (r.addr / 512))
        let f := s.flow .req port (144 + dst)
        let q : HomeReq :=
          { line := r.addr / 512, cells := bs.zipIdx.map (fun e => (r.addr + e.2, e.1)), agent := { core := 576 + src, id := s.nextId, wave := 0 }
            slice := dst, stamp := 0, started := false, asked := [], acks := [] }
        f.waiting = [] → s.allow .req port (144 + dst) ≠ 0 → StepsTo i s fun t =>
          t.flow .req port (144 + dst) = injected f (.write q) ∧ t = { s with nextId := s.nextId + 1, flows := t.flows }) ∧
      (∀ wide v, r.op = .swap wide v → StepsTo i s fun t =>
        (576 + src, Reply.unsupported) ∈ t.replies ∧ t = { s with replies := t.replies }) ∧
      (((∃ n, r.op = .read n) ∨ (∃ wide v, r.op = .fetchAdd wide v) ∨ ∃ wide v n, r.op = .cas wide v n) →
        let f := s.flow .req port (144 + home r.addr)
        f.waiting = [] → s.allow .req port (144 + home r.addr) ≠ 0 → StepsTo i s fun t =>
          t.flow .req port (144 + home r.addr) = injected f
            (.unit { src := 576 + src, addr := r.addr, op := r.op, id := s.nextId, slice := home r.addr, stamp := 0 }) ∧
          t = { s with nextId := s.nextId + 1, flows := t.flows })) ∧
    (∀ link (r : BusReq), link < 2 → (link = 1 → s.fw.recovery = false) → 2 ^ 48 < r.addr + busBytes r.op →
      exec (.hostLinkRequest link r) s = .fault (.noSuchAddress (r.addr + busBytes r.op - 1))) ∧
    (∀ r, s.fw.recovery = true → exec (.hostLinkRequest 1 r) s = .next s) ∧
    (∀ src (r : BusReq), src < 64 → s.fw.recovery = false → apertureAllows (look 0 s.apertures src) r = false →
      StepsTo (.peerRequestArrival src r) s fun t =>
        t = { s with events := t.events, replies := t.replies } ∧ (578 + src, Reply.error) ∈ t.replies ∧
          ((∃ bs, r.op = .write bs) → oneRecord s t 4 (s.portOf src)) ∧ ((∀ bs, r.op ≠ .write bs) → noRecord s t)) ∧
    (∀ k r, s.unitReqs[k]? = some r → s.unitReady k r = true →
      (∀ u ∈ s.poison, ¬ (r.addr / 128 ≤ u ∧ 128 * u < r.addr + busBytes r.op)) →
      StepsTo (.atomicUnitOperation k) s fun t => t.unitReqs = s.unitReqs.eraseIdx k ∧
        (r.src, Reply.data (readBytes s.mem r.addr (busBytes r.op))) ∈ t.replies ∧
        (∀ n, r.op = .read n → t.mem = s.mem) ∧
        (∀ wide v, r.op = .fetchAdd wide v → let n := if wide then 8 else 4
          readLe t.mem r.addr n = (readLe s.mem r.addr n + v.toNat) % 2 ^ (8 * n) ∧ sameBytesBut s t r.addr n) ∧
        ∀ wide c v, r.op = .cas wide c v → let n := if wide then 8 else 4
          sameBytesBut s t r.addr n ∧
            readLe t.mem r.addr n = if readLe s.mem r.addr n = c.toNat % 2 ^ (8 * n) then v.toNat % 2 ^ (8 * n) else readLe s.mem r.addr n) ∧
    (∀ k r, s.peerReqs[k]? = some r → StepsTo (.peerRequestTimeout k) s fun t =>
      t.peerReqs = s.peerReqs.eraseIdx k ∧ (∀ e ∈ (t.coreAt r.core).inflight, e.id ≠ r.id) ∧ oneRecord s t 4 (s.portOf r.dev) ∧
        t.mem = s.mem) ∧
    (∀ kind num, (kind, num) ∈ s.linksDraining → StepsTo (.linkOutOfService kind num) s fun t =>
      (kind, num) ∈ t.linksDown ∧ (kind, num) ∉ t.linksDraining ∧ oneRecord s t 1 (linkSector kind num) ∧ t.mem = s.mem) ∧
    (∀ kind num, (kind, num) ∈ s.linksDown → StepsTo (.linkBackInService kind num) s fun t =>
      (kind, num) ∉ t.linksDown ∧ oneRecord s t 1 (linkSector kind num) ∧ (s.commanded 5 → ended t 0) ∧ t.mem = s.mem) ∧
    (∀ core, StepsTo (.countDelivery core) s fun t =>
      (∀ n ∈ s.waveIds, (s.wave n).core = core → (t.wave n).counts = []) ∧ sameBytes s t ∧
        (∀ k n, s.others = [] → s.w.core = core → s.w.counts = [(k, n)] →
          look 0 t.counters k = min (look 0 s.counters k + n) (2 ^ 40 - 1))) ∧
    (∀ kind num seq dropped code payload rest, (look {} s.events (evKey kind num)).held = (seq, dropped, code, payload) :: rest →
      s.fw.recovery = false → 6 ≤ s.mg.evsize.toNat → s.mg.evsize.toNat ≤ 16 →
      s.mg.evhead - s.mg.evtail ≠ BitVec.ofNat 64 (2 ^ s.mg.evsize.toNat) →
      let a := s.mg.evbase.toNat + 64 * (s.mg.evhead.toNat % 2 ^ s.mg.evsize.toNat)
      StepsTo (.eventRecordWrite kind num) s fun t =>
        readLe t.hostMem a 8 = (num % 4096 + kind * 2 ^ 12 + code * 2 ^ 16 + seq.toNat * 2 ^ 32) % 2 ^ 64 ∧
          readLe t.hostMem (a + 8) 8 = dropped % 2 ^ 64 ∧
          (∀ k < 6, readLe t.hostMem (a + 16 + 8 * k) 8 = ((payload[k]?).getD 0).toNat) ∧
          (∀ x, x < a ∨ a + 64 ≤ x → readByte t.hostMem x = readByte s.hostMem x) ∧
          (look {} t.events (evKey kind num)).held = rest ∧ t.mg = { s.mg with evhead := s.mg.evhead + 1 } ∧ t.mem = s.mem)

/-- R336, R337, R339, R340, R341, R342, R347: fills, walks and traces. It rests on readings of the model that are no rule: log entry 8. -/
def Obligations.CodeFillTakesEffect : Prop :=
  ∀ (s : State) (core k : Nat),
    (∀ f, (s.coreAt core).fills[k]? = some f → f.loc = none → s.walkHeld f.root f.va = false →
      (s.walkFrom f.root f.ctx f.va = none → StepsTo (.pageWalkComplete core k) s fun t => f ∉ (t.coreAt core).fills ∧ t.mem = s.mem) ∧
      (∀ e, s.walkFrom f.root f.ctx f.va = some e → StepsTo (.pageWalkComplete core k) s fun t =>
        e ∈ (t.coreAt core).ctlb ∧ t.mem = s.mem ∧
          (e.permits .fetch f.sys = true → e.loc.kind = .device →
            (f.kind = 0 → (s.coreAt core).codeLine ((e.at f.va).addr / 128) = none) →
            (f.kind ≠ 0 → ∀ b ∈ (s.coreAt core).lcc, ¬ (b.addr = (e.at f.va).addr ∧ b.verified = true)) →
            ∃ g ∈ (t.coreAt core).fills, g.kind = f.kind ∧ g.loc.map (·.addr) = some (e.at f.va).addr) ∧
          -- two fills of one place are one
          ((t.coreAt core).fills.Pairwise fun x y => ¬ (x.loc.isSome ∧ x.kind = y.kind ∧ x.loc.map (·.addr) = y.loc.map (·.addr))) ∧
          f ∉ (t.coreAt core).fills)) ∧
    (∀ f l, (s.coreAt core).fills[k]? = some f → f.loc = some l → s.missOpen core l = true →
      s.poison.contains (l.addr / 128) = false →
      (f.kind = 0 → (s.coreAt core).codeLine (l.addr / 128) = none → StepsTo (.icacheFill core k) s fun t =>
        (t.coreAt core).fills = (s.coreAt core).fills.eraseIdx k ∧ t.mem = s.mem ∧
          (t.coreAt core).codeLine (l.addr / 128) = some (region s.mem (l.addr / 128 * 128) 128)) ∧
      (f.kind = 1 → (∀ b ∈ (s.coreAt core).lcc, b.addr = l.addr → b.verified = true) → StepsTo (.laneBlockFill core k) s fun t =>
        (t.coreAt core).fills = (s.coreAt core).fills.eraseIdx k ∧ t.mem = s.mem ∧
          ∃ b ∈ (t.coreAt core).lcc, b.addr = l.addr ∧ b.verified = true ∧ b.image = BitVec.ofNat 1024 (readLe s.mem l.addr 128))) ∧
    (∀ b ∈ (s.coreAt core).lcc, ∀ f l, b.verified = false → s.poison.contains (b.addr / 128) = false →
      ((s.coreAt core).fills.find? fun f => f.kind == 1 && (f.loc.map (·.addr)) == some b.addr) = some f → f.loc = some l →
      s.missOpen core l = true →
      StepsTo (.unverifiedBlockRefetch core b.addr) s fun t => t.mem = s.mem ∧
        (∃ x ∈ (t.coreAt core).lcc, x.addr = b.addr ∧ x.verified = true ∧ x.image = BitVec.ofNat 1024 (readLe s.mem b.addr 128)) ∧
        ∀ f ∈ (t.coreAt core).fills, ¬ (f.kind = 1 ∧ (f.loc.map (·.addr)) = some b.addr)) ∧
    (s.fw.recovery = false →
     ∀ sector no r rest, (s.sector sector).trowel = r :: rest → StepsTo (.trowelTranslationComplete sector no) s fun t =>
      (t.sector sector).trowel = rest ∧ t.mem = s.mem ∧ (r.addr, r.cls) ∉ (t.coreAt r.core).trowelPending ∧
        (t.sector sector).finished = if no then (s.sector sector).finished else (s.sector sector).finished ++ [r]) ∧
    (∀ sector r, (s.sector sector).finished[k]? = some r → StepsTo (.traceInstall sector k) s fun t =>
      (t.sector sector).finished = (s.sector sector).finished.eraseIdx k ∧ t.mem = s.mem ∧
        ((∃ b ∈ (s.coreAt r.core).lcc, b.addr = r.addr ∧ b.image = r.image) →
          ({ addr := r.addr, cls := r.cls, image := r.image } : Trace) ∈ (t.coreAt r.core).slalom) ∧
        ((∀ b ∈ (s.coreAt r.core).lcc, ¬ (b.addr = r.addr ∧ b.image = r.image)) → t.coreAt r.core = s.coreAt r.core))

/-- R263, R265, R267, R268, R273, R284, R286, R302: packets of user-mode queues. It rests on readings of the model that are no rule: log
entries 17, 18, 58, 60, 74, 94. -/
def Obligations.QueuePacketTakesEffect : Prop :=
  ∀ (s : State) (sector k : Nat) (q : Queue),
    (s.queueAt sector k = some q → s.controls sector = true → q.cand = none → q.bad = none →
      s.blockOpen q = true → s.sectorWaits sector q.ctx (s.slotVa q.pa (s.readIndex q)) = false →
      (s.writeIndex q ≤ s.readIndex q → StepsTo (.queueNotify sector k) s fun t =>
        t.mem = s.mem ∧ (t.queueAt sector k).map Queue.notified = some false ∧ noRecord s t) ∧
      (s.readIndex q < s.writeIndex q → s.headPlace sector q = none → StepsTo (.queueNotify sector k) s fun t =>
        t.mem = s.mem ∧ (t.queueAt sector k).map Queue.bad = some (some (s.readIndex q)) ∧ oneRecord s t 1 sector) ∧
      (∀ l, s.readIndex q < s.writeIndex q → s.headPlace sector q = some l → pkKind (s.packetAt l) ≠ 0 →
        packetBad q (s.packetAt l) = true → s.consumeReady q l = true → apart (l.addr + 0x3C) 1 (q.pa + 0x200) 8 →
        StepsTo (.queueNotify sector k) s fun t => consumed s t q l ∧ oneRecord s t 1 sector)) ∧
    (∀ slot l p, s.packetDue sector k 1 q slot l p →
      (s.packetCase sector q.ctx p = none → StepsTo (.taskPacketPop sector k) s fun t =>
        (∃ x : Task, t.tasks = s.tasks ++ [x] ∧ x.id = s.nextId ∧ x.record = p ∧ x.ctx = q.ctx ∧ x.slot = slot ∧ x.placed = 0 ∧
          x.retired = 0) ∧ (t.queueAt sector k).map Queue.cand = some (some s.nextId) ∧
        (pkPhase p, q.pa, slot) ∈ (t.rowAt q.ctx).live ∧ t.mem = s.mem) ∧
      (∀ c, s.packetCase sector q.ctx p = some c → StepsTo (.taskPacketPop sector k) s fun t =>
        consumed s t q l ∧ oneRecord s t 1 sector ∧ t.tasks = s.tasks)) ∧
    (∀ id x l, s.queueAt sector k = some q → s.controls sector = true → q.cand = some id → s.taskOf id = some x →
      pkPhase x.record < (s.rowAt x.ctx).phase → s.headPlace sector q = some l → s.consumeReady q l = true →
      apart (l.addr + 0x3C) 1 (q.pa + 0x200) 8 → StepsTo (.taskPacketPop sector k) s fun t =>
        consumed s t q l ∧ oneRecord s t 1 sector ∧ (∀ y ∈ t.tasks, y.id ≠ x.id) ∧ (t.queueAt sector k).map Queue.cand = some none) ∧
    -- a bulk-copy or a signal packet acts when it is its queue's turn
    (∀ slot l p, let turn := (s.nextPacket sector).map Prod.fst
      (s.packetDue sector k 2 q slot l p →
        (turn ≠ some q.pa → exec (.bulkCopyPacket sector k) s = .next s) ∧
        (turn = some q.pa → StepsTo (.bulkCopyPacket sector k) s fun t =>
          consumed s t q l ∧ (t.sector sector).bulk = (s.sector sector).bulk ++
            [{ id := s.nextId, cb := q.cb, slot := slot, ctx := q.ctx, src := pk p 0, dst := pk p 1, len := (pk p 2).toNat % 2 ^ 32
               sig := pk p 3, addend := pk p 4, refused := false }])) ∧
      (s.packetDue sector k 3 q slot l p →
        (turn ≠ some q.pa → exec (.signalPacket sector k) s = .next s) ∧
        ∀ z, turn = some q.pa → (pk p 0).toNat % 8 = 0 → s.unitPlace sector q.ctx (pk p 0).toNat = some z →
          s.sectorWaits sector q.ctx (pk p 0).toNat = false → s.lineFree (z.addr / 512) = true →
          apart z.addr 8 (q.pa + 0x200) 8 → apart z.addr 8 (l.addr + 0x3C) 1 → StepsTo (.signalPacket sector k) s fun t =>
            consumed s t q l ∧ readLe t.mem z.addr 8 = (readLe s.mem z.addr 8 + (pk p 1).toNat) % 2 ^ 64)) ∧
    ∀ (b : Bulk) (choice : Nat) (a z : Nat → Loc), (s.sector sector).bulk[k]? = some b → b.sig = 0 →
      (∀ x ∈ s.homeReqs, x.started = false) → (∀ x ∈ (s.sector sector).pageReqs, ¬ (x.kind = 2 ∧ x.ref = b.id)) →
      (∀ i < b.len, s.bulkPlace sector b.ctx false ((b.src.toNat + i) % 2 ^ 64) = some (a i) ∧
        s.bulkPlace sector b.ctx true ((b.dst.toNat + i) % 2 ^ 64) = some (z i) ∧ (a i).kind = .device ∧ (z i).kind = .device ∧
        s.poison.contains ((a i).addr / 128) = false ∧ s.lineFree ((z i).addr / 512) = true) →
      (∀ i < b.len, ∀ j < b.len, (i ≠ j → (z i).addr ≠ (z j).addr) ∧ (z i).addr ≠ (a j).addr) →
      StepsTo (.bulkCopyComplete sector k choice) s fun t =>
        (∀ i < b.len, readByte t.mem (z i).addr = readByte s.mem (a i).addr) ∧
          (∀ x, (∀ i < b.len, (z i).addr ≠ x) → readByte t.mem x = readByte s.mem x) ∧ ∀ y ∈ (t.sector sector).bulk, y.id ≠ b.id

/-- R211, R232, R266, R274, R275, R276, R277, R278, R280, R283, R285, R298, R303: crews and tasks from placement to retirement. It rests on
readings of the model that are no rule: log entries 19, 20, 52, 72, 75, 95. -/
def Obligations.CrewStepTakesEffect : Prop :=
  ∀ s : State,
    (∀ sector k cycles q, s.queueAt sector k = some q → q.cand.isSome = true → s.fw.recovery = false →
      StepsTo (.candidateAging sector k cycles) s fun t =>
      (t.queueAt sector k).map Queue.age = some (q.age + cycles) ∧ t.mem = s.mem) ∧
    (∀ sector q x plan y, s.controls sector = true → s.nextCrew sector = some (q, x, plan, y) →
      (x.placed + 1 = pkCrews x.record → ∀ l, s.headPlace sector q = some l → s.consumeReady q l = true) →
      StepsTo (.crewPlace sector) s fun t => ∃ c : Crew, t.crews = s.crews ++ [c] ∧ c.id = s.nextId ∧ c.task = x.id ∧ c.idx = x.placed ∧
        c.waves.length = plan.length ∧ c.started = false ∧ (t.rowAt x.ctx).locked = true ∧
        ∀ i p n, plan[i]? = some p → c.waves[i]? = some n →
          ∃ slot, t.wave n = launchWave x s.nextId i p.1 slot p.2.1 p.2.2 ∧ (t.wave n).life = .placed) ∧
    (∀ crew c, s.crewOf crew = some c → c.started = false → c.killed = false → StepsTo (.waveStart crew) s fun t =>
      (∀ n ∈ c.waves, ((s.wave n).life = .placed → (t.wave n).life = .running) ∧ (t.coreAt (s.wave n).core).l1 = []) ∧
        (t.crewOf crew).map Crew.started = some true ∧ t.mem = s.mem) ∧
    (∀ crew b c, s.crewOf crew = some c → b < 4 → s.genReady c b = true → c.killed = false → c.committing = false →
      StepsTo (.barrierGenerationComplete crew b) s fun t =>
        (t.crewOf crew).map (fun x => look 0 x.gen b) = some (look 0 c.gen b + 1) ∧ (∀ n ∈ c.waves, (t.wave n).blocked = false) ∧
          t.mem = s.mem) ∧
    (∀ crew c (es : List (Loc × List Host.Cell)), s.crewOf crew = some c → c.waves = [s.wid] → s.commitReady c = true →
      s.w.life = .running → s.core.inReset = false → s.w.ret = none → s.w.buf = es.map (fun e => .bytes e.1 e.2) →
      (∀ e ∈ es, e.1.kind = .device ∧ ∀ x ∈ e.2, s.lineFree (x.1 / 512) = true) → StepsTo (.quantumCommit crew) s fun t =>
        t.mem = es.foldl (fun m e => writeCells m e.2) s.mem ∧ t.w.buf = [] ∧ t.w.qn = s.w.qn + 1 ∧ t.w.qended = s.w.qagain ∧
          (t.crewOf crew).map Crew.commits = some (c.commits + 1) ∧ t.hostMem = s.hostMem) ∧
    (∀ crew c x, s.crewOf crew = some c → c.started = true → c.killed = false →
      (∀ n ∈ c.waves, (s.wave n).life = .exited ∧ s.storesOut n = false) → s.taskOf c.task = some x →
      let ends : Prop := StepsTo (.crewRetire crew) s fun t =>
        (∀ y ∈ t.crews, y.id ≠ c.id) ∧ (∀ y ∈ t.tasks, y.id ≠ x.id) ∧ t.mem = s.mem
      let place (va align : Nat) : Option Loc := s.retirePlace x.sector x.ctx va align
      let list := (pk x.record 4).toNat
      -- a crew that is not the last one; and the last one, which decrements the parent's counter
      (x.succ = none → x.retired + 1 < pkCrews x.record → StepsTo (.crewRetire crew) s fun t =>
        (∀ y ∈ t.crews, y.id ≠ c.id) ∧ (t.taskOf c.task).map Task.retired = some (x.retired + 1) ∧ t.mem = s.mem) ∧
      -- the walk of an address meets a line that a write holds
      let waits (a : Nat) : Bool := s.sectorWaits x.sector x.ctx a
      (x.succ = none → pkCrews x.record ≤ x.retired + 1 → (list ≠ 0 → waits list = false) →
        (pk x.record 3 = 0 → StepsTo (.crewRetire crew) s fun t =>
          t.taskOf c.task = some { x with retired := x.retired + 1, succ := some 0 } ∧ t.crews = s.crews ∧ t.mem = s.mem) ∧
        (∀ l, pk x.record 3 ≠ 0 → waits (pk x.record 3).toNat = false → place (pk x.record 3).toNat 8 = some l →
          s.lineFree (l.addr / 512) = true →
          StepsTo (.crewRetire crew) s fun t => t.taskOf c.task = some { x with retired := x.retired + 1, succ := some 0 } ∧
            readLe t.mem l.addr 8 = (readLe s.mem l.addr 8 + (2 ^ 64 - 1)) % 2 ^ 64 ∧ sameBytesBut s t l.addr 8)) ∧
      -- the successors, one after another, and the end
      ∀ e, x.succ = some e →
        (list = 0 → ends) ∧
        ∀ l, list ≠ 0 → waits list = false → place list 64 = some l → s.lineHeld (l.addr / 512) = false →
          ((readByte s.mem l.addr).toNat ≤ e → ends) ∧
          (e < (readByte s.mem l.addr).toNat →
            (x.pushing = none → ∀ le lr lq, let va := list + 16 + 16 * e
              place va 16 = some le → s.lineHeld (le.addr / 512) = false →
              let rec' := readLe s.mem le.addr 8
              let cb := readLe s.mem (le.addr + 8) 8
              place rec' 64 = some lr → place cb 1024 = some lq → waits va = false → waits rec' = false → waits cb = false →
              let count := readLe s.mem (lr.addr + 0x30) 4
              s.lineFree ((lr.addr + 0x30) / 512) = true →
              (count = 0 → StepsTo (.crewRetire crew) s fun t =>
                (t.taskOf c.task).map Task.succ = some (some (e + 1)) ∧ oneRecord s t 1 x.sector ∧ t.mem = s.mem) ∧
              (count ≠ 0 → StepsTo (.crewRetire crew) s fun t =>
                readLe t.mem (lr.addr + 0x30) 4 = count - 1 ∧ sameBytesBut s t (lr.addr + 0x30) 4 ∧
                  t.taskOf c.task = some (if count = 1 then { x with pushing := some (t.packetAt lr, lq) } else { x with succ := some (e + 1) }))) ∧
            ∀ data lq, x.pushing = some (data, lq) →
              (x.claimed = none → s.lineFree (lq.addr / 512) = true → StepsTo (.crewRetire crew) s fun t =>
                readLe t.mem lq.addr 8 = (readLe s.mem lq.addr 8 + 1) % 2 ^ 64 ∧ sameBytesBut s t lq.addr 8 ∧
                  t.taskOf c.task = some { x with claimed := some (readLe s.mem lq.addr 8) }) ∧
              ∀ w z, x.claimed = some w → s.slotRoom lq.addr w = true → waits (s.slotVa lq.addr w) = false →
                place (s.slotVa lq.addr w) 1 = some z → s.lineFree (z.addr / 512) = true → StepsTo (.crewRetire crew) s fun t =>
                  readLe t.mem z.addr 64 = ((data &&& ~~~((0xFF#512) <<< 480)) ||| ((1#512) <<< 480)).toNat ∧ sameBytesBut s t z.addr 64 ∧
                    t.taskOf c.task = some { x with claimed := none, pushing := none, succ := some (e + 1) })) ∧
    ∀ ctx, let r := s.rowAt ctx
      (r.closed = true → (∀ x ∈ r.live, x.1 ≠ r.phase) → exec (.phaseAdvance ctx) s =
        .next { s with ctxs := put {} s.ctxs ctx { r with phase := (r.phase + 1) % 2 ^ 16, closed := false } }) ∧
      ((r.closed = false ∨ ∃ x ∈ r.live, x.1 = r.phase) → exec (.phaseAdvance ctx) s = .next s)

/-- R146, R194, R203, R205, R289, R381: DRAM, temperatures, power and uncorrectable errors. It rests on readings of the model that are no
rule: log entries 12, 15, 42, 77, 82. -/
def Obligations.PlatformEventTakesEffect : Prop :=
  ∀ (s : State) (n : Nat) (c : Int),
    (s.retraining = some n → StepsTo (.dramRetrainEnd n) s fun t =>
      t.retraining = none ∧ t.mem = s.mem ∧ (s.commanded 4 → ended t 0) ∧ (¬ s.commanded 4 → t.mg = s.mg)) ∧
    (n < 576 → n ∉ s.inRefresh → exec (.refreshWindow n) s = .next { s with inRefresh := s.inRefresh ++ [n] }) ∧
    exec (.refreshWindowEnd n) s = .next { s with inRefresh := s.inRefresh.filter fun x => x != n } ∧
    (s.fw.recovery = false → n < 144 →
      (85 < c → n ∉ s.doubled → StepsTo (.refreshStateChange n c) s fun t => n ∈ t.doubled ∧ oneRecord s t 1 (n / 12) ∧ t.mem = s.mem) ∧
      (c < 82 → n ∈ s.doubled → StepsTo (.refreshStateChange n c) s fun t => n ∉ t.doubled ∧ oneRecord s t 1 (n / 12) ∧ t.mem = s.mem) ∧
      (82 ≤ c → c ≤ 85 → exec (.refreshStateChange n c) s = .next s) ∧
      exec (.logicAllowanceSet n c) s = .next { s with logicCut := put 0 s.logicCut n (min 255 (16 * (c - 90).toNat)) } ∧
      (95 ≤ c → StepsTo (.dramRegionAtRating n c) s fun t => n ∈ t.atRating ∧ t = { s with atRating := t.atRating }) ∧
      (92 ≤ c → c < 95 → exec (.dramRegionAtRating n c) s = .next s) ∧
      (c < 92 → exec (.dramRegionAtRating n c) s = .next { s with atRating := s.atRating.filter fun x => x != n })) ∧
    (s.fw.recovery = false → n < 576 → StepsTo (.thermalAllowanceUpdate n) s fun t =>
      (t.coreAt n).allowance = min (if clusterOf n ∈ s.atRating then 0 else 255 - look 0 s.logicCut (clusterOf n) - 16 * s.powerSteps)
        (if clusterOf n ∈ s.doubled then 96 else 255) ∧ t = { s with cores := t.cores } ∧ ∀ k, k ≠ n → t.coreAt k = s.coreAt k) ∧
    (s.fw.recovery = false → 2200 < n → exec (.powerAllowanceStep n) s = .next { s with powerSteps := min 16 (s.powerSteps + 1) }) ∧
    (s.fw.recovery = false → n < 2100 → exec (.powerAllowanceStep n) s = .next { s with powerSteps := s.powerSteps - 1 }) ∧
    (2100 ≤ n → n ≤ 2200 → exec (.powerAllowanceStep n) s = .next s) ∧
    -- no sector controller works in the recovery state (R375)
    (s.fw.recovery = true → exec (.refreshStateChange n c) s = .next s ∧ exec (.logicAllowanceSet n c) s = .next s ∧
      exec (.dramRegionAtRating n c) s = .next s ∧ exec (.thermalAllowanceUpdate n) s = .next s ∧
      exec (.powerAllowanceStep n) s = .next s) ∧
    (∀ num, n < 2 ^ 48 → StepsTo (.uncorrectableErrorPoison 0 num n) s fun t =>
      n / 128 ∈ t.poison ∧ (∀ k, k ≠ n / 128 → (k ∈ t.poison ↔ k ∈ s.poison)) ∧ t = { s with poison := t.poison }) ∧
    (∀ num, num < 288 → n < 2 ^ 22 → StepsTo (.uncorrectableErrorPoison 1 num n) s fun t =>
      (num * 2 ^ 22 + n) / 128 ∈ t.skimBad ∧ t = { s with skimBad := t.skimBad }) ∧
    ∀ num, (s.wave num).resident = true → StepsTo (.uncorrectableErrorPoison 2 num n) s fun t =>
      n ∈ (t.wave num).lmBad ∧ t.mem = s.mem ∧ (t.wave num).lm = (s.wave num).lm

/-- R82, R191, R372, R375, R378, R382: cluster and device resets, an image switch, and the management registers. It rests on readings of the
model that are no rule: log entries 23, 40, 41, 82. -/
def Obligations.ResetAndManagementRegistersTakeEffect : Prop :=
  ∀ s : State,
    (∀ cluster trigger, cluster < 144 → s.controls (cluster / 12) = true → StepsTo (.clusterReset cluster trigger) s fun t =>
      (∀ n ∈ clusterCores cluster, (t.coreAt n).inReset = true ∧ (t.coreAt n).inflight = [] ∧ (t.coreAt n).acks = [] ∧
        (t.coreAt n).sb = [] ∧ (t.coreAt n).sbWait = [] ∧ (t.coreAt n).fills = []) ∧
        (∀ n ∈ s.waveIds, (s.wave n).core ∈ clusterCores cluster → (s.wave n).resident = true →
          (∃ c, s.crewOf (s.wave n).crew = some c ∧ n ∈ c.waves) → (t.wave n).life = .killed) ∧ t.mem = s.mem ∧ t.skim = s.skim) ∧
    (∀ cluster trigger, cluster < 144 → s.fw.recovery = false → s.controls (cluster / 12) = false →
      StepsTo (.clusterReset cluster trigger) s fun t => (∀ n ∈ clusterCores cluster, t.coreAt n = { s.coreAt n with inReset := true }) ∧
        t.fw = { s.fw with resets := s.fw.resets ++ [(cluster, trigger)] } ∧ t = { s with cores := t.cores, fw := t.fw }) ∧
    (∀ cluster, (∀ r ∈ s.fw.resets, r.1 ≠ cluster) → (∀ n ∈ clusterCores cluster, (s.coreAt n).inReset = true) →
      StepsTo (.resetSweepEnd cluster) s fun t => t.mem = s.mem ∧ ∀ n ∈ clusterCores cluster,
        (t.coreAt n).inReset = false ∧ (t.coreAt n).option = 0 ∧ (t.coreAt n).cycle = 0 ∧ (t.coreAt n).dtlb = [] ∧ (t.coreAt n).l1 = [] ∧
          (t.coreAt n).lcc = [] ∧ (∀ x ∈ (t.coreAt n).trowelPending, x ∈ (s.coreAt n).trowelPending ∧ x ∈ s.trowelOf n)) ∧
    (∀ cluster n, n ∈ clusterCores cluster → (s.coreAt n).inReset = true → (∀ r ∈ s.fw.resets, r.1 ≠ cluster) →
      StepsTo (.resetSweepEnd cluster) s fun t =>
        t.flows = s.flows.map fun f =>
          if f.cls = .ack ∧ f.dst = cluster then
            { f with dlvSeq := f.sendSeq, packets := [], waiting := [] } else f) ∧
    StepsTo .deviceReset s (fun t => t.crews = [] ∧ t.tasks = [] ∧ (∀ n, (t.wave n).life = .free ∧ look 0 t.counters n = 0) ∧
      t.skim = s.skim ∧ t.hostMem = s.hostMem ∧ t.fw.store = s.fw.store ∧ t.fw.rollback = s.fw.rollback ∧
      (s.dirty = [] → t.mem = s.mem) ∧ t.fw.recovery = (s.fw.boot != 0) ∧ t.flows = [] ∧
      ∃ n, t.allowances = putAll 0 [] (Config.allowances n)) ∧
    (∀ sector rest, s.fw.switching = sector :: rest → s.fw.resets = [] → StepsTo (.sectorFirmwareSwitch sector) s fun t =>
      t.fw.switching = rest ∧ (t.sector sector).trowel = [] ∧
        BitVec.ofNat 512 (t.sector sector).image = s.fw.digest ^^^ Config.deliveredDigest ∧
        (rest = [] → s.commanded 2 → ended t 0) ∧ (rest ≠ [] → t.mg = s.mg) ∧ t.mem = s.mem) ∧
    -- a write to the window stays behind the earlier writes of host link 0
    (s.mgOpen = false → ∀ size reg v, exec (.eventRingConfig size v) s = .next s ∧ exec (.mgRegisterWrite reg v) s = .next s) ∧
    (s.mgOpen = true →
      (∀ v, exec (.eventRingConfig true v) s =
        .next { s with mg := { s.mg with evsize := dw (v.toNat % 2 ^ 5), evhead := 0, evtail := 0 } }) ∧
      (∀ v, exec (.eventRingConfig false v) s =
        .next { s with mg := { s.mg with evbase := v &&& 0xFFFFFFFFFFFFF000, evhead := 0, evtail := 0 } }) ∧
      (∀ v, s.mg.busy = true → exec (.mgRegisterWrite 0x008 v) s = .next s) ∧
      (∀ v, s.mg.busy = false → StepsTo (.mgRegisterWrite 0x008 v) s fun t => t.mg.cmd = v.toNat % 2 ^ 8 ∧ t = { s with mg := t.mg } ∧
        (1 ≤ v.toNat % 2 ^ 8 → v.toNat % 2 ^ 8 ≤ (if s.fw.recovery then 2 else 9) → t.mg.busy = true) ∧
        ((v.toNat % 2 ^ 8 = 0 ∨ (if s.fw.recovery then 2 else 9) < v.toNat % 2 ^ 8) → ended t 1)) ∧
      (∀ k v, k < 4 → StepsTo (.mgRegisterWrite (0x010 + 8 * k) v) s fun t =>
        look 0 t.mg.arg k = v ∧ (∀ j, j ≠ k → look 0 t.mg.arg j = look 0 s.mg.arg j) ∧ t = { s with mg := { s.mg with arg := t.mg.arg } }) ∧
      (∀ v, exec (.mgRegisterWrite 0x058 v) s = .next { s with mg := { s.mg with evtail := v } })) ∧
    s.mgRead 0x000 = 0x02A10576 ∧ (s.mg.cmd < 2 ^ 8 → s.mg.status < 2 ^ 8 →
      (s.mgRead 0x008).toNat = s.mg.cmd + s.mg.status * 2 ^ 8 + (if s.mg.busy then 1 else 0) * 2 ^ 16) ∧
    s.mgRead 0x040 = s.mg.evbase ∧ s.mgRead 0x048 = s.mg.evsize ∧ s.mgRead 0x050 = s.mg.evhead ∧ s.mgRead 0x058 = s.mg.evtail ∧
    ∀ k, k < 4 → s.mgRead (0x010 + 8 * k) = look 0 s.mg.arg k

/-- R352, R372, R377, R378, R379, R380, R383: what each management command does, and the status with which it ends. It rests on readings of
the model that are no rule: log entries 7, 61, 82. -/
def Obligations.ManagementCommandTakesEffect : Prop :=
  ∀ s : State,
    let a := s.mg.argN 0
    let b := s.mg.argN 1
    (s.commanded 1 → let image := readBytes s.hostMem a b
      StepsTo .stageImage s fun t => ended t (imgStatus s.fw.rollback image) ∧
        t.fw.staged = (if imgStatus s.fw.rollback image = 0 then some image else s.fw.staged) ∧ t.fw.store = s.fw.store) ∧
    (s.commanded 2 → s.fw.switching = [] →
      (s.fw.staged = none → StepsTo .activate s fun t => ended t 4 ∧ t.fw = s.fw) ∧
      (∀ image, s.fw.staged = some image → imgStatus s.fw.rollback image ≠ 0 →
        StepsTo .activate s fun t => ended t (imgStatus s.fw.rollback image) ∧ t.fw = s.fw) ∧
      (∀ image, s.fw.staged = some image → imgStatus s.fw.rollback image = 0 → s.fw.recovery = false → StepsTo .activate s fun t =>
        t.mg = s.mg ∧ t.fw.store = image ∧ t.fw.rollback = imgLe image 8 1 ∧ t.fw.switching = List.range 12)) ∧
    (s.commanded 3 → StepsTo .attest s fun t => ended t 0 ∧ (s.report b a).length = 1024 ∧
      t.hostMem = writeCells (writeCells s.hostMem (s.report b a))
        (cellsAt (s.mg.argN 2) (Config.falconSign (Config.shake256 ((s.report b a).map Prod.snd)))) ∧ t.mem = s.mem) ∧
    (s.commanded 4 → (576 ≤ a → StepsTo .retrainDramChannel s fun t => ended t 1 ∧ t.retraining = s.retraining) ∧
      (a < 576 → s.retraining = none → exec .retrainDramChannel s = .next { s with retraining := some a })) ∧
    (s.commanded 5 → (linkCount a ≤ b → StepsTo .retrainLink s fun t => ended t 1 ∧ t.linksDraining = s.linksDraining) ∧
      (b < linkCount a → (a, b) ∉ s.linksDraining → (a, b) ∉ s.linksDown →
        exec .retrainLink s = .next { s with linksDraining := s.linksDraining ++ [(a, b)] })) ∧
    (s.commanded 6 → (144 ≤ a → StepsTo .resetCluster s fun t => ended t 1 ∧ t.cores = s.cores) ∧
      (a < 144 → StepsTo .resetCluster s fun t => ended t 0 ∧ t.mem = s.mem ∧ ∀ n ∈ clusterCores a, (t.coreAt n).inReset = true)) ∧
    (s.commanded 7 → (576 ≤ a → StepsTo .retireCore s fun t => ended t 1 ∧ t.cores = s.cores) ∧
      (a < 576 → (s.coreAt a).leaving = true → StepsTo .retireCore s fun t => ended t 5 ∧ t.cores = s.cores) ∧
      (a < 576 → (s.coreAt a).leaving = false → StepsTo .retireCore s fun t => ended t 0 ∧ (t.coreAt a).leaving = true ∧
        ((∀ n ∈ s.waveIds, (s.wave n).resident = true → (s.wave n).core ≠ a) →
          (∀ c ∈ s.crews, c.killed = false → ∀ k ∈ c.waves, (s.wave k).core ≠ a) → (t.coreAt a).retired = true))) ∧
    (s.commanded 8 → (144 ≤ a → StepsTo .retireCluster s fun t => ended t 1 ∧ t.cores = s.cores) ∧
      (a < 144 → (∀ n ∈ clusterCores a, (s.coreAt n).leaving = true) → StepsTo .retireCluster s fun t => ended t 5 ∧ t.cores = s.cores) ∧
      (a < 144 → (∃ n ∈ clusterCores a, (s.coreAt n).leaving = false) → StepsTo .retireCluster s fun t =>
        ended t 0 ∧ ∀ n ∈ clusterCores a, (t.coreAt n).leaving = true)) ∧
    (s.commanded 9 → (64 ≤ a ∨ (12 ≤ b ∧ b ≠ 15) → StepsTo .setPeerRoute s fun t => ended t 1 ∧ t.routes = s.routes) ∧
      (a < 64 → b < 12 → StepsTo .setPeerRoute s fun t => ended t 0 ∧ look 0 t.routes a = b + 1) ∧
      (a < 64 → b = 15 → StepsTo .setPeerRoute s fun t => ended t 0 ∧ look 0 t.routes a = 0))

/-- R295, R298, R328 (the place of a handler in the quanta is the model's choice: log entry 108): the quantum goes on from the place of the
trap. What had issued ahead of it comes again with `eret`, which puts the entries set aside behind the handler's instructions; an end
that stands before a word which has not acted is none any more. It rests on readings of the model that are no rule: log entry 108. -/
def Obligations.QuantumPassesTheTrap : Prop :=
  ∀ (s : State) (kind : Nat) (c : Cause) (fva at' : DWord) (word : BitVec 96) (vec : DWord),
    kind ≤ 2 → s.w.sys = false → vec ≠ 0 → s.w.qlane = false → s.committing = false →
    (∀ e ∈ s.w.lq, e.mark ≤ s.w.qcount) →
    let t := s.enterTrap kind c fva at' word vec
    t.w.qcount + t.w.qahead = s.w.qcount ∧ (kind = 0 → s.w.stepping = false → t.w.qahead = 0) ∧
    (s.w.qended = false ∨ s.w.qbefore = true ∨ (s.w.qexp = true ∧ s.w.qagain = false) → t.w.qended = false ∧ t.w.qheld = false) ∧
    (s.w.qended = true → s.w.qbefore = false → s.w.qexp = false ∨ s.w.qagain = true → (t.w.qended = true ↔ s.w.leftAside kind = []) ∧
      (t.w.qheld = true ↔ s.w.leftAside kind ≠ [])) ∧
    (∀ e ∈ t.w.aside, e.mark ≤ t.w.qahead) ∧
    let v := { t with w := { t.w with drop := false, elpc := 0 } }
    (v.lanesWait = .ok () → s.repro = true → ∃ u, exec .eret v = .next u ∧
      u.w.qended = (s.w.qended && !s.w.qbefore && (!s.w.qexp || s.w.qagain)) ∧ u.w.qcount = s.w.qcount + 1 ∧
      u.w.lq = t.w.aside.map (Entry.behind (t.w.qcount + 1)) ∧
      -- where that is more than a quantum takes, the count ends it first, and the next one keeps what stands behind the Q-th
      (u.w.qended = true → u.w.quantum < u.w.qcount → u.w.qexp = true ∧ u.w.qagain = true ∧
        u.w.nextQuantum.qended = true ∧ u.w.nextQuantum.qcount = u.w.qcount - u.w.quantum)) ∧
    -- an `exit` that has issued stands behind the end of a lane word of the quantum
    (∀ w : Wave, w.life = .exiting → w.qlane = true → w.nextQuantum.qused = true)
end

