-- ==== Sys2Proof/Laws/Sparse.lean ====
section
/-! SUPPORT. Sparse maps and byte memory: what a read after a write gives, and that every operation keeps the canonical form. -/

namespace Sys2Proof.Machine

open Sys2Proof

variable {α : Type}

/-! Reading. -/

theorem look_drop_self (d : α) (m : Sparse α) (k : Nat) : look d (drop m k) k = d := by
  induction m with
  | nil => rfl
  | cons e r ih =>
    obtain ⟨k', v⟩ := e
    by_cases h : k' = k
    · subst h; simpa [drop] using ih
    · simpa [drop, look, h] using ih

theorem look_drop_ne (d : α) (m : Sparse α) {k k' : Nat} (h : k' ≠ k) : look d (drop m k) k' = look d m k' := by
  induction m with
  | nil => rfl
  | cons e r ih =>
    obtain ⟨a, v⟩ := e
    by_cases h1 : a = k
    · subst h1; simpa [drop, look, Ne.symm h] using ih
    · by_cases h2 : a = k'
      · subst h2; simp [drop, look, h1]
      · simpa [drop, look, h1, h2] using ih

theorem look_insertKey_ne (d : α) (m : Sparse α) (v : α) {k k' : Nat} (h : k' ≠ k) :
    look d (insertKey m k v) k' = look d m k' := by
  induction m with
  | nil => simp [insertKey, look, Ne.symm h]
  | cons e r ih =>
    obtain ⟨a, x⟩ := e
    unfold insertKey
    split
    · simp [look, Ne.symm h]
    · simp [look, ih]

theorem look_insertKey_self (d : α) (m : Sparse α) (v : α) (k : Nat) (h : ∀ e ∈ m, e.1 ≠ k) :
    look d (insertKey m k v) k = v := by
  induction m with
  | nil => simp [insertKey, look]
  | cons e r ih =>
    obtain ⟨a, x⟩ := e
    have ha : a ≠ k := h (a, x) (by simp)
    unfold insertKey
    split
    · simp [look]
    · simp only [look, ha, if_false]; exact ih fun e he => h e (by simp [he])

theorem drop_no_key (m : Sparse α) (k : Nat) : ∀ e ∈ drop m k, e.1 ≠ k := by
  intro e he; simpa [drop] using (List.mem_filter.mp he).2

theorem look_put_self [DecidableEq α] (d : α) (m : Sparse α) (k : Nat) (v : α) : look d (put d m k v) k = v := by
  unfold put
  split
  · next h => rw [h]; exact look_drop_self d m k
  · exact look_insertKey_self d _ v k (drop_no_key m k)

theorem look_put_ne [DecidableEq α] (d : α) (m : Sparse α) (v : α) {k k' : Nat} (h : k' ≠ k) :
    look d (put d m k v) k' = look d m k' := by
  unfold put
  split
  · exact look_drop_ne d m h
  · rw [look_insertKey_ne d _ v h, look_drop_ne d m h]

/-- A read after a write. -/
theorem look_put [DecidableEq α] (d : α) (m : Sparse α) (k k' : Nat) (v : α) :
    look d (put d m k v) k' = if k' = k then v else look d m k' := by
  split
  · next h => rw [h]; exact look_put_self d m k v
  · next h => exact look_put_ne d m v h

/-- A key that no write names reads as before. -/
theorem look_putAll_not_mem [DecidableEq α] (d : α) (es : List (Nat × α)) (m : Sparse α) (k : Nat) (h : ∀ e ∈ es, e.1 ≠ k) :
    look d (putAll d m es) k = look d m k := by
  induction es generalizing m with
  | nil => rfl
  | cons e r ih =>
    have := ih (put d m e.1 e.2) fun x hx => h x (by simp [hx])
    simp only [putAll, List.foldl] at this ⊢
    rw [this, look_put_ne d m e.2 (Ne.symm (h e (by simp)))]

/-! The canonical form. -/

theorem wfFrom_weaken [DecidableEq α] (d : α) (m : Sparse α) (a : Nat) (h : wfFrom d (some a) m = true) : wfFrom d none m = true := by
  cases m with
  | nil => rfl
  | cons e r => simp only [wfFrom, Bool.and_eq_true] at h ⊢; exact ⟨⟨trivial, h.1.2⟩, h.2⟩

/-- The bound below which no key lies may be lowered. -/
theorem wfFrom_mono [DecidableEq α] (d : α) (m : Sparse α) {a b : Nat} (hab : a ≤ b) (h : wfFrom d (some b) m = true) :
    wfFrom d (some a) m = true := by
  cases m with
  | nil => rfl
  | cons e r =>
    simp only [wfFrom, Bool.and_eq_true, decide_eq_true_eq] at h ⊢
    exact ⟨⟨by omega, h.1.2⟩, h.2⟩

/-- A subset of the entries keeps the form. -/
theorem wfFrom_filter [DecidableEq α] (d : α) (p : Nat × α → Bool) (m : Sparse α) (lo : Option Nat) (h : wfFrom d lo m = true) :
    wfFrom d lo (m.filter p) = true := by
  induction m generalizing lo with
  | nil => simp [wfFrom]
  | cons e r ih =>
    obtain ⟨k, v⟩ := e
    simp only [wfFrom, Bool.and_eq_true] at h
    by_cases hp : p (k, v) = true
    · rw [List.filter_cons_of_pos hp]
      simp only [wfFrom, Bool.and_eq_true]
      exact ⟨h.1, ih (some k) h.2⟩
    · rw [List.filter_cons_of_neg hp]
      refine ih lo ?_
      cases lo with
      | none => exact wfFrom_weaken d r k h.2
      | some a =>
        have : a < k := by simpa using h.1.1
        exact wfFrom_mono d r (le_of_lt this) h.2

theorem wf_filter [DecidableEq α] (d : α) (p : Nat × α → Bool) (m : Sparse α) (h : Sparse.wf d m = true) :
    Sparse.wf d (m.filter p) = true := wfFrom_filter d p m none h

theorem wf_drop [DecidableEq α] (d : α) (m : Sparse α) (k : Nat) (h : Sparse.wf d m = true) : Sparse.wf d (drop m k) = true :=
  wf_filter d _ m h

theorem wfFrom_insertKey [DecidableEq α] (d : α) (m : Sparse α) (k : Nat) (v : α) (hv : v ≠ d) (lo : Option Nat)
    (hlo : ∀ a ∈ lo, a < k) (hk : ∀ e ∈ m, e.1 ≠ k) (h : wfFrom d lo m = true) : wfFrom d lo (insertKey m k v) = true := by
  induction m generalizing lo with
  | nil =>
    cases lo with
    | none => simp [insertKey, wfFrom, hv]
    | some a => simp [insertKey, wfFrom, hv, hlo a rfl]
  | cons e r ih =>
    obtain ⟨a, x⟩ := e
    have hak : a ≠ k := hk (a, x) (by simp)
    simp only [wfFrom, Bool.and_eq_true] at h
    unfold insertKey
    split
    · next hlt =>
      simp only [wfFrom, Bool.and_eq_true, decide_eq_true_eq]
      refine ⟨⟨?_, hv⟩, ⟨hlt, by simpa using h.1.2⟩, h.2⟩
      cases lo with
      | none => rfl
      | some b => simpa using hlo b rfl
    · next hge =>
      simp only [wfFrom, Bool.and_eq_true]
      refine ⟨h.1, ih (some a) ?_ (fun e he => hk e (by simp [he])) h.2⟩
      intro b hb
      cases hb
      omega

/-- Every write keeps the canonical form. -/
theorem wf_put [DecidableEq α] (d : α) (m : Sparse α) (k : Nat) (v : α) (h : Sparse.wf d m = true) :
    Sparse.wf d (put d m k v) = true := by
  unfold put
  split
  · exact wf_drop d m k h
  · next hv => exact wfFrom_insertKey d _ k v hv none (by simp) (drop_no_key m k) (wf_drop d m k h)

theorem wf_putAll [DecidableEq α] (d : α) (es : List (Nat × α)) (m : Sparse α) (h : Sparse.wf d m = true) :
    Sparse.wf d (putAll d m es) = true := by
  induction es generalizing m with
  | nil => exact h
  | cons e r ih => exact ih _ (wf_put d m e.1 e.2 h)

/-! Byte memory. -/

theorem Memory.wf_writeByte (m : Memory) (a : Nat) (b : Byte) (h : Memory.wf m = true) : Memory.wf (writeByte m a b) = true :=
  wf_put 0 m a b h

theorem Memory.wf_writeBytes (bs : List Byte) (m : Memory) (a : Nat) (h : Memory.wf m = true) :
    Memory.wf (writeBytes m a bs) = true := by
  induction bs generalizing m a with
  | nil => exact h
  | cons b r ih => exact ih _ _ (Memory.wf_writeByte m a b h)

theorem Memory.wf_writeCells (cs : List Host.Cell) (m : Memory) (h : Memory.wf m = true) : Memory.wf (writeCells m cs) = true := by
  induction cs generalizing m with
  | nil => exact h
  | cons c r ih => exact ih _ (Memory.wf_writeByte m c.1 c.2 h)

theorem Memory.wf_region (m : Memory) (a n : Nat) (h : Memory.wf m = true) : Memory.wf (region m a n) = true :=
  wf_filter 0 _ m h

/-- Two well-formed runs of entries, the second above the first. -/
theorem wfFrom_append [DecidableEq α] (d : α) (l r : Sparse α) (lo : Option Nat) (hl : wfFrom d lo l = true)
    (hr : wfFrom d none r = true) (hlo : ∀ a ∈ lo, ∀ e ∈ r, a < e.1) (h : ∀ x ∈ l, ∀ e ∈ r, x.1 < e.1) :
    wfFrom d lo (l ++ r) = true := by
  induction l generalizing lo with
  | nil =>
    cases r with
    | nil => simp [wfFrom]
    | cons e r =>
      simp only [List.nil_append, wfFrom, Bool.and_eq_true] at hr ⊢
      refine ⟨⟨?_, hr.1.2⟩, hr.2⟩
      cases lo with
      | none => rfl
      | some a => simpa using hlo a rfl e (by simp)
  | cons x l ih =>
    obtain ⟨k, v⟩ := x
    simp only [List.cons_append, wfFrom, Bool.and_eq_true] at hl ⊢
    refine ⟨hl.1, ih (some k) hl.2 ?_ fun y hy => h y (by simp [hy])⟩
    intro a ha e he
    cases ha
    exact h (k, v) (by simp) e he

/-- Replacing a region by another memory's keeps the form. -/
theorem Memory.wf_setRegion (m r : Memory) (a n : Nat) (hm : Memory.wf m = true) (hr : Memory.wf r = true) :
    Memory.wf (setRegion m a n r) = true := by
  unfold setRegion
  refine wfFrom_append 0 _ _ none (wfFrom_append 0 _ _ none (wf_filter 0 _ m hm) (Memory.wf_region r a n hr) (by simp) ?_)
    (wf_filter 0 _ m hm) (by simp) ?_
  · intro x hx e he
    simp only [region, List.mem_filter, Bool.and_eq_true, decide_eq_true_eq] at hx he
    omega
  · intro x hx e he
    simp only [region, List.mem_append, List.mem_filter, Bool.and_eq_true, decide_eq_true_eq] at hx he
    omega

/-- A byte after a write of one byte. -/
theorem readByte_writeByte (m : Memory) (a a' : Nat) (b : Byte) :
    readByte (writeByte m a b) a' = if a' = a then b else readByte m a' := look_put 0 m a a' b

/-- A byte that no written cell names reads as before. -/
theorem readByte_writeCells_not_mem (cs : List Host.Cell) (m : Memory) (a : Nat) (h : ∀ c ∈ cs, c.1 ≠ a) :
    readByte (writeCells m cs) a = readByte m a := by
  induction cs generalizing m with
  | nil => rfl
  | cons c r ih =>
    have := ih (writeByte m c.1 c.2) fun x hx => h x (by simp [hx])
    simp only [writeCells, List.foldl] at this ⊢
    rw [this, readByte_writeByte, if_neg (Ne.symm (h c (by simp)))]

theorem leCells_range (a n v : Nat) : ∀ c ∈ leCells a n v, a ≤ c.1 ∧ c.1 < a + n := by
  induction n generalizing a v with
  | zero => simp [leCells]
  | succ n ih =>
    intro c hc
    simp only [leCells, List.mem_cons] at hc
    rcases hc with rfl | hc
    · simp
    · have := ih (a + 1) (v / 256) c hc; omega

/-- The bytes of a value just written are read back as that value. -/
theorem readLe_writeCells_leCells (m : Memory) (a n v : Nat) : readLe (writeCells m (leCells a n v)) a n = v % 256 ^ n := by
  induction n generalizing m a v with
  | zero => simp [readLe, Nat.mod_one]
  | succ n ih =>
    have hb : readByte (writeCells m (leCells a (n + 1) v)) a = BitVec.ofNat 8 v := by
      simp only [leCells, writeCells, List.foldl]
      have := readByte_writeCells_not_mem (leCells (a + 1) n (v / 256)) (writeByte m a (BitVec.ofNat 8 v)) a
        fun c hc => by have := leCells_range _ _ _ c hc; omega
      simp only [writeCells] at this
      rw [this, readByte_writeByte, if_pos rfl]
    have ht := ih (writeByte m a (BitVec.ofNat 8 v)) (a + 1) (v / 256)
    simp only [readLe, hb]
    simp only [leCells, writeCells, List.foldl] at ht ⊢
    rw [ht]
    have hx : (BitVec.ofNat 8 v).toNat = v % 256 := by simp
    rw [hx, pow_succ, Nat.mul_comm (256 ^ n) 256, Nat.mod_mul]

end Sys2Proof.Machine
end

