-- ==== Sys2Proof/Laws/State.lean ====
section
/-! SUPPORT. What each named update of the state and of a wave leaves in each field, so that no proof unfolds a record update. -/

namespace Sys2Proof.Machine

open Sys2Proof

/-! Updates of the state. -/

@[simp] theorem State.modW_wid (s : State) (f : Wave → Wave) : (s.modW f).wid = s.wid := rfl
@[simp] theorem State.modW_others (s : State) (f : Wave → Wave) : (s.modW f).others = s.others := rfl
@[simp] theorem State.modW_cores (s : State) (f : Wave → Wave) : (s.modW f).cores = s.cores := rfl
@[simp] theorem State.modW_sectors (s : State) (f : Wave → Wave) : (s.modW f).sectors = s.sectors := rfl
@[simp] theorem State.modW_crews (s : State) (f : Wave → Wave) : (s.modW f).crews = s.crews := rfl
@[simp] theorem State.modW_tasks (s : State) (f : Wave → Wave) : (s.modW f).tasks = s.tasks := rfl
@[simp] theorem State.modW_ctxs (s : State) (f : Wave → Wave) : (s.modW f).ctxs = s.ctxs := rfl
@[simp] theorem State.modW_nextId (s : State) (f : Wave → Wave) : (s.modW f).nextId = s.nextId := rfl
@[simp] theorem State.modW_mem (s : State) (f : Wave → Wave) : (s.modW f).mem = s.mem := rfl
@[simp] theorem State.modW_dirty (s : State) (f : Wave → Wave) : (s.modW f).dirty = s.dirty := rfl
@[simp] theorem State.modW_poison (s : State) (f : Wave → Wave) : (s.modW f).poison = s.poison := rfl
@[simp] theorem State.modW_stamps (s : State) (f : Wave → Wave) : (s.modW f).stamps = s.stamps := rfl
@[simp] theorem State.modW_vec (s : State) (f : Wave → Wave) : (s.modW f).vec = s.vec := rfl
@[simp] theorem State.modW_vecHome (s : State) (f : Wave → Wave) : (s.modW f).vecHome = s.vecHome := rfl
@[simp] theorem State.modW_copies (s : State) (f : Wave → Wave) : (s.modW f).copies = s.copies := rfl
@[simp] theorem State.modW_installs (s : State) (f : Wave → Wave) : (s.modW f).installs = s.installs := rfl
@[simp] theorem State.modW_homeReqs (s : State) (f : Wave → Wave) : (s.modW f).homeReqs = s.homeReqs := rfl
@[simp] theorem State.modW_unitReqs (s : State) (f : Wave → Wave) : (s.modW f).unitReqs = s.unitReqs := rfl
@[simp] theorem State.modW_replies (s : State) (f : Wave → Wave) : (s.modW f).replies = s.replies := rfl
@[simp] theorem State.modW_pins (s : State) (f : Wave → Wave) : (s.modW f).pins = s.pins := rfl
@[simp] theorem State.modW_hostMem (s : State) (f : Wave → Wave) : (s.modW f).hostMem = s.hostMem := rfl
@[simp] theorem State.modW_skim (s : State) (f : Wave → Wave) : (s.modW f).skim = s.skim := rfl
@[simp] theorem State.modW_skimBad (s : State) (f : Wave → Wave) : (s.modW f).skimBad = s.skimBad := rfl
@[simp] theorem State.modW_flows (s : State) (f : Wave → Wave) : (s.modW f).flows = s.flows := rfl
@[simp] theorem State.modW_jam (s : State) (f : Wave → Wave) : (s.modW f).jam = s.jam := rfl
@[simp] theorem State.modW_allowances (s : State) (f : Wave → Wave) : (s.modW f).allowances = s.allowances := rfl
@[simp] theorem State.modW_linksDown (s : State) (f : Wave → Wave) : (s.modW f).linksDown = s.linksDown := rfl
@[simp] theorem State.modW_linksDraining (s : State) (f : Wave → Wave) : (s.modW f).linksDraining = s.linksDraining := rfl
@[simp] theorem State.modW_counters (s : State) (f : Wave → Wave) : (s.modW f).counters = s.counters := rfl
@[simp] theorem State.modW_thresholds (s : State) (f : Wave → Wave) : (s.modW f).thresholds = s.thresholds := rfl
@[simp] theorem State.modW_ctxsel (s : State) (f : Wave → Wave) : (s.modW f).ctxsel = s.ctxsel := rfl
@[simp] theorem State.modW_fqsel (s : State) (f : Wave → Wave) : (s.modW f).fqsel = s.fqsel := rfl
@[simp] theorem State.modW_apsel (s : State) (f : Wave → Wave) : (s.modW f).apsel = s.apsel := rfl
@[simp] theorem State.modW_apertures (s : State) (f : Wave → Wave) : (s.modW f).apertures = s.apertures := rfl
@[simp] theorem State.modW_routes (s : State) (f : Wave → Wave) : (s.modW f).routes = s.routes := rfl
@[simp] theorem State.modW_peerReqs (s : State) (f : Wave → Wave) : (s.modW f).peerReqs = s.peerReqs := rfl
@[simp] theorem State.modW_events (s : State) (f : Wave → Wave) : (s.modW f).events = s.events := rfl
@[simp] theorem State.modW_doubled (s : State) (f : Wave → Wave) : (s.modW f).doubled = s.doubled := rfl
@[simp] theorem State.modW_inRefresh (s : State) (f : Wave → Wave) : (s.modW f).inRefresh = s.inRefresh := rfl
@[simp] theorem State.modW_atRating (s : State) (f : Wave → Wave) : (s.modW f).atRating = s.atRating := rfl
@[simp] theorem State.modW_retraining (s : State) (f : Wave → Wave) : (s.modW f).retraining = s.retraining := rfl
@[simp] theorem State.modW_powerSteps (s : State) (f : Wave → Wave) : (s.modW f).powerSteps = s.powerSteps := rfl
@[simp] theorem State.modW_logicCut (s : State) (f : Wave → Wave) : (s.modW f).logicCut = s.logicCut := rfl
@[simp] theorem State.modW_fw (s : State) (f : Wave → Wave) : (s.modW f).fw = s.fw := rfl
@[simp] theorem State.modW_mg (s : State) (f : Wave → Wave) : (s.modW f).mg = s.mg := rfl
@[simp] theorem State.modW_agenda (s : State) (f : Wave → Wave) : (s.modW f).agenda = s.agenda := rfl
@[simp] theorem State.modW_free (s : State) (f : Wave → Wave) : (s.modW f).free = s.free := rfl
@[simp] theorem State.modW_w (s : State) (f : Wave → Wave) : (s.modW f).w = f s.w := rfl

@[simp] theorem State.modCoreAt_w (s : State) (n : Nat) (f : Core → Core) : (s.modCoreAt n f).w = s.w := rfl
@[simp] theorem State.modCoreAt_wid (s : State) (n : Nat) (f : Core → Core) : (s.modCoreAt n f).wid = s.wid := rfl
@[simp] theorem State.modCoreAt_others (s : State) (n : Nat) (f : Core → Core) : (s.modCoreAt n f).others = s.others := rfl
@[simp] theorem State.modCoreAt_sectors (s : State) (n : Nat) (f : Core → Core) : (s.modCoreAt n f).sectors = s.sectors := rfl
@[simp] theorem State.modCoreAt_crews (s : State) (n : Nat) (f : Core → Core) : (s.modCoreAt n f).crews = s.crews := rfl
@[simp] theorem State.modCoreAt_tasks (s : State) (n : Nat) (f : Core → Core) : (s.modCoreAt n f).tasks = s.tasks := rfl
@[simp] theorem State.modCoreAt_ctxs (s : State) (n : Nat) (f : Core → Core) : (s.modCoreAt n f).ctxs = s.ctxs := rfl
@[simp] theorem State.modCoreAt_nextId (s : State) (n : Nat) (f : Core → Core) : (s.modCoreAt n f).nextId = s.nextId := rfl
@[simp] theorem State.modCoreAt_mem (s : State) (n : Nat) (f : Core → Core) : (s.modCoreAt n f).mem = s.mem := rfl
@[simp] theorem State.modCoreAt_dirty (s : State) (n : Nat) (f : Core → Core) : (s.modCoreAt n f).dirty = s.dirty := rfl
@[simp] theorem State.modCoreAt_poison (s : State) (n : Nat) (f : Core → Core) : (s.modCoreAt n f).poison = s.poison := rfl
@[simp] theorem State.modCoreAt_stamps (s : State) (n : Nat) (f : Core → Core) : (s.modCoreAt n f).stamps = s.stamps := rfl
@[simp] theorem State.modCoreAt_vec (s : State) (n : Nat) (f : Core → Core) : (s.modCoreAt n f).vec = s.vec := rfl
@[simp] theorem State.modCoreAt_vecHome (s : State) (n : Nat) (f : Core → Core) : (s.modCoreAt n f).vecHome = s.vecHome := rfl
@[simp] theorem State.modCoreAt_copies (s : State) (n : Nat) (f : Core → Core) : (s.modCoreAt n f).copies = s.copies := rfl
@[simp] theorem State.modCoreAt_installs (s : State) (n : Nat) (f : Core → Core) : (s.modCoreAt n f).installs = s.installs := rfl
@[simp] theorem State.modCoreAt_homeReqs (s : State) (n : Nat) (f : Core → Core) : (s.modCoreAt n f).homeReqs = s.homeReqs := rfl
@[simp] theorem State.modCoreAt_unitReqs (s : State) (n : Nat) (f : Core → Core) : (s.modCoreAt n f).unitReqs = s.unitReqs := rfl
@[simp] theorem State.modCoreAt_replies (s : State) (n : Nat) (f : Core → Core) : (s.modCoreAt n f).replies = s.replies := rfl
@[simp] theorem State.modCoreAt_pins (s : State) (n : Nat) (f : Core → Core) : (s.modCoreAt n f).pins = s.pins := rfl
@[simp] theorem State.modCoreAt_hostMem (s : State) (n : Nat) (f : Core → Core) : (s.modCoreAt n f).hostMem = s.hostMem := rfl
@[simp] theorem State.modCoreAt_skim (s : State) (n : Nat) (f : Core → Core) : (s.modCoreAt n f).skim = s.skim := rfl
@[simp] theorem State.modCoreAt_skimBad (s : State) (n : Nat) (f : Core → Core) : (s.modCoreAt n f).skimBad = s.skimBad := rfl
@[simp] theorem State.modCoreAt_flows (s : State) (n : Nat) (f : Core → Core) : (s.modCoreAt n f).flows = s.flows := rfl
@[simp] theorem State.modCoreAt_jam (s : State) (n : Nat) (f : Core → Core) : (s.modCoreAt n f).jam = s.jam := rfl
@[simp] theorem State.modCoreAt_allowances (s : State) (n : Nat) (f : Core → Core) : (s.modCoreAt n f).allowances = s.allowances := rfl
@[simp] theorem State.modCoreAt_linksDown (s : State) (n : Nat) (f : Core → Core) : (s.modCoreAt n f).linksDown = s.linksDown := rfl
@[simp] theorem State.modCoreAt_linksDraining (s : State) (n : Nat) (f : Core → Core) : (s.modCoreAt n f).linksDraining = s.linksDraining := rfl
@[simp] theorem State.modCoreAt_counters (s : State) (n : Nat) (f : Core → Core) : (s.modCoreAt n f).counters = s.counters := rfl
@[simp] theorem State.modCoreAt_thresholds (s : State) (n : Nat) (f : Core → Core) : (s.modCoreAt n f).thresholds = s.thresholds := rfl
@[simp] theorem State.modCoreAt_ctxsel (s : State) (n : Nat) (f : Core → Core) : (s.modCoreAt n f).ctxsel = s.ctxsel := rfl
@[simp] theorem State.modCoreAt_fqsel (s : State) (n : Nat) (f : Core → Core) : (s.modCoreAt n f).fqsel = s.fqsel := rfl
@[simp] theorem State.modCoreAt_apsel (s : State) (n : Nat) (f : Core → Core) : (s.modCoreAt n f).apsel = s.apsel := rfl
@[simp] theorem State.modCoreAt_apertures (s : State) (n : Nat) (f : Core → Core) : (s.modCoreAt n f).apertures = s.apertures := rfl
@[simp] theorem State.modCoreAt_routes (s : State) (n : Nat) (f : Core → Core) : (s.modCoreAt n f).routes = s.routes := rfl
@[simp] theorem State.modCoreAt_peerReqs (s : State) (n : Nat) (f : Core → Core) : (s.modCoreAt n f).peerReqs = s.peerReqs := rfl
@[simp] theorem State.modCoreAt_events (s : State) (n : Nat) (f : Core → Core) : (s.modCoreAt n f).events = s.events := rfl
@[simp] theorem State.modCoreAt_doubled (s : State) (n : Nat) (f : Core → Core) : (s.modCoreAt n f).doubled = s.doubled := rfl
@[simp] theorem State.modCoreAt_inRefresh (s : State) (n : Nat) (f : Core → Core) : (s.modCoreAt n f).inRefresh = s.inRefresh := rfl
@[simp] theorem State.modCoreAt_atRating (s : State) (n : Nat) (f : Core → Core) : (s.modCoreAt n f).atRating = s.atRating := rfl
@[simp] theorem State.modCoreAt_retraining (s : State) (n : Nat) (f : Core → Core) : (s.modCoreAt n f).retraining = s.retraining := rfl
@[simp] theorem State.modCoreAt_powerSteps (s : State) (n : Nat) (f : Core → Core) : (s.modCoreAt n f).powerSteps = s.powerSteps := rfl
@[simp] theorem State.modCoreAt_logicCut (s : State) (n : Nat) (f : Core → Core) : (s.modCoreAt n f).logicCut = s.logicCut := rfl
@[simp] theorem State.modCoreAt_fw (s : State) (n : Nat) (f : Core → Core) : (s.modCoreAt n f).fw = s.fw := rfl
@[simp] theorem State.modCoreAt_mg (s : State) (n : Nat) (f : Core → Core) : (s.modCoreAt n f).mg = s.mg := rfl
@[simp] theorem State.modCoreAt_agenda (s : State) (n : Nat) (f : Core → Core) : (s.modCoreAt n f).agenda = s.agenda := rfl
@[simp] theorem State.modCoreAt_free (s : State) (n : Nat) (f : Core → Core) : (s.modCoreAt n f).free = s.free := rfl
@[simp] theorem State.modCoreAt_cores (s : State) (n : Nat) (f : Core → Core) :
    (s.modCoreAt n f).cores = put {} s.cores n (f (s.coreAt n)) := rfl

@[simp] theorem State.modCore_w (s : State) (f : Core → Core) : (s.modCore f).w = s.w := rfl
@[simp] theorem State.modCore_wid (s : State) (f : Core → Core) : (s.modCore f).wid = s.wid := rfl
@[simp] theorem State.modCore_others (s : State) (f : Core → Core) : (s.modCore f).others = s.others := rfl
@[simp] theorem State.modCore_sectors (s : State) (f : Core → Core) : (s.modCore f).sectors = s.sectors := rfl
@[simp] theorem State.modCore_crews (s : State) (f : Core → Core) : (s.modCore f).crews = s.crews := rfl
@[simp] theorem State.modCore_tasks (s : State) (f : Core → Core) : (s.modCore f).tasks = s.tasks := rfl
@[simp] theorem State.modCore_ctxs (s : State) (f : Core → Core) : (s.modCore f).ctxs = s.ctxs := rfl
@[simp] theorem State.modCore_nextId (s : State) (f : Core → Core) : (s.modCore f).nextId = s.nextId := rfl
@[simp] theorem State.modCore_mem (s : State) (f : Core → Core) : (s.modCore f).mem = s.mem := rfl
@[simp] theorem State.modCore_dirty (s : State) (f : Core → Core) : (s.modCore f).dirty = s.dirty := rfl
@[simp] theorem State.modCore_poison (s : State) (f : Core → Core) : (s.modCore f).poison = s.poison := rfl
@[simp] theorem State.modCore_stamps (s : State) (f : Core → Core) : (s.modCore f).stamps = s.stamps := rfl
@[simp] theorem State.modCore_vec (s : State) (f : Core → Core) : (s.modCore f).vec = s.vec := rfl
@[simp] theorem State.modCore_vecHome (s : State) (f : Core → Core) : (s.modCore f).vecHome = s.vecHome := rfl
@[simp] theorem State.modCore_copies (s : State) (f : Core → Core) : (s.modCore f).copies = s.copies := rfl
@[simp] theorem State.modCore_installs (s : State) (f : Core → Core) : (s.modCore f).installs = s.installs := rfl
@[simp] theorem State.modCore_homeReqs (s : State) (f : Core → Core) : (s.modCore f).homeReqs = s.homeReqs := rfl
@[simp] theorem State.modCore_unitReqs (s : State) (f : Core → Core) : (s.modCore f).unitReqs = s.unitReqs := rfl
@[simp] theorem State.modCore_replies (s : State) (f : Core → Core) : (s.modCore f).replies = s.replies := rfl
@[simp] theorem State.modCore_pins (s : State) (f : Core → Core) : (s.modCore f).pins = s.pins := rfl
@[simp] theorem State.modCore_hostMem (s : State) (f : Core → Core) : (s.modCore f).hostMem = s.hostMem := rfl
@[simp] theorem State.modCore_skim (s : State) (f : Core → Core) : (s.modCore f).skim = s.skim := rfl
@[simp] theorem State.modCore_skimBad (s : State) (f : Core → Core) : (s.modCore f).skimBad = s.skimBad := rfl
@[simp] theorem State.modCore_flows (s : State) (f : Core → Core) : (s.modCore f).flows = s.flows := rfl
@[simp] theorem State.modCore_jam (s : State) (f : Core → Core) : (s.modCore f).jam = s.jam := rfl
@[simp] theorem State.modCore_allowances (s : State) (f : Core → Core) : (s.modCore f).allowances = s.allowances := rfl
@[simp] theorem State.modCore_linksDown (s : State) (f : Core → Core) : (s.modCore f).linksDown = s.linksDown := rfl
@[simp] theorem State.modCore_linksDraining (s : State) (f : Core → Core) : (s.modCore f).linksDraining = s.linksDraining := rfl
@[simp] theorem State.modCore_counters (s : State) (f : Core → Core) : (s.modCore f).counters = s.counters := rfl
@[simp] theorem State.modCore_thresholds (s : State) (f : Core → Core) : (s.modCore f).thresholds = s.thresholds := rfl
@[simp] theorem State.modCore_ctxsel (s : State) (f : Core → Core) : (s.modCore f).ctxsel = s.ctxsel := rfl
@[simp] theorem State.modCore_fqsel (s : State) (f : Core → Core) : (s.modCore f).fqsel = s.fqsel := rfl
@[simp] theorem State.modCore_apsel (s : State) (f : Core → Core) : (s.modCore f).apsel = s.apsel := rfl
@[simp] theorem State.modCore_apertures (s : State) (f : Core → Core) : (s.modCore f).apertures = s.apertures := rfl
@[simp] theorem State.modCore_routes (s : State) (f : Core → Core) : (s.modCore f).routes = s.routes := rfl
@[simp] theorem State.modCore_peerReqs (s : State) (f : Core → Core) : (s.modCore f).peerReqs = s.peerReqs := rfl
@[simp] theorem State.modCore_events (s : State) (f : Core → Core) : (s.modCore f).events = s.events := rfl
@[simp] theorem State.modCore_doubled (s : State) (f : Core → Core) : (s.modCore f).doubled = s.doubled := rfl
@[simp] theorem State.modCore_inRefresh (s : State) (f : Core → Core) : (s.modCore f).inRefresh = s.inRefresh := rfl
@[simp] theorem State.modCore_atRating (s : State) (f : Core → Core) : (s.modCore f).atRating = s.atRating := rfl
@[simp] theorem State.modCore_retraining (s : State) (f : Core → Core) : (s.modCore f).retraining = s.retraining := rfl
@[simp] theorem State.modCore_powerSteps (s : State) (f : Core → Core) : (s.modCore f).powerSteps = s.powerSteps := rfl
@[simp] theorem State.modCore_logicCut (s : State) (f : Core → Core) : (s.modCore f).logicCut = s.logicCut := rfl
@[simp] theorem State.modCore_fw (s : State) (f : Core → Core) : (s.modCore f).fw = s.fw := rfl
@[simp] theorem State.modCore_mg (s : State) (f : Core → Core) : (s.modCore f).mg = s.mg := rfl
@[simp] theorem State.modCore_agenda (s : State) (f : Core → Core) : (s.modCore f).agenda = s.agenda := rfl
@[simp] theorem State.modCore_free (s : State) (f : Core → Core) : (s.modCore f).free = s.free := rfl
@[simp] theorem State.modCore_cores (s : State) (f : Core → Core) :
    (s.modCore f).cores = put {} s.cores s.w.core (f s.core) := rfl

@[simp] theorem State.modSector_w (s : State) (n : Nat) (f : Sector → Sector) : (s.modSector n f).w = s.w := rfl
@[simp] theorem State.modSector_wid (s : State) (n : Nat) (f : Sector → Sector) : (s.modSector n f).wid = s.wid := rfl
@[simp] theorem State.modSector_others (s : State) (n : Nat) (f : Sector → Sector) : (s.modSector n f).others = s.others := rfl
@[simp] theorem State.modSector_cores (s : State) (n : Nat) (f : Sector → Sector) : (s.modSector n f).cores = s.cores := rfl
@[simp] theorem State.modSector_crews (s : State) (n : Nat) (f : Sector → Sector) : (s.modSector n f).crews = s.crews := rfl
@[simp] theorem State.modSector_tasks (s : State) (n : Nat) (f : Sector → Sector) : (s.modSector n f).tasks = s.tasks := rfl
@[simp] theorem State.modSector_ctxs (s : State) (n : Nat) (f : Sector → Sector) : (s.modSector n f).ctxs = s.ctxs := rfl
@[simp] theorem State.modSector_nextId (s : State) (n : Nat) (f : Sector → Sector) : (s.modSector n f).nextId = s.nextId := rfl
@[simp] theorem State.modSector_mem (s : State) (n : Nat) (f : Sector → Sector) : (s.modSector n f).mem = s.mem := rfl
@[simp] theorem State.modSector_dirty (s : State) (n : Nat) (f : Sector → Sector) : (s.modSector n f).dirty = s.dirty := rfl
@[simp] theorem State.modSector_poison (s : State) (n : Nat) (f : Sector → Sector) : (s.modSector n f).poison = s.poison := rfl
@[simp] theorem State.modSector_stamps (s : State) (n : Nat) (f : Sector → Sector) : (s.modSector n f).stamps = s.stamps := rfl
@[simp] theorem State.modSector_vec (s : State) (n : Nat) (f : Sector → Sector) : (s.modSector n f).vec = s.vec := rfl
@[simp] theorem State.modSector_vecHome (s : State) (n : Nat) (f : Sector → Sector) : (s.modSector n f).vecHome = s.vecHome := rfl
@[simp] theorem State.modSector_copies (s : State) (n : Nat) (f : Sector → Sector) : (s.modSector n f).copies = s.copies := rfl
@[simp] theorem State.modSector_installs (s : State) (n : Nat) (f : Sector → Sector) : (s.modSector n f).installs = s.installs := rfl
@[simp] theorem State.modSector_homeReqs (s : State) (n : Nat) (f : Sector → Sector) : (s.modSector n f).homeReqs = s.homeReqs := rfl
@[simp] theorem State.modSector_unitReqs (s : State) (n : Nat) (f : Sector → Sector) : (s.modSector n f).unitReqs = s.unitReqs := rfl
@[simp] theorem State.modSector_replies (s : State) (n : Nat) (f : Sector → Sector) : (s.modSector n f).replies = s.replies := rfl
@[simp] theorem State.modSector_pins (s : State) (n : Nat) (f : Sector → Sector) : (s.modSector n f).pins = s.pins := rfl
@[simp] theorem State.modSector_hostMem (s : State) (n : Nat) (f : Sector → Sector) : (s.modSector n f).hostMem = s.hostMem := rfl
@[simp] theorem State.modSector_skim (s : State) (n : Nat) (f : Sector → Sector) : (s.modSector n f).skim = s.skim := rfl
@[simp] theorem State.modSector_skimBad (s : State) (n : Nat) (f : Sector → Sector) : (s.modSector n f).skimBad = s.skimBad := rfl
@[simp] theorem State.modSector_flows (s : State) (n : Nat) (f : Sector → Sector) : (s.modSector n f).flows = s.flows := rfl
@[simp] theorem State.modSector_jam (s : State) (n : Nat) (f : Sector → Sector) : (s.modSector n f).jam = s.jam := rfl
@[simp] theorem State.modSector_allowances (s : State) (n : Nat) (f : Sector → Sector) : (s.modSector n f).allowances = s.allowances := rfl
@[simp] theorem State.modSector_linksDown (s : State) (n : Nat) (f : Sector → Sector) : (s.modSector n f).linksDown = s.linksDown := rfl
@[simp] theorem State.modSector_linksDraining (s : State) (n : Nat) (f : Sector → Sector) : (s.modSector n f).linksDraining = s.linksDraining := rfl
@[simp] theorem State.modSector_counters (s : State) (n : Nat) (f : Sector → Sector) : (s.modSector n f).counters = s.counters := rfl
@[simp] theorem State.modSector_thresholds (s : State) (n : Nat) (f : Sector → Sector) : (s.modSector n f).thresholds = s.thresholds := rfl
@[simp] theorem State.modSector_ctxsel (s : State) (n : Nat) (f : Sector → Sector) : (s.modSector n f).ctxsel = s.ctxsel := rfl
@[simp] theorem State.modSector_fqsel (s : State) (n : Nat) (f : Sector → Sector) : (s.modSector n f).fqsel = s.fqsel := rfl
@[simp] theorem State.modSector_apsel (s : State) (n : Nat) (f : Sector → Sector) : (s.modSector n f).apsel = s.apsel := rfl
@[simp] theorem State.modSector_apertures (s : State) (n : Nat) (f : Sector → Sector) : (s.modSector n f).apertures = s.apertures := rfl
@[simp] theorem State.modSector_routes (s : State) (n : Nat) (f : Sector → Sector) : (s.modSector n f).routes = s.routes := rfl
@[simp] theorem State.modSector_peerReqs (s : State) (n : Nat) (f : Sector → Sector) : (s.modSector n f).peerReqs = s.peerReqs := rfl
@[simp] theorem State.modSector_events (s : State) (n : Nat) (f : Sector → Sector) : (s.modSector n f).events = s.events := rfl
@[simp] theorem State.modSector_doubled (s : State) (n : Nat) (f : Sector → Sector) : (s.modSector n f).doubled = s.doubled := rfl
@[simp] theorem State.modSector_inRefresh (s : State) (n : Nat) (f : Sector → Sector) : (s.modSector n f).inRefresh = s.inRefresh := rfl
@[simp] theorem State.modSector_atRating (s : State) (n : Nat) (f : Sector → Sector) : (s.modSector n f).atRating = s.atRating := rfl
@[simp] theorem State.modSector_retraining (s : State) (n : Nat) (f : Sector → Sector) : (s.modSector n f).retraining = s.retraining := rfl
@[simp] theorem State.modSector_powerSteps (s : State) (n : Nat) (f : Sector → Sector) : (s.modSector n f).powerSteps = s.powerSteps := rfl
@[simp] theorem State.modSector_logicCut (s : State) (n : Nat) (f : Sector → Sector) : (s.modSector n f).logicCut = s.logicCut := rfl
@[simp] theorem State.modSector_fw (s : State) (n : Nat) (f : Sector → Sector) : (s.modSector n f).fw = s.fw := rfl
@[simp] theorem State.modSector_mg (s : State) (n : Nat) (f : Sector → Sector) : (s.modSector n f).mg = s.mg := rfl
@[simp] theorem State.modSector_agenda (s : State) (n : Nat) (f : Sector → Sector) : (s.modSector n f).agenda = s.agenda := rfl
@[simp] theorem State.modSector_free (s : State) (n : Nat) (f : Sector → Sector) : (s.modSector n f).free = s.free := rfl
@[simp] theorem State.modSector_sectors (s : State) (n : Nat) (f : Sector → Sector) :
    (s.modSector n f).sectors = put {} s.sectors n (f (s.sector n)) := rfl

@[simp] theorem State.modRow_w (s : State) (c : Nat) (f : CtxRow → CtxRow) : (s.modRow c f).w = s.w := rfl
@[simp] theorem State.modRow_wid (s : State) (c : Nat) (f : CtxRow → CtxRow) : (s.modRow c f).wid = s.wid := rfl
@[simp] theorem State.modRow_others (s : State) (c : Nat) (f : CtxRow → CtxRow) : (s.modRow c f).others = s.others := rfl
@[simp] theorem State.modRow_cores (s : State) (c : Nat) (f : CtxRow → CtxRow) : (s.modRow c f).cores = s.cores := rfl
@[simp] theorem State.modRow_sectors (s : State) (c : Nat) (f : CtxRow → CtxRow) : (s.modRow c f).sectors = s.sectors := rfl
@[simp] theorem State.modRow_crews (s : State) (c : Nat) (f : CtxRow → CtxRow) : (s.modRow c f).crews = s.crews := rfl
@[simp] theorem State.modRow_tasks (s : State) (c : Nat) (f : CtxRow → CtxRow) : (s.modRow c f).tasks = s.tasks := rfl
@[simp] theorem State.modRow_nextId (s : State) (c : Nat) (f : CtxRow → CtxRow) : (s.modRow c f).nextId = s.nextId := rfl
@[simp] theorem State.modRow_mem (s : State) (c : Nat) (f : CtxRow → CtxRow) : (s.modRow c f).mem = s.mem := rfl
@[simp] theorem State.modRow_dirty (s : State) (c : Nat) (f : CtxRow → CtxRow) : (s.modRow c f).dirty = s.dirty := rfl
@[simp] theorem State.modRow_poison (s : State) (c : Nat) (f : CtxRow → CtxRow) : (s.modRow c f).poison = s.poison := rfl
@[simp] theorem State.modRow_stamps (s : State) (c : Nat) (f : CtxRow → CtxRow) : (s.modRow c f).stamps = s.stamps := rfl
@[simp] theorem State.modRow_vec (s : State) (c : Nat) (f : CtxRow → CtxRow) : (s.modRow c f).vec = s.vec := rfl
@[simp] theorem State.modRow_vecHome (s : State) (c : Nat) (f : CtxRow → CtxRow) : (s.modRow c f).vecHome = s.vecHome := rfl
@[simp] theorem State.modRow_copies (s : State) (c : Nat) (f : CtxRow → CtxRow) : (s.modRow c f).copies = s.copies := rfl
@[simp] theorem State.modRow_installs (s : State) (c : Nat) (f : CtxRow → CtxRow) : (s.modRow c f).installs = s.installs := rfl
@[simp] theorem State.modRow_homeReqs (s : State) (c : Nat) (f : CtxRow → CtxRow) : (s.modRow c f).homeReqs = s.homeReqs := rfl
@[simp] theorem State.modRow_unitReqs (s : State) (c : Nat) (f : CtxRow → CtxRow) : (s.modRow c f).unitReqs = s.unitReqs := rfl
@[simp] theorem State.modRow_replies (s : State) (c : Nat) (f : CtxRow → CtxRow) : (s.modRow c f).replies = s.replies := rfl
@[simp] theorem State.modRow_pins (s : State) (c : Nat) (f : CtxRow → CtxRow) : (s.modRow c f).pins = s.pins := rfl
@[simp] theorem State.modRow_hostMem (s : State) (c : Nat) (f : CtxRow → CtxRow) : (s.modRow c f).hostMem = s.hostMem := rfl
@[simp] theorem State.modRow_skim (s : State) (c : Nat) (f : CtxRow → CtxRow) : (s.modRow c f).skim = s.skim := rfl
@[simp] theorem State.modRow_skimBad (s : State) (c : Nat) (f : CtxRow → CtxRow) : (s.modRow c f).skimBad = s.skimBad := rfl
@[simp] theorem State.modRow_flows (s : State) (c : Nat) (f : CtxRow → CtxRow) : (s.modRow c f).flows = s.flows := rfl
@[simp] theorem State.modRow_jam (s : State) (c : Nat) (f : CtxRow → CtxRow) : (s.modRow c f).jam = s.jam := rfl
@[simp] theorem State.modRow_allowances (s : State) (c : Nat) (f : CtxRow → CtxRow) : (s.modRow c f).allowances = s.allowances := rfl
@[simp] theorem State.modRow_linksDown (s : State) (c : Nat) (f : CtxRow → CtxRow) : (s.modRow c f).linksDown = s.linksDown := rfl
@[simp] theorem State.modRow_linksDraining (s : State) (c : Nat) (f : CtxRow → CtxRow) : (s.modRow c f).linksDraining = s.linksDraining := rfl
@[simp] theorem State.modRow_counters (s : State) (c : Nat) (f : CtxRow → CtxRow) : (s.modRow c f).counters = s.counters := rfl
@[simp] theorem State.modRow_thresholds (s : State) (c : Nat) (f : CtxRow → CtxRow) : (s.modRow c f).thresholds = s.thresholds := rfl
@[simp] theorem State.modRow_ctxsel (s : State) (c : Nat) (f : CtxRow → CtxRow) : (s.modRow c f).ctxsel = s.ctxsel := rfl
@[simp] theorem State.modRow_fqsel (s : State) (c : Nat) (f : CtxRow → CtxRow) : (s.modRow c f).fqsel = s.fqsel := rfl
@[simp] theorem State.modRow_apsel (s : State) (c : Nat) (f : CtxRow → CtxRow) : (s.modRow c f).apsel = s.apsel := rfl
@[simp] theorem State.modRow_apertures (s : State) (c : Nat) (f : CtxRow → CtxRow) : (s.modRow c f).apertures = s.apertures := rfl
@[simp] theorem State.modRow_routes (s : State) (c : Nat) (f : CtxRow → CtxRow) : (s.modRow c f).routes = s.routes := rfl
@[simp] theorem State.modRow_peerReqs (s : State) (c : Nat) (f : CtxRow → CtxRow) : (s.modRow c f).peerReqs = s.peerReqs := rfl
@[simp] theorem State.modRow_events (s : State) (c : Nat) (f : CtxRow → CtxRow) : (s.modRow c f).events = s.events := rfl
@[simp] theorem State.modRow_doubled (s : State) (c : Nat) (f : CtxRow → CtxRow) : (s.modRow c f).doubled = s.doubled := rfl
@[simp] theorem State.modRow_inRefresh (s : State) (c : Nat) (f : CtxRow → CtxRow) : (s.modRow c f).inRefresh = s.inRefresh := rfl
@[simp] theorem State.modRow_atRating (s : State) (c : Nat) (f : CtxRow → CtxRow) : (s.modRow c f).atRating = s.atRating := rfl
@[simp] theorem State.modRow_retraining (s : State) (c : Nat) (f : CtxRow → CtxRow) : (s.modRow c f).retraining = s.retraining := rfl
@[simp] theorem State.modRow_powerSteps (s : State) (c : Nat) (f : CtxRow → CtxRow) : (s.modRow c f).powerSteps = s.powerSteps := rfl
@[simp] theorem State.modRow_logicCut (s : State) (c : Nat) (f : CtxRow → CtxRow) : (s.modRow c f).logicCut = s.logicCut := rfl
@[simp] theorem State.modRow_fw (s : State) (c : Nat) (f : CtxRow → CtxRow) : (s.modRow c f).fw = s.fw := rfl
@[simp] theorem State.modRow_mg (s : State) (c : Nat) (f : CtxRow → CtxRow) : (s.modRow c f).mg = s.mg := rfl
@[simp] theorem State.modRow_agenda (s : State) (c : Nat) (f : CtxRow → CtxRow) : (s.modRow c f).agenda = s.agenda := rfl
@[simp] theorem State.modRow_free (s : State) (c : Nat) (f : CtxRow → CtxRow) : (s.modRow c f).free = s.free := rfl
@[simp] theorem State.modRow_ctxs (s : State) (c : Nat) (f : CtxRow → CtxRow) :
    (s.modRow c f).ctxs = put {} s.ctxs c (f (s.rowAt c)) := rfl

@[simp] theorem State.emit_w (s : State) (a b c : Nat) (p : List DWord) : (s.emit a b c p).w = s.w := rfl
@[simp] theorem State.emit_wid (s : State) (a b c : Nat) (p : List DWord) : (s.emit a b c p).wid = s.wid := rfl
@[simp] theorem State.emit_others (s : State) (a b c : Nat) (p : List DWord) : (s.emit a b c p).others = s.others := rfl
@[simp] theorem State.emit_cores (s : State) (a b c : Nat) (p : List DWord) : (s.emit a b c p).cores = s.cores := rfl
@[simp] theorem State.emit_sectors (s : State) (a b c : Nat) (p : List DWord) : (s.emit a b c p).sectors = s.sectors := rfl
@[simp] theorem State.emit_crews (s : State) (a b c : Nat) (p : List DWord) : (s.emit a b c p).crews = s.crews := rfl
@[simp] theorem State.emit_tasks (s : State) (a b c : Nat) (p : List DWord) : (s.emit a b c p).tasks = s.tasks := rfl
@[simp] theorem State.emit_ctxs (s : State) (a b c : Nat) (p : List DWord) : (s.emit a b c p).ctxs = s.ctxs := rfl
@[simp] theorem State.emit_nextId (s : State) (a b c : Nat) (p : List DWord) : (s.emit a b c p).nextId = s.nextId := rfl
@[simp] theorem State.emit_mem (s : State) (a b c : Nat) (p : List DWord) : (s.emit a b c p).mem = s.mem := rfl
@[simp] theorem State.emit_dirty (s : State) (a b c : Nat) (p : List DWord) : (s.emit a b c p).dirty = s.dirty := rfl
@[simp] theorem State.emit_poison (s : State) (a b c : Nat) (p : List DWord) : (s.emit a b c p).poison = s.poison := rfl
@[simp] theorem State.emit_stamps (s : State) (a b c : Nat) (p : List DWord) : (s.emit a b c p).stamps = s.stamps := rfl
@[simp] theorem State.emit_vec (s : State) (a b c : Nat) (p : List DWord) : (s.emit a b c p).vec = s.vec := rfl
@[simp] theorem State.emit_vecHome (s : State) (a b c : Nat) (p : List DWord) : (s.emit a b c p).vecHome = s.vecHome := rfl
@[simp] theorem State.emit_copies (s : State) (a b c : Nat) (p : List DWord) : (s.emit a b c p).copies = s.copies := rfl
@[simp] theorem State.emit_installs (s : State) (a b c : Nat) (p : List DWord) : (s.emit a b c p).installs = s.installs := rfl
@[simp] theorem State.emit_homeReqs (s : State) (a b c : Nat) (p : List DWord) : (s.emit a b c p).homeReqs = s.homeReqs := rfl
@[simp] theorem State.emit_unitReqs (s : State) (a b c : Nat) (p : List DWord) : (s.emit a b c p).unitReqs = s.unitReqs := rfl
@[simp] theorem State.emit_replies (s : State) (a b c : Nat) (p : List DWord) : (s.emit a b c p).replies = s.replies := rfl
@[simp] theorem State.emit_pins (s : State) (a b c : Nat) (p : List DWord) : (s.emit a b c p).pins = s.pins := rfl
@[simp] theorem State.emit_hostMem (s : State) (a b c : Nat) (p : List DWord) : (s.emit a b c p).hostMem = s.hostMem := rfl
@[simp] theorem State.emit_skim (s : State) (a b c : Nat) (p : List DWord) : (s.emit a b c p).skim = s.skim := rfl
@[simp] theorem State.emit_skimBad (s : State) (a b c : Nat) (p : List DWord) : (s.emit a b c p).skimBad = s.skimBad := rfl
@[simp] theorem State.emit_flows (s : State) (a b c : Nat) (p : List DWord) : (s.emit a b c p).flows = s.flows := rfl
@[simp] theorem State.emit_jam (s : State) (a b c : Nat) (p : List DWord) : (s.emit a b c p).jam = s.jam := rfl
@[simp] theorem State.emit_allowances (s : State) (a b c : Nat) (p : List DWord) : (s.emit a b c p).allowances = s.allowances := rfl
@[simp] theorem State.emit_linksDown (s : State) (a b c : Nat) (p : List DWord) : (s.emit a b c p).linksDown = s.linksDown := rfl
@[simp] theorem State.emit_linksDraining (s : State) (a b c : Nat) (p : List DWord) : (s.emit a b c p).linksDraining = s.linksDraining := rfl
@[simp] theorem State.emit_counters (s : State) (a b c : Nat) (p : List DWord) : (s.emit a b c p).counters = s.counters := rfl
@[simp] theorem State.emit_thresholds (s : State) (a b c : Nat) (p : List DWord) : (s.emit a b c p).thresholds = s.thresholds := rfl
@[simp] theorem State.emit_ctxsel (s : State) (a b c : Nat) (p : List DWord) : (s.emit a b c p).ctxsel = s.ctxsel := rfl
@[simp] theorem State.emit_fqsel (s : State) (a b c : Nat) (p : List DWord) : (s.emit a b c p).fqsel = s.fqsel := rfl
@[simp] theorem State.emit_apsel (s : State) (a b c : Nat) (p : List DWord) : (s.emit a b c p).apsel = s.apsel := rfl
@[simp] theorem State.emit_apertures (s : State) (a b c : Nat) (p : List DWord) : (s.emit a b c p).apertures = s.apertures := rfl
@[simp] theorem State.emit_routes (s : State) (a b c : Nat) (p : List DWord) : (s.emit a b c p).routes = s.routes := rfl
@[simp] theorem State.emit_peerReqs (s : State) (a b c : Nat) (p : List DWord) : (s.emit a b c p).peerReqs = s.peerReqs := rfl
@[simp] theorem State.emit_doubled (s : State) (a b c : Nat) (p : List DWord) : (s.emit a b c p).doubled = s.doubled := rfl
@[simp] theorem State.emit_inRefresh (s : State) (a b c : Nat) (p : List DWord) : (s.emit a b c p).inRefresh = s.inRefresh := rfl
@[simp] theorem State.emit_atRating (s : State) (a b c : Nat) (p : List DWord) : (s.emit a b c p).atRating = s.atRating := rfl
@[simp] theorem State.emit_retraining (s : State) (a b c : Nat) (p : List DWord) : (s.emit a b c p).retraining = s.retraining := rfl
@[simp] theorem State.emit_powerSteps (s : State) (a b c : Nat) (p : List DWord) : (s.emit a b c p).powerSteps = s.powerSteps := rfl
@[simp] theorem State.emit_logicCut (s : State) (a b c : Nat) (p : List DWord) : (s.emit a b c p).logicCut = s.logicCut := rfl
@[simp] theorem State.emit_fw (s : State) (a b c : Nat) (p : List DWord) : (s.emit a b c p).fw = s.fw := rfl
@[simp] theorem State.emit_mg (s : State) (a b c : Nat) (p : List DWord) : (s.emit a b c p).mg = s.mg := rfl
@[simp] theorem State.emit_agenda (s : State) (a b c : Nat) (p : List DWord) : (s.emit a b c p).agenda = s.agenda := rfl
@[simp] theorem State.emit_free (s : State) (a b c : Nat) (p : List DWord) : (s.emit a b c p).free = s.free := rfl

@[simp] theorem State.setWave_wid (s : State) (n : Nat) (w : Wave) : (s.setWave n w).wid = s.wid := by
  unfold State.setWave; split <;> rfl
@[simp] theorem State.setWave_cores (s : State) (n : Nat) (w : Wave) : (s.setWave n w).cores = s.cores := by
  unfold State.setWave; split <;> rfl
@[simp] theorem State.setWave_sectors (s : State) (n : Nat) (w : Wave) : (s.setWave n w).sectors = s.sectors := by
  unfold State.setWave; split <;> rfl
@[simp] theorem State.setWave_crews (s : State) (n : Nat) (w : Wave) : (s.setWave n w).crews = s.crews := by
  unfold State.setWave; split <;> rfl
@[simp] theorem State.setWave_tasks (s : State) (n : Nat) (w : Wave) : (s.setWave n w).tasks = s.tasks := by
  unfold State.setWave; split <;> rfl
@[simp] theorem State.setWave_ctxs (s : State) (n : Nat) (w : Wave) : (s.setWave n w).ctxs = s.ctxs := by
  unfold State.setWave; split <;> rfl
@[simp] theorem State.setWave_nextId (s : State) (n : Nat) (w : Wave) : (s.setWave n w).nextId = s.nextId := by
  unfold State.setWave; split <;> rfl
@[simp] theorem State.setWave_mem (s : State) (n : Nat) (w : Wave) : (s.setWave n w).mem = s.mem := by
  unfold State.setWave; split <;> rfl
@[simp] theorem State.setWave_dirty (s : State) (n : Nat) (w : Wave) : (s.setWave n w).dirty = s.dirty := by
  unfold State.setWave; split <;> rfl
@[simp] theorem State.setWave_poison (s : State) (n : Nat) (w : Wave) : (s.setWave n w).poison = s.poison := by
  unfold State.setWave; split <;> rfl
@[simp] theorem State.setWave_stamps (s : State) (n : Nat) (w : Wave) : (s.setWave n w).stamps = s.stamps := by
  unfold State.setWave; split <;> rfl
@[simp] theorem State.setWave_vec (s : State) (n : Nat) (w : Wave) : (s.setWave n w).vec = s.vec := by
  unfold State.setWave; split <;> rfl
@[simp] theorem State.setWave_vecHome (s : State) (n : Nat) (w : Wave) : (s.setWave n w).vecHome = s.vecHome := by
  unfold State.setWave; split <;> rfl
@[simp] theorem State.setWave_copies (s : State) (n : Nat) (w : Wave) : (s.setWave n w).copies = s.copies := by
  unfold State.setWave; split <;> rfl
@[simp] theorem State.setWave_installs (s : State) (n : Nat) (w : Wave) : (s.setWave n w).installs = s.installs := by
  unfold State.setWave; split <;> rfl
@[simp] theorem State.setWave_homeReqs (s : State) (n : Nat) (w : Wave) : (s.setWave n w).homeReqs = s.homeReqs := by
  unfold State.setWave; split <;> rfl
@[simp] theorem State.setWave_unitReqs (s : State) (n : Nat) (w : Wave) : (s.setWave n w).unitReqs = s.unitReqs := by
  unfold State.setWave; split <;> rfl
@[simp] theorem State.setWave_replies (s : State) (n : Nat) (w : Wave) : (s.setWave n w).replies = s.replies := by
  unfold State.setWave; split <;> rfl
@[simp] theorem State.setWave_pins (s : State) (n : Nat) (w : Wave) : (s.setWave n w).pins = s.pins := by
  unfold State.setWave; split <;> rfl
@[simp] theorem State.setWave_hostMem (s : State) (n : Nat) (w : Wave) : (s.setWave n w).hostMem = s.hostMem := by
  unfold State.setWave; split <;> rfl
@[simp] theorem State.setWave_skim (s : State) (n : Nat) (w : Wave) : (s.setWave n w).skim = s.skim := by
  unfold State.setWave; split <;> rfl
@[simp] theorem State.setWave_skimBad (s : State) (n : Nat) (w : Wave) : (s.setWave n w).skimBad = s.skimBad := by
  unfold State.setWave; split <;> rfl
@[simp] theorem State.setWave_flows (s : State) (n : Nat) (w : Wave) : (s.setWave n w).flows = s.flows := by
  unfold State.setWave; split <;> rfl
@[simp] theorem State.setWave_jam (s : State) (n : Nat) (w : Wave) : (s.setWave n w).jam = s.jam := by
  unfold State.setWave; split <;> rfl
@[simp] theorem State.setWave_allowances (s : State) (n : Nat) (w : Wave) : (s.setWave n w).allowances = s.allowances := by
  unfold State.setWave; split <;> rfl
@[simp] theorem State.setWave_linksDown (s : State) (n : Nat) (w : Wave) : (s.setWave n w).linksDown = s.linksDown := by
  unfold State.setWave; split <;> rfl
@[simp] theorem State.setWave_linksDraining (s : State) (n : Nat) (w : Wave) : (s.setWave n w).linksDraining = s.linksDraining := by
  unfold State.setWave; split <;> rfl
@[simp] theorem State.setWave_counters (s : State) (n : Nat) (w : Wave) : (s.setWave n w).counters = s.counters := by
  unfold State.setWave; split <;> rfl
@[simp] theorem State.setWave_thresholds (s : State) (n : Nat) (w : Wave) : (s.setWave n w).thresholds = s.thresholds := by
  unfold State.setWave; split <;> rfl
@[simp] theorem State.setWave_ctxsel (s : State) (n : Nat) (w : Wave) : (s.setWave n w).ctxsel = s.ctxsel := by
  unfold State.setWave; split <;> rfl
@[simp] theorem State.setWave_fqsel (s : State) (n : Nat) (w : Wave) : (s.setWave n w).fqsel = s.fqsel := by
  unfold State.setWave; split <;> rfl
@[simp] theorem State.setWave_apsel (s : State) (n : Nat) (w : Wave) : (s.setWave n w).apsel = s.apsel := by
  unfold State.setWave; split <;> rfl
@[simp] theorem State.setWave_apertures (s : State) (n : Nat) (w : Wave) : (s.setWave n w).apertures = s.apertures := by
  unfold State.setWave; split <;> rfl
@[simp] theorem State.setWave_routes (s : State) (n : Nat) (w : Wave) : (s.setWave n w).routes = s.routes := by
  unfold State.setWave; split <;> rfl
@[simp] theorem State.setWave_peerReqs (s : State) (n : Nat) (w : Wave) : (s.setWave n w).peerReqs = s.peerReqs := by
  unfold State.setWave; split <;> rfl
@[simp] theorem State.setWave_events (s : State) (n : Nat) (w : Wave) : (s.setWave n w).events = s.events := by
  unfold State.setWave; split <;> rfl
@[simp] theorem State.setWave_doubled (s : State) (n : Nat) (w : Wave) : (s.setWave n w).doubled = s.doubled := by
  unfold State.setWave; split <;> rfl
@[simp] theorem State.setWave_inRefresh (s : State) (n : Nat) (w : Wave) : (s.setWave n w).inRefresh = s.inRefresh := by
  unfold State.setWave; split <;> rfl
@[simp] theorem State.setWave_atRating (s : State) (n : Nat) (w : Wave) : (s.setWave n w).atRating = s.atRating := by
  unfold State.setWave; split <;> rfl
@[simp] theorem State.setWave_retraining (s : State) (n : Nat) (w : Wave) : (s.setWave n w).retraining = s.retraining := by
  unfold State.setWave; split <;> rfl
@[simp] theorem State.setWave_powerSteps (s : State) (n : Nat) (w : Wave) : (s.setWave n w).powerSteps = s.powerSteps := by
  unfold State.setWave; split <;> rfl
@[simp] theorem State.setWave_logicCut (s : State) (n : Nat) (w : Wave) : (s.setWave n w).logicCut = s.logicCut := by
  unfold State.setWave; split <;> rfl
@[simp] theorem State.setWave_fw (s : State) (n : Nat) (w : Wave) : (s.setWave n w).fw = s.fw := by
  unfold State.setWave; split <;> rfl
@[simp] theorem State.setWave_mg (s : State) (n : Nat) (w : Wave) : (s.setWave n w).mg = s.mg := by
  unfold State.setWave; split <;> rfl
@[simp] theorem State.setWave_agenda (s : State) (n : Nat) (w : Wave) : (s.setWave n w).agenda = s.agenda := by
  unfold State.setWave; split <;> rfl
@[simp] theorem State.setWave_free (s : State) (n : Nat) (w : Wave) : (s.setWave n w).free = s.free := by
  unfold State.setWave; split <;> rfl

@[simp] theorem State.focus_cores (s : State) (n : Nat) : (s.focus n).cores = s.cores := by
  unfold State.focus; split <;> rfl
@[simp] theorem State.focus_sectors (s : State) (n : Nat) : (s.focus n).sectors = s.sectors := by
  unfold State.focus; split <;> rfl
@[simp] theorem State.focus_crews (s : State) (n : Nat) : (s.focus n).crews = s.crews := by
  unfold State.focus; split <;> rfl
@[simp] theorem State.focus_tasks (s : State) (n : Nat) : (s.focus n).tasks = s.tasks := by
  unfold State.focus; split <;> rfl
@[simp] theorem State.focus_ctxs (s : State) (n : Nat) : (s.focus n).ctxs = s.ctxs := by
  unfold State.focus; split <;> rfl
@[simp] theorem State.focus_nextId (s : State) (n : Nat) : (s.focus n).nextId = s.nextId := by
  unfold State.focus; split <;> rfl
@[simp] theorem State.focus_mem (s : State) (n : Nat) : (s.focus n).mem = s.mem := by
  unfold State.focus; split <;> rfl
@[simp] theorem State.focus_dirty (s : State) (n : Nat) : (s.focus n).dirty = s.dirty := by
  unfold State.focus; split <;> rfl
@[simp] theorem State.focus_poison (s : State) (n : Nat) : (s.focus n).poison = s.poison := by
  unfold State.focus; split <;> rfl
@[simp] theorem State.focus_stamps (s : State) (n : Nat) : (s.focus n).stamps = s.stamps := by
  unfold State.focus; split <;> rfl
@[simp] theorem State.focus_vec (s : State) (n : Nat) : (s.focus n).vec = s.vec := by
  unfold State.focus; split <;> rfl
@[simp] theorem State.focus_vecHome (s : State) (n : Nat) : (s.focus n).vecHome = s.vecHome := by
  unfold State.focus; split <;> rfl
@[simp] theorem State.focus_copies (s : State) (n : Nat) : (s.focus n).copies = s.copies := by
  unfold State.focus; split <;> rfl
@[simp] theorem State.focus_installs (s : State) (n : Nat) : (s.focus n).installs = s.installs := by
  unfold State.focus; split <;> rfl
@[simp] theorem State.focus_homeReqs (s : State) (n : Nat) : (s.focus n).homeReqs = s.homeReqs := by
  unfold State.focus; split <;> rfl
@[simp] theorem State.focus_unitReqs (s : State) (n : Nat) : (s.focus n).unitReqs = s.unitReqs := by
  unfold State.focus; split <;> rfl
@[simp] theorem State.focus_replies (s : State) (n : Nat) : (s.focus n).replies = s.replies := by
  unfold State.focus; split <;> rfl
@[simp] theorem State.focus_pins (s : State) (n : Nat) : (s.focus n).pins = s.pins := by
  unfold State.focus; split <;> rfl
@[simp] theorem State.focus_hostMem (s : State) (n : Nat) : (s.focus n).hostMem = s.hostMem := by
  unfold State.focus; split <;> rfl
@[simp] theorem State.focus_skim (s : State) (n : Nat) : (s.focus n).skim = s.skim := by
  unfold State.focus; split <;> rfl
@[simp] theorem State.focus_skimBad (s : State) (n : Nat) : (s.focus n).skimBad = s.skimBad := by
  unfold State.focus; split <;> rfl
@[simp] theorem State.focus_flows (s : State) (n : Nat) : (s.focus n).flows = s.flows := by
  unfold State.focus; split <;> rfl
@[simp] theorem State.focus_jam (s : State) (n : Nat) : (s.focus n).jam = s.jam := by
  unfold State.focus; split <;> rfl
@[simp] theorem State.focus_allowances (s : State) (n : Nat) : (s.focus n).allowances = s.allowances := by
  unfold State.focus; split <;> rfl
@[simp] theorem State.focus_linksDown (s : State) (n : Nat) : (s.focus n).linksDown = s.linksDown := by
  unfold State.focus; split <;> rfl
@[simp] theorem State.focus_linksDraining (s : State) (n : Nat) : (s.focus n).linksDraining = s.linksDraining := by
  unfold State.focus; split <;> rfl
@[simp] theorem State.focus_counters (s : State) (n : Nat) : (s.focus n).counters = s.counters := by
  unfold State.focus; split <;> rfl
@[simp] theorem State.focus_thresholds (s : State) (n : Nat) : (s.focus n).thresholds = s.thresholds := by
  unfold State.focus; split <;> rfl
@[simp] theorem State.focus_ctxsel (s : State) (n : Nat) : (s.focus n).ctxsel = s.ctxsel := by
  unfold State.focus; split <;> rfl
@[simp] theorem State.focus_fqsel (s : State) (n : Nat) : (s.focus n).fqsel = s.fqsel := by
  unfold State.focus; split <;> rfl
@[simp] theorem State.focus_apsel (s : State) (n : Nat) : (s.focus n).apsel = s.apsel := by
  unfold State.focus; split <;> rfl
@[simp] theorem State.focus_apertures (s : State) (n : Nat) : (s.focus n).apertures = s.apertures := by
  unfold State.focus; split <;> rfl
@[simp] theorem State.focus_routes (s : State) (n : Nat) : (s.focus n).routes = s.routes := by
  unfold State.focus; split <;> rfl
@[simp] theorem State.focus_peerReqs (s : State) (n : Nat) : (s.focus n).peerReqs = s.peerReqs := by
  unfold State.focus; split <;> rfl
@[simp] theorem State.focus_events (s : State) (n : Nat) : (s.focus n).events = s.events := by
  unfold State.focus; split <;> rfl
@[simp] theorem State.focus_doubled (s : State) (n : Nat) : (s.focus n).doubled = s.doubled := by
  unfold State.focus; split <;> rfl
@[simp] theorem State.focus_inRefresh (s : State) (n : Nat) : (s.focus n).inRefresh = s.inRefresh := by
  unfold State.focus; split <;> rfl
@[simp] theorem State.focus_atRating (s : State) (n : Nat) : (s.focus n).atRating = s.atRating := by
  unfold State.focus; split <;> rfl
@[simp] theorem State.focus_retraining (s : State) (n : Nat) : (s.focus n).retraining = s.retraining := by
  unfold State.focus; split <;> rfl
@[simp] theorem State.focus_powerSteps (s : State) (n : Nat) : (s.focus n).powerSteps = s.powerSteps := by
  unfold State.focus; split <;> rfl
@[simp] theorem State.focus_logicCut (s : State) (n : Nat) : (s.focus n).logicCut = s.logicCut := by
  unfold State.focus; split <;> rfl
@[simp] theorem State.focus_fw (s : State) (n : Nat) : (s.focus n).fw = s.fw := by
  unfold State.focus; split <;> rfl
@[simp] theorem State.focus_mg (s : State) (n : Nat) : (s.focus n).mg = s.mg := by
  unfold State.focus; split <;> rfl
@[simp] theorem State.focus_agenda (s : State) (n : Nat) : (s.focus n).agenda = s.agenda := by
  unfold State.focus; split <;> rfl
@[simp] theorem State.focus_free (s : State) (n : Nat) : (s.focus n).free = s.free := by
  unfold State.focus; split <;> rfl

/-! Updates that are changes of the wave that acts. -/

theorem State.advance_eq (s : State) (n : Nat) : s.advance n = s.modW (fun w => { w with pc := w.pc + dw n, jumped := false }) := rfl
theorem State.jump_eq (s : State) (t : DWord) : s.jump t = s.modW (fun w => { w with pc := t, jumped := true }) := rfl
theorem State.setS_eq (s : State) (d : BitVec 6) (v : DWord) : s.setS d v = s.modW (fun w => w.setKey (sKey w.sys d) v) := rfl
theorem State.stall_eq (s : State)  : s.stall = s.modW (fun w => { w with blocked := true }) := rfl
theorem State.setEngine_eq (s : State) (a b : DWord) : s.setEngine a b = s.modW (fun w => { w with cpf := a, cpr := b }) := rfl
theorem State.endQuantum_eq (s : State)  : s.endQuantum = s.modW (fun w => { w with qended := true }) := rfl
theorem State.dropSweep_eq (s : State) (k : Nat) : s.dropSweep k = s.modW (fun w => { w with sweeps := w.sweeps.filter fun x => x.id != k }) := rfl

/-! Updates of a wave. -/

@[simp] theorem Wave.writeV_life (w : Wave) (r : Nat) (es : List (Nat × Word)) : (w.writeV r es).life = w.life := rfl
@[simp] theorem Wave.writeV_core (w : Wave) (r : Nat) (es : List (Nat × Word)) : (w.writeV r es).core = w.core := rfl
@[simp] theorem Wave.writeV_slot (w : Wave) (r : Nat) (es : List (Nat × Word)) : (w.writeV r es).slot = w.slot := rfl
@[simp] theorem Wave.writeV_py (w : Wave) (r : Nat) (es : List (Nat × Word)) : (w.writeV r es).py = w.py := rfl
@[simp] theorem Wave.writeV_px (w : Wave) (r : Nat) (es : List (Nat × Word)) : (w.writeV r es).px = w.px := rfl
@[simp] theorem Wave.writeV_crew (w : Wave) (r : Nat) (es : List (Nat × Word)) : (w.writeV r es).crew = w.crew := rfl
@[simp] theorem Wave.writeV_widx (w : Wave) (r : Nat) (es : List (Nat × Word)) : (w.writeV r es).widx = w.widx := rfl
@[simp] theorem Wave.writeV_crewIdx (w : Wave) (r : Nat) (es : List (Nat × Word)) : (w.writeV r es).crewIdx = w.crewIdx := rfl
@[simp] theorem Wave.writeV_shape (w : Wave) (r : Nat) (es : List (Nat × Word)) : (w.writeV r es).shape = w.shape := rfl
@[simp] theorem Wave.writeV_phase (w : Wave) (r : Nat) (es : List (Nat × Word)) : (w.writeV r es).phase = w.phase := rfl
@[simp] theorem Wave.writeV_ctx (w : Wave) (r : Nat) (es : List (Nat × Word)) : (w.writeV r es).ctx = w.ctx := rfl
@[simp] theorem Wave.writeV_quantum (w : Wave) (r : Nat) (es : List (Nat × Word)) : (w.writeV r es).quantum = w.quantum := rfl
@[simp] theorem Wave.writeV_pc (w : Wave) (r : Nat) (es : List (Nat × Word)) : (w.writeV r es).pc = w.pc := rfl
@[simp] theorem Wave.writeV_jumped (w : Wave) (r : Nat) (es : List (Nat × Word)) : (w.writeV r es).jumped = w.jumped := rfl
@[simp] theorem Wave.writeV_sys (w : Wave) (r : Nat) (es : List (Nat × Word)) : (w.writeV r es).sys = w.sys := rfl
@[simp] theorem Wave.writeV_s (w : Wave) (r : Nat) (es : List (Nat × Word)) : (w.writeV r es).s = w.s := rfl
@[simp] theorem Wave.writeV_sret (w : Wave) (r : Nat) (es : List (Nat × Word)) : (w.writeV r es).sret = w.sret := rfl
@[simp] theorem Wave.writeV_d (w : Wave) (r : Nat) (es : List (Nat × Word)) : (w.writeV r es).d = w.d := rfl
@[simp] theorem Wave.writeV_m (w : Wave) (r : Nat) (es : List (Nat × Word)) : (w.writeV r es).m = w.m := rfl
@[simp] theorem Wave.writeV_acc (w : Wave) (r : Nat) (es : List (Nat × Word)) : (w.writeV r es).acc = w.acc := rfl
@[simp] theorem Wave.writeV_anchor (w : Wave) (r : Nat) (es : List (Nat × Word)) : (w.writeV r es).anchor = w.anchor := rfl
@[simp] theorem Wave.writeV_lm (w : Wave) (r : Nat) (es : List (Nat × Word)) : (w.writeV r es).lm = w.lm := rfl
@[simp] theorem Wave.writeV_lmBad (w : Wave) (r : Nat) (es : List (Nat × Word)) : (w.writeV r es).lmBad = w.lmBad := rfl
@[simp] theorem Wave.writeV_rng (w : Wave) (r : Nat) (es : List (Nat × Word)) : (w.writeV r es).rng = w.rng := rfl
@[simp] theorem Wave.writeV_q (w : Wave) (r : Nat) (es : List (Nat × Word)) : (w.writeV r es).q = w.q := rfl
@[simp] theorem Wave.writeV_rngseed (w : Wave) (r : Nat) (es : List (Nat × Word)) : (w.writeV r es).rngseed = w.rngseed := rfl
@[simp] theorem Wave.writeV_wrapOk (w : Wave) (r : Nat) (es : List (Nat × Word)) : (w.writeV r es).wrapOk = w.wrapOk := rfl
@[simp] theorem Wave.writeV_fptrap (w : Wave) (r : Nat) (es : List (Nat × Word)) : (w.writeV r es).fptrap = w.fptrap := rfl
@[simp] theorem Wave.writeV_cause (w : Wave) (r : Nat) (es : List (Nat × Word)) : (w.writeV r es).cause = w.cause := rfl
@[simp] theorem Wave.writeV_firstCause (w : Wave) (r : Nat) (es : List (Nat × Word)) : (w.writeV r es).firstCause = w.firstCause := rfl
@[simp] theorem Wave.writeV_epc (w : Wave) (r : Nat) (es : List (Nat × Word)) : (w.writeV r es).epc = w.epc := rfl
@[simp] theorem Wave.writeV_elpc (w : Wave) (r : Nat) (es : List (Nat × Word)) : (w.writeV r es).elpc = w.elpc := rfl
@[simp] theorem Wave.writeV_eword (w : Wave) (r : Nat) (es : List (Nat × Word)) : (w.writeV r es).eword = w.eword := rfl
@[simp] theorem Wave.writeV_fva (w : Wave) (r : Nat) (es : List (Nat × Word)) : (w.writeV r es).fva = w.fva := rfl
@[simp] theorem Wave.writeV_kind (w : Wave) (r : Nat) (es : List (Nat × Word)) : (w.writeV r es).kind = w.kind := rfl
@[simp] theorem Wave.writeV_drop (w : Wave) (r : Nat) (es : List (Nat × Word)) : (w.writeV r es).drop = w.drop := rfl
@[simp] theorem Wave.writeV_stepArmed (w : Wave) (r : Nat) (es : List (Nat × Word)) : (w.writeV r es).stepArmed = w.stepArmed := rfl
@[simp] theorem Wave.writeV_lstep (w : Wave) (r : Nat) (es : List (Nat × Word)) : (w.writeV r es).lstep = w.lstep := rfl
@[simp] theorem Wave.writeV_rpc (w : Wave) (r : Nat) (es : List (Nat × Word)) : (w.writeV r es).rpc = w.rpc := rfl
@[simp] theorem Wave.writeV_cpf (w : Wave) (r : Nat) (es : List (Nat × Word)) : (w.writeV r es).cpf = w.cpf := rfl
@[simp] theorem Wave.writeV_cpr (w : Wave) (r : Nat) (es : List (Nat × Word)) : (w.writeV r es).cpr = w.cpr := rfl
@[simp] theorem Wave.writeV_lq (w : Wave) (r : Nat) (es : List (Nat × Word)) : (w.writeV r es).lq = w.lq := rfl
@[simp] theorem Wave.writeV_aside (w : Wave) (r : Nat) (es : List (Nat × Word)) : (w.writeV r es).aside = w.aside := rfl
@[simp] theorem Wave.writeV_pend (w : Wave) (r : Nat) (es : List (Nat × Word)) : (w.writeV r es).pend = w.pend := rfl
@[simp] theorem Wave.writeV_unch (w : Wave) (r : Nat) (es : List (Nat × Word)) : (w.writeV r es).unch = w.unch := rfl
@[simp] theorem Wave.writeV_parked (w : Wave) (r : Nat) (es : List (Nat × Word)) : (w.writeV r es).parked = w.parked := rfl
@[simp] theorem Wave.writeV_stq (w : Wave) (r : Nat) (es : List (Nat × Word)) : (w.writeV r es).stq = w.stq := rfl
@[simp] theorem Wave.writeV_ticket (w : Wave) (r : Nat) (es : List (Nat × Word)) : (w.writeV r es).ticket = w.ticket := rfl
@[simp] theorem Wave.writeV_ops (w : Wave) (r : Nat) (es : List (Nat × Word)) : (w.writeV r es).ops = w.ops := rfl
@[simp] theorem Wave.writeV_sweepId (w : Wave) (r : Nat) (es : List (Nat × Word)) : (w.writeV r es).sweepId = w.sweepId := rfl
@[simp] theorem Wave.writeV_sweeps (w : Wave) (r : Nat) (es : List (Nat × Word)) : (w.writeV r es).sweeps = w.sweeps := rfl
@[simp] theorem Wave.writeV_binder (w : Wave) (r : Nat) (es : List (Nat × Word)) : (w.writeV r es).binder = w.binder := rfl
@[simp] theorem Wave.writeV_swTaken (w : Wave) (r : Nat) (es : List (Nat × Word)) : (w.writeV r es).swTaken = w.swTaken := rfl
@[simp] theorem Wave.writeV_stgAt (w : Wave) (r : Nat) (es : List (Nat × Word)) : (w.writeV r es).stgAt = w.stgAt := rfl
@[simp] theorem Wave.writeV_sbGrant (w : Wave) (r : Nat) (es : List (Nat × Word)) : (w.writeV r es).sbGrant = w.sbGrant := rfl
@[simp] theorem Wave.writeV_arr (w : Wave) (r : Nat) (es : List (Nat × Word)) : (w.writeV r es).arr = w.arr := rfl
@[simp] theorem Wave.writeV_barAt (w : Wave) (r : Nat) (es : List (Nat × Word)) : (w.writeV r es).barAt = w.barAt := rfl
@[simp] theorem Wave.writeV_barWait (w : Wave) (r : Nat) (es : List (Nat × Word)) : (w.writeV r es).barWait = w.barWait := rfl
@[simp] theorem Wave.writeV_qn (w : Wave) (r : Nat) (es : List (Nat × Word)) : (w.writeV r es).qn = w.qn := rfl
@[simp] theorem Wave.writeV_qcount (w : Wave) (r : Nat) (es : List (Nat × Word)) : (w.writeV r es).qcount = w.qcount := rfl
@[simp] theorem Wave.writeV_qused (w : Wave) (r : Nat) (es : List (Nat × Word)) : (w.writeV r es).qused = w.qused := rfl
@[simp] theorem Wave.writeV_qended (w : Wave) (r : Nat) (es : List (Nat × Word)) : (w.writeV r es).qended = w.qended := rfl
@[simp] theorem Wave.writeV_qlane (w : Wave) (r : Nat) (es : List (Nat × Word)) : (w.writeV r es).qlane = w.qlane := rfl
@[simp] theorem Wave.writeV_qagain (w : Wave) (r : Nat) (es : List (Nat × Word)) : (w.writeV r es).qagain = w.qagain := rfl
@[simp] theorem Wave.writeV_qexp (w : Wave) (r : Nat) (es : List (Nat × Word)) : (w.writeV r es).qexp = w.qexp := rfl
@[simp] theorem Wave.writeV_qlw (w : Wave) (r : Nat) (es : List (Nat × Word)) : (w.writeV r es).qlw = w.qlw := rfl
@[simp] theorem Wave.writeV_qbefore (w : Wave) (r : Nat) (es : List (Nat × Word)) : (w.writeV r es).qbefore = w.qbefore := rfl
@[simp] theorem Wave.writeV_qheld (w : Wave) (r : Nat) (es : List (Nat × Word)) : (w.writeV r es).qheld = w.qheld := rfl
@[simp] theorem Wave.writeV_qahead (w : Wave) (r : Nat) (es : List (Nat × Word)) : (w.writeV r es).qahead = w.qahead := rfl
@[simp] theorem Wave.writeV_buf (w : Wave) (r : Nat) (es : List (Nat × Word)) : (w.writeV r es).buf = w.buf := rfl
@[simp] theorem Wave.writeV_ret (w : Wave) (r : Nat) (es : List (Nat × Word)) : (w.writeV r es).ret = w.ret := rfl
@[simp] theorem Wave.writeV_retAcq (w : Wave) (r : Nat) (es : List (Nat × Word)) : (w.writeV r es).retAcq = w.retAcq := rfl
@[simp] theorem Wave.writeV_pushWait (w : Wave) (r : Nat) (es : List (Nat × Word)) : (w.writeV r es).pushWait = w.pushWait := rfl
@[simp] theorem Wave.writeV_slotAt (w : Wave) (r : Nat) (es : List (Nat × Word)) : (w.writeV r es).slotAt = w.slotAt := rfl
@[simp] theorem Wave.writeV_pushAt (w : Wave) (r : Nat) (es : List (Nat × Word)) : (w.writeV r es).pushAt = w.pushAt := rfl
@[simp] theorem Wave.writeV_wdog (w : Wave) (r : Nat) (es : List (Nat × Word)) : (w.writeV r es).wdog = w.wdog := rfl
@[simp] theorem Wave.writeV_wdogLim (w : Wave) (r : Nat) (es : List (Nat × Word)) : (w.writeV r es).wdogLim = w.wdogLim := rfl
@[simp] theorem Wave.writeV_stepping (w : Wave) (r : Nat) (es : List (Nat × Word)) : (w.writeV r es).stepping = w.stepping := rfl
@[simp] theorem Wave.writeV_stepWait (w : Wave) (r : Nat) (es : List (Nat × Word)) : (w.writeV r es).stepWait = w.stepWait := rfl
@[simp] theorem Wave.writeV_trapping (w : Wave) (r : Nat) (es : List (Nat × Word)) : (w.writeV r es).trapping = w.trapping := rfl
@[simp] theorem Wave.writeV_issued (w : Wave) (r : Nat) (es : List (Nat × Word)) : (w.writeV r es).issued = w.issued := rfl
@[simp] theorem Wave.writeV_counts (w : Wave) (r : Nat) (es : List (Nat × Word)) : (w.writeV r es).counts = w.counts := rfl
@[simp] theorem Wave.writeV_blocked (w : Wave) (r : Nat) (es : List (Nat × Word)) : (w.writeV r es).blocked = w.blocked := rfl
@[simp] theorem Wave.writeV_laneBlocked (w : Wave) (r : Nat) (es : List (Nat × Word)) : (w.writeV r es).laneBlocked = w.laneBlocked := rfl

@[simp] theorem Wave.writeM_life (w : Wave) (k : Nat) (es : List (Nat × Bool)) : (w.writeM k es).life = w.life := rfl
@[simp] theorem Wave.writeM_core (w : Wave) (k : Nat) (es : List (Nat × Bool)) : (w.writeM k es).core = w.core := rfl
@[simp] theorem Wave.writeM_slot (w : Wave) (k : Nat) (es : List (Nat × Bool)) : (w.writeM k es).slot = w.slot := rfl
@[simp] theorem Wave.writeM_py (w : Wave) (k : Nat) (es : List (Nat × Bool)) : (w.writeM k es).py = w.py := rfl
@[simp] theorem Wave.writeM_px (w : Wave) (k : Nat) (es : List (Nat × Bool)) : (w.writeM k es).px = w.px := rfl
@[simp] theorem Wave.writeM_crew (w : Wave) (k : Nat) (es : List (Nat × Bool)) : (w.writeM k es).crew = w.crew := rfl
@[simp] theorem Wave.writeM_widx (w : Wave) (k : Nat) (es : List (Nat × Bool)) : (w.writeM k es).widx = w.widx := rfl
@[simp] theorem Wave.writeM_crewIdx (w : Wave) (k : Nat) (es : List (Nat × Bool)) : (w.writeM k es).crewIdx = w.crewIdx := rfl
@[simp] theorem Wave.writeM_shape (w : Wave) (k : Nat) (es : List (Nat × Bool)) : (w.writeM k es).shape = w.shape := rfl
@[simp] theorem Wave.writeM_phase (w : Wave) (k : Nat) (es : List (Nat × Bool)) : (w.writeM k es).phase = w.phase := rfl
@[simp] theorem Wave.writeM_ctx (w : Wave) (k : Nat) (es : List (Nat × Bool)) : (w.writeM k es).ctx = w.ctx := rfl
@[simp] theorem Wave.writeM_quantum (w : Wave) (k : Nat) (es : List (Nat × Bool)) : (w.writeM k es).quantum = w.quantum := rfl
@[simp] theorem Wave.writeM_pc (w : Wave) (k : Nat) (es : List (Nat × Bool)) : (w.writeM k es).pc = w.pc := rfl
@[simp] theorem Wave.writeM_jumped (w : Wave) (k : Nat) (es : List (Nat × Bool)) : (w.writeM k es).jumped = w.jumped := rfl
@[simp] theorem Wave.writeM_sys (w : Wave) (k : Nat) (es : List (Nat × Bool)) : (w.writeM k es).sys = w.sys := rfl
@[simp] theorem Wave.writeM_s (w : Wave) (k : Nat) (es : List (Nat × Bool)) : (w.writeM k es).s = w.s := rfl
@[simp] theorem Wave.writeM_sret (w : Wave) (k : Nat) (es : List (Nat × Bool)) : (w.writeM k es).sret = w.sret := rfl
@[simp] theorem Wave.writeM_d (w : Wave) (k : Nat) (es : List (Nat × Bool)) : (w.writeM k es).d = w.d := rfl
@[simp] theorem Wave.writeM_v (w : Wave) (k : Nat) (es : List (Nat × Bool)) : (w.writeM k es).v = w.v := rfl
@[simp] theorem Wave.writeM_acc (w : Wave) (k : Nat) (es : List (Nat × Bool)) : (w.writeM k es).acc = w.acc := rfl
@[simp] theorem Wave.writeM_anchor (w : Wave) (k : Nat) (es : List (Nat × Bool)) : (w.writeM k es).anchor = w.anchor := rfl
@[simp] theorem Wave.writeM_lm (w : Wave) (k : Nat) (es : List (Nat × Bool)) : (w.writeM k es).lm = w.lm := rfl
@[simp] theorem Wave.writeM_lmBad (w : Wave) (k : Nat) (es : List (Nat × Bool)) : (w.writeM k es).lmBad = w.lmBad := rfl
@[simp] theorem Wave.writeM_rng (w : Wave) (k : Nat) (es : List (Nat × Bool)) : (w.writeM k es).rng = w.rng := rfl
@[simp] theorem Wave.writeM_q (w : Wave) (k : Nat) (es : List (Nat × Bool)) : (w.writeM k es).q = w.q := rfl
@[simp] theorem Wave.writeM_rngseed (w : Wave) (k : Nat) (es : List (Nat × Bool)) : (w.writeM k es).rngseed = w.rngseed := rfl
@[simp] theorem Wave.writeM_wrapOk (w : Wave) (k : Nat) (es : List (Nat × Bool)) : (w.writeM k es).wrapOk = w.wrapOk := rfl
@[simp] theorem Wave.writeM_fptrap (w : Wave) (k : Nat) (es : List (Nat × Bool)) : (w.writeM k es).fptrap = w.fptrap := rfl
@[simp] theorem Wave.writeM_cause (w : Wave) (k : Nat) (es : List (Nat × Bool)) : (w.writeM k es).cause = w.cause := rfl
@[simp] theorem Wave.writeM_firstCause (w : Wave) (k : Nat) (es : List (Nat × Bool)) : (w.writeM k es).firstCause = w.firstCause := rfl
@[simp] theorem Wave.writeM_epc (w : Wave) (k : Nat) (es : List (Nat × Bool)) : (w.writeM k es).epc = w.epc := rfl
@[simp] theorem Wave.writeM_elpc (w : Wave) (k : Nat) (es : List (Nat × Bool)) : (w.writeM k es).elpc = w.elpc := rfl
@[simp] theorem Wave.writeM_eword (w : Wave) (k : Nat) (es : List (Nat × Bool)) : (w.writeM k es).eword = w.eword := rfl
@[simp] theorem Wave.writeM_fva (w : Wave) (k : Nat) (es : List (Nat × Bool)) : (w.writeM k es).fva = w.fva := rfl
@[simp] theorem Wave.writeM_kind (w : Wave) (k : Nat) (es : List (Nat × Bool)) : (w.writeM k es).kind = w.kind := rfl
@[simp] theorem Wave.writeM_drop (w : Wave) (k : Nat) (es : List (Nat × Bool)) : (w.writeM k es).drop = w.drop := rfl
@[simp] theorem Wave.writeM_stepArmed (w : Wave) (k : Nat) (es : List (Nat × Bool)) : (w.writeM k es).stepArmed = w.stepArmed := rfl
@[simp] theorem Wave.writeM_lstep (w : Wave) (k : Nat) (es : List (Nat × Bool)) : (w.writeM k es).lstep = w.lstep := rfl
@[simp] theorem Wave.writeM_rpc (w : Wave) (k : Nat) (es : List (Nat × Bool)) : (w.writeM k es).rpc = w.rpc := rfl
@[simp] theorem Wave.writeM_cpf (w : Wave) (k : Nat) (es : List (Nat × Bool)) : (w.writeM k es).cpf = w.cpf := rfl
@[simp] theorem Wave.writeM_cpr (w : Wave) (k : Nat) (es : List (Nat × Bool)) : (w.writeM k es).cpr = w.cpr := rfl
@[simp] theorem Wave.writeM_lq (w : Wave) (k : Nat) (es : List (Nat × Bool)) : (w.writeM k es).lq = w.lq := rfl
@[simp] theorem Wave.writeM_aside (w : Wave) (k : Nat) (es : List (Nat × Bool)) : (w.writeM k es).aside = w.aside := rfl
@[simp] theorem Wave.writeM_pend (w : Wave) (k : Nat) (es : List (Nat × Bool)) : (w.writeM k es).pend = w.pend := rfl
@[simp] theorem Wave.writeM_unch (w : Wave) (k : Nat) (es : List (Nat × Bool)) : (w.writeM k es).unch = w.unch := rfl
@[simp] theorem Wave.writeM_parked (w : Wave) (k : Nat) (es : List (Nat × Bool)) : (w.writeM k es).parked = w.parked := rfl
@[simp] theorem Wave.writeM_stq (w : Wave) (k : Nat) (es : List (Nat × Bool)) : (w.writeM k es).stq = w.stq := rfl
@[simp] theorem Wave.writeM_ticket (w : Wave) (k : Nat) (es : List (Nat × Bool)) : (w.writeM k es).ticket = w.ticket := rfl
@[simp] theorem Wave.writeM_ops (w : Wave) (k : Nat) (es : List (Nat × Bool)) : (w.writeM k es).ops = w.ops := rfl
@[simp] theorem Wave.writeM_sweepId (w : Wave) (k : Nat) (es : List (Nat × Bool)) : (w.writeM k es).sweepId = w.sweepId := rfl
@[simp] theorem Wave.writeM_sweeps (w : Wave) (k : Nat) (es : List (Nat × Bool)) : (w.writeM k es).sweeps = w.sweeps := rfl
@[simp] theorem Wave.writeM_binder (w : Wave) (k : Nat) (es : List (Nat × Bool)) : (w.writeM k es).binder = w.binder := rfl
@[simp] theorem Wave.writeM_swTaken (w : Wave) (k : Nat) (es : List (Nat × Bool)) : (w.writeM k es).swTaken = w.swTaken := rfl
@[simp] theorem Wave.writeM_stgAt (w : Wave) (k : Nat) (es : List (Nat × Bool)) : (w.writeM k es).stgAt = w.stgAt := rfl
@[simp] theorem Wave.writeM_sbGrant (w : Wave) (k : Nat) (es : List (Nat × Bool)) : (w.writeM k es).sbGrant = w.sbGrant := rfl
@[simp] theorem Wave.writeM_arr (w : Wave) (k : Nat) (es : List (Nat × Bool)) : (w.writeM k es).arr = w.arr := rfl
@[simp] theorem Wave.writeM_barAt (w : Wave) (k : Nat) (es : List (Nat × Bool)) : (w.writeM k es).barAt = w.barAt := rfl
@[simp] theorem Wave.writeM_barWait (w : Wave) (k : Nat) (es : List (Nat × Bool)) : (w.writeM k es).barWait = w.barWait := rfl
@[simp] theorem Wave.writeM_qn (w : Wave) (k : Nat) (es : List (Nat × Bool)) : (w.writeM k es).qn = w.qn := rfl
@[simp] theorem Wave.writeM_qcount (w : Wave) (k : Nat) (es : List (Nat × Bool)) : (w.writeM k es).qcount = w.qcount := rfl
@[simp] theorem Wave.writeM_qused (w : Wave) (k : Nat) (es : List (Nat × Bool)) : (w.writeM k es).qused = w.qused := rfl
@[simp] theorem Wave.writeM_qended (w : Wave) (k : Nat) (es : List (Nat × Bool)) : (w.writeM k es).qended = w.qended := rfl
@[simp] theorem Wave.writeM_qlane (w : Wave) (k : Nat) (es : List (Nat × Bool)) : (w.writeM k es).qlane = w.qlane := rfl
@[simp] theorem Wave.writeM_qagain (w : Wave) (k : Nat) (es : List (Nat × Bool)) : (w.writeM k es).qagain = w.qagain := rfl
@[simp] theorem Wave.writeM_qexp (w : Wave) (k : Nat) (es : List (Nat × Bool)) : (w.writeM k es).qexp = w.qexp := rfl
@[simp] theorem Wave.writeM_qlw (w : Wave) (k : Nat) (es : List (Nat × Bool)) : (w.writeM k es).qlw = w.qlw := rfl
@[simp] theorem Wave.writeM_qbefore (w : Wave) (k : Nat) (es : List (Nat × Bool)) : (w.writeM k es).qbefore = w.qbefore := rfl
@[simp] theorem Wave.writeM_qheld (w : Wave) (k : Nat) (es : List (Nat × Bool)) : (w.writeM k es).qheld = w.qheld := rfl
@[simp] theorem Wave.writeM_qahead (w : Wave) (k : Nat) (es : List (Nat × Bool)) : (w.writeM k es).qahead = w.qahead := rfl
@[simp] theorem Wave.writeM_buf (w : Wave) (k : Nat) (es : List (Nat × Bool)) : (w.writeM k es).buf = w.buf := rfl
@[simp] theorem Wave.writeM_ret (w : Wave) (k : Nat) (es : List (Nat × Bool)) : (w.writeM k es).ret = w.ret := rfl
@[simp] theorem Wave.writeM_retAcq (w : Wave) (k : Nat) (es : List (Nat × Bool)) : (w.writeM k es).retAcq = w.retAcq := rfl
@[simp] theorem Wave.writeM_pushWait (w : Wave) (k : Nat) (es : List (Nat × Bool)) : (w.writeM k es).pushWait = w.pushWait := rfl
@[simp] theorem Wave.writeM_slotAt (w : Wave) (k : Nat) (es : List (Nat × Bool)) : (w.writeM k es).slotAt = w.slotAt := rfl
@[simp] theorem Wave.writeM_pushAt (w : Wave) (k : Nat) (es : List (Nat × Bool)) : (w.writeM k es).pushAt = w.pushAt := rfl
@[simp] theorem Wave.writeM_wdog (w : Wave) (k : Nat) (es : List (Nat × Bool)) : (w.writeM k es).wdog = w.wdog := rfl
@[simp] theorem Wave.writeM_wdogLim (w : Wave) (k : Nat) (es : List (Nat × Bool)) : (w.writeM k es).wdogLim = w.wdogLim := rfl
@[simp] theorem Wave.writeM_stepping (w : Wave) (k : Nat) (es : List (Nat × Bool)) : (w.writeM k es).stepping = w.stepping := rfl
@[simp] theorem Wave.writeM_stepWait (w : Wave) (k : Nat) (es : List (Nat × Bool)) : (w.writeM k es).stepWait = w.stepWait := rfl
@[simp] theorem Wave.writeM_trapping (w : Wave) (k : Nat) (es : List (Nat × Bool)) : (w.writeM k es).trapping = w.trapping := rfl
@[simp] theorem Wave.writeM_issued (w : Wave) (k : Nat) (es : List (Nat × Bool)) : (w.writeM k es).issued = w.issued := rfl
@[simp] theorem Wave.writeM_counts (w : Wave) (k : Nat) (es : List (Nat × Bool)) : (w.writeM k es).counts = w.counts := rfl
@[simp] theorem Wave.writeM_blocked (w : Wave) (k : Nat) (es : List (Nat × Bool)) : (w.writeM k es).blocked = w.blocked := rfl
@[simp] theorem Wave.writeM_laneBlocked (w : Wave) (k : Nat) (es : List (Nat × Bool)) : (w.writeM k es).laneBlocked = w.laneBlocked := rfl

@[simp] theorem Wave.issueUnch_life (w : Wave) (rs : List Nat) (u : Unch) : (w.issueUnch rs u).life = w.life := rfl
@[simp] theorem Wave.issueUnch_core (w : Wave) (rs : List Nat) (u : Unch) : (w.issueUnch rs u).core = w.core := rfl
@[simp] theorem Wave.issueUnch_slot (w : Wave) (rs : List Nat) (u : Unch) : (w.issueUnch rs u).slot = w.slot := rfl
@[simp] theorem Wave.issueUnch_py (w : Wave) (rs : List Nat) (u : Unch) : (w.issueUnch rs u).py = w.py := rfl
@[simp] theorem Wave.issueUnch_px (w : Wave) (rs : List Nat) (u : Unch) : (w.issueUnch rs u).px = w.px := rfl
@[simp] theorem Wave.issueUnch_crew (w : Wave) (rs : List Nat) (u : Unch) : (w.issueUnch rs u).crew = w.crew := rfl
@[simp] theorem Wave.issueUnch_widx (w : Wave) (rs : List Nat) (u : Unch) : (w.issueUnch rs u).widx = w.widx := rfl
@[simp] theorem Wave.issueUnch_crewIdx (w : Wave) (rs : List Nat) (u : Unch) : (w.issueUnch rs u).crewIdx = w.crewIdx := rfl
@[simp] theorem Wave.issueUnch_shape (w : Wave) (rs : List Nat) (u : Unch) : (w.issueUnch rs u).shape = w.shape := rfl
@[simp] theorem Wave.issueUnch_phase (w : Wave) (rs : List Nat) (u : Unch) : (w.issueUnch rs u).phase = w.phase := rfl
@[simp] theorem Wave.issueUnch_ctx (w : Wave) (rs : List Nat) (u : Unch) : (w.issueUnch rs u).ctx = w.ctx := rfl
@[simp] theorem Wave.issueUnch_quantum (w : Wave) (rs : List Nat) (u : Unch) : (w.issueUnch rs u).quantum = w.quantum := rfl
@[simp] theorem Wave.issueUnch_pc (w : Wave) (rs : List Nat) (u : Unch) : (w.issueUnch rs u).pc = w.pc := rfl
@[simp] theorem Wave.issueUnch_jumped (w : Wave) (rs : List Nat) (u : Unch) : (w.issueUnch rs u).jumped = w.jumped := rfl
@[simp] theorem Wave.issueUnch_sys (w : Wave) (rs : List Nat) (u : Unch) : (w.issueUnch rs u).sys = w.sys := rfl
@[simp] theorem Wave.issueUnch_s (w : Wave) (rs : List Nat) (u : Unch) : (w.issueUnch rs u).s = w.s := rfl
@[simp] theorem Wave.issueUnch_sret (w : Wave) (rs : List Nat) (u : Unch) : (w.issueUnch rs u).sret = w.sret := rfl
@[simp] theorem Wave.issueUnch_d (w : Wave) (rs : List Nat) (u : Unch) : (w.issueUnch rs u).d = w.d := rfl
@[simp] theorem Wave.issueUnch_v (w : Wave) (rs : List Nat) (u : Unch) : (w.issueUnch rs u).v = w.v := rfl
@[simp] theorem Wave.issueUnch_m (w : Wave) (rs : List Nat) (u : Unch) : (w.issueUnch rs u).m = w.m := rfl
@[simp] theorem Wave.issueUnch_acc (w : Wave) (rs : List Nat) (u : Unch) : (w.issueUnch rs u).acc = w.acc := rfl
@[simp] theorem Wave.issueUnch_anchor (w : Wave) (rs : List Nat) (u : Unch) : (w.issueUnch rs u).anchor = w.anchor := rfl
@[simp] theorem Wave.issueUnch_lm (w : Wave) (rs : List Nat) (u : Unch) : (w.issueUnch rs u).lm = w.lm := rfl
@[simp] theorem Wave.issueUnch_lmBad (w : Wave) (rs : List Nat) (u : Unch) : (w.issueUnch rs u).lmBad = w.lmBad := rfl
@[simp] theorem Wave.issueUnch_rng (w : Wave) (rs : List Nat) (u : Unch) : (w.issueUnch rs u).rng = w.rng := rfl
@[simp] theorem Wave.issueUnch_q (w : Wave) (rs : List Nat) (u : Unch) : (w.issueUnch rs u).q = w.q := rfl
@[simp] theorem Wave.issueUnch_rngseed (w : Wave) (rs : List Nat) (u : Unch) : (w.issueUnch rs u).rngseed = w.rngseed := rfl
@[simp] theorem Wave.issueUnch_wrapOk (w : Wave) (rs : List Nat) (u : Unch) : (w.issueUnch rs u).wrapOk = w.wrapOk := rfl
@[simp] theorem Wave.issueUnch_fptrap (w : Wave) (rs : List Nat) (u : Unch) : (w.issueUnch rs u).fptrap = w.fptrap := rfl
@[simp] theorem Wave.issueUnch_cause (w : Wave) (rs : List Nat) (u : Unch) : (w.issueUnch rs u).cause = w.cause := rfl
@[simp] theorem Wave.issueUnch_firstCause (w : Wave) (rs : List Nat) (u : Unch) : (w.issueUnch rs u).firstCause = w.firstCause := rfl
@[simp] theorem Wave.issueUnch_epc (w : Wave) (rs : List Nat) (u : Unch) : (w.issueUnch rs u).epc = w.epc := rfl
@[simp] theorem Wave.issueUnch_elpc (w : Wave) (rs : List Nat) (u : Unch) : (w.issueUnch rs u).elpc = w.elpc := rfl
@[simp] theorem Wave.issueUnch_eword (w : Wave) (rs : List Nat) (u : Unch) : (w.issueUnch rs u).eword = w.eword := rfl
@[simp] theorem Wave.issueUnch_fva (w : Wave) (rs : List Nat) (u : Unch) : (w.issueUnch rs u).fva = w.fva := rfl
@[simp] theorem Wave.issueUnch_kind (w : Wave) (rs : List Nat) (u : Unch) : (w.issueUnch rs u).kind = w.kind := rfl
@[simp] theorem Wave.issueUnch_drop (w : Wave) (rs : List Nat) (u : Unch) : (w.issueUnch rs u).drop = w.drop := rfl
@[simp] theorem Wave.issueUnch_stepArmed (w : Wave) (rs : List Nat) (u : Unch) : (w.issueUnch rs u).stepArmed = w.stepArmed := rfl
@[simp] theorem Wave.issueUnch_lstep (w : Wave) (rs : List Nat) (u : Unch) : (w.issueUnch rs u).lstep = w.lstep := rfl
@[simp] theorem Wave.issueUnch_rpc (w : Wave) (rs : List Nat) (u : Unch) : (w.issueUnch rs u).rpc = w.rpc := rfl
@[simp] theorem Wave.issueUnch_cpf (w : Wave) (rs : List Nat) (u : Unch) : (w.issueUnch rs u).cpf = w.cpf := rfl
@[simp] theorem Wave.issueUnch_cpr (w : Wave) (rs : List Nat) (u : Unch) : (w.issueUnch rs u).cpr = w.cpr := rfl
@[simp] theorem Wave.issueUnch_lq (w : Wave) (rs : List Nat) (u : Unch) : (w.issueUnch rs u).lq = w.lq := rfl
@[simp] theorem Wave.issueUnch_aside (w : Wave) (rs : List Nat) (u : Unch) : (w.issueUnch rs u).aside = w.aside := rfl
@[simp] theorem Wave.issueUnch_parked (w : Wave) (rs : List Nat) (u : Unch) : (w.issueUnch rs u).parked = w.parked := rfl
@[simp] theorem Wave.issueUnch_stq (w : Wave) (rs : List Nat) (u : Unch) : (w.issueUnch rs u).stq = w.stq := rfl
@[simp] theorem Wave.issueUnch_ticket (w : Wave) (rs : List Nat) (u : Unch) : (w.issueUnch rs u).ticket = w.ticket := rfl
@[simp] theorem Wave.issueUnch_ops (w : Wave) (rs : List Nat) (u : Unch) : (w.issueUnch rs u).ops = w.ops := rfl
@[simp] theorem Wave.issueUnch_sweepId (w : Wave) (rs : List Nat) (u : Unch) : (w.issueUnch rs u).sweepId = w.sweepId := rfl
@[simp] theorem Wave.issueUnch_sweeps (w : Wave) (rs : List Nat) (u : Unch) : (w.issueUnch rs u).sweeps = w.sweeps := rfl
@[simp] theorem Wave.issueUnch_binder (w : Wave) (rs : List Nat) (u : Unch) : (w.issueUnch rs u).binder = w.binder := rfl
@[simp] theorem Wave.issueUnch_swTaken (w : Wave) (rs : List Nat) (u : Unch) : (w.issueUnch rs u).swTaken = w.swTaken := rfl
@[simp] theorem Wave.issueUnch_stgAt (w : Wave) (rs : List Nat) (u : Unch) : (w.issueUnch rs u).stgAt = w.stgAt := rfl
@[simp] theorem Wave.issueUnch_sbGrant (w : Wave) (rs : List Nat) (u : Unch) : (w.issueUnch rs u).sbGrant = w.sbGrant := rfl
@[simp] theorem Wave.issueUnch_arr (w : Wave) (rs : List Nat) (u : Unch) : (w.issueUnch rs u).arr = w.arr := rfl
@[simp] theorem Wave.issueUnch_barAt (w : Wave) (rs : List Nat) (u : Unch) : (w.issueUnch rs u).barAt = w.barAt := rfl
@[simp] theorem Wave.issueUnch_barWait (w : Wave) (rs : List Nat) (u : Unch) : (w.issueUnch rs u).barWait = w.barWait := rfl
@[simp] theorem Wave.issueUnch_qn (w : Wave) (rs : List Nat) (u : Unch) : (w.issueUnch rs u).qn = w.qn := rfl
@[simp] theorem Wave.issueUnch_qcount (w : Wave) (rs : List Nat) (u : Unch) : (w.issueUnch rs u).qcount = w.qcount := rfl
@[simp] theorem Wave.issueUnch_qused (w : Wave) (rs : List Nat) (u : Unch) : (w.issueUnch rs u).qused = w.qused := rfl
@[simp] theorem Wave.issueUnch_qended (w : Wave) (rs : List Nat) (u : Unch) : (w.issueUnch rs u).qended = w.qended := rfl
@[simp] theorem Wave.issueUnch_qlane (w : Wave) (rs : List Nat) (u : Unch) : (w.issueUnch rs u).qlane = w.qlane := rfl
@[simp] theorem Wave.issueUnch_qagain (w : Wave) (rs : List Nat) (u : Unch) : (w.issueUnch rs u).qagain = w.qagain := rfl
@[simp] theorem Wave.issueUnch_qexp (w : Wave) (rs : List Nat) (u : Unch) : (w.issueUnch rs u).qexp = w.qexp := rfl
@[simp] theorem Wave.issueUnch_qlw (w : Wave) (rs : List Nat) (u : Unch) : (w.issueUnch rs u).qlw = w.qlw := rfl
@[simp] theorem Wave.issueUnch_qbefore (w : Wave) (rs : List Nat) (u : Unch) : (w.issueUnch rs u).qbefore = w.qbefore := rfl
@[simp] theorem Wave.issueUnch_qheld (w : Wave) (rs : List Nat) (u : Unch) : (w.issueUnch rs u).qheld = w.qheld := rfl
@[simp] theorem Wave.issueUnch_qahead (w : Wave) (rs : List Nat) (u : Unch) : (w.issueUnch rs u).qahead = w.qahead := rfl
@[simp] theorem Wave.issueUnch_buf (w : Wave) (rs : List Nat) (u : Unch) : (w.issueUnch rs u).buf = w.buf := rfl
@[simp] theorem Wave.issueUnch_ret (w : Wave) (rs : List Nat) (u : Unch) : (w.issueUnch rs u).ret = w.ret := rfl
@[simp] theorem Wave.issueUnch_retAcq (w : Wave) (rs : List Nat) (u : Unch) : (w.issueUnch rs u).retAcq = w.retAcq := rfl
@[simp] theorem Wave.issueUnch_pushWait (w : Wave) (rs : List Nat) (u : Unch) : (w.issueUnch rs u).pushWait = w.pushWait := rfl
@[simp] theorem Wave.issueUnch_slotAt (w : Wave) (rs : List Nat) (u : Unch) : (w.issueUnch rs u).slotAt = w.slotAt := rfl
@[simp] theorem Wave.issueUnch_pushAt (w : Wave) (rs : List Nat) (u : Unch) : (w.issueUnch rs u).pushAt = w.pushAt := rfl
@[simp] theorem Wave.issueUnch_wdog (w : Wave) (rs : List Nat) (u : Unch) : (w.issueUnch rs u).wdog = w.wdog := rfl
@[simp] theorem Wave.issueUnch_wdogLim (w : Wave) (rs : List Nat) (u : Unch) : (w.issueUnch rs u).wdogLim = w.wdogLim := rfl
@[simp] theorem Wave.issueUnch_stepping (w : Wave) (rs : List Nat) (u : Unch) : (w.issueUnch rs u).stepping = w.stepping := rfl
@[simp] theorem Wave.issueUnch_stepWait (w : Wave) (rs : List Nat) (u : Unch) : (w.issueUnch rs u).stepWait = w.stepWait := rfl
@[simp] theorem Wave.issueUnch_trapping (w : Wave) (rs : List Nat) (u : Unch) : (w.issueUnch rs u).trapping = w.trapping := rfl
@[simp] theorem Wave.issueUnch_issued (w : Wave) (rs : List Nat) (u : Unch) : (w.issueUnch rs u).issued = w.issued := rfl
@[simp] theorem Wave.issueUnch_counts (w : Wave) (rs : List Nat) (u : Unch) : (w.issueUnch rs u).counts = w.counts := rfl
@[simp] theorem Wave.issueUnch_blocked (w : Wave) (rs : List Nat) (u : Unch) : (w.issueUnch rs u).blocked = w.blocked := rfl
@[simp] theorem Wave.issueUnch_laneBlocked (w : Wave) (rs : List Nat) (u : Unch) : (w.issueUnch rs u).laneBlocked = w.laneBlocked := rfl

@[simp] theorem Wave.setStream_life (w : Wave) (n : Nat) (x : Stream) : (w.setStream n x).life = w.life := rfl
@[simp] theorem Wave.setStream_core (w : Wave) (n : Nat) (x : Stream) : (w.setStream n x).core = w.core := rfl
@[simp] theorem Wave.setStream_slot (w : Wave) (n : Nat) (x : Stream) : (w.setStream n x).slot = w.slot := rfl
@[simp] theorem Wave.setStream_py (w : Wave) (n : Nat) (x : Stream) : (w.setStream n x).py = w.py := rfl
@[simp] theorem Wave.setStream_px (w : Wave) (n : Nat) (x : Stream) : (w.setStream n x).px = w.px := rfl
@[simp] theorem Wave.setStream_crew (w : Wave) (n : Nat) (x : Stream) : (w.setStream n x).crew = w.crew := rfl
@[simp] theorem Wave.setStream_widx (w : Wave) (n : Nat) (x : Stream) : (w.setStream n x).widx = w.widx := rfl
@[simp] theorem Wave.setStream_crewIdx (w : Wave) (n : Nat) (x : Stream) : (w.setStream n x).crewIdx = w.crewIdx := rfl
@[simp] theorem Wave.setStream_shape (w : Wave) (n : Nat) (x : Stream) : (w.setStream n x).shape = w.shape := rfl
@[simp] theorem Wave.setStream_phase (w : Wave) (n : Nat) (x : Stream) : (w.setStream n x).phase = w.phase := rfl
@[simp] theorem Wave.setStream_ctx (w : Wave) (n : Nat) (x : Stream) : (w.setStream n x).ctx = w.ctx := rfl
@[simp] theorem Wave.setStream_quantum (w : Wave) (n : Nat) (x : Stream) : (w.setStream n x).quantum = w.quantum := rfl
@[simp] theorem Wave.setStream_pc (w : Wave) (n : Nat) (x : Stream) : (w.setStream n x).pc = w.pc := rfl
@[simp] theorem Wave.setStream_jumped (w : Wave) (n : Nat) (x : Stream) : (w.setStream n x).jumped = w.jumped := rfl
@[simp] theorem Wave.setStream_sys (w : Wave) (n : Nat) (x : Stream) : (w.setStream n x).sys = w.sys := rfl
@[simp] theorem Wave.setStream_s (w : Wave) (n : Nat) (x : Stream) : (w.setStream n x).s = w.s := rfl
@[simp] theorem Wave.setStream_sret (w : Wave) (n : Nat) (x : Stream) : (w.setStream n x).sret = w.sret := rfl
@[simp] theorem Wave.setStream_d (w : Wave) (n : Nat) (x : Stream) : (w.setStream n x).d = w.d := rfl
@[simp] theorem Wave.setStream_v (w : Wave) (n : Nat) (x : Stream) : (w.setStream n x).v = w.v := rfl
@[simp] theorem Wave.setStream_m (w : Wave) (n : Nat) (x : Stream) : (w.setStream n x).m = w.m := rfl
@[simp] theorem Wave.setStream_acc (w : Wave) (n : Nat) (x : Stream) : (w.setStream n x).acc = w.acc := rfl
@[simp] theorem Wave.setStream_anchor (w : Wave) (n : Nat) (x : Stream) : (w.setStream n x).anchor = w.anchor := rfl
@[simp] theorem Wave.setStream_lm (w : Wave) (n : Nat) (x : Stream) : (w.setStream n x).lm = w.lm := rfl
@[simp] theorem Wave.setStream_lmBad (w : Wave) (n : Nat) (x : Stream) : (w.setStream n x).lmBad = w.lmBad := rfl
@[simp] theorem Wave.setStream_rng (w : Wave) (n : Nat) (x : Stream) : (w.setStream n x).rng = w.rng := rfl
@[simp] theorem Wave.setStream_rngseed (w : Wave) (n : Nat) (x : Stream) : (w.setStream n x).rngseed = w.rngseed := rfl
@[simp] theorem Wave.setStream_wrapOk (w : Wave) (n : Nat) (x : Stream) : (w.setStream n x).wrapOk = w.wrapOk := rfl
@[simp] theorem Wave.setStream_fptrap (w : Wave) (n : Nat) (x : Stream) : (w.setStream n x).fptrap = w.fptrap := rfl
@[simp] theorem Wave.setStream_cause (w : Wave) (n : Nat) (x : Stream) : (w.setStream n x).cause = w.cause := rfl
@[simp] theorem Wave.setStream_firstCause (w : Wave) (n : Nat) (x : Stream) : (w.setStream n x).firstCause = w.firstCause := rfl
@[simp] theorem Wave.setStream_epc (w : Wave) (n : Nat) (x : Stream) : (w.setStream n x).epc = w.epc := rfl
@[simp] theorem Wave.setStream_elpc (w : Wave) (n : Nat) (x : Stream) : (w.setStream n x).elpc = w.elpc := rfl
@[simp] theorem Wave.setStream_eword (w : Wave) (n : Nat) (x : Stream) : (w.setStream n x).eword = w.eword := rfl
@[simp] theorem Wave.setStream_fva (w : Wave) (n : Nat) (x : Stream) : (w.setStream n x).fva = w.fva := rfl
@[simp] theorem Wave.setStream_kind (w : Wave) (n : Nat) (x : Stream) : (w.setStream n x).kind = w.kind := rfl
@[simp] theorem Wave.setStream_drop (w : Wave) (n : Nat) (x : Stream) : (w.setStream n x).drop = w.drop := rfl
@[simp] theorem Wave.setStream_stepArmed (w : Wave) (n : Nat) (x : Stream) : (w.setStream n x).stepArmed = w.stepArmed := rfl
@[simp] theorem Wave.setStream_lstep (w : Wave) (n : Nat) (x : Stream) : (w.setStream n x).lstep = w.lstep := rfl
@[simp] theorem Wave.setStream_rpc (w : Wave) (n : Nat) (x : Stream) : (w.setStream n x).rpc = w.rpc := rfl
@[simp] theorem Wave.setStream_cpf (w : Wave) (n : Nat) (x : Stream) : (w.setStream n x).cpf = w.cpf := rfl
@[simp] theorem Wave.setStream_cpr (w : Wave) (n : Nat) (x : Stream) : (w.setStream n x).cpr = w.cpr := rfl
@[simp] theorem Wave.setStream_lq (w : Wave) (n : Nat) (x : Stream) : (w.setStream n x).lq = w.lq := rfl
@[simp] theorem Wave.setStream_aside (w : Wave) (n : Nat) (x : Stream) : (w.setStream n x).aside = w.aside := rfl
@[simp] theorem Wave.setStream_pend (w : Wave) (n : Nat) (x : Stream) : (w.setStream n x).pend = w.pend := rfl
@[simp] theorem Wave.setStream_unch (w : Wave) (n : Nat) (x : Stream) : (w.setStream n x).unch = w.unch := rfl
@[simp] theorem Wave.setStream_parked (w : Wave) (n : Nat) (x : Stream) : (w.setStream n x).parked = w.parked := rfl
@[simp] theorem Wave.setStream_stq (w : Wave) (n : Nat) (x : Stream) : (w.setStream n x).stq = w.stq := rfl
@[simp] theorem Wave.setStream_ticket (w : Wave) (n : Nat) (x : Stream) : (w.setStream n x).ticket = w.ticket := rfl
@[simp] theorem Wave.setStream_ops (w : Wave) (n : Nat) (x : Stream) : (w.setStream n x).ops = w.ops := rfl
@[simp] theorem Wave.setStream_sweepId (w : Wave) (n : Nat) (x : Stream) : (w.setStream n x).sweepId = w.sweepId := rfl
@[simp] theorem Wave.setStream_sweeps (w : Wave) (n : Nat) (x : Stream) : (w.setStream n x).sweeps = w.sweeps := rfl
@[simp] theorem Wave.setStream_binder (w : Wave) (n : Nat) (x : Stream) : (w.setStream n x).binder = w.binder := rfl
@[simp] theorem Wave.setStream_swTaken (w : Wave) (n : Nat) (x : Stream) : (w.setStream n x).swTaken = w.swTaken := rfl
@[simp] theorem Wave.setStream_stgAt (w : Wave) (n : Nat) (x : Stream) : (w.setStream n x).stgAt = w.stgAt := rfl
@[simp] theorem Wave.setStream_sbGrant (w : Wave) (n : Nat) (x : Stream) : (w.setStream n x).sbGrant = w.sbGrant := rfl
@[simp] theorem Wave.setStream_arr (w : Wave) (n : Nat) (x : Stream) : (w.setStream n x).arr = w.arr := rfl
@[simp] theorem Wave.setStream_barAt (w : Wave) (n : Nat) (x : Stream) : (w.setStream n x).barAt = w.barAt := rfl
@[simp] theorem Wave.setStream_barWait (w : Wave) (n : Nat) (x : Stream) : (w.setStream n x).barWait = w.barWait := rfl
@[simp] theorem Wave.setStream_qn (w : Wave) (n : Nat) (x : Stream) : (w.setStream n x).qn = w.qn := rfl
@[simp] theorem Wave.setStream_qcount (w : Wave) (n : Nat) (x : Stream) : (w.setStream n x).qcount = w.qcount := rfl
@[simp] theorem Wave.setStream_qused (w : Wave) (n : Nat) (x : Stream) : (w.setStream n x).qused = w.qused := rfl
@[simp] theorem Wave.setStream_qended (w : Wave) (n : Nat) (x : Stream) : (w.setStream n x).qended = w.qended := rfl
@[simp] theorem Wave.setStream_qlane (w : Wave) (n : Nat) (x : Stream) : (w.setStream n x).qlane = w.qlane := rfl
@[simp] theorem Wave.setStream_qagain (w : Wave) (n : Nat) (x : Stream) : (w.setStream n x).qagain = w.qagain := rfl
@[simp] theorem Wave.setStream_qexp (w : Wave) (n : Nat) (x : Stream) : (w.setStream n x).qexp = w.qexp := rfl
@[simp] theorem Wave.setStream_qlw (w : Wave) (n : Nat) (x : Stream) : (w.setStream n x).qlw = w.qlw := rfl
@[simp] theorem Wave.setStream_qbefore (w : Wave) (n : Nat) (x : Stream) : (w.setStream n x).qbefore = w.qbefore := rfl
@[simp] theorem Wave.setStream_qheld (w : Wave) (n : Nat) (x : Stream) : (w.setStream n x).qheld = w.qheld := rfl
@[simp] theorem Wave.setStream_qahead (w : Wave) (n : Nat) (x : Stream) : (w.setStream n x).qahead = w.qahead := rfl
@[simp] theorem Wave.setStream_buf (w : Wave) (n : Nat) (x : Stream) : (w.setStream n x).buf = w.buf := rfl
@[simp] theorem Wave.setStream_ret (w : Wave) (n : Nat) (x : Stream) : (w.setStream n x).ret = w.ret := rfl
@[simp] theorem Wave.setStream_retAcq (w : Wave) (n : Nat) (x : Stream) : (w.setStream n x).retAcq = w.retAcq := rfl
@[simp] theorem Wave.setStream_pushWait (w : Wave) (n : Nat) (x : Stream) : (w.setStream n x).pushWait = w.pushWait := rfl
@[simp] theorem Wave.setStream_slotAt (w : Wave) (n : Nat) (x : Stream) : (w.setStream n x).slotAt = w.slotAt := rfl
@[simp] theorem Wave.setStream_pushAt (w : Wave) (n : Nat) (x : Stream) : (w.setStream n x).pushAt = w.pushAt := rfl
@[simp] theorem Wave.setStream_wdog (w : Wave) (n : Nat) (x : Stream) : (w.setStream n x).wdog = w.wdog := rfl
@[simp] theorem Wave.setStream_wdogLim (w : Wave) (n : Nat) (x : Stream) : (w.setStream n x).wdogLim = w.wdogLim := rfl
@[simp] theorem Wave.setStream_stepping (w : Wave) (n : Nat) (x : Stream) : (w.setStream n x).stepping = w.stepping := rfl
@[simp] theorem Wave.setStream_stepWait (w : Wave) (n : Nat) (x : Stream) : (w.setStream n x).stepWait = w.stepWait := rfl
@[simp] theorem Wave.setStream_trapping (w : Wave) (n : Nat) (x : Stream) : (w.setStream n x).trapping = w.trapping := rfl
@[simp] theorem Wave.setStream_issued (w : Wave) (n : Nat) (x : Stream) : (w.setStream n x).issued = w.issued := rfl
@[simp] theorem Wave.setStream_counts (w : Wave) (n : Nat) (x : Stream) : (w.setStream n x).counts = w.counts := rfl
@[simp] theorem Wave.setStream_blocked (w : Wave) (n : Nat) (x : Stream) : (w.setStream n x).blocked = w.blocked := rfl
@[simp] theorem Wave.setStream_laneBlocked (w : Wave) (n : Nat) (x : Stream) : (w.setStream n x).laneBlocked = w.laneBlocked := rfl

@[simp] theorem Wave.addKinds_life (w : Wave) (t : Nat) (ks : List (BitVec 4)) : (w.addKinds t ks).life = w.life := rfl
@[simp] theorem Wave.addKinds_core (w : Wave) (t : Nat) (ks : List (BitVec 4)) : (w.addKinds t ks).core = w.core := rfl
@[simp] theorem Wave.addKinds_slot (w : Wave) (t : Nat) (ks : List (BitVec 4)) : (w.addKinds t ks).slot = w.slot := rfl
@[simp] theorem Wave.addKinds_py (w : Wave) (t : Nat) (ks : List (BitVec 4)) : (w.addKinds t ks).py = w.py := rfl
@[simp] theorem Wave.addKinds_px (w : Wave) (t : Nat) (ks : List (BitVec 4)) : (w.addKinds t ks).px = w.px := rfl
@[simp] theorem Wave.addKinds_crew (w : Wave) (t : Nat) (ks : List (BitVec 4)) : (w.addKinds t ks).crew = w.crew := rfl
@[simp] theorem Wave.addKinds_widx (w : Wave) (t : Nat) (ks : List (BitVec 4)) : (w.addKinds t ks).widx = w.widx := rfl
@[simp] theorem Wave.addKinds_crewIdx (w : Wave) (t : Nat) (ks : List (BitVec 4)) : (w.addKinds t ks).crewIdx = w.crewIdx := rfl
@[simp] theorem Wave.addKinds_shape (w : Wave) (t : Nat) (ks : List (BitVec 4)) : (w.addKinds t ks).shape = w.shape := rfl
@[simp] theorem Wave.addKinds_phase (w : Wave) (t : Nat) (ks : List (BitVec 4)) : (w.addKinds t ks).phase = w.phase := rfl
@[simp] theorem Wave.addKinds_ctx (w : Wave) (t : Nat) (ks : List (BitVec 4)) : (w.addKinds t ks).ctx = w.ctx := rfl
@[simp] theorem Wave.addKinds_quantum (w : Wave) (t : Nat) (ks : List (BitVec 4)) : (w.addKinds t ks).quantum = w.quantum := rfl
@[simp] theorem Wave.addKinds_pc (w : Wave) (t : Nat) (ks : List (BitVec 4)) : (w.addKinds t ks).pc = w.pc := rfl
@[simp] theorem Wave.addKinds_jumped (w : Wave) (t : Nat) (ks : List (BitVec 4)) : (w.addKinds t ks).jumped = w.jumped := rfl
@[simp] theorem Wave.addKinds_sys (w : Wave) (t : Nat) (ks : List (BitVec 4)) : (w.addKinds t ks).sys = w.sys := rfl
@[simp] theorem Wave.addKinds_s (w : Wave) (t : Nat) (ks : List (BitVec 4)) : (w.addKinds t ks).s = w.s := rfl
@[simp] theorem Wave.addKinds_sret (w : Wave) (t : Nat) (ks : List (BitVec 4)) : (w.addKinds t ks).sret = w.sret := rfl
@[simp] theorem Wave.addKinds_d (w : Wave) (t : Nat) (ks : List (BitVec 4)) : (w.addKinds t ks).d = w.d := rfl
@[simp] theorem Wave.addKinds_v (w : Wave) (t : Nat) (ks : List (BitVec 4)) : (w.addKinds t ks).v = w.v := rfl
@[simp] theorem Wave.addKinds_m (w : Wave) (t : Nat) (ks : List (BitVec 4)) : (w.addKinds t ks).m = w.m := rfl
@[simp] theorem Wave.addKinds_acc (w : Wave) (t : Nat) (ks : List (BitVec 4)) : (w.addKinds t ks).acc = w.acc := rfl
@[simp] theorem Wave.addKinds_anchor (w : Wave) (t : Nat) (ks : List (BitVec 4)) : (w.addKinds t ks).anchor = w.anchor := rfl
@[simp] theorem Wave.addKinds_lm (w : Wave) (t : Nat) (ks : List (BitVec 4)) : (w.addKinds t ks).lm = w.lm := rfl
@[simp] theorem Wave.addKinds_lmBad (w : Wave) (t : Nat) (ks : List (BitVec 4)) : (w.addKinds t ks).lmBad = w.lmBad := rfl
@[simp] theorem Wave.addKinds_rng (w : Wave) (t : Nat) (ks : List (BitVec 4)) : (w.addKinds t ks).rng = w.rng := rfl
@[simp] theorem Wave.addKinds_q (w : Wave) (t : Nat) (ks : List (BitVec 4)) : (w.addKinds t ks).q = w.q := rfl
@[simp] theorem Wave.addKinds_rngseed (w : Wave) (t : Nat) (ks : List (BitVec 4)) : (w.addKinds t ks).rngseed = w.rngseed := rfl
@[simp] theorem Wave.addKinds_wrapOk (w : Wave) (t : Nat) (ks : List (BitVec 4)) : (w.addKinds t ks).wrapOk = w.wrapOk := rfl
@[simp] theorem Wave.addKinds_fptrap (w : Wave) (t : Nat) (ks : List (BitVec 4)) : (w.addKinds t ks).fptrap = w.fptrap := rfl
@[simp] theorem Wave.addKinds_cause (w : Wave) (t : Nat) (ks : List (BitVec 4)) : (w.addKinds t ks).cause = w.cause := rfl
@[simp] theorem Wave.addKinds_firstCause (w : Wave) (t : Nat) (ks : List (BitVec 4)) : (w.addKinds t ks).firstCause = w.firstCause := rfl
@[simp] theorem Wave.addKinds_epc (w : Wave) (t : Nat) (ks : List (BitVec 4)) : (w.addKinds t ks).epc = w.epc := rfl
@[simp] theorem Wave.addKinds_elpc (w : Wave) (t : Nat) (ks : List (BitVec 4)) : (w.addKinds t ks).elpc = w.elpc := rfl
@[simp] theorem Wave.addKinds_eword (w : Wave) (t : Nat) (ks : List (BitVec 4)) : (w.addKinds t ks).eword = w.eword := rfl
@[simp] theorem Wave.addKinds_fva (w : Wave) (t : Nat) (ks : List (BitVec 4)) : (w.addKinds t ks).fva = w.fva := rfl
@[simp] theorem Wave.addKinds_kind (w : Wave) (t : Nat) (ks : List (BitVec 4)) : (w.addKinds t ks).kind = w.kind := rfl
@[simp] theorem Wave.addKinds_drop (w : Wave) (t : Nat) (ks : List (BitVec 4)) : (w.addKinds t ks).drop = w.drop := rfl
@[simp] theorem Wave.addKinds_stepArmed (w : Wave) (t : Nat) (ks : List (BitVec 4)) : (w.addKinds t ks).stepArmed = w.stepArmed := rfl
@[simp] theorem Wave.addKinds_lstep (w : Wave) (t : Nat) (ks : List (BitVec 4)) : (w.addKinds t ks).lstep = w.lstep := rfl
@[simp] theorem Wave.addKinds_rpc (w : Wave) (t : Nat) (ks : List (BitVec 4)) : (w.addKinds t ks).rpc = w.rpc := rfl
@[simp] theorem Wave.addKinds_cpf (w : Wave) (t : Nat) (ks : List (BitVec 4)) : (w.addKinds t ks).cpf = w.cpf := rfl
@[simp] theorem Wave.addKinds_cpr (w : Wave) (t : Nat) (ks : List (BitVec 4)) : (w.addKinds t ks).cpr = w.cpr := rfl
@[simp] theorem Wave.addKinds_lq (w : Wave) (t : Nat) (ks : List (BitVec 4)) : (w.addKinds t ks).lq = w.lq := rfl
@[simp] theorem Wave.addKinds_aside (w : Wave) (t : Nat) (ks : List (BitVec 4)) : (w.addKinds t ks).aside = w.aside := rfl
@[simp] theorem Wave.addKinds_pend (w : Wave) (t : Nat) (ks : List (BitVec 4)) : (w.addKinds t ks).pend = w.pend := rfl
@[simp] theorem Wave.addKinds_unch (w : Wave) (t : Nat) (ks : List (BitVec 4)) : (w.addKinds t ks).unch = w.unch := rfl
@[simp] theorem Wave.addKinds_parked (w : Wave) (t : Nat) (ks : List (BitVec 4)) : (w.addKinds t ks).parked = w.parked := rfl
@[simp] theorem Wave.addKinds_stq (w : Wave) (t : Nat) (ks : List (BitVec 4)) : (w.addKinds t ks).stq = w.stq := rfl
@[simp] theorem Wave.addKinds_ticket (w : Wave) (t : Nat) (ks : List (BitVec 4)) : (w.addKinds t ks).ticket = w.ticket := rfl
@[simp] theorem Wave.addKinds_ops (w : Wave) (t : Nat) (ks : List (BitVec 4)) : (w.addKinds t ks).ops = w.ops := rfl
@[simp] theorem Wave.addKinds_sweepId (w : Wave) (t : Nat) (ks : List (BitVec 4)) : (w.addKinds t ks).sweepId = w.sweepId := rfl
@[simp] theorem Wave.addKinds_sweeps (w : Wave) (t : Nat) (ks : List (BitVec 4)) : (w.addKinds t ks).sweeps = w.sweeps := rfl
@[simp] theorem Wave.addKinds_binder (w : Wave) (t : Nat) (ks : List (BitVec 4)) : (w.addKinds t ks).binder = w.binder := rfl
@[simp] theorem Wave.addKinds_swTaken (w : Wave) (t : Nat) (ks : List (BitVec 4)) : (w.addKinds t ks).swTaken = w.swTaken := rfl
@[simp] theorem Wave.addKinds_stgAt (w : Wave) (t : Nat) (ks : List (BitVec 4)) : (w.addKinds t ks).stgAt = w.stgAt := rfl
@[simp] theorem Wave.addKinds_sbGrant (w : Wave) (t : Nat) (ks : List (BitVec 4)) : (w.addKinds t ks).sbGrant = w.sbGrant := rfl
@[simp] theorem Wave.addKinds_arr (w : Wave) (t : Nat) (ks : List (BitVec 4)) : (w.addKinds t ks).arr = w.arr := rfl
@[simp] theorem Wave.addKinds_barAt (w : Wave) (t : Nat) (ks : List (BitVec 4)) : (w.addKinds t ks).barAt = w.barAt := rfl
@[simp] theorem Wave.addKinds_barWait (w : Wave) (t : Nat) (ks : List (BitVec 4)) : (w.addKinds t ks).barWait = w.barWait := rfl
@[simp] theorem Wave.addKinds_qn (w : Wave) (t : Nat) (ks : List (BitVec 4)) : (w.addKinds t ks).qn = w.qn := rfl
@[simp] theorem Wave.addKinds_qcount (w : Wave) (t : Nat) (ks : List (BitVec 4)) : (w.addKinds t ks).qcount = w.qcount := rfl
@[simp] theorem Wave.addKinds_qused (w : Wave) (t : Nat) (ks : List (BitVec 4)) : (w.addKinds t ks).qused = w.qused := rfl
@[simp] theorem Wave.addKinds_qended (w : Wave) (t : Nat) (ks : List (BitVec 4)) : (w.addKinds t ks).qended = w.qended := rfl
@[simp] theorem Wave.addKinds_qlane (w : Wave) (t : Nat) (ks : List (BitVec 4)) : (w.addKinds t ks).qlane = w.qlane := rfl
@[simp] theorem Wave.addKinds_qagain (w : Wave) (t : Nat) (ks : List (BitVec 4)) : (w.addKinds t ks).qagain = w.qagain := rfl
@[simp] theorem Wave.addKinds_qexp (w : Wave) (t : Nat) (ks : List (BitVec 4)) : (w.addKinds t ks).qexp = w.qexp := rfl
@[simp] theorem Wave.addKinds_qlw (w : Wave) (t : Nat) (ks : List (BitVec 4)) : (w.addKinds t ks).qlw = w.qlw := rfl
@[simp] theorem Wave.addKinds_qbefore (w : Wave) (t : Nat) (ks : List (BitVec 4)) : (w.addKinds t ks).qbefore = w.qbefore := rfl
@[simp] theorem Wave.addKinds_qheld (w : Wave) (t : Nat) (ks : List (BitVec 4)) : (w.addKinds t ks).qheld = w.qheld := rfl
@[simp] theorem Wave.addKinds_qahead (w : Wave) (t : Nat) (ks : List (BitVec 4)) : (w.addKinds t ks).qahead = w.qahead := rfl
@[simp] theorem Wave.addKinds_buf (w : Wave) (t : Nat) (ks : List (BitVec 4)) : (w.addKinds t ks).buf = w.buf := rfl
@[simp] theorem Wave.addKinds_ret (w : Wave) (t : Nat) (ks : List (BitVec 4)) : (w.addKinds t ks).ret = w.ret := rfl
@[simp] theorem Wave.addKinds_retAcq (w : Wave) (t : Nat) (ks : List (BitVec 4)) : (w.addKinds t ks).retAcq = w.retAcq := rfl
@[simp] theorem Wave.addKinds_pushWait (w : Wave) (t : Nat) (ks : List (BitVec 4)) : (w.addKinds t ks).pushWait = w.pushWait := rfl
@[simp] theorem Wave.addKinds_slotAt (w : Wave) (t : Nat) (ks : List (BitVec 4)) : (w.addKinds t ks).slotAt = w.slotAt := rfl
@[simp] theorem Wave.addKinds_pushAt (w : Wave) (t : Nat) (ks : List (BitVec 4)) : (w.addKinds t ks).pushAt = w.pushAt := rfl
@[simp] theorem Wave.addKinds_wdog (w : Wave) (t : Nat) (ks : List (BitVec 4)) : (w.addKinds t ks).wdog = w.wdog := rfl
@[simp] theorem Wave.addKinds_wdogLim (w : Wave) (t : Nat) (ks : List (BitVec 4)) : (w.addKinds t ks).wdogLim = w.wdogLim := rfl
@[simp] theorem Wave.addKinds_stepping (w : Wave) (t : Nat) (ks : List (BitVec 4)) : (w.addKinds t ks).stepping = w.stepping := rfl
@[simp] theorem Wave.addKinds_stepWait (w : Wave) (t : Nat) (ks : List (BitVec 4)) : (w.addKinds t ks).stepWait = w.stepWait := rfl
@[simp] theorem Wave.addKinds_trapping (w : Wave) (t : Nat) (ks : List (BitVec 4)) : (w.addKinds t ks).trapping = w.trapping := rfl
@[simp] theorem Wave.addKinds_issued (w : Wave) (t : Nat) (ks : List (BitVec 4)) : (w.addKinds t ks).issued = w.issued := rfl
@[simp] theorem Wave.addKinds_blocked (w : Wave) (t : Nat) (ks : List (BitVec 4)) : (w.addKinds t ks).blocked = w.blocked := rfl
@[simp] theorem Wave.addKinds_laneBlocked (w : Wave) (t : Nat) (ks : List (BitVec 4)) : (w.addKinds t ks).laneBlocked = w.laneBlocked := rfl

@[simp] theorem Wave.setKey_life (w : Wave) (k : Nat) (v : DWord) : (w.setKey k v).life = w.life := by
  unfold Wave.setKey; split <;> rfl
@[simp] theorem Wave.setKey_core (w : Wave) (k : Nat) (v : DWord) : (w.setKey k v).core = w.core := by
  unfold Wave.setKey; split <;> rfl
@[simp] theorem Wave.setKey_slot (w : Wave) (k : Nat) (v : DWord) : (w.setKey k v).slot = w.slot := by
  unfold Wave.setKey; split <;> rfl
@[simp] theorem Wave.setKey_py (w : Wave) (k : Nat) (v : DWord) : (w.setKey k v).py = w.py := by
  unfold Wave.setKey; split <;> rfl
@[simp] theorem Wave.setKey_px (w : Wave) (k : Nat) (v : DWord) : (w.setKey k v).px = w.px := by
  unfold Wave.setKey; split <;> rfl
@[simp] theorem Wave.setKey_crew (w : Wave) (k : Nat) (v : DWord) : (w.setKey k v).crew = w.crew := by
  unfold Wave.setKey; split <;> rfl
@[simp] theorem Wave.setKey_widx (w : Wave) (k : Nat) (v : DWord) : (w.setKey k v).widx = w.widx := by
  unfold Wave.setKey; split <;> rfl
@[simp] theorem Wave.setKey_crewIdx (w : Wave) (k : Nat) (v : DWord) : (w.setKey k v).crewIdx = w.crewIdx := by
  unfold Wave.setKey; split <;> rfl
@[simp] theorem Wave.setKey_shape (w : Wave) (k : Nat) (v : DWord) : (w.setKey k v).shape = w.shape := by
  unfold Wave.setKey; split <;> rfl
@[simp] theorem Wave.setKey_phase (w : Wave) (k : Nat) (v : DWord) : (w.setKey k v).phase = w.phase := by
  unfold Wave.setKey; split <;> rfl
@[simp] theorem Wave.setKey_ctx (w : Wave) (k : Nat) (v : DWord) : (w.setKey k v).ctx = w.ctx := by
  unfold Wave.setKey; split <;> rfl
@[simp] theorem Wave.setKey_quantum (w : Wave) (k : Nat) (v : DWord) : (w.setKey k v).quantum = w.quantum := by
  unfold Wave.setKey; split <;> rfl
@[simp] theorem Wave.setKey_pc (w : Wave) (k : Nat) (v : DWord) : (w.setKey k v).pc = w.pc := by
  unfold Wave.setKey; split <;> rfl
@[simp] theorem Wave.setKey_jumped (w : Wave) (k : Nat) (v : DWord) : (w.setKey k v).jumped = w.jumped := by
  unfold Wave.setKey; split <;> rfl
@[simp] theorem Wave.setKey_sys (w : Wave) (k : Nat) (v : DWord) : (w.setKey k v).sys = w.sys := by
  unfold Wave.setKey; split <;> rfl
@[simp] theorem Wave.setKey_d (w : Wave) (k : Nat) (v : DWord) : (w.setKey k v).d = w.d := by
  unfold Wave.setKey; split <;> rfl
@[simp] theorem Wave.setKey_v (w : Wave) (k : Nat) (v : DWord) : (w.setKey k v).v = w.v := by
  unfold Wave.setKey; split <;> rfl
@[simp] theorem Wave.setKey_m (w : Wave) (k : Nat) (v : DWord) : (w.setKey k v).m = w.m := by
  unfold Wave.setKey; split <;> rfl
@[simp] theorem Wave.setKey_acc (w : Wave) (k : Nat) (v : DWord) : (w.setKey k v).acc = w.acc := by
  unfold Wave.setKey; split <;> rfl
@[simp] theorem Wave.setKey_anchor (w : Wave) (k : Nat) (v : DWord) : (w.setKey k v).anchor = w.anchor := by
  unfold Wave.setKey; split <;> rfl
@[simp] theorem Wave.setKey_lm (w : Wave) (k : Nat) (v : DWord) : (w.setKey k v).lm = w.lm := by
  unfold Wave.setKey; split <;> rfl
@[simp] theorem Wave.setKey_lmBad (w : Wave) (k : Nat) (v : DWord) : (w.setKey k v).lmBad = w.lmBad := by
  unfold Wave.setKey; split <;> rfl
@[simp] theorem Wave.setKey_rng (w : Wave) (k : Nat) (v : DWord) : (w.setKey k v).rng = w.rng := by
  unfold Wave.setKey; split <;> rfl
@[simp] theorem Wave.setKey_q (w : Wave) (k : Nat) (v : DWord) : (w.setKey k v).q = w.q := by
  unfold Wave.setKey; split <;> rfl
@[simp] theorem Wave.setKey_rngseed (w : Wave) (k : Nat) (v : DWord) : (w.setKey k v).rngseed = w.rngseed := by
  unfold Wave.setKey; split <;> rfl
@[simp] theorem Wave.setKey_wrapOk (w : Wave) (k : Nat) (v : DWord) : (w.setKey k v).wrapOk = w.wrapOk := by
  unfold Wave.setKey; split <;> rfl
@[simp] theorem Wave.setKey_fptrap (w : Wave) (k : Nat) (v : DWord) : (w.setKey k v).fptrap = w.fptrap := by
  unfold Wave.setKey; split <;> rfl
@[simp] theorem Wave.setKey_cause (w : Wave) (k : Nat) (v : DWord) : (w.setKey k v).cause = w.cause := by
  unfold Wave.setKey; split <;> rfl
@[simp] theorem Wave.setKey_firstCause (w : Wave) (k : Nat) (v : DWord) : (w.setKey k v).firstCause = w.firstCause := by
  unfold Wave.setKey; split <;> rfl
@[simp] theorem Wave.setKey_epc (w : Wave) (k : Nat) (v : DWord) : (w.setKey k v).epc = w.epc := by
  unfold Wave.setKey; split <;> rfl
@[simp] theorem Wave.setKey_elpc (w : Wave) (k : Nat) (v : DWord) : (w.setKey k v).elpc = w.elpc := by
  unfold Wave.setKey; split <;> rfl
@[simp] theorem Wave.setKey_eword (w : Wave) (k : Nat) (v : DWord) : (w.setKey k v).eword = w.eword := by
  unfold Wave.setKey; split <;> rfl
@[simp] theorem Wave.setKey_fva (w : Wave) (k : Nat) (v : DWord) : (w.setKey k v).fva = w.fva := by
  unfold Wave.setKey; split <;> rfl
@[simp] theorem Wave.setKey_kind (w : Wave) (k : Nat) (v : DWord) : (w.setKey k v).kind = w.kind := by
  unfold Wave.setKey; split <;> rfl
@[simp] theorem Wave.setKey_drop (w : Wave) (k : Nat) (v : DWord) : (w.setKey k v).drop = w.drop := by
  unfold Wave.setKey; split <;> rfl
@[simp] theorem Wave.setKey_stepArmed (w : Wave) (k : Nat) (v : DWord) : (w.setKey k v).stepArmed = w.stepArmed := by
  unfold Wave.setKey; split <;> rfl
@[simp] theorem Wave.setKey_lstep (w : Wave) (k : Nat) (v : DWord) : (w.setKey k v).lstep = w.lstep := by
  unfold Wave.setKey; split <;> rfl
@[simp] theorem Wave.setKey_rpc (w : Wave) (k : Nat) (v : DWord) : (w.setKey k v).rpc = w.rpc := by
  unfold Wave.setKey; split <;> rfl
@[simp] theorem Wave.setKey_cpf (w : Wave) (k : Nat) (v : DWord) : (w.setKey k v).cpf = w.cpf := by
  unfold Wave.setKey; split <;> rfl
@[simp] theorem Wave.setKey_cpr (w : Wave) (k : Nat) (v : DWord) : (w.setKey k v).cpr = w.cpr := by
  unfold Wave.setKey; split <;> rfl
@[simp] theorem Wave.setKey_lq (w : Wave) (k : Nat) (v : DWord) : (w.setKey k v).lq = w.lq := by
  unfold Wave.setKey; split <;> rfl
@[simp] theorem Wave.setKey_aside (w : Wave) (k : Nat) (v : DWord) : (w.setKey k v).aside = w.aside := by
  unfold Wave.setKey; split <;> rfl
@[simp] theorem Wave.setKey_pend (w : Wave) (k : Nat) (v : DWord) : (w.setKey k v).pend = w.pend := by
  unfold Wave.setKey; split <;> rfl
@[simp] theorem Wave.setKey_unch (w : Wave) (k : Nat) (v : DWord) : (w.setKey k v).unch = w.unch := by
  unfold Wave.setKey; split <;> rfl
@[simp] theorem Wave.setKey_parked (w : Wave) (k : Nat) (v : DWord) : (w.setKey k v).parked = w.parked := by
  unfold Wave.setKey; split <;> rfl
@[simp] theorem Wave.setKey_stq (w : Wave) (k : Nat) (v : DWord) : (w.setKey k v).stq = w.stq := by
  unfold Wave.setKey; split <;> rfl
@[simp] theorem Wave.setKey_ticket (w : Wave) (k : Nat) (v : DWord) : (w.setKey k v).ticket = w.ticket := by
  unfold Wave.setKey; split <;> rfl
@[simp] theorem Wave.setKey_ops (w : Wave) (k : Nat) (v : DWord) : (w.setKey k v).ops = w.ops := by
  unfold Wave.setKey; split <;> rfl
@[simp] theorem Wave.setKey_sweepId (w : Wave) (k : Nat) (v : DWord) : (w.setKey k v).sweepId = w.sweepId := by
  unfold Wave.setKey; split <;> rfl
@[simp] theorem Wave.setKey_sweeps (w : Wave) (k : Nat) (v : DWord) : (w.setKey k v).sweeps = w.sweeps := by
  unfold Wave.setKey; split <;> rfl
@[simp] theorem Wave.setKey_binder (w : Wave) (k : Nat) (v : DWord) : (w.setKey k v).binder = w.binder := by
  unfold Wave.setKey; split <;> rfl
@[simp] theorem Wave.setKey_swTaken (w : Wave) (k : Nat) (v : DWord) : (w.setKey k v).swTaken = w.swTaken := by
  unfold Wave.setKey; split <;> rfl
@[simp] theorem Wave.setKey_stgAt (w : Wave) (k : Nat) (v : DWord) : (w.setKey k v).stgAt = w.stgAt := by
  unfold Wave.setKey; split <;> rfl
@[simp] theorem Wave.setKey_sbGrant (w : Wave) (k : Nat) (v : DWord) : (w.setKey k v).sbGrant = w.sbGrant := by
  unfold Wave.setKey; split <;> rfl
@[simp] theorem Wave.setKey_arr (w : Wave) (k : Nat) (v : DWord) : (w.setKey k v).arr = w.arr := by
  unfold Wave.setKey; split <;> rfl
@[simp] theorem Wave.setKey_barAt (w : Wave) (k : Nat) (v : DWord) : (w.setKey k v).barAt = w.barAt := by
  unfold Wave.setKey; split <;> rfl
@[simp] theorem Wave.setKey_barWait (w : Wave) (k : Nat) (v : DWord) : (w.setKey k v).barWait = w.barWait := by
  unfold Wave.setKey; split <;> rfl
@[simp] theorem Wave.setKey_qn (w : Wave) (k : Nat) (v : DWord) : (w.setKey k v).qn = w.qn := by
  unfold Wave.setKey; split <;> rfl
@[simp] theorem Wave.setKey_qcount (w : Wave) (k : Nat) (v : DWord) : (w.setKey k v).qcount = w.qcount := by
  unfold Wave.setKey; split <;> rfl
@[simp] theorem Wave.setKey_qused (w : Wave) (k : Nat) (v : DWord) : (w.setKey k v).qused = w.qused := by
  unfold Wave.setKey; split <;> rfl
@[simp] theorem Wave.setKey_qended (w : Wave) (k : Nat) (v : DWord) : (w.setKey k v).qended = w.qended := by
  unfold Wave.setKey; split <;> rfl
@[simp] theorem Wave.setKey_qlane (w : Wave) (k : Nat) (v : DWord) : (w.setKey k v).qlane = w.qlane := by
  unfold Wave.setKey; split <;> rfl
@[simp] theorem Wave.setKey_qagain (w : Wave) (k : Nat) (v : DWord) : (w.setKey k v).qagain = w.qagain := by
  unfold Wave.setKey; split <;> rfl
@[simp] theorem Wave.setKey_qexp (w : Wave) (k : Nat) (v : DWord) : (w.setKey k v).qexp = w.qexp := by
  unfold Wave.setKey; split <;> rfl
@[simp] theorem Wave.setKey_qlw (w : Wave) (k : Nat) (v : DWord) : (w.setKey k v).qlw = w.qlw := by
  unfold Wave.setKey; split <;> rfl
@[simp] theorem Wave.setKey_qbefore (w : Wave) (k : Nat) (v : DWord) : (w.setKey k v).qbefore = w.qbefore := by
  unfold Wave.setKey; split <;> rfl
@[simp] theorem Wave.setKey_qheld (w : Wave) (k : Nat) (v : DWord) : (w.setKey k v).qheld = w.qheld := by
  unfold Wave.setKey; split <;> rfl
@[simp] theorem Wave.setKey_qahead (w : Wave) (k : Nat) (v : DWord) : (w.setKey k v).qahead = w.qahead := by
  unfold Wave.setKey; split <;> rfl
@[simp] theorem Wave.setKey_buf (w : Wave) (k : Nat) (v : DWord) : (w.setKey k v).buf = w.buf := by
  unfold Wave.setKey; split <;> rfl
@[simp] theorem Wave.setKey_ret (w : Wave) (k : Nat) (v : DWord) : (w.setKey k v).ret = w.ret := by
  unfold Wave.setKey; split <;> rfl
@[simp] theorem Wave.setKey_retAcq (w : Wave) (k : Nat) (v : DWord) : (w.setKey k v).retAcq = w.retAcq := by
  unfold Wave.setKey; split <;> rfl
@[simp] theorem Wave.setKey_pushWait (w : Wave) (k : Nat) (v : DWord) : (w.setKey k v).pushWait = w.pushWait := by
  unfold Wave.setKey; split <;> rfl
@[simp] theorem Wave.setKey_slotAt (w : Wave) (k : Nat) (v : DWord) : (w.setKey k v).slotAt = w.slotAt := by
  unfold Wave.setKey; split <;> rfl
@[simp] theorem Wave.setKey_pushAt (w : Wave) (k : Nat) (v : DWord) : (w.setKey k v).pushAt = w.pushAt := by
  unfold Wave.setKey; split <;> rfl
@[simp] theorem Wave.setKey_wdog (w : Wave) (k : Nat) (v : DWord) : (w.setKey k v).wdog = w.wdog := by
  unfold Wave.setKey; split <;> rfl
@[simp] theorem Wave.setKey_wdogLim (w : Wave) (k : Nat) (v : DWord) : (w.setKey k v).wdogLim = w.wdogLim := by
  unfold Wave.setKey; split <;> rfl
@[simp] theorem Wave.setKey_stepping (w : Wave) (k : Nat) (v : DWord) : (w.setKey k v).stepping = w.stepping := by
  unfold Wave.setKey; split <;> rfl
@[simp] theorem Wave.setKey_stepWait (w : Wave) (k : Nat) (v : DWord) : (w.setKey k v).stepWait = w.stepWait := by
  unfold Wave.setKey; split <;> rfl
@[simp] theorem Wave.setKey_trapping (w : Wave) (k : Nat) (v : DWord) : (w.setKey k v).trapping = w.trapping := by
  unfold Wave.setKey; split <;> rfl
@[simp] theorem Wave.setKey_issued (w : Wave) (k : Nat) (v : DWord) : (w.setKey k v).issued = w.issued := by
  unfold Wave.setKey; split <;> rfl
@[simp] theorem Wave.setKey_counts (w : Wave) (k : Nat) (v : DWord) : (w.setKey k v).counts = w.counts := by
  unfold Wave.setKey; split <;> rfl
@[simp] theorem Wave.setKey_blocked (w : Wave) (k : Nat) (v : DWord) : (w.setKey k v).blocked = w.blocked := by
  unfold Wave.setKey; split <;> rfl
@[simp] theorem Wave.setKey_laneBlocked (w : Wave) (k : Nat) (v : DWord) : (w.setKey k v).laneBlocked = w.laneBlocked := by
  unfold Wave.setKey; split <;> rfl

end Sys2Proof.Machine
end

