-- ==== Sys2Proof/Laws/Ops.lean ====
section
/-! SUPPORT. The shared operations of Machine/Ops.lean and Machine/Operands.lean: registers after a write, how a scalar instruction
and a lane word end, and what taking a trap does. -/

namespace Sys2Proof.Machine

open Sys2Proof

/-! The scalar register file (R19, R62). -/

/-- A field names s0 in either view exactly where it is zero. -/
theorem sKey_eq_zero (sys : Bool) (d : BitVec 6) : sKey sys d = 0 ↔ d = 0 := by
  unfold sKey
  constructor
  · intro h
    split at h
    · omega
    · exact BitVec.eq_of_toNat_eq (by simpa using h)
  · rintro rfl; simp

/-- In one view, different fields name different registers. -/
theorem sKey_inj (sys : Bool) {a b : BitVec 6} (h : sKey sys a = sKey sys b) : a = b := by
  have ha := a.isLt
  have hb := b.isLt
  unfold sKey at h
  apply BitVec.eq_of_toNat_eq
  split at h <;> split at h <;> simp_all <;> omega

theorem find?_filter_ne (l : List (Nat × DWord)) (k k' : Nat) (h : k' ≠ k) :
    (l.filter fun e => e.1 != k).find? (fun e => e.1 == k') = l.find? fun e => e.1 == k' := by
  induction l with
  | nil => rfl
  | cons e r ih =>
    by_cases h1 : e.1 = k
    · have : e.1 ≠ k' := fun h2 => h (h2 ▸ h1)
      simp [h1, Ne.symm h, ih]
    · simp [h1, List.find?_cons, ih]

theorem find?_filter_self (l : List (Nat × DWord)) (k : Nat) :
    (l.filter fun e => e.1 != k).find? (fun e => e.1 == k) = none := by
  simp

/-- A register after a write: s0 discards it (R19), and no other register changes. -/
theorem Wave.sVal_setKey (w : Wave) (k k' : Nat) (v : DWord) :
    (w.setKey k v).sVal k' = if k' = k ∧ k ≠ 0 then v else w.sVal k' := by
  unfold Wave.setKey
  by_cases hk : k = 0
  · simp [hk]
  · simp only [hk, if_false]
    unfold Wave.sVal
    by_cases h0 : k' = 0
    · have : k' ≠ k := fun h => hk (h ▸ h0)
      simp [h0, Ne.symm hk]
    · by_cases h : k' = k
      · subst h
        simp only [h0, if_false, find?_filter_self, look_put_self, ne_eq, not_false_eq_true, and_self, if_true]
      · simp only [h0, if_false, find?_filter_ne _ _ _ h, h, false_and, look_put_ne (0 : DWord) w.s v h]

/-- The register of a field after a write to the register of a field. -/
theorem State.getS_setS (s : State) (d k : BitVec 6) (v : DWord) :
    (s.setS d v).getS k = if k = d ∧ d ≠ 0 then v else s.getS k := by
  unfold State.getS State.setS
  simp only [State.modW_w, Wave.setKey_sys, Wave.sVal_setKey]
  by_cases h : k = d
  · subst h; simp [sKey_eq_zero]
  · have : sKey s.w.sys k ≠ sKey s.w.sys d := fun h' => h (sKey_inj _ h')
    simp [h, this]

/-- s0 reads as zero (R19). -/
theorem State.getS_zero (s : State) : s.getS 0 = 0 := by
  simp [State.getS, Wave.sVal, sKey]

/-! How a scalar instruction ends. -/

/-- A scalar instruction always leads to a next state. -/
theorem finish_next (s : State) (r : Res State) : ∃ t, finish s r = .next t := by
  unfold finish
  split <;> exact ⟨_, rfl⟩

theorem finishSeq_ok (len : Nat) (s t : State) : finishSeq len s (.ok t) = .next (t.advance len).retire := rfl

theorem finishSeq_trap (len : Nat) (s : State) (c : Cause) (fva : DWord) :
    finishSeq len s (.error (.trap c fva)) = .next (s.raise 0 c fva 0 0) := rfl

/-- Retiring outside a single step changes the wave's marks and counts alone. -/
theorem State.retire_eq (s : State) (h : (s.w.stepping && !s.w.lstep) = false) :
    s.retire = s.modW fun w =>
      { w with blocked := false, barWait := none, wdog := 0, stepWait := false, issued := false, qused := w.qused || s.repro
               qcount := if s.repro then w.qcount + 1 else w.qcount } := by
  unfold State.retire
  simp only [State.modW_w, h]
  rfl

/-- A lane word always leads to a next state. -/
theorem finishLane_next (mark : Bool) (s : State) (r : Res State) : ∃ t, finishLane mark s r = .next t := by
  unfold finishLane
  split <;> exact ⟨_, rfl⟩

theorem finishLane_ok (mark : Bool) (s t : State) : finishLane mark s (.ok t) = .next (t.laneNext mark) := rfl

theorem finishLane_trap (mark : Bool) (s : State) (c : Cause) (fva : DWord) :
    finishLane mark s (.error (.trap c fva)) = .next (s.raise 1 c fva s.laneTarget s.laneBits) := rfl

/-! Taking a trap (R310 to R313). -/

/-- Ending walks changes the core alone. -/
@[simp] theorem State.endsWalks_w (s : State) (c : Cause) (va : DWord) : (s.endsWalks c va).w = s.w := by
  unfold State.endsWalks; split <;> rfl

/-- Where nothing holds trap entry up, or in the system view, entry is at once. -/
theorem State.raise_eq (s : State) (kind : Nat) (c : Cause) (fva at' : DWord) (word : BitVec 96)
    (h : (s.w.trapBusy && !s.w.sys) = false) :
    s.raise kind c fva at' word = (s.endsWalks c fva).enterTrap kind c fva at' word s.row.vec := by
  have hw : (s.endsWalks c fva).w = s.w := s.endsWalks_w c fva
  have hr : (s.endsWalks c fva).row = s.row := by unfold State.endsWalks; split <;> rfl
  unfold State.raise
  simp only [hw, h, hr]
  rfl

/-- Only the walks that the trap ends go, and none where its cause is no fault of a translation. -/
theorem State.endsWalks_of (s : State) (c : Cause) (va : DWord) (h : c ≠ .loadFault ∧ c ≠ .storeFault ∧ c ≠ .fetchFault) :
    s.endsWalks c va = s := by
  simp [State.endsWalks, h]

/-- Dropping a sweep word's recorded entries changes the scoreboard and the word's own mark alone. -/
theorem State.untakeSweep_w (s : State) : s.untakeSweep.w = { s.w with swTaken := s.untakeSweep.w.swTaken } := by
  unfold State.untakeSweep
  split <;> rfl

/-- Where a sweep word has recorded nothing, there is nothing to drop. -/
theorem State.untakeSweep_of (s : State) (h : s.w.swTaken = false) : s.untakeSweep = s := by
  simp [State.untakeSweep, h]

/-- A second trap kills the crew (R313). -/
theorem State.enterTrap_sys (s : State) (kind : Nat) (c : Cause) (fva at' : DWord) (word : BitVec 96) (vec : DWord)
    (h : s.w.sys = true) :
    s.enterTrap kind c fva at' word vec = s.untakeSweep.killCrew s.w.crew s.w.firstCause c s.w.epc s.w.elpc := by
  have hw : ∀ {α : Type} (f : Wave → α), (∀ b, f { s.w with swTaken := b } = f s.w) → f s.untakeSweep.w = f s.w := by
    intro α f hf
    rw [State.untakeSweep_w s]
    exact hf _
  unfold State.enterTrap
  dsimp only
  rw [if_pos ((hw Wave.sys fun _ => rfl).trans h), hw Wave.crew fun _ => rfl, hw Wave.firstCause fun _ => rfl,
    hw Wave.epc fun _ => rfl, hw Wave.elpc fun _ => rfl]

/-! Checks. -/

theorem need_ok (b : Bool) (c : Cause) (fva : DWord) : need b c fva = .ok () ↔ b = true := by
  cases b <;> simp [need, trap]

theorem ready_ok (b : Bool) : ready b = .ok () ↔ b = true := by
  cases b <;> simp [ready]

end Sys2Proof.Machine
end

