-- ==== Sys2Proof/Laws/Memory.lean ====
section
/-! SUPPORT. The byte memories of the device under the shared operations: most leave all four as they are (`State.SameMem`), and those
that write keep the canonical form (`State.memWf`). -/

namespace Sys2Proof.Machine

open Sys2Proof

/-- `t` holds the byte memories of `s`. -/
def State.SameMem (s t : State) : Prop := t.mem = s.mem ∧ t.hostMem = s.hostMem ∧ t.skim = s.skim ∧ t.dirty = s.dirty

theorem State.SameMem.refl (s : State) : s.SameMem s := ⟨rfl, rfl, rfl, rfl⟩

theorem State.SameMem.trans {s t u : State} (h : s.SameMem t) (k : t.SameMem u) : s.SameMem u :=
  ⟨k.1.trans h.1, k.2.1.trans h.2.1, k.2.2.1.trans h.2.2.1, k.2.2.2.trans h.2.2.2⟩

theorem State.SameMem.wf {s t : State} (h : s.SameMem t) (w : s.memWf) : t.memWf := by
  obtain ⟨h1, h2, h3, h4⟩ := h
  unfold State.memWf at *
  rw [h1, h2, h3, h4]
  exact w

/-- An invariant that every step of a fold keeps holds after it. -/
theorem foldl_inv {α β : Type} {P : β → Prop} (f : β → α → β) (l : List α) (b : β) (hb : P b) (h : ∀ b a, P b → P (f b a)) :
    P (l.foldl f b) := by
  induction l generalizing b with
  | nil => exact hb
  | cons a r ih => exact ih _ (h b a hb)

/-- A fold of operations that keep the memories keeps them. -/
theorem State.SameMem.foldl {α : Type} (f : State → α → State) (l : List α) (s : State) (h : ∀ s a, State.SameMem s (f s a)) :
    s.SameMem (l.foldl f s) :=
  foldl_inv (P := s.SameMem) f l s (.refl s) fun b a hb => hb.trans (h b a)

/-! Operations that leave the byte memories as they are. -/

theorem State.SameMem.modW (s : State) (f : Wave → Wave) : s.SameMem (s.modW f) := ⟨rfl, rfl, rfl, rfl⟩
theorem State.SameMem.modCoreAt (s : State) (n : Nat) (f : Core → Core) : s.SameMem (s.modCoreAt n f) := ⟨rfl, rfl, rfl, rfl⟩
theorem State.SameMem.modCore (s : State) (f : Core → Core) : s.SameMem (s.modCore f) := ⟨rfl, rfl, rfl, rfl⟩
theorem State.SameMem.modSector (s : State) (n : Nat) (f : Sector → Sector) : s.SameMem (s.modSector n f) := ⟨rfl, rfl, rfl, rfl⟩
theorem State.SameMem.modRow (s : State) (c : Nat) (f : CtxRow → CtxRow) : s.SameMem (s.modRow c f) := ⟨rfl, rfl, rfl, rfl⟩
theorem State.SameMem.emit (s : State) (a b c : Nat) (p : List DWord) : s.SameMem (s.emit a b c p) := ⟨rfl, rfl, rfl, rfl⟩
theorem State.SameMem.emitSector (s : State) (a b : Nat) (p : List DWord) : s.SameMem (s.emitSector a b p) := ⟨rfl, rfl, rfl, rfl⟩

theorem State.SameMem.setWave (s : State) (n : Nat) (w : Wave) : s.SameMem (s.setWave n w) := by
  refine ⟨?_, ?_, ?_, ?_⟩ <;> simp

theorem State.SameMem.modWave (s : State) (n : Nat) (f : Wave → Wave) : s.SameMem (s.modWave n f) := .setWave ..

theorem State.SameMem.focus (s : State) (n : Nat) : s.SameMem (s.focus n) := by
  refine ⟨?_, ?_, ?_, ?_⟩ <;> simp

theorem State.SameMem.count (s : State) (k n : Nat) : s.SameMem (s.count k n) := by
  unfold State.count
  dsimp only
  split
  · exact ⟨rfl, rfl, rfl, rfl⟩
  · exact ⟨rfl, rfl, rfl, rfl⟩

theorem State.SameMem.deliver (s : State) : s.SameMem s.deliver :=
  (State.SameMem.foldl (fun s (e : Nat × Nat) => s.count e.1 e.2) s.w.counts s fun s e => .count s e.1 e.2).trans (.modW ..)

theorem State.SameMem.deliverCore (s : State) (core : Nat) : s.SameMem (s.deliverCore core) := by
  unfold State.deliverCore
  refine State.SameMem.foldl _ _ _ fun s n => ?_
  dsimp only
  split
  · exact (State.SameMem.foldl (fun s (e : Nat × Nat) => s.count e.1 e.2) _ s fun s e => .count s e.1 e.2).trans (.modWave ..)
  · exact .refl s

theorem State.SameMem.choose (s : State) : s.SameMem s.choose.2 := ⟨rfl, rfl, rfl, rfl⟩

theorem State.SameMem.outside (n : Nat) (s : State) : s.SameMem (s.outside n).2 := by
  induction n generalizing s with
  | zero => exact .refl s
  | succ n ih => exact State.SameMem.trans (t := { s with free := s.free + 1 }) ⟨rfl, rfl, rfl, rfl⟩ (ih _)

theorem State.SameMem.killWave (s : State) (n : Nat) : s.SameMem (s.killWave n) :=
  (State.SameMem.modWave s n Wave.kill).trans (.modCoreAt ..)

theorem State.SameMem.retireCores (s : State) : s.SameMem s.retireCores := ⟨rfl, rfl, rfl, rfl⟩

theorem State.SameMem.killCrew (s : State) (id : Nat) (c1 c2 : Cause) (epc elpc : DWord) :
    s.SameMem (s.killCrew id c1 c2 epc elpc) := by
  unfold State.killCrew
  split
  · exact (State.SameMem.modW s Wave.kill).trans (.retireCores _)
  · next c _ =>
    exact (State.SameMem.foldl State.killWave c.waves s State.SameMem.killWave).trans ⟨rfl, rfl, rfl, rfl⟩

theorem State.SameMem.untakeSweep (s : State) : s.SameMem s.untakeSweep := by
  unfold State.untakeSweep
  split
  · exact (State.SameMem.modCore s _).trans (.modW ..)
  · exact .refl s

theorem State.SameMem.enterTrap (s : State) (kind : Nat) (c : Cause) (fva at' : DWord) (word : BitVec 96) (vec : DWord) :
    s.SameMem (s.enterTrap kind c fva at' word vec) := by
  unfold State.enterTrap
  refine (State.SameMem.untakeSweep s).trans ?_
  extract_lets u w scalar w0 w1 w2 w3 t
  split
  · exact .killCrew ..
  · have ht : u.SameMem t := ⟨rfl, rfl, rfl, rfl⟩
    split
    · exact ht.trans (.killCrew ..)
    · exact (ht.trans (.modW ..)).trans (.modW ..)

theorem State.SameMem.endsWalks (s : State) (c : Cause) (va : DWord) : s.SameMem (s.endsWalks c va) := by
  unfold State.endsWalks
  split
  · exact .modCore ..
  · exact .refl s

theorem State.SameMem.raise (s : State) (kind : Nat) (c : Cause) (fva at' : DWord) (word : BitVec 96) :
    s.SameMem (s.raise kind c fva at' word) := by
  unfold State.raise
  refine (State.SameMem.endsWalks s c fva).trans ?_
  dsimp only
  split
  · exact .modW ..
  · exact .enterTrap ..

theorem State.SameMem.retire (s : State) : s.SameMem s.retire := by
  unfold State.retire
  extract_lets t
  have ht : s.SameMem t := .modW ..
  split
  · exact ht.trans (.raise ..)
  · exact ht

theorem State.SameMem.swapPoint (s : State) : s.SameMem s.swapPoint := by
  unfold State.swapPoint
  split
  · split
    · split
      · exact .refl s
      · exact (State.SameMem.modCore s _).trans (.modW ..)
    · exact .refl s
  · exact .refl s

theorem State.SameMem.parkDone (s : State) (t : DWord) (w : BitVec 96) : s.SameMem (s.parkDone t w) := by
  unfold State.parkDone
  extract_lets e u
  have hu : s.SameMem u := .modW ..
  clear_value e u
  split
  · exact hu.trans (.raise ..)
  · split
    · exact hu.trans (.modW ..)
    · exact hu.trans (.swapPoint _)

theorem State.SameMem.laneStepped (s : State) : s.SameMem s.laneStepped := by
  unfold State.laneStepped
  split
  · exact .raise ..
  · exact .refl s

theorem State.SameMem.laneNext (s : State) (mark : Bool) : s.SameMem (s.laneNext mark) := by
  unfold State.laneNext
  extract_lets target word u t
  have hu : s.SameMem u := .modW ..
  have ht : s.SameMem t := by
    refine hu.trans ?_
    show u.SameMem (if mark then _ else _)
    split
    · split
      · exact .parkDone ..
      · exact .modW ..
    · exact .modW ..
  exact ht.trans (.laneStepped t)

theorem State.SameMem.askEntries (s : State) (n : Nat) : s.SameMem (s.askEntries n) := ⟨rfl, rfl, rfl, rfl⟩

/-- However a scalar instruction ends, it writes memory only by its own effect. -/
theorem finish_memWf (s t : State) (r : Res State) (hs : s.memWf) (hr : ∀ u, r = .ok u → u.memWf) (h : finish s r = .next t) :
    t.memWf := by
  unfold finish at h
  split at h <;> cases h
  · next u => exact (State.SameMem.retire u).wf (hr u rfl)
  · exact (State.SameMem.raise ..).wf hs
  · exact ((State.SameMem.modW s _).trans (.raise ..)).wf hs
  · exact ((State.SameMem.modW s _).trans (.raise ..)).wf hs
  · exact (State.SameMem.modW s _).wf hs
  · exact (State.SameMem.modW s _).wf hs
  · exact ((State.SameMem.modW s _).trans (.modW ..)).wf hs

theorem finishSeq_memWf (len : Nat) (s t : State) (r : Res State) (hs : s.memWf) (hr : ∀ u, r = .ok u → u.memWf)
    (h : finishSeq len s r = .next t) : t.memWf := by
  refine finish_memWf s t _ hs ?_ h
  intro u hu
  cases r with
  | error e => cases hu
  | ok v => cases hu; exact (State.SameMem.modW v _).wf (hr v rfl)

/-- The same of a lane word. -/
theorem finishLane_memWf (mark : Bool) (s t : State) (r : Res State) (hs : s.memWf) (hr : ∀ u, r = .ok u → u.memWf)
    (h : finishLane mark s r = .next t) : t.memWf := by
  unfold finishLane at h
  split at h <;> cases h
  · next u => exact (State.SameMem.laneNext u mark).wf (hr u rfl)
  · exact (State.SameMem.raise ..).wf hs
  · exact ((State.SameMem.modW s _).trans (.raise ..)).wf hs
  · exact ((State.SameMem.modW s _).trans (.raise ..)).wf hs
  · exact (State.SameMem.askEntries ..).wf hs
  · exact (State.SameMem.modW s _).wf hs
  · exact (State.SameMem.modW s _).wf hs

/-! Translation and the caches. -/

theorem State.SameMem.fillTlbAt (s : State) (core : Nat) (code : Bool) (e : TlbEntry) : s.SameMem (s.fillTlbAt core code e) :=
  ((State.SameMem.modCoreAt s core _).trans (.modSector ..)).trans (.modSector ..)

theorem State.SameMem.setFlow (s : State) (f : Flow) : s.SameMem (s.setFlow f) := ⟨rfl, rfl, rfl, rfl⟩

theorem State.SameMem.pass (s : State) (cls : MsgClass) (src dst : Nat) : s.SameMem (s.pass cls src dst) := by
  unfold State.pass
  split
  · exact .setFlow ..
  · exact ⟨rfl, rfl, rfl, rfl⟩

theorem State.SameMem.trip (s : State) (src dst : Nat) : s.SameMem (s.trip src dst) :=
  (State.SameMem.pass ..).trans (.pass ..)

theorem State.SameMem.exchange (s : State) (write : Bool) (src dst : Nat) : s.SameMem (s.exchange write src dst) := by
  unfold State.exchange
  split
  · exact (State.SameMem.pass ..).trans (.pass ..)
  · exact .trip ..

theorem State.SameMem.exchangeAt (s : State) (write : Bool) (unit : Nat) (l : Loc) : s.SameMem (s.exchangeAt write unit l) := by
  unfold State.exchangeAt
  split
  · exact .exchange ..
  · exact .exchange ..
  · exact .refl s

theorem State.SameMem.send (s : State) (cls : MsgClass) (src dst : Nat) (p : Packet) : s.SameMem (s.send cls src dst p) := .setFlow ..

theorem State.SameMem.deliverFrom (s t : State) (f : Flow) (p : Packet) (h : s.deliverFrom f = some (p, t)) : s.SameMem t := by
  obtain ⟨x, -, e⟩ := Option.map_eq_some_iff.1 h
  obtain ⟨-, rfl⟩ := Prod.mk.inj e
  split
  · exact (State.SameMem.setFlow ..).trans (.setFlow ..)
  · exact .setFlow ..

theorem State.SameMem.walkTrips (s : State) (n : Nat) (root : DWord) (va : Nat) : s.SameMem (s.walkTrips n root va) := by
  unfold State.walkTrips
  split
  · exact .refl s
  · exact .foldl _ _ s fun s _ => .trip s _ _

theorem State.SameMem.endWalk (s : State) (core : Nat) (f : Fill) : s.SameMem (s.endWalk core f) := by
  unfold State.endWalk
  extract_lets same t
  have ht : s.SameMem t := .walkTrips ..
  split
  · exact ht.trans (.modCoreAt ..)
  · exact ht.trans ((State.SameMem.fillTlbAt ..).trans (.modCoreAt ..))

theorem State.SameMem.touchTlb (s : State) (code : Bool) (va : Nat) : s.SameMem (s.touchTlb code va) := by
  unfold State.touchTlb
  extract_lets t
  have ht : s.SameMem t := by
    show s.SameMem (if _ then _ else _)
    split
    · split
      · exact .endWalk ..
      · exact .walkTrips ..
    · exact .refl s
  split
  · exact ht.trans (.fillTlbAt ..)
  · exact ht

theorem State.SameMem.missTrip (s : State) (core : Nat) (l : Loc) : s.SameMem (s.missTrip core l) := .trip ..

theorem State.SameMem.atomTrip (s : State) (core : Nat) (l : Loc) : s.SameMem (s.atomTrip core l) := .exchangeAt ..

theorem State.SameMem.storeTrip (s : State) (core : Nat) (l : Loc) : s.SameMem (s.storeTrip core l) := .exchangeAt ..

theorem State.SameMem.setVec (s : State) (home line sector : Nat) : s.SameMem (s.setVec home line sector) := ⟨rfl, rfl, rfl, rfl⟩

theorem State.SameMem.sendCopy (s : State) (core : Nat) (l : Loc) : s.SameMem (s.sendCopy core l) := by
  unfold State.sendCopy
  dsimp only
  split
  · exact .refl s
  · split
    · exact (State.SameMem.trans (t := { s with installs := s.installs ++ [_] }) ⟨rfl, rfl, rfl, rfl⟩ (.setFlow ..)).trans (.setVec ..)
    · exact .refl s

theorem State.SameMem.pick (s : State) (n : Nat) : s.SameMem (s.pick n).2 := ⟨rfl, rfl, rfl, rfl⟩

theorem State.SameMem.l1Room (s : State) (core k : Nat) : s.SameMem (s.l1Room core k) := by
  unfold State.l1Room
  dsimp only
  split
  · exact .refl s
  · split
    · exact .refl s
    · split
      · exact (State.SameMem.pick s _).trans (.modCoreAt ..)
      · exact (State.SameMem.pick s _).trans (.modCoreAt ..)
      · exact .pick s _

theorem State.SameMem.fillL1 (s : State) (l : Loc) : s.SameMem (s.fillL1 l) := by
  unfold State.fillL1
  split
  · exact (((State.SameMem.missTrip s s.w.core l).trans (.l1Room ..)).trans (.modCore ..)).trans (.sendCopy ..)
  · exact .refl s

theorem State.SameMem.roTake (s : State) (core : Nat) (l : Loc) (u : Nat) : s.SameMem (s.roTake core l u) := by
  unfold State.roTake
  extract_lets sec last peer m t
  have ht : s.SameMem t := by
    refine (State.SameMem.missTrip s core l).trans (State.SameMem.trans (t := if (m.coreAt core).ro.contains u then m else m.l1Room core u) ?_ (.modCoreAt ..))
    split
    · exact .refl _
    · exact .l1Room ..
  exact ((ht.trans (.modSector ..)).trans (.setVec ..)).trans (.sendCopy ..)

theorem State.SameMem.roTouch (s : State) (l : Loc) : s.SameMem (s.roTouch l) := by
  unfold State.roTouch
  dsimp only
  split
  · exact .refl s
  · split
    · exact .modCore ..
    · exact .roTake ..

theorem State.SameMem.touchCode (s : State) (va : DWord) : s.SameMem (s.touchCode va) := by
  unfold State.touchCode
  split
  · exact .refl s
  · dsimp only
    split
    · exact ((State.SameMem.touchTlb ..).trans (.missTrip ..)).trans (.modCore ..)
    · split
      · exact (State.SameMem.touchTlb ..).trans (.atomTrip ..)
      · exact .touchTlb ..

theorem State.SameMem.fillSkim (s : State) (k : Nat) : s.SameMem (s.fillSkim k) := by
  unfold State.fillSkim
  split
  · exact .refl s
  · exact .modCore ..

theorem State.SameMem.enqueue (s : State) (l : Loc) (cells : List Host.Cell) : s.SameMem (s.enqueue l cells) := ⟨rfl, rfl, rfl, rfl⟩

theorem State.SameMem.bufferAt (s t : State) (fresh : Bool) (items : List BufItem) (h : s.bufferAt fresh items = .ok t) :
    s.SameMem t := by
  unfold State.bufferAt at h
  dsimp only at h
  split at h
  · cases h; exact .modW ..
  · split at h
    · cases h
    · cases h

theorem State.SameMem.buffer (s t : State) (items : List BufItem) (h : s.buffer items = .ok t) : s.SameMem t := .bufferAt s t _ items h

theorem State.SameMem.invalidate (s : State) (line : Nat) : s.SameMem (s.invalidate line) := by
  unfold State.invalidate
  extract_lets drop1 home t u
  have ht : s.SameMem t := .foldl _ _ s fun s x => (State.SameMem.pass s _ _ _).trans (.pass _ _ _ _)
  have hu : t.SameMem u := .foldl _ _ t fun s n => .modCoreAt s n drop1
  exact (ht.trans hu).trans ⟨rfl, rfl, rfl, rfl⟩

theorem State.SameMem.notifyQueues (s : State) (line : Nat) : s.SameMem (s.notifyQueues line) :=
  .foldl _ _ s fun s _ => .foldl _ _ s fun s _ => .pass s _ _ _

theorem State.SameMem.dropL1 (s : State) (core : Nat) (cells : List Host.Cell) : s.SameMem (s.dropL1 core cells) := .modCoreAt ..

theorem State.SameMem.acquire (s : State) (n : Nat) : s.SameMem (s.acquire n) := by
  unfold State.acquire
  split
  · exact .modCore ..
  · exact .refl s

theorem State.SameMem.release (s : State) (n : Nat) : s.SameMem (s.release n) := by
  unfold State.release
  split
  · exact .deliverCore ..
  · exact .refl s

theorem State.SameMem.freshen (s : State) : s.SameMem s.freshen := .modCore ..

@[simp] theorem State.freshen_w (s : State) : s.freshen.w = s.w := rfl

theorem State.SameMem.reserveAll (s : State) : s.SameMem s.reserveAll := .foldl _ _ _ fun _ _ => .modSector ..

/-- A mark on line-buffer blocks changes the marks of the cores alone. -/
theorem State.ageBuffers_eq (s : State) (lines : List Nat) : s.ageBuffers lines = { s with cores := (s.ageBuffers lines).cores } := rfl

/-- The blocks keep their bytes (R385). -/
theorem Core.ageBuffers_eq (c : Core) (lines : List Nat) : c.ageBuffers lines = { c with lineOld := (c.ageBuffers lines).lineOld } := rfl

theorem State.SameMem.peerFails (s : State) (dev : Nat) : s.SameMem (s.peerFails dev).2 := by
  unfold State.peerFails State.peerFrom
  split
  · exact (State.SameMem.trip ..).trans (.choose _)
  · exact .refl s

theorem State.SameMem.load (s t : State) (va : DWord) (l : Loc) (n v : Nat) (h : s.load va l n = .ok (v, t)) : s.SameMem t := by
  have home : ∀ (hh : (if s.fromHome l n && !s.missOpen s.w.core l then (Except.error Halt.wait : Res (Nat × State))
      else if s.poisoned l n then trap .poison va
      else .ok (s.lsLe l l.addr n, if s.fromHome l n then (s.touchTlb false va.toNat).fillL1 l
        else if s.fromHost l n then (s.touchTlb false va.toNat).atomTrip s.w.core l else s.touchTlb false va.toNat)) = .ok (v, t)),
      s.SameMem t := by
    intro hh
    split at hh
    · cases hh
    · split at hh
      · cases hh
      · cases hh
        refine (State.SameMem.touchTlb s false va.toNat).trans ?_
        split
        · exact .fillL1 ..
        · split
          · exact .atomTrip ..
          · exact .refl _
  unfold State.load at h
  cases hk : l.kind with
  | device => rw [hk] at h; exact home h
  | host => rw [hk] at h; exact home h
  | peer =>
    rw [hk] at h
    dsimp only at h
    split at h
    · cases h; exact .touchTlb ..
    · split at h
      · cases h
      · cases h
        exact ((State.SameMem.peerFails s _).trans (.outside ..)).trans (.touchTlb ..)

theorem State.SameMem.store (s t : State) (va : DWord) (l : Loc) (n v : Nat) (h : s.store va l n v = .ok t) : s.SameMem t := by
  unfold State.store at h
  dsimp only at h
  split at h
  · cases hb : s.buffer [.bytes l (leCells l.addr n v)] with
    | error e => rw [hb] at h; cases h
    | ok u => rw [hb] at h; cases h; exact (State.SameMem.buffer s u _ hb).trans (.touchTlb ..)
  · split at h
    · cases h; exact (State.SameMem.enqueue ..).trans (.touchTlb ..)
    · cases h

/-! Operations that write. -/

/-- The bytes that DRAM still holds of new dirty sectors are regions of memory. -/
theorem dirty_wf (mem : Memory) (secs : List Nat) (d : Sparse Memory) (hm : Memory.wf mem = true)
    (hd : ∀ e ∈ d, Memory.wf e.2 = true) :
    ∀ e ∈ secs.foldl (fun d k => if (look? d k).isSome then d else insertKey d k (region mem (128 * k) 128)) d, Memory.wf e.2 = true := by
  have ins : ∀ (m : Sparse Memory) (k : Nat) (v : Memory), ∀ e ∈ insertKey m k v, e = (k, v) ∨ e ∈ m := by
    intro m k v
    induction m with
    | nil => simp [insertKey]
    | cons x r ih =>
      obtain ⟨a, y⟩ := x
      intro e he
      unfold insertKey at he
      split at he
      · simpa using he
      · rcases List.mem_cons.mp he with h | h
        · exact .inr (by simp [h])
        · rcases ih e h with h | h
          · exact .inl h
          · exact .inr (by simp [h])
  refine foldl_inv (P := fun d : Sparse Memory => ∀ e ∈ d, Memory.wf e.2 = true) _ secs d hd ?_
  intro d k hd
  split
  · exact hd
  · intro e he
    rcases ins d k _ e he with rfl | h
    · exact Memory.wf_region mem _ _ hm
    · exact hd e h

theorem State.memWf_perform (s : State) (cells : List Host.Cell) (h : s.memWf) : (s.perform cells).memWf :=
  ⟨Memory.wf_writeCells cells s.mem h.1, h.2.1, h.2.2.1, dirty_wf s.mem _ s.dirty h.1 h.2.2.2⟩

theorem State.memWf_writeHome (s : State) (cells : List Host.Cell) (h : s.memWf) : (s.writeHome cells).memWf :=
  State.memWf_perform _ cells ((State.SameMem.foldl _ _ s fun s line => (State.SameMem.invalidate s line).trans (.notifyQueues _ line)).wf h)

theorem State.memWf_writeFrom (s : State) (core : Nat) (cells : List Host.Cell) (h : s.memWf) : (s.writeFrom core cells).memWf :=
  (State.SameMem.dropL1 ..).wf (State.memWf_writeHome s cells h)

theorem State.memWf_atomHome (s : State) (core : Nat) (l : Loc) (n : Nat) (f : Nat → Option Nat) (h : s.memWf) :
    (s.atomHome core l n f).2.memWf := by
  have ht := (State.SameMem.atomTrip s core l).wf h
  unfold State.atomHome
  dsimp only
  split
  · exact State.memWf_writeFrom _ core _ ht
  · exact (State.SameMem.dropL1 ..).wf ht

theorem State.memWf_setHostMem (s : State) (cells : List Host.Cell) (h : s.memWf) :
    State.memWf { s with hostMem := writeCells s.hostMem cells } :=
  ⟨h.1, Memory.wf_writeCells cells s.hostMem h.2.1, h.2.2⟩

theorem State.memWf_atomHost (s : State) (core : Nat) (l : Loc) (n : Nat) (f : Nat → Option Nat) (h : s.memWf) :
    (s.atomHost core l n f).2.memWf := by
  have ht := (State.SameMem.atomTrip s core l).wf h
  unfold State.atomHost
  dsimp only
  split
  · exact State.memWf_setHostMem _ _ ht
  · exact ht

theorem State.memWf_writeSkim (s : State) (cells : List Host.Cell) (h : s.memWf) : (s.writeSkim cells).memWf :=
  ⟨h.1, h.2.1, Memory.wf_writeCells cells s.skim h.2.2.1, h.2.2.2⟩

theorem State.memWf_engineWrite (s : State) (core : Nat) (l : Loc) (cs : Masked) (h : s.memWf) : (s.engineWrite core l cs).memWf := by
  unfold State.engineWrite
  split
  · exact (State.SameMem.modCoreAt ..).wf (State.memWf_writeFrom s core _ h)
  · exact State.memWf_setHostMem s _ h
  · exact h

end Sys2Proof.Machine
end

