-- ==== Sys2Proof/Machine/Loader.lean ====
section
/-! DEFINITION. Code objects and the checks that a loader makes of one before it maps it (R333, R334). The device does not depend on them
(R335): no step calls them. -/

namespace Sys2Proof.Machine

open Sys2Proof

/-- `n` bytes of an object from offset `a`, as a number (R4). -/
def objLe (o : List Byte) (a n : Nat) : Nat := bytesToNat ((o.drop a).take n)

/-- The header fields of R333 Table 3 that the checks compare: level, class, stepping tag. -/
def objLevel (o : List Byte) : Nat := objLe o 0x05 1

def objClass (o : List Byte) : Nat := objLe o 0x06 1

def objTag (o : List Byte) : Nat := objLe o 0x07 1

/-- The scalar, lane and data sections: offset and size. -/
def objSections (o : List Byte) : List (Nat × Nat) := [(objLe o 0x08 8, objLe o 0x10 8), (objLe o 0x18 8, objLe o 0x20 8), (objLe o 0x28 8, objLe o 0x30 8)]

/-- Two sections share a byte. -/
def sectionsMeet (a b : Nat × Nat) : Bool := a.2 != 0 && b.2 != 0 && decide (a.1 < b.1 + b.2) && decide (b.1 < a.1 + a.2)

/-- Check 3 of R334. -/
def sectionsBad (o : List Byte) : Bool :=
  match objSections o with
  | [s, l, d] =>
    sectionsMeet s l || sectionsMeet s d || sectionsMeet l d || [s, l, d].any (fun x => decide (o.length < x.1 + x.2))
      || s.1 % 4 != 0 || s.2 % 4 != 0 || l.1 % 128 != 0 || l.2 % 128 != 0
  | _ => true

/-- The blocks of the lane section. -/
def objBlocks (o : List Byte) : List (BitVec 1024) :=
  (List.range (objLe o 0x20 8 / 128)).map fun k => BitVec.ofNat 1024 (objLe o (objLe o 0x18 8 + 128 * k) 128)

/-- Check 4: the header's own rows of R27, and the object's level and class (log entry 63). -/
def blockRefused (o : List Byte) (b : BitVec 1024) : Bool :=
  Block.reserved b != 0 || Block.cls b == 3 || Block.level b == 0 || decide (2 < Block.level b) || decide (objLevel o < Block.level b)
    || decide (objClass o < Block.cls b)

/-- Check 5: a valid slot with an experimental opcode under another tag than the object's. -/
def slotRefused (o : List Byte) (b : BitVec 1024) : Bool :=
  Block.stepping b != objTag o && (List.range 10).any fun k => Block.valid b k && (laneOpcodes (Block.slot b k)).any fun op => lifetime op == 2

/-- R334: the first check that refuses the object for a context with these `fq` leaves; none where the loader maps it. -/
def loaderRefuses (leaf : Nat → DWord) (o : List Byte) : Option Nat :=
  if o.length < 64 ∨ objLe o 0 4 ≠ 0x4A424154 ∨ objLe o 4 1 ≠ 1 ∨ objLe o 0x38 8 ≠ 0 then some 0
  else if (leaf 0).toNat % 2 ^ 8 < objLevel o then some 1
  else if if objClass o = 2 then (leaf 7 = 0 ∨ objTag o ≠ (leaf 7).toNat) else objTag o ≠ 0 then some 2
  else if sectionsBad o then some 3
  else if (objBlocks o).any (blockRefused o) then some 4
  else if (objBlocks o).any (slotRefused o) then some 5
  else none

/-- The check for a context of the device. -/
def State.loaderRefuses (s : State) (ctx : Nat) (o : List Byte) : Option Nat := Machine.loaderRefuses (s.rowAt ctx).leaf o

end Sys2Proof.Machine
end

