-- ==== Sys2Proof/Tests/Slice0.lean ====
section
/-! SUPPORT. Tests: terms that the checks of WellFormed refuse, words of the encoding tables, small steps, and for every statement
with hypotheses a state and operands that meet them. -/

set_option maxRecDepth 100000

namespace Sys2Proof.Tests

open Sys2Proof Sys2Proof.Machine

/-! WellFormed: one ill-formed term for each check, and the term it was made from. -/

/-- A full word of `add.i32` with operands that its row allows. -/
def addWord : LaneWord := ⟨false, 0, 0, .v 4, .v 5, .v 6, .v 0, 0x040000000⟩

/-- A global load of one register. -/
def loadWord : LaneWord := ⟨false, 0, 0, .v 4, .s 5, .v 6, .v 0, 0⟩

/-- Words that every check lets through. -/
def wellFormed : List Instr :=
  [.laneAdd (.full addWord), .ldG loadWord, .laneAdd (.pair false ⟨4, .v 5, .v 6, 0, 0⟩ .fmul ⟨8, .v 9, .s 3, 0, 8⟩), .loop 1 ⟨0, none⟩,
   .xcnt 1 0 9, .xclr 0 1, .dSet 0 1 8, .dGet 1 0 8, .fence 3 5, .pfence 3, .fq 1 7, .waveFree]

/-- The type, each operand field, reserved modifier bits, the guard, the retain field, queues, the register range, the entry's own rule,
each rule of a half and of a pair, and each rule of a scalar field. -/
def illFormed : List Instr :=
  [.laneAdd (.full { addWord with mods := 0x0C0000000 }), .laneAdd (.full { addWord with dst := .m 1 }),
   .mset { addWord with dst := .m 0, b := .v 0, mods := 0 }, .laneAdd (.full { addWord with c := .v 1 }),
   .ldG { loadWord with a := .v 5 }, .laneAdd (.full { addWord with mods := 0x040000001 }), .laneAdd (.full { addWord with guard := 8 }),
   .lnop { addWord with guard := 1, dst := .v 0, a := .v 0, b := .v 0, mods := 0 }, .laneAdd (.full { addWord with retain := 3 }),
   .laneAdd (.full { addWord with a := .q 1, b := .q 1 }), .ldG { loadWord with dst := .v 511, mods := 0x000200000 },
   .ldG { loadWord with mods := 0x300000000 }, .cmp { addWord with dst := .m 1, mods := 0x046000000 },
   .laneAdd (.pair false ⟨4, .v 5, .v 6, 0, 8⟩ .fmul ⟨8, .v 9, .s 3, 0, 8⟩),
   .laneAdd (.pair false ⟨4, .v 5, .v 6, 0, 1⟩ .fmul ⟨8, .v 9, .s 3, 0, 8⟩),
   .mov (.pair false ⟨4, .v 5, .v 6, 0, 0⟩ .fmul ⟨8, .v 9, .s 3, 0, 8⟩),
   .laneAdd (.pair false ⟨4, .v 5, .v 6, 0, 0⟩ .fmul ⟨4, .v 9, .s 3, 0, 8⟩),
   .laneAdd (.pair false ⟨4, .s 5, .v 6, 0, 0⟩ .fmul ⟨8, .v 9, .s 3, 0, 8⟩),
   .laneAdd (.pair false ⟨4, .v 5, .v 9, 0, 0⟩ .fmul ⟨8, .v 13, .s 3, 0, 8⟩),
   .laneAdd (.pair false ⟨4, .q 1, .v 9, 0, 0⟩ .fmul ⟨8, .v 13, .s 3, 0, 8⟩),
   .rcp (.pair false ⟨4, .v 5, .v 0, 0, 8⟩ .rsqrt ⟨8, .v 9, .v 0, 0, 8⟩),
   .loop 0 ⟨0, none⟩, .xcnt 1 0 0, .xclr 0 10, .dSet 0 1 9, .dGet 1 0 9, .fence 0 0, .fence 1 6, .pfence 4, .fq 1 8]

theorem test_wf_accepts : ∀ i ∈ wellFormed, i.wf = true := by decide

theorem test_wf_refuses : ∀ i ∈ illFormed, i.wf = false := by decide

/-! Decoding: every scalar row, every lane row, every pair code, and the manual's own examples. -/

/-- Scalar words by row of the opcode table, written from its match bits and field places. -/
def scalarRows1 : List (Word × Word × Instr) :=
  [(0x00298980, 0, .add 5 12 19),
   (0x00298981, 0, .sub 5 12 19),
   (0x00298982, 0, .and 5 12 19),
   (0x00298983, 0, .or 5 12 19),
   (0x00298984, 0, .xor 5 12 19),
   (0x00298985, 0, .andn 5 12 19),
   (0x00298986, 0, .shl 5 12 19),
   (0x00298987, 0, .shr 5 12 19),
   (0x00298988, 0, .sra 5 12 19),
   (0x00298989, 0, .mul 5 12 19),
   (0x0029898A, 0, .mulh 5 12 19),
   (0x0029898B, 0, .mulhn 5 12 19),
   (0x0029898C, 0, .div 5 12 19),
   (0x0029898D, 0, .divn 5 12 19),
   (0x0029898E, 0, .rem 5 12 19),
   (0x0029898F, 0, .remn 5 12 19),
   (0x00298990, 0, .min 5 12 19),
   (0x00298991, 0, .max 5 12 19),
   (0x00298992, 0, .minn 5 12 19),
   (0x00298993, 0, .maxn 5 12 19),
   (0x00298994, 0, .slt 5 12 19),
   (0x00298995, 0, .sltn 5 12 19),
   (0x00298996, 0, .seq 5 12 19),
   (0x00298017, 0, .clz 5 12),
   (0x00298018, 0, .ctz 5 12),
   (0x00298019, 0, .pop 5 12),
   (0x0029899A, 0, .addw 5 12 19),
   (0x0029899B, 0, .subw 5 12 19),
   (0x02298155, 0, .addi 5 12 ⟨0x155, none⟩),
   (0x04298155, 0, .andi 5 12 ⟨0x155, none⟩),
   (0x06298155, 0, .ori 5 12 ⟨0x155, none⟩),
   (0x08298155, 0, .xori 5 12 ⟨0x155, none⟩),
   (0x0A298013, 0, .shli 5 12 19),
   (0x0C298013, 0, .shri 5 12 19),
   (0x0E298013, 0, .srai 5 12 19),
   (0x10298155, 0, .slti 5 12 ⟨0x155, none⟩),
   (0x12298155, 0, .sltni 5 12 ⟨0x155, none⟩),
   (0x14298155, 0, .muli 5 12 ⟨0x155, none⟩),
   (0x16280155, 0, .pca 5 ⟨0x155, none⟩),
   (0x20298155, 0, .beq 5 12 ⟨0x155, none⟩),
   (0x22298155, 0, .bne 5 12 ⟨0x155, none⟩),
   (0x24298155, 0, .blt 5 12 ⟨0x155, none⟩),
   (0x26298155, 0, .bge 5 12 ⟨0x155, none⟩),
   (0x28298155, 0, .bltn 5 12 ⟨0x155, none⟩),
   (0x2A298155, 0, .bgen 5 12 ⟨0x155, none⟩)]

/-- Scalar words by row of the opcode table, written from its match bits and field places. -/
def scalarRows2 : List (Word × Word × Instr) :=
  [(0x2C000155, 0, .j 341),
   (0x2E000155, 0, .call 341),
   (0x30298155, 0, .jlr 5 12 ⟨0x155, none⟩),
   (0x32280155, 0, .loop 5 ⟨0x155, none⟩),
   (0x3400A155, 0, .lexec 5 ⟨0x155, none⟩),
   (0x36298155, 0, .lexecC 5 12 ⟨0x155, none⟩),
   (0x38280200, 0, .lany 5 4),
   (0x38280201, 0, .lall 5 4),
   (0x38280202, 0, .lcount 5 4),
   (0x38000003, 0, .lsync),
   (0x3A298013, 0, .lread 5 12 19),
   (0x3C000000, 0, .exit),
   (0x3C280001, 0, .rdcyc 5),
   (0x3E280155, 0, .csrr 5 341),
   (0x3E00B155, 0, .csrw 5 341),
   (0x40298003, 0, .scw 5 12 3),
   (0x42280019, 0, .xcnt 5 1 9),
   (0x44000019, 0, .xclr 1 9),
   (0x60298155, 0, .dLd 5 12 ⟨0x155, none⟩),
   (0x62298155, 0, .dSt 5 12 ⟨0x155, none⟩),
   (0x64298000, 0, .dMov 5 12),
   (0x66298008, 0, .dSet 5 12 8),
   (0x68298008, 0, .dGet 5 12 8),
   (0x80080000, 0, .accClr 1),
   (0x82098000, 0, .accAnc 1 12),
   (0xA0298155, 0, .ldb 5 12 ⟨0x155, none⟩),
   (0xA2298155, 0, .ldbn 5 12 ⟨0x155, none⟩),
   (0xA4298155, 0, .ldh 5 12 ⟨0x155, none⟩),
   (0xA6298155, 0, .ldhn 5 12 ⟨0x155, none⟩),
   (0xA8298155, 0, .ldw 5 12 ⟨0x155, none⟩),
   (0xAA298155, 0, .ldwn 5 12 ⟨0x155, none⟩),
   (0xAC298155, 0, .ldd 5 12 ⟨0x155, none⟩),
   (0xAE298155, 0, .stb 5 12 ⟨0x155, none⟩),
   (0xB0298155, 0, .sth 5 12 ⟨0x155, none⟩),
   (0xB2298155, 0, .stw 5 12 ⟨0x155, none⟩),
   (0xB4298155, 0, .std 5 12 ⟨0x155, none⟩),
   (0xB6298985, 0, .atomAdd 5 12 19 true 1),
   (0xB629898D, 0, .atomAnd 5 12 19 true 1),
   (0xB6298995, 0, .atomOr 5 12 19 true 1),
   (0xB629899D, 0, .atomXor 5 12 19 true 1),
   (0xB62989A5, 0, .atomMin 5 12 19 true 1),
   (0xB62989AD, 0, .atomMax 5 12 19 true 1),
   (0xB62989B5, 0, .atomMinn 5 12 19 true 1),
   (0xB62989BD, 0, .atomMaxn 5 12 19 true 1),
   (0xB62989C5, 0, .atomSwap 5 12 19 true 1)]

/-- Scalar words by row of the opcode table, written from its match bits and field places. -/
def scalarRows3 : List (Word × Word × Instr) :=
  [(0xB62989CD, 0, .atomCas 5 12 19 true 1),
   (0xB8298155, 0, .ldv 5 12 ⟨0x155, none⟩),
   (0xBA000014, 0, .fence 2 4),
   (0xBA000022, 0, .pfence 2),
   (0xBC298000, 0, .pinL2 5 12),
   (0xBC00A001, 0, .unpinL2 5),
   (0xBE098155, 0, .pref 1 12 ⟨0x155, none⟩),
   (0xC02989D1, 0, .cpPlane 5 12 19 10 1),
   (0xC22989D1, 0, .cpPlaneSw 5 12 19 10 1),
   (0xC42989D1, 0, .cpStore 5 12 19 10 1),
   (0xC62989D1, 0, .cpSkim 5 12 19 10 1),
   (0xC82989D1, 0, .cpFill 5 12 19 10 1),
   (0xCA00A000, 0, .cpWait 5),
   (0xCC298000, 0, .cpTest 5 12),
   (0xCE00A000, 0, .cpRetry 5),
   (0xD0298155, 0, .srBind 5 12 ⟨0x155, none⟩),
   (0xD2280000, 0, .srStop 5),
   (0xD4298980, 0, .taskPush 5 12 19),
   (0xD600A000, 0, .crewBar 5),
   (0xD600A001, 0, .crewArrive 5),
   (0xD600A002, 0, .crewWait 5),
   (0xD8000000, 0, .qnt),
   (0xDA000000, 0, .phaseEnd),
   (0xDC298982, 0, .sigWait 5 12 19 2),
   (0xDE298980, 0, .sigAdd 5 12 19),
   (0xE0000155, 0, .sys 341),
   (0xE2000155, 0, .brk 341),
   (0xE4000000, 0, .eret),
   (0xE6000000, 0, .tlbAll),
   (0xE600A001, 0, .tlbVa 5),
   (0xE600A002, 0, .tlbCtx 5),
   (0xE800A600, 0, .cacheWb 5 12),
   (0xE800A601, 0, .cacheInv 5 12),
   (0xE800A602, 0, .cacheWbinv 5 12),
   (0xEA380007, 0, .fq 7 7),
   (0xEC000000, 0, .step),
   (0xEE098155, 0, .ipref 1 12 ⟨0x155, none⟩),
   (0xF0000000, 0, .pfenceCode),
   (0xF2298980, 0, .cst4 5 12 19)]

/-- Lane words by row of Table 13, written from R28 Table 3 and the field places of each entry. -/
def laneRows1 : List (BitVec 96 × Instr) :=
  [(0x80025804400000B440000000, .mov (.full ⟨true, 11, 1, .v 300, .v 17, .v 0, .v 0, 0x040000000⟩)),
   (0x800A5804604800B448000000, .laneAdd (.full ⟨true, 11, 1, .v 300, .v 17, .s 9, .v 0, 0x048000000⟩)),
   (0x80125804604800B448000000, .laneSub (.full ⟨true, 11, 1, .v 300, .v 17, .s 9, .v 0, 0x048000000⟩)),
   (0x801A5804604800B448000000, .laneMul (.full ⟨true, 11, 1, .v 300, .v 17, .s 9, .v 0, 0x048000000⟩)),
   (0x80225804604800B440000000, .laneMulh ⟨true, 11, 1, .v 300, .v 17, .s 9, .v 0, 0x040000000⟩),
   (0x802A5804604BAAB448000000, .mad ⟨true, 11, 1, .v 300, .v 17, .s 9, .lit 426, 0x048000000⟩),
   (0x80325804604800B400000000, .laneAnd (.full ⟨true, 11, 1, .v 300, .v 17, .s 9, .v 0, 0x000000000⟩)),
   (0x803A5804604800B400000000, .laneOr (.full ⟨true, 11, 1, .v 300, .v 17, .s 9, .v 0, 0x000000000⟩)),
   (0x80425804604800B400000000, .laneXor (.full ⟨true, 11, 1, .v 300, .v 17, .s 9, .v 0, 0x000000000⟩)),
   (0x804A5804604800B400000000, .laneAndn (.full ⟨true, 11, 1, .v 300, .v 17, .s 9, .v 0, 0x000000000⟩)),
   (0x80525804604800B400000000, .laneShl (.full ⟨true, 11, 1, .v 300, .v 17, .s 9, .v 0, 0x000000000⟩)),
   (0x805A5804604800B400000000, .laneShr (.full ⟨true, 11, 1, .v 300, .v 17, .s 9, .v 0, 0x000000000⟩)),
   (0x80625804604800B400000000, .laneSra (.full ⟨true, 11, 1, .v 300, .v 17, .s 9, .v 0, 0x000000000⟩)),
   (0x806A5804604800B440000000, .laneMin (.full ⟨true, 11, 1, .v 300, .v 17, .s 9, .v 0, 0x040000000⟩)),
   (0x80725804604800B440000000, .laneMax (.full ⟨true, 11, 1, .v 300, .v 17, .s 9, .v 0, 0x040000000⟩)),
   (0x807A5804400000B440000000, .abs (.full ⟨true, 11, 1, .v 300, .v 17, .v 0, .v 0, 0x040000000⟩)),
   (0x80825804400000B440000000, .neg (.full ⟨true, 11, 1, .v 300, .v 17, .v 0, .v 0, 0x040000000⟩)),
   (0x808A5804400000B400000000, .laneClz ⟨true, 11, 1, .v 300, .v 17, .v 0, .v 0, 0x000000000⟩),
   (0x80925804400000B400000000, .lanePop ⟨true, 11, 1, .v 300, .v 17, .v 0, .v 0, 0x000000000⟩),
   (0x809A5804604800B440000000, .laneDiv ⟨true, 11, 1, .v 300, .v 17, .s 9, .v 0, 0x040000000⟩),
   (0x80A25804604800B440000000, .laneRem ⟨true, 11, 1, .v 300, .v 17, .s 9, .v 0, 0x040000000⟩),
   (0x80AA5804604800B440000000, .bfx ⟨true, 11, 1, .v 300, .v 17, .s 9, .v 0, 0x040000000⟩),
   (0x80B25804604BAAB400000000, .bfi ⟨true, 11, 1, .v 300, .v 17, .s 9, .lit 426, 0x000000000⟩),
   (0x80BC0A04604800B445000000, .cmp ⟨true, 11, 1, .m 5, .v 17, .s 9, .v 0, 0x045000000⟩),
   (0x80C40E00000000B003C00000, .mand ⟨true, 11, 0, .m 7, .v 0, .v 0, .v 0, 0x003C00000⟩),
   (0x80CC0E00000000B003C00000, .mor ⟨true, 11, 0, .m 7, .v 0, .v 0, .v 0, 0x003C00000⟩),
   (0x80D40E00000000B003C00000, .mxor ⟨true, 11, 0, .m 7, .v 0, .v 0, .v 0, 0x003C00000⟩),
   (0x80DC0E00000000B003000000, .mnot ⟨true, 11, 0, .m 7, .v 0, .v 0, .v 0, 0x003000000⟩),
   (0x80E40404400000B400000000, .mset ⟨true, 11, 1, .m 2, .v 17, .v 0, .v 0, 0x000000000⟩),
   (0x80EA5800000000B006000000, .mget ⟨true, 11, 0, .v 300, .v 0, .v 0, .v 0, 0x006000000⟩),
   (0x80F42E00000000B080000000, .rng ⟨true, 11, 0, .q 3, .v 0, .v 0, .v 0, 0x080000000⟩),
   (0x80FA5800000000B004000000, .lid ⟨true, 11, 0, .v 300, .v 0, .v 0, .v 0, 0x004000000⟩),
   (0x81025804400000B405540000, .rdx ⟨true, 11, 1, .v 300, .v 17, .v 0, .v 0, 0x005540000⟩),
   (0x810A5804604800B400000000, .wrx ⟨true, 11, 1, .v 300, .v 17, .s 9, .v 0, 0x000000000⟩)]

/-- Lane words by row of Table 13, written from R28 Table 3 and the field places of each entry. -/
def laneRows2 : List (BitVec 96 × Instr) :=
  [(0x81125804604800B400000000, .bmix ⟨true, 11, 1, .v 300, .v 17, .s 9, .v 0, 0x000000000⟩),
   (0x88025804604800B4E8000000, .fadd (.full ⟨true, 11, 1, .v 300, .v 17, .s 9, .v 0, 0x0E8000000⟩)),
   (0x880A5804604800B4E8000000, .fsub (.full ⟨true, 11, 1, .v 300, .v 17, .s 9, .v 0, 0x0E8000000⟩)),
   (0x88125804604800B4E8000000, .fmul (.full ⟨true, 11, 1, .v 300, .v 17, .s 9, .v 0, 0x0E8000000⟩)),
   (0x881A5804604BAAB4E8000000, .fma ⟨true, 11, 1, .v 300, .v 17, .s 9, .lit 426, 0x0E8000000⟩),
   (0x88225804604800B4C0000000, .fmin (.full ⟨true, 11, 1, .v 300, .v 17, .s 9, .v 0, 0x0C0000000⟩)),
   (0x882A5804604800B4C0000000, .fmax (.full ⟨true, 11, 1, .v 300, .v 17, .s 9, .v 0, 0x0C0000000⟩)),
   (0x88325804400000B4C0000000, .fabs (.full ⟨true, 11, 1, .v 300, .v 17, .v 0, .v 0, 0x0C0000000⟩)),
   (0x883A5804400000B4C0000000, .fneg (.full ⟨true, 11, 1, .v 300, .v 17, .v 0, .v 0, 0x0C0000000⟩)),
   (0x88440204604800B4C7000000, .fcmp ⟨true, 11, 1, .m 1, .v 17, .s 9, .v 0, 0x0C7000000⟩),
   (0x884A5804604800B4E8000000, .fdiv ⟨true, 11, 1, .v 300, .v 17, .s 9, .v 0, 0x0E8000000⟩),
   (0x88825804400000B4F0000000, .rcp (.full ⟨true, 11, 1, .v 300, .v 17, .v 0, .v 0, 0x0F0000000⟩)),
   (0x888A5804400000B4F0000000, .rsqrt (.full ⟨true, 11, 1, .v 300, .v 17, .v 0, .v 0, 0x0F0000000⟩)),
   (0x88925804400000B4F0000000, .sqrt ⟨true, 11, 1, .v 300, .v 17, .v 0, .v 0, 0x0F0000000⟩),
   (0x889A5804400000B4C0000000, .exp2 ⟨true, 11, 1, .v 300, .v 17, .v 0, .v 0, 0x0C0000000⟩),
   (0x88A25804400000B4C0000000, .log2 ⟨true, 11, 1, .v 300, .v 17, .v 0, .v 0, 0x0C0000000⟩),
   (0x88AA5804400000B4C0000000, .sin ⟨true, 11, 1, .v 300, .v 17, .v 0, .v 0, 0x0C0000000⟩),
   (0x88B25804400000B4C0000000, .cos ⟨true, 11, 1, .v 300, .v 17, .v 0, .v 0, 0x0C0000000⟩),
   (0x88BA5804400000B4C0000000, .tanh ⟨true, 11, 1, .v 300, .v 17, .v 0, .v 0, 0x0C0000000⟩),
   (0x90025804400000B599800000, .cvt (.full ⟨true, 11, 1, .v 300, .v 17, .v 0, .v 0, 0x199800000⟩)),
   (0x900A5804400000B62B800000, .pack ⟨true, 11, 1, .v 300, .v 17, .v 0, .v 0, 0x22B800000⟩),
   (0x90125804400000B5C1800000, .unpack ⟨true, 11, 1, .v 300, .v 17, .v 0, .v 0, 0x1C1800000⟩),
   (0x901A5804400000B658000000, .mkscale ⟨true, 11, 1, .v 300, .v 17, .v 0, .v 0, 0x258000000⟩),
   (0x90225804400000B400000000, .unscale ⟨true, 11, 1, .v 300, .v 17, .v 0, .v 0, 0x000000000⟩),
   (0x9800010B00000000E5802000, .shift ⟨true, 0, 0, .v 0, .s 44, .v 0, .v 0, 0x0E5802000⟩),
   (0x9808010B00000000E5802000, .rot ⟨true, 0, 0, .v 0, .s 44, .v 0, .v 0, 0x0E5802000⟩),
   (0x9810010B00000000E5802000, .spread ⟨true, 0, 0, .v 0, .s 44, .v 0, .v 0, 0x0E5802000⟩),
   (0x9818000000000000E5803000, .foldSum ⟨true, 0, 0, .v 0, .v 0, .v 0, .v 0, 0x0E5803000⟩),
   (0x9820000000000000E5802000, .foldMax ⟨true, 0, 0, .v 0, .v 0, .v 0, .v 0, 0x0E5802000⟩),
   (0x9828000000000000E5802000, .foldMin ⟨true, 0, 0, .v 0, .v 0, .v 0, .v 0, 0x0E5802000⟩),
   (0x9830000000000000E5803000, .scan ⟨true, 0, 0, .v 0, .v 0, .v 0, .v 0, 0x0E5803000⟩),
   (0x9838000000000000E5800000, .refold ⟨true, 0, 0, .v 0, .v 0, .v 0, .v 0, 0x0E5800000⟩),
   (0x9840000000000000E5800000, .ptrans ⟨true, 0, 0, .v 0, .v 0, .v 0, .v 0, 0x0E5800000⟩),
   (0x9848000000000000E5942000, .pick ⟨true, 0, 0, .v 0, .v 0, .v 0, .v 0, 0x0E5942000⟩)]

/-- Lane words by row of Table 13, written from R28 Table 3 and the field places of each entry. -/
def laneRows3 : List (BitVec 96 × Instr) :=
  [(0x9850000000000000E5940C00, .pAdd ⟨true, 0, 0, .v 0, .v 0, .v 0, .v 0, 0x0E5940C00⟩),
   (0x9858000000000000E5940C00, .pMul ⟨true, 0, 0, .v 0, .v 0, .v 0, .v 0, 0x0E5940C00⟩),
   (0x9860000000000000E594CC00, .pFma ⟨true, 0, 0, .v 0, .v 0, .v 0, .v 0, 0x0E594CC00⟩),
   (0x9868000000000000E5940000, .pMax ⟨true, 0, 0, .v 0, .v 0, .v 0, .v 0, 0x0E5940000⟩),
   (0x9870000000000000E5940000, .pMin ⟨true, 0, 0, .v 0, .v 0, .v 0, .v 0, 0x0E5940000⟩),
   (0x9878010B00000000E5802000, .rotL1 ⟨true, 0, 0, .v 0, .s 44, .v 0, .v 0, 0x0E5802000⟩),
   (0x9F00000000000000E5803000, .foldSq ⟨true, 0, 0, .v 0, .v 0, .v 0, .v 0, 0x0E5803000⟩),
   (0xA00442080184062180008000, .dot ⟨true, 2, 0, .a 1, .v 32, .v 48, .s 6, 0x180008000⟩),
   (0xA00C40080320062240008000, .dotSp ⟨true, 2, 0, .a 0, .v 32, .v 100, .v 6, 0x240008000⟩),
   (0xA01443084000000200012300, .sweep ⟨true, 0, 0, .a 1, .s 33, .v 0, .v 0, 0x200012300⟩),
   (0xA01C410840000001C0012340, .sweepSp ⟨true, 0, 0, .a 0, .s 33, .v 0, .v 0, 0x1C0012340⟩),
   (0xA02050100000002180A00000, .spack ⟨true, 2, 0, .v 40, .v 64, .v 0, .v 0, 0x180A00000⟩),
   (0xA0288000000000215F000000, .resolve ⟨true, 2, 0, .v 64, .v 0, .v 0, .v 0, 0x15F000000⟩),
   (0xA03008000000002001800000, .accCmp ⟨true, 2, 0, .v 4, .v 0, .v 0, .v 0, 0x001800000⟩),
   (0xA03C41010000002000000600, .accMerge ⟨true, 2, 0, .a 0, .s 4, .v 0, .v 0, 0x000000600⟩),
   (0xA04000880000002001000600, .accSave ⟨true, 2, 0, .v 0, .lit 32, .v 0, .v 0, 0x001000600⟩),
   (0xA04C43010000002000000600, .accLoad ⟨true, 2, 0, .a 1, .s 4, .v 0, .v 0, 0x000000600⟩),
   (0xA05004000000002003600000, .accFlags ⟨true, 2, 0, .v 2, .v 0, .v 0, .v 0, 0x003600000⟩),
   (0xA05C40080140002000000000, .dotI4 ⟨true, 2, 0, .a 0, .v 32, .v 40, .v 0, 0x000000000⟩),
   (0xA800110A0000004008603E00, .ldLm ⟨true, 4, 0, .v 8, .s 40, .v 0, .v 0, 0x008603E00⟩),
   (0xA808010A0060004008603E00, .stLm ⟨true, 4, 0, .v 0, .s 40, .v 12, .v 0, 0x008603E00⟩),
   (0xA812590A00F0004228603E00, .ldG ⟨true, 4, 0, .v 300, .s 40, .v 30, .v 0, 0x228603E00⟩),
   (0xA818010A00F00C4148603E00, .stG ⟨true, 4, 0, .v 0, .s 40, .v 30, .v 12, 0x148603E00⟩),
   (0xA822590A00F00042A8603E00, .ldRo ⟨true, 4, 0, .v 300, .s 40, .v 30, .v 0, 0x2A8603E00⟩),
   (0xA82A590A00F0004000603E00, .ldSk ⟨true, 4, 0, .v 300, .s 40, .v 30, .v 0, 0x000603E00⟩),
   (0xA830010A00F00C4000603E00, .stSk ⟨true, 4, 0, .v 0, .s 40, .v 30, .v 12, 0x000603E00⟩),
   (0xA83A590A00F0064266003E0D, .latom ⟨true, 4, 0, .v 300, .s 40, .v 30, .v 6, 0x266003E0D⟩),
   (0xA840010A00F4064000003E00, .atomRsum ⟨true, 4, 0, .v 0, .s 40, .v 30, .s 6, 0x000003E00⟩),
   (0xB0001380800000B000000000, .qpeek ⟨true, 11, 0, .v 9, .q 2, .v 0, .v 0, 0x000000000⟩),
   (0xB0080180A02800B000000000, .qskip ⟨true, 11, 0, .v 0, .q 2, .s 5, .v 0, 0x000000000⟩),
   (0xB80000000000000000000000, .lnop ⟨true, 0, 0, .v 0, .v 0, .v 0, .v 0, 0x000000000⟩),
   (0xB8080000000000B000000155, .lbrk ⟨true, 11, 0, .v 0, .v 0, .v 0, .v 0, 0x000000155⟩)]

/-- Pair words, one for each pair code of Table 13 as half X, written from R37 Table 6. -/
def pairRows1 : List (BitVec 96 × Instr) :=
  [(0x4000400A001820810026018C, .mov (.pair false ⟨4, .v 5, .v 0, 3, 0⟩ .fmul ⟨8, .v 9, .s 3, 0, 12⟩)),
   (0x4020400A019820810026018C, .laneAdd (.pair false ⟨4, .v 5, .v 6, 3, 0⟩ .fmul ⟨8, .v 9, .s 3, 0, 12⟩)),
   (0x4040400A019820810026018C, .laneSub (.pair false ⟨4, .v 5, .v 6, 3, 0⟩ .fmul ⟨8, .v 9, .s 3, 0, 12⟩)),
   (0x4060400A019820810026018C, .laneMul (.pair false ⟨4, .v 5, .v 6, 3, 0⟩ .fmul ⟨8, .v 9, .s 3, 0, 12⟩)),
   (0x40C0400A019820810026018C, .laneAnd (.pair false ⟨4, .v 5, .v 6, 3, 0⟩ .fmul ⟨8, .v 9, .s 3, 0, 12⟩)),
   (0x40E0400A019820810026018C, .laneOr (.pair false ⟨4, .v 5, .v 6, 3, 0⟩ .fmul ⟨8, .v 9, .s 3, 0, 12⟩)),
   (0x4100400A019820810026018C, .laneXor (.pair false ⟨4, .v 5, .v 6, 3, 0⟩ .fmul ⟨8, .v 9, .s 3, 0, 12⟩)),
   (0x4120400A019820810026018C, .laneAndn (.pair false ⟨4, .v 5, .v 6, 3, 0⟩ .fmul ⟨8, .v 9, .s 3, 0, 12⟩)),
   (0x4140400A019820810026018C, .laneShl (.pair false ⟨4, .v 5, .v 6, 3, 0⟩ .fmul ⟨8, .v 9, .s 3, 0, 12⟩)),
   (0x4160400A019820810026018C, .laneShr (.pair false ⟨4, .v 5, .v 6, 3, 0⟩ .fmul ⟨8, .v 9, .s 3, 0, 12⟩)),
   (0x4180400A019820810026018C, .laneSra (.pair false ⟨4, .v 5, .v 6, 3, 0⟩ .fmul ⟨8, .v 9, .s 3, 0, 12⟩)),
   (0x41A0400A019820810026018C, .laneMin (.pair false ⟨4, .v 5, .v 6, 3, 0⟩ .fmul ⟨8, .v 9, .s 3, 0, 12⟩)),
   (0x41C0400A019820810026018C, .laneMax (.pair false ⟨4, .v 5, .v 6, 3, 0⟩ .fmul ⟨8, .v 9, .s 3, 0, 12⟩)),
   (0x41E0400A001820810026018C, .abs (.pair false ⟨4, .v 5, .v 0, 3, 0⟩ .fmul ⟨8, .v 9, .s 3, 0, 12⟩)),
   (0x4200400A001820810026018C, .neg (.pair false ⟨4, .v 5, .v 0, 3, 0⟩ .fmul ⟨8, .v 9, .s 3, 0, 12⟩)),
   (0x5000400A019C20810026018C, .fadd (.pair false ⟨4, .v 5, .v 6, 3, 8⟩ .fmul ⟨8, .v 9, .s 3, 0, 12⟩)),
   (0x5020400A019C20810026018C, .fsub (.pair false ⟨4, .v 5, .v 6, 3, 8⟩ .fmul ⟨8, .v 9, .s 3, 0, 12⟩)),
   (0x5040400A019C20810026018C, .fmul (.pair false ⟨4, .v 5, .v 6, 3, 8⟩ .fmul ⟨8, .v 9, .s 3, 0, 12⟩)),
   (0x5080400A019C20810026018C, .fmin (.pair false ⟨4, .v 5, .v 6, 3, 8⟩ .fmul ⟨8, .v 9, .s 3, 0, 12⟩)),
   (0x50A0400A019C20810026018C, .fmax (.pair false ⟨4, .v 5, .v 6, 3, 8⟩ .fmul ⟨8, .v 9, .s 3, 0, 12⟩)),
   (0x50C0400A001C20810026018C, .fabs (.pair false ⟨4, .v 5, .v 0, 3, 8⟩ .fmul ⟨8, .v 9, .s 3, 0, 12⟩)),
   (0x50E0400A001C20810026018C, .fneg (.pair false ⟨4, .v 5, .v 0, 3, 8⟩ .fmul ⟨8, .v 9, .s 3, 0, 12⟩)),
   (0x5200400A001C20810026018C, .rcp (.pair false ⟨4, .v 5, .v 0, 3, 8⟩ .fmul ⟨8, .v 9, .s 3, 0, 12⟩)),
   (0x5220400A001C20810026018C, .rsqrt (.pair false ⟨4, .v 5, .v 0, 3, 8⟩ .fmul ⟨8, .v 9, .s 3, 0, 12⟩)),
   (0x6000400A0019A0810026018C, .cvt (.pair false ⟨4, .v 5, .v 0, 3, 3⟩ .fmul ⟨8, .v 9, .s 3, 0, 12⟩))]

theorem test_decode_scalarRows1 : ∀ p ∈ scalarRows1, decodeScalar p.1 p.2.1 = .ok p.2.2 := by decide

theorem test_decode_scalarRows2 : ∀ p ∈ scalarRows2, decodeScalar p.1 p.2.1 = .ok p.2.2 := by decide

theorem test_decode_scalarRows3 : ∀ p ∈ scalarRows3, decodeScalar p.1 p.2.1 = .ok p.2.2 := by decide

theorem test_decode_laneRows1 : ∀ p ∈ laneRows1, decodeLane p.1 = .ok p.2 := by decide

theorem test_decode_laneRows2 : ∀ p ∈ laneRows2, decodeLane p.1 = .ok p.2 := by decide

theorem test_decode_laneRows3 : ∀ p ∈ laneRows3, decodeLane p.1 = .ok p.2 := by decide

theorem test_decode_pairRows1 : ∀ p ∈ pairRows1, decodeLane p.1 = .ok p.2 := by decide

/-! A small state: one running wave of 16 lanes, 512 registers and two accumulator planes on core 5, alone in its crew, with one page of
device memory, one of host memory and one of a peer, and a handler. -/

/-- A translation of a page of 2^14 bytes. -/
def page (va : Nat) (kind : PageKind) (addr : Nat) : TlbEntry :=
  { ctx := 1, va := va, size := 2 ^ 14, loc := ⟨kind, addr, 0, 0, false⟩, r := true, w := true, x := true, s := false }

def task0 : Task := { id := 70, sector := 0, cb := 0x8000, pa := 0x8000, slot := 0, ctx := 1, record := 0, placed := 1, retired := 0, marked := false }

def crew0 : Crew :=
  { id := 60, task := 70, sector := 0, ctx := 1, idx := 0, waves := [0], started := true, killed := false, gen := [], commits := 0 }

def wave0 : Wave :=
  { life := .running, core := 5, crew := 60, ctx := 1, shape := 0x23D20, pc := 0x1000
    s := [(1, 5), (2, 7), (3, 0x10008), (4, 0x10200), (5, 0x18008), (6, 0x1C008), (7, 3), (8, 1), (9, 0x8400), (10, 0x10400),
          (11, 2), (12, 4), (63, 0x40)] }

def base : State :=
  { w := wave0, crews := [crew0], tasks := [task0], ctxs := [(1, { vec := 0x4000 })]
    cores := [(5, { dtlb := [page 0x10000 .device 0x40000, page 0x18000 .host 0x8000, page 0x1C000 .peer 0x4000, page 0x8000 .device 0x8000,
                             { page 0x20000 .device 0x60000 with loc := ⟨.device, 0x60000, 0, 100, false⟩ }]
                    ctlb := [page 0 .device 0x20000] })] }

/-- The wave replaced. -/
def onWave (f : Wave → Wave) : State := { base with w := f base.w }

/-! Witnesses of the hypotheses. -/

theorem witness_RegisterOperationWritesItsResult : base.noStep := rfl

theorem witness_ScalarDivisionWritesOrTraps : base.noStep ∧ base.getS 0 = 0 ∧ base.getS 1 ≠ 0 := ⟨rfl, by decide⟩

theorem witness_ImmediateOperationWritesItsResult : base.noStep := rfl

/-- A branch taken on equal operands and one not taken; jump targets on and off a word; a loop's last pass and the one before. -/
theorem witness_ControlTransferPassesControl : base.noStep ∧ base.getS 1 = base.getS 1 ∧ base.getS 1 ≠ base.getS 2 ∧
    (base.getS 3 + immVal ⟨0, none⟩).toNat % 4 = 0 ∧ (base.getS 3 + immVal ⟨1, none⟩).toNat % 4 ≠ 0 ∧ base.getS 1 - 1 ≠ 0 ∧
    (onWave fun w => { w with s := [(1, 1)] }).getS 1 - 1 = 0 := ⟨rfl, by decide⟩

/-- A sweep that has started. -/
def sweep0 : SweepOp :=
  { id := 1, sys := false, sparse := false, plane := 0, ty := 4, tile := 0, da := 0, db := 0, ds := 0, dm := 0, dsNum := 0, bound := none, started := true
    bad := none }

/-- A run whose block has slots 0 and 1. -/
def run0 : Run :=
  { target := 0x2000, image := 3, regs := [], seed := 0, wrapOk := false, fptrap := 0, bad := none, started := true, slot := 0, traced := false
    qmark := 0 }

def base2 : State := onWave fun w => { w with sys := true }

def inRepro : State := { base with ctxs := [(1, { vec := 0x4000, repro := true })] }

/-- A lane command that waits. -/
def cmd0 : Entry := .cmd 0x1000 0 0 (.dMov 1 2)

/-- A trap that has been met. -/
def trap0 : TrapReq := ⟨0, .idiv0, 0, 0, 0, 0x4000⟩

/-- Kinds 0 and 2 are the ends of the range; a trap of the system view and one without a handler kill. -/
theorem witness_TrapEntryFollowsItsSteps : (0 ≤ 2 ∧ 2 ≤ 2) ∧ base.w.sys = false ∧ base.w.trapBusy = false ∧
    (onWave fun w => { w with sweeps := [sweep0] }).w.trapBusy = true ∧ base.row.vec ≠ 0 ∧ trap0.vec = base.row.vec ∧ base.crewOf base.w.crew = some crew0 ∧ (onWave fun w => { w with sys := true }).w.sys = true ∧
    ({ base with ctxs := [] } : State).row.vec = 0 ∧
    (onWave fun w => { w with trapping := some trap0 }).w.trapping = some trap0 ∧
    (onWave fun w => { w with trapping := some trap0 }).w.trapBusy = false ∧
    (onWave fun w => { w with trapping := some trap0, sweeps := [sweep0] }).w.trapBusy = true := by decide

/-- Nothing set aside; a head dropped; a head presented again; and a run resumed at its highest slot, 1, and beyond it, 2. -/
theorem witness_EretResumesTheStreams : base2.w.sys = true ∧ base2.lanesWait = .ok () ∧ base2.w.firstCause ≠ .streamFault ∧
    base2.w.aside = [] ∧
    (onWave fun w => { w with sys := true, aside := [cmd0], drop := true }).w.drop = true ∧
    (onWave fun w => { w with sys := true, aside := [cmd0] }).w.elpc = 0 ∧
    (let s := onWave fun w => { w with sys := true, aside := [.run run0], elpc := 0x2001 }
     s.lanesWait = .ok () ∧ bits s.w.elpc 4 3 = 0 ∧ bits s.w.elpc 0 4 < 10 ∧ s.w.elpc ≠ 0 ∧
       Block.highest run0.image = some 1 ∧ bits s.w.elpc 0 4 ≤ 1) ∧
    (let s := onWave fun w => { w with sys := true, aside := [.run run0], elpc := 0x2002 }
     s.lanesWait = .ok () ∧ bits s.w.elpc 4 3 = 0 ∧ bits s.w.elpc 0 4 < 10 ∧ 1 < bits s.w.elpc 0 4) :=
  ⟨rfl, rfl, by decide, rfl, rfl, rfl, ⟨rfl, by decide⟩, ⟨rfl, by decide⟩⟩

/-- Both views, a number below and one above every register, and values that a row register takes and turns away. -/
theorem witness_SpecialRegisterReadAndWrite : base.noStep ∧ base2.noStep ∧ base.w.sys = false ∧ base2.w.sys = true ∧
    base2.w.stepping = false ∧ (0x005 : BitVec 12) ∉ (userCsrs base).map Prod.fst ∧ (0xFFF : BitVec 12) ∉ (systemCsrs base).map Prod.fst ∧
    (∀ p ∈ rowCsrWrites (base2.rowAt base2.ctxSel) 0, p.2.1 = true) ∧
    (∃ p ∈ rowCsrWrites (base2.rowAt base2.ctxSel) 5, p.2.1 = false) ∧ csrWritable 0x010 = true ∧ csrWritable 0x881 = true ∧
    csrWritable 0x803 = false ∧ csrWritable 0x882 = false := ⟨rfl, rfl, rfl, rfl, rfl, by decide⟩

/-- No TLB holds a translation, and a write at its home holds the line of the root table. -/
def tableHeld : State :=
  { base2 with cores := [], ctxs := [(1, { vec := 0x4000, root := 1 })]
               homeReqs := [{ line := 0, cells := [], agent := { core := 5, id := 9, wave := 0 }, slice := 0, stamp := 0, started := true
                              asked := [2], acks := [2] }] }

/-- Values that `sys.xthr`, `sys.ctxskim` and `sys.apctl` take and turn away, at the ends of their ranges; a registration that answers. -/
theorem witness_SpecialRegisterReadAndWrite_device :
    (∀ x ∈ [1, 9], 1 ≤ x * 16 / 2 ^ 4 % 2 ^ 4 ∧ x * 16 / 2 ^ 4 % 2 ^ 4 ≤ 9) ∧ (∀ x ∈ [0, 10], ¬ (1 ≤ x * 16 / 2 ^ 4 % 2 ^ 4 ∧ x * 16 / 2 ^ 4 % 2 ^ 4 ≤ 9)) ∧
    skimFits (2 ^ 54) ∧ ¬ skimFits (2 ^ 54 + 128) ∧ ¬ skimFits 64 ∧ apertureFits 0 ∧ apertureFits (14 + 2 ^ 14) ∧ ¬ apertureFits 13 ∧
    ¬ apertureFits (15 + 2 ^ 14) ∧ apertureFits (575 * 2 ^ 48) ∧ ¬ apertureFits (576 * 2 ^ 48) ∧
    (∃ u, exec (.queueUnregister 0x8400) base2 = .next u) ∧ base2.qregWaits 0x8401 = false ∧ tableHeld.w.sys = true ∧
    tableHeld.qregWaits 0x8401 = true := by
  unfold skimFits apertureFits
  exact ⟨by decide, by decide, by decide, by decide, by decide, by decide, by decide, by decide, by decide, by decide, by decide, ⟨_, rfl⟩, by decide, rfl, by decide⟩

/-- No lane, one lane and every lane of 16 in the mask; the last register; the last field. -/
theorem witness_WaitingInstructionReadsLaneState : base.noStep ∧ base.lanesWait = .ok () ∧ scatterWait base = .ok () ∧ ¬ someLane base.w 1 ∧
    someLane (onWave fun w => { w with m := [(16384 + 15, true)] }).w 1 ∧ ¬ everyLane (onWave fun w => { w with m := [(16384 + 15, true)] }).w 1 ∧
    everyLane (onWave fun w => { w with m := (List.range 16).map fun L => (16384 + L, true) }).w 1 ∧ 511 < base.w.regs ∧ 8 < 9 :=
  ⟨rfl, rfl, rfl, by unfold someLane; decide, ⟨15, by decide⟩, by unfold everyLane; decide, by unfold everyLane; decide, by decide⟩

/-- The fill of a hint for the block at 0x2000 is under way. -/
def hinted : State :=
  base.modCore fun c => { c with fills := [⟨1, false, 0x2000, 1, 0, some ((page 0 .device 0x20000).at 0x2000)⟩] }

/-- A block that is fetched and one that is not; slots 9 and 10; a queue with one entry left and a full one; both conditions. -/
theorem witness_LexecAppendsARun : base.noStep ∧ bits (0x2009 : DWord) 4 3 = 0 ∧ bits (0x2009 : DWord) 0 4 < 10 ∧
    10 ≤ bits (0x200A : DWord) 0 4 ∧ bits (0x2010 : DWord) 4 3 ≠ 0 ∧ (onWave fun w => { w with lq := List.replicate 31 cmd0 }).w.lqCount < 32 ∧
    32 ≤ (onWave fun w => { w with lq := List.replicate 32 cmd0 }).w.lqCount ∧ base.getS 0 = 0 ∧ base.getS 1 ≠ 0 ∧
    (base.block 0x2000).isSome = true ∧ (base.block 0x20000).isNone = true ∧ base.blockWaits 0x2000 = false ∧
    hinted.blockWaits 0x2000 = true := ⟨rfl, by decide⟩

/-- Addresses aligned to 16 and 32 bytes on a page that permits; a field value at its limit; the last plane; anchors at both ends. -/
theorem witness_LaneCommandTakesAQueueEntry : base.noStep ∧ (onWave fun w => { w with lq := List.replicate 31 cmd0 }).w.lqCount < 32 ∧
    (base.getS 3 + immVal ⟨0x18, none⟩).toNat % 32 = 0 ∧
    base.maps (base.getS 3 + immVal ⟨0x18, none⟩) (page 0x10000 .device 0x40000) ∧
    (page 0x10000 .device 0x40000).permits .load false = true ∧ (page 0x10000 .device 0x40000).permits .store false = true ∧
    fieldOk 1 9 = true ∧ fieldOk 8 0 = true ∧ 1 < base.w.accPlanes ∧ -512 ≤ (0xFFFFFFFFFFFFFE00 : DWord).toInt ∧ (511 : DWord).toInt ≤ 511 :=
  ⟨rfl, by decide, by decide, ⟨rfl, rfl⟩, by decide⟩

/-- The wave with one plane or none, 32 registers, and pages that forbid. -/
def small : State := onWave fun w => { w with shape := 0x10120 }

def barred : State :=
  { base with cores := [(5, { dtlb := [{ page 0x10000 .device 0x40000 with r := false, w := false }] })] }

theorem witness_InstructionTrapsAtIssue : base.w.sys = false ∧ small.w.regs ≤ 32 ∧ 9 ≤ 9 ∧ 8 ≤ 8 ∧
    (base.getS 3 + immVal ⟨0, none⟩).toNat % 16 ≠ 0 ∧ (base.getS 3 + immVal ⟨0x18, none⟩).toNat % 32 = 0 ∧
    ({ base with cores := [] } : State).unmapped 0x10020 ∧
    (∃ e, barred.maps 0x10020 e ∧ e.permits .load false = false ∧ e.permits .store false = false) ∧
    fieldOk 1 0 = false ∧ fieldOk 1 10 = false ∧ small.w.accPlanes ≤ 1 ∧ (0xFFFFFFFFFFFFFDFF : DWord).toInt < -512 ∧
    511 < (512 : DWord).toInt :=
  ⟨rfl, by decide, by decide, by decide, by decide, by decide, ⟨rfl, rfl⟩, ⟨_, ⟨rfl, rfl⟩, rfl, rfl⟩, by decide⟩

/-- A load of 8 bytes; a store queue that holds its byte; one that does not, with and without an L1 line. -/
def store0 : StoreEntry := { id := 9, wave := 0, loc := (page 0x10000 .device 0x40000).at 0x10008, cells := [(0x40008, 0xAB)] }

theorem witness_ScalarLoadSendsTheBytes : base.noStep ∧ reproWait base = .ok () ∧
    base.maps (base.getS 3 + immVal ⟨0, none⟩) (page 0x10000 .device 0x40000) ∧
    (let l := (page 0x10000 .device 0x40000).at 0x10008
     l.kind = .device ∧ 0x10008 % 8 = 0 ∧ (base.fromHome l 8 && !base.missOpen base.w.core l) = false ∧ base.poisoned l 8 = false ∧
       base.w.buf = [] ∧ (onWave fun w => { w with stq := [store0] }).w.stq = [] ++ [store0] ∧ store0.loc.sameSpace l = true ∧
       (store0.cells.find? fun c => c.1 == 0x40008) = some (0x40008, 0xAB) ∧
       (∀ e ∈ base.w.stq ++ base.core.inflight, e.loc.sameSpace l = true → ∀ c ∈ e.cells, c.1 ≠ 0x40008) ∧
       look? base.core.l1 (0x40008 / 128) = none ∧
       look? (base.modCore fun c => { c with l1 := [(0x40008 / 128, [])] }).core.l1 (0x40008 / 128) = some []) :=
  ⟨rfl, rfl, ⟨rfl, rfl⟩, by decide⟩

/-- A store queue with one entry free; a commit buffer that takes the store, and one that is full with an instruction in the quantum and
without. -/
def full (used : Bool) : State :=
  { inRepro with w := { inRepro.w with qused := used
                                       buf := List.replicate 512 (.atom 0 true store0.loc 0 0) } }

theorem witness_ScalarStoreEntersItsQueue : base.noStep ∧ base.repro = false ∧
    (onWave fun w => { w with stq := List.replicate 63 store0 }).w.stq.length < 64 ∧ inRepro.noStep ∧ inRepro.repro = true ∧
    inRepro.lanesWait = .ok () ∧ inRepro.maps 0x10008 (page 0x10000 .device 0x40000) ∧ base.maps 0x10008 (page 0x10000 .device 0x40000) ∧
    bufCharge [.bytes store0.loc [(0x40008, 0)]] ≤ 512 ∧ (full true).w.qused = true ∧ (full false).w.qused = false ∧
    512 < bufCharge ((full true).w.buf ++ [.bytes store0.loc [(0x40008, 0)]]) ∧
    512 < bufCharge ((full false).w.buf ++ [.bytes store0.loc [(0x40008, 0)]]) :=
  ⟨rfl, rfl, by decide, rfl, rfl, rfl, ⟨rfl, rfl⟩, ⟨rfl, rfl⟩, by decide⟩

theorem witness_ScalarAccessTrapsBeforeAnyEffect : reproWait base = .ok () ∧ (base.getS 3 + immVal ⟨1, none⟩).toNat % 2 ≠ 0 ∧
    (base.getS 3 + immVal ⟨0, none⟩).toNat % 8 = 0 ∧ reproWait { base with cores := [] } = .ok () ∧
    ({ base with cores := [] } : State).unmapped 0x10008 ∧ reproWait barred = .ok () ∧
    (∃ e, barred.maps 0x10008 e ∧ e.permits .load false = false ∧ e.permits .store false = false) ∧
    (base.getS 1).toNat % 4 ≠ 0 ∧ (base.getS 3).toNat % 8 = 0 ∧ (base.getS 3).toNat % 128 ≠ 0 :=
  ⟨rfl, by decide, by decide, rfl, ⟨rfl, rfl⟩, rfl, ⟨_, ⟨rfl, rfl⟩, rfl, rfl⟩, by decide⟩

/-- Both widths, relaxed and with release, and every operation code by its two ends. -/
theorem witness_ScalarAtomicActsAtTheHome : base.noStep ∧ base.repro = false ∧ (base.getS 3).toNat % 8 = 0 ∧
    base.maps (base.getS 3) (page 0x10000 .device 0x40000) ∧
    (page 0x10000 .device 0x40000).permits .atomic false = true ∧ ((page 0x10000 .device 0x40000).at 0x10008).kind = .device ∧
    orderReady base 0 ∧ orderReady base 3 ∧ base.storesPerformed = true ∧
    base.atomOpen base.w.core ((page 0x10000 .device 0x40000).at 0x10008) = true ∧
    base.poison.contains (0x40008 / 128) = false := ⟨rfl, rfl, by decide, ⟨rfl, rfl⟩, by decide, rfl, fun _ => rfl, fun _ => rfl, by decide⟩

/-- Scopes 1 and 2 are where the copies that a fence drops begin; path fences 0 and 3. -/
theorem witness_FenceCompletes : base.noStep ∧ base.lanesWait = .ok () ∧ scatterWait base = .ok () ∧ base.storesAcked = true ∧
    2 ≤ (2 : BitVec 3).toNat ∧ (1 : BitVec 3).toNat < 2 ∧ base.w.writesDone = true ∧ freshQuantum base = true :=
  ⟨rfl, rfl, rfl, by decide⟩

theorem witness_WaitingInstructionWaits : (onWave fun w => { w with lq := [cmd0] }).w.lanesDone = false ∧ base.lanesWait = .ok () ∧
    scatterWait base = .ok () ∧ (onWave fun w => { w with stq := [store0] }).storesAcked = false ∧
    (onWave fun w => { w with stq := [store0] }).lanesWait = .ok () := ⟨rfl, rfl, rfl, rfl, rfl⟩

/-- A pin that another context holds, one of its own, room in the set and in the quota, and neither. -/
def pinned (v : Nat) : State := { base with pins := [(0x40008 / 512, v)] }

def quota (n : Nat) : State := { base with ctxs := [(1, { vec := 0x4000, pinQuota := n })] }

theorem witness_PinAndPrefetchChangeNoValue : base.noStep ∧ ({ base with cores := [] } : State).translate false 0x10008 = none ∧
    base.translate false (base.getS 3).toNat = some (page 0x10000 .device 0x40000) ∧
    base.translate false (base.getS 5).toNat = some (page 0x18000 .host 0x8000) ∧ (page 0x18000 .host 0x8000).loc.kind ≠ .device ∧
    (look? (pinned 2048).pins (0x40008 / 512)).isSome = true ∧ look? base.pins (0x40008 / 512) = none ∧ 2048 / 1024 = base.w.ctx + 1 ∧
    1024 / 1024 ≠ base.w.ctx + 1 ∧ base.row.pinQuota ≤ base.row.pinCount ∧ (quota 1).row.pinCount < (quota 1).row.pinQuota :=
  ⟨rfl, by decide⟩

/-- The full set is one whose other lines share the index of the line; which do is free (log entry 11). -/
theorem witness_PinAndPrefetchChangeNoValue_ways : (quota 1).pinnedWays ((page 0x10000 .device 0x40000).at 0x10008) < 15 ∧
    (l2Set 7 = l2Set (0x40008 / 512) →
      let s : State := { base with pins := List.replicate 15 (7, 2048) }
      look? s.pins (0x40008 / 512) = none ∧ 15 ≤ s.pinnedWays ((page 0x10000 .device 0x40000).at 0x10008)) := by
  refine ⟨by decide, fun h => ⟨by decide, ?_⟩⟩
  show 15 ≤ List.countP (fun e => e.2 % 1024 == 0 && decide (l2Set e.1 = l2Set (0x40008 / 512))) (List.replicate 15 (7, 2048))
  simp [h]

/-- A group of one entry at 0x10400, one of two entries on lines of two slices, one whose record is malformed. -/
def group (cells : List Host.Cell) : State := { base with mem := cells }

def goodGroup : State := group (leCells 0x40400 8 0x10008)

def farGroup : State := group (leCells 0x40400 8 0x10008 ++ leCells 0x40420 8 0x20008)

def badGroup : State := group (leCells 0x40400 8 0x10008 ++ leCells 0x40418 8 1)

def groupEntries (s : State) (n : Nat) : List CstEntry :=
  (List.range n).map (cstEntry (BitVec.ofNat 1024 (s.lsLe ((page 0x10000 .device 0x40000).at 0x10400) 0x40400 128)))

/-- The place of an entry at 0x10008 or 0x20008 with stamp 0, 4 bytes wide, value 0. -/
def entryAt (far : Bool) : Loc × BitVec 32 × Bool × Nat :=
  (if far then ⟨.device, 0x60008, 0, 100, false⟩ else ⟨.device, 0x40008, 0, 0, false⟩, 0, false, 0)

theorem witness_VersionedLoadAndCompareStamps_load : base.noStep ∧ base.repro = false ∧ (base.getS 3).toNat % 4 = 0 ∧
    base.maps (base.getS 3) (page 0x10000 .device 0x40000) ∧ base.maps (base.getS 5) (page 0x18000 .host 0x8000) ∧
    (page 0x18000 .host 0x8000).permits .load false = true ∧ base.atomOpen base.w.core ((page 0x10000 .device 0x40000).at 0x10008) = true ∧
    base.storesPerformed = true ∧ base.poison.contains (0x40008 / 128) = false :=
  ⟨rfl, rfl, by decide, ⟨rfl, rfl⟩, ⟨rfl, rfl⟩, by decide⟩

/-- Counts 0, 1, 4 and 5; stamps that stand and one that does not. -/
theorem witness_VersionedLoadAndCompareStamps_group : goodGroup.noStep ∧ goodGroup.repro = false ∧ goodGroup.storesAcked = true ∧
    (goodGroup.getS 10).toNat % 128 = 0 ∧ (goodGroup.getS 0).toNat = 0 ∧ 4 < (goodGroup.getS 1).toNat ∧ (goodGroup.getS 8).toNat = 1 ∧
    (goodGroup.getS 11).toNat = 2 ∧ (goodGroup.getS 12).toNat = 4 ∧ goodGroup.translateWaits 5 1 false 0x10400 = false ∧
    goodGroup.translate false 0x10400 = some (page 0x10000 .device 0x40000) ∧
    (goodGroup.fromHome ((page 0x10000 .device 0x40000).at 0x10400) 128 &&
      !goodGroup.missOpen goodGroup.w.core ((page 0x10000 .device 0x40000).at 0x10400)) = false ∧
    goodGroup.poisoned ((page 0x10000 .device 0x40000).at 0x10400) 128 = false ∧ (∀ x ∈ groupEntries goodGroup 1, x.ok = true) ∧
    (∃ x ∈ groupEntries badGroup 1, x.ok = false) ∧ (∀ x ∈ groupEntries farGroup 2, x.ok = true) ∧
    goodGroup.atomOpen goodGroup.w.core (entryAt false).1 = true ∧ farGroup.atomOpen farGroup.w.core (entryAt true).1 = true ∧ (entryAt false).1.slice = (entryAt false).1.slice ∧
    (entryAt false).1.slice ≠ (entryAt true).1.slice ∧ look 0 goodGroup.stamps (0x40008 / 512) = (entryAt false).2.1 ∧
    look 0 ({ goodGroup with stamps := [(0x40008 / 512, 1)] } : State).stamps (0x40008 / 512) ≠ (entryAt false).2.1 := ⟨rfl, by decide⟩

theorem witness_VersionedLoadAndCompareStamps_places : cstLocs goodGroup (groupEntries goodGroup 1) = .ok [entryAt false] ∧
    cstLocs farGroup (groupEntries farGroup 2) = .ok [entryAt false, entryAt true] := ⟨rfl, rfl⟩

/-- A copy operation of ticket 1. -/
def copy0 (accepted done : Bool) (fault : Option (Nat × DWord × Nat)) : CopyOp :=
  { cmd := { kind := .plane, ticket := 1, base := 0, view := 0, dn := 0, circ := 0, sys := false }, desc := 0, accepted := accepted, todo := []
    fault := fault, held := none, done := done }

def copying (accepted done : Bool) (fault : Option (Nat × DWord × Nat)) : State :=
  onWave fun w => { w with ticket := 2, ops := [copy0 accepted done fault] }

/-- Tickets 2, which has not been given, and 1: not accepted, in flight, faulted and complete. -/
theorem witness_CopyWaitTestAndRetry : base.noStep ∧ base.w.ticket ≤ 1 ∧ 1 < (copying false false none).w.ticket ∧
    (∀ o ∈ (copying false false none).w.opsOf 1, o.accepted = false) ∧ (∃ o ∈ (copying true false none).w.opsOf 1, o.done = false) ∧
    (∀ o ∈ (copying true false none).w.opsOf 1, o.fault = none) ∧ (∃ o ∈ (copying true false (some (1, 0, 0))).w.opsOf 1, o.fault.isSome) ∧
    ticketDone (copying true true none) 1 ∧ (∀ o ∈ (copying true true none).w.opsOf 1, o.fault = none) ∧ base2.noStep ∧ base2.w.sys = true :=
  ⟨rfl, by decide, by decide, by decide, by decide, by decide, by decide, ⟨by decide, by decide⟩, by decide, rfl, rfl⟩

/-- A queue of 16 slots at 0x8400 whose ring is at 0x8800: empty, and with every slot taken. -/
def ring (write read : Nat) : State :=
  { base with mem := leCells 0x8400 8 write ++ leCells 0x8600 8 read ++ leCells 0x8608 8 0x8800 ++ leCells 0x8610 8 4 ++ leCells 0x8618 8 1 }

def push0 : Push := { d := 1, w := 0, old := 5, q := (page 0x8000 .device 0x8000).at 0x8400, record := 0 }

def claimed (write : Nat) : State :=
  { ring 16 0 with w := { (ring 16 0).w with pushWait := some { push0 with w := dw write } } }

/-- A trap has met the push of the word at the program counter in its wait for room; WATCHDOG has abandoned the word, or not. -/
def kept (again : Bool) : State :=
  { ring 0 0 with w := { (ring 0 0).w with pushAt := some { pc := 0x1000, push := { push0 with w := 3 }, again := again } } }

theorem witness_TaskPushClaimsThenWrites : (ring 0 0).noStep ∧ (ring 0 0).repro = false ∧ (ring 0 0).w.pushWait = none ∧
    (ring 0 0).storesAcked = true ∧ (ring 0 0).w.pushAt = none ∧ ((ring 0 0).getS 10).toNat % 64 = 0 ∧ ((ring 0 0).getS 9).toNat % 1024 = 0 ∧
    (ring 0 0).translateWaits 5 1 false 0x10400 = false ∧ (ring 0 0).translate false 0x10400 = some (page 0x10000 .device 0x40000) ∧
    (ring 0 0).translateWaits 5 1 false 0x8400 = false ∧ (ring 0 0).translate false 0x8400 = some (page 0x8000 .device 0x8000) ∧ (page 0x10000 .device 0x40000).permits .load false = true ∧
    (page 0x8000 .device 0x8000).permits .store false = true ∧
    ((ring 0 0).fromHome ((page 0x10000 .device 0x40000).at 0x10400) 64 && !(ring 0 0).missOpen 5 ((page 0x10000 .device 0x40000).at 0x10400)) = false ∧
    (ring 0 0).poisoned ((page 0x10000 .device 0x40000).at 0x10400) 64 = false ∧
    (ring 0 0).atomOpen 5 ((page 0x8000 .device 0x8000).at 0x8400) = true ∧
    (ring 0 0).poison.contains (0x8400 / 128) = false ∧ 0x40400 / 512 ≠ 0x8400 / 512 ∧ (claimed 15).w.trapping = none ∧
    (claimed 15).slotRoom 0x8400 15 = true ∧ (claimed 16).slotRoom 0x8400 16 = false ∧ (claimed 15).slotVa 0x8400 15 = 0x8BC0 ∧
    (claimed 15).translate false 0x8BC0 = some (page 0x8000 .device 0x8000) ∧ (claimed 15).translateWaits 5 1 false 0x8BC0 = false ∧
    (claimed 15).atomOpen 5 ((page 0x8000 .device 0x8000).at 0x8BC0) = true ∧ (∀ again, (kept again).w.sys = false ∧
      (kept again).w.pushAt = some { pc := (kept again).w.pc, push := { push0 with w := 3 }, again := again } ∧
      push0.q.addr = ((page 0x8000 .device 0x8000).at 0x8400).addr ∧ push0.d = sKey (kept again).w.sys 1 ∧
      push0.d ≠ sKey (kept again).w.sys 2 ∧ (kept again).w.pushWait = none ∧ (kept again).storesAcked = true) ∧
    ({ claimed 15 with cores := [(5, { inReset := true })] } : State).core.inReset = true ∧ (claimed 15).core.inReset = false ∧
    ({ claimed 15 with cores := [] } : State).translate false 0x8BC0 = none ∧
    ({ claimed 15 with cores := [] } : State).translateWaits 5 1 false 0x8BC0 = false :=
  ⟨rfl, rfl, rfl, by decide⟩

/-- A record in the control block's own line: its load leaves no copy there that would hold the claim back. -/
theorem witness_TaskPushClaimsThenWrites_line : ((ring 0 0).getS 9).toNat % 64 = 0 ∧ (page 0x8000 .device 0x8000).permits .load false = true ∧
    ((ring 0 0).fromHome ((page 0x8000 .device 0x8000).at 0x8400) 64 && !(ring 0 0).missOpen 5 ((page 0x8000 .device 0x8000).at 0x8400)) = false ∧
    (ring 0 0).poisoned ((page 0x8000 .device 0x8000).at 0x8400) 64 = false ∧
    ∃ t, exec (.taskPush 1 9 9) (ring 0 0) = .next t ∧ t.w.pushWait.isSome = true ∧ t.installs = [] := ⟨by decide, rfl, rfl, rfl, _, rfl, rfl, rfl⟩

/-- A crew of one wave and one of two; a wait that may end and one that may not. -/
def pair0 : State := { base with crews := [{ crew0 with waves := [0, 1] }], others := [(1, wave0)] }

theorem witness_CrewBarrierArrivesAndWaits : base.noStep ∧ inCrew base crew0 ∧ crew0.waves.length = 1 ∧ freshQuantum base = true ∧
    base.storesAcked = true ∧ base.w.arrivals 1 = look 0 crew0.gen 1 ∧ base.w.barAt ≠ some (base.w.pc, 1) ∧ pair0.noStep ∧
    inCrew pair0 { crew0 with waves := [0, 1] } ∧ 1 < [0, 1].length ∧ pair0.storesAcked = true ∧ pair0.w.arrivals 1 = 0 ∧
    look 0 crew0.gen 1 < (onWave fun w => { w with arr := [(1, 1)] }).w.arrivals 1 :=
  ⟨rfl, rfl, rfl, rfl, rfl, rfl, by decide, rfl, rfl, by decide, rfl, rfl, by decide⟩

/-- A word equal to the operand, and ones on either side of it. -/
def holding (v : Nat) : State := { base with mem := leCells 0x40008 8 v }

theorem witness_SignalAddAndWait : (holding 3).noStep ∧ (holding 3).repro = false ∧ (base.getS 3).toNat % 8 = 0 ∧
    (holding 3).maps (base.getS 3) (page 0x10000 .device 0x40000) ∧ (holding 3).poison.contains (0x40008 / 128) = false ∧
    (page 0x10000 .device 0x40000).permits .store false = true ∧ (holding 3).storesAcked = true ∧ (holding 3).storesPerformed = true ∧
    (holding 3).atomOpen 5 ((page 0x10000 .device 0x40000).at 0x10008) = true ∧ (holding 3).getS 7 = 3 ∧
    dw (readLe (holding 3).mem 0x40008 8) = 3 ∧ (3 : DWord).toInt ≤ (dw (readLe (holding 4).mem 0x40008 8)).toInt ∧
    (dw (readLe (holding 2).mem 0x40008 8)).toInt ≤ (3 : DWord).toInt ∧ dw (readLe (holding 2).mem 0x40008 8) ≠ 3 :=
  ⟨rfl, rfl, by decide, ⟨rfl, rfl⟩, by decide⟩

theorem witness_OtherScalarInstructionsComplete : base.noStep ∧ (7 : BitVec 13).toNat < 8 ∧ base.repro = false ∧ inRepro.noStep ∧
    inRepro.repro = true ∧ inCrew base crew0 ∧ base.taskOf crew0.task = some task0 ∧ base2.w.sys = true ∧ base2.w.stepping = false ∧
    base.lanesWait = .ok () ∧ base.w.counts = [] ∧ (onWave fun w => { w with s := [(1, 0x3F800000), (2, 0x7FC00001)] }).getS 1 = 0x3F800000 ∧
    (onWave fun w => { w with s := [(1, 0x3F800000), (2, 0x7FC00001)] }).getS 2 = 0x7FC00001 :=
  ⟨rfl, by decide, rfl, rfl, rfl, rfl, rfl, rfl, rfl, rfl, rfl, rfl, rfl⟩

def leaving : State := onWave fun w => { w with life := .exiting }

theorem witness_ExitEndsTheWave : base.w.sys = false ∧ base2.w.lanesDone = true ∧ leaving.w.life = .exiting ∧ leaving.core.inReset = false ∧ leaving.repro = false ∧
    leaving.lanesWait = .ok () ∧ scatterWait leaving = .ok () ∧ leaving.sbView = [] ∧ leaving.w.sweeps = [] ∧ leaving.w.stq = [] ∧
    leaving.w.trapping = none ∧ leaving.w.pushWait = none ∧ base.w.life = .running :=
  ⟨rfl, rfl, rfl, rfl, rfl, rfl, rfl, rfl, rfl, rfl, rfl, rfl, rfl⟩

/-- A range of one line and one of none. -/
theorem witness_TlbAndCacheInstructionsComplete : base2.noStep ∧ base2.w.sys = true ∧ fenceReady base2 ∧ base2.coverIdle .all = true ∧
    base2.coverIdle (.ctx 5) = true ∧ base2.coverIdle (.pages 1 (base2.allTlbs.filter (fun _ => true) ++ (base2.walk 1 5).toList)) = true ∧
    base2.rangeLines 0x10008 1 = [0x40008 / 512] ∧ base2.rangeLines 0x10008 0 = [] ∧ base2.linesIdle [0x40008 / 512] = true ∧
    base2.lineFree (0x40008 / 512) = true := ⟨rfl, rfl, ⟨rfl, rfl, rfl, rfl⟩, by decide⟩

theorem witness_SystemCallBreakpointAndStepEnterTheHandler : base.w.sys = false ∧ base.w.trapBusy = false ∧ base.row.vec ≠ 0 ∧
    (onWave fun w => { w with stepping := true }).w.stepping = true ∧ (onWave fun w => { w with stepping := true }).w.lstep = false ∧
    (onWave fun w => { w with stepping := true }).row.vec ≠ 0 := by decide

/-! Lane words: the head of the lane queue is a run of two slots, and v5 and v6 hold 7 and 0, v9 and v10 infinity and 0, in lane 0. -/

def grid (f : Wave → Wave) : State :=
  onWave fun w => f { w with lq := [.run run0], m := [(16384, true)], v := [(5 * 16384, 7), (9 * 16384, 0x7F800000)] }

def g0 : State := grid id

/-- Traps are enabled for every kind. -/
def gTrap : State := grid fun w => { w with lq := [.run { run0 with fptrap := 15 }] }

theorem witness_IntegerWordWritesActiveLanes : addWord.ty ∈ [1, 2] ∧ g0.laneReady 0x001 addWord false ∧
    g0.laneReady 0x000 { addWord with b := .v 0 } false := ⟨by decide, ⟨rfl, by decide, rfl⟩, ⟨rfl, by decide, rfl⟩⟩

/-- A divisor of 0 in one active lane, and a literal that is 0 in none; both types. -/
theorem witness_IntegerWordWritesActiveLanes_division : addWord.ty = 1 ∧ ({ addWord with mods := 0x080000000 } : LaneWord).ty = 2 ∧
    g0.laneReady 0x013 addWord false ∧ (∃ L ∈ g0.w.active 0, g0.src 1 (.v 6) L = 0) ∧ g0.laneReady 0x014 { addWord with b := .lit 3 } false ∧
    (∀ L ∈ g0.w.active 0, g0.src 1 (.lit 3) L ≠ 0) :=
  ⟨rfl, rfl, ⟨rfl, by decide, rfl⟩, ⟨0, by decide, by decide⟩, ⟨rfl, by decide, rfl⟩, by decide⟩

/-- The fields of `fadd.f32`, in lane 0 alone. -/
def faddWord : LaneWord := { addWord with a := .v 6, mods := 0x0C0000000, guard := 1 }

theorem witness_RoundedWordWritesAndCounts : g0.laneReady 0x100 faddWord false ∧
    (∀ L ∈ g0.w.active 1, faddFn 3 .rne false (g0.src 3 (.v 6) L) (g0.src 3 (.v 6) L) = .ok ⟨0, 0⟩) ∧ 0 < faddWord.ty ∧
    trappedKinds g0 ((g0.w.active 1).map fun _ => (0 : BitVec 4)) = 0 := by
  refine ⟨⟨rfl, by decide, rfl⟩, fun L h => ?_, by decide, by decide⟩
  rw [show g0.w.active 1 = [0] from rfl, List.mem_singleton] at h
  subst h
  rfl

/-- Infinity times 0 is of kind 0, invalid, and its trap is enabled. -/
theorem witness_RoundedWordWritesAndCounts_trap : gTrap.laneReady 0x102 { faddWord with a := .v 9 } false ∧
    (∀ L ∈ gTrap.w.active 1, fmulFn 3 .rne false (gTrap.src 3 (.v 9) L) (gTrap.src 3 (.v 6) L) = .ok ⟨0x7FC00000, 1⟩) ∧
    trappedKinds gTrap [1] ≠ 0 := by
  refine ⟨⟨rfl, by decide, rfl⟩, fun L h => ?_, by decide⟩
  rw [show gTrap.w.active 1 = [0] from rfl, List.mem_singleton] at h
  subst h
  rfl

def packWord : LaneWord := { addWord with a := .v 6, b := .v 0, mods := 0x100800000, guard := 1 }

theorem witness_RoundedWordWritesAndCounts_pack : g0.regCheck 0x201 packWord false = .ok () ∧
    dstCheck g0 packWord.dst (g0.w.active 1) = .ok () ∧ packN packWord.ty = 2 ∧
    cvtFn 4 3 .rne .rne false (g0.w.v32 6 0) = .ok ⟨0, 0⟩ ∧ cvtFn 4 3 .rne .rne false (g0.w.v32 7 0) = .ok ⟨0, 0⟩ ∧ g0.w.active 1 = [0] ∧
    trappedKinds g0 [0, 0] = 0 ∧ g0.regCheck 0x202 packWord false = .ok () ∧ queuesOf [packWord.a] = [] :=
  ⟨rfl, rfl, rfl, rfl, rfl, rfl, rfl, rfl, rfl⟩

theorem witness_SpecialFunctionIssuesAnUncheckedResult : faddWord.dst = .v 4 ∧ g0.laneReady 0x112 { faddWord with b := .v 0 } true ∧
    specialFn sqrtE (rndOf faddWord) (g0.src 3 (.v 6) 0) = .ok ⟨0, 0⟩ ∧ g0.w.active 1 = [0] ∧ trappedKinds g0 [0] = 0 :=
  ⟨rfl, ⟨rfl, by decide, rfl⟩, rfl, rfl, rfl⟩

/-- The sine of an infinity is invalid, with its trap enabled; a root whose destination is queue 4, which has room. -/
theorem witness_SpecialFunctionIssuesAnUncheckedResult_queue :
    gTrap.laneReady 0x115 { faddWord with a := .v 9, b := .v 0 } true ∧
    specialFn sinE (rndOf faddWord) (gTrap.src 3 (.v 9) 0) = .ok ⟨0x7FC00000, 1⟩ ∧ trappedKinds gTrap [1] ≠ 0 ∧
    (grid fun w => { w with q := [(4, { bound := true, count := 16 })] }).laneReady 0x112 { faddWord with dst := .q 0, b := .v 0 } true :=
  ⟨⟨rfl, by decide, rfl⟩, rfl, by decide, ⟨rfl, by decide, rfl⟩⟩

/-- `add` beside `fmul`, in lane 0 by mask m1: zeros, and infinity times 0 with its trap enabled. -/
def halfX : Half := ⟨4, .v 6, .v 7, 1, 0⟩

def halfY (r : BitVec 9) : Half := ⟨8, .v r, .v 10, 1, 8⟩

theorem witness_PairWordReadsBeforeItWrites : halfCheck g0 .add halfX = .ok () ∧ halfCheck g0 .fmul (halfY 11) = .ok () ∧
    halfHazard g0 .add halfX = .ok () ∧ halfHazard g0 .fmul (halfY 11) = .ok () ∧ halfLanes g0.w halfX = [0] ∧
    halfFn .add halfX (g0.src 1 (.v 6) 0) (g0.src 1 (.v 7) 0) = .ok ⟨0, 0⟩ ∧
    halfFn .fmul (halfY 11) (g0.src 3 (.v 11) 0) (g0.src 3 (.v 10) 0) = .ok ⟨0, 0⟩ ∧ trappedKinds g0 [0] = 0 ∧
    halfCheck gTrap .fmul (halfY 9) = .ok () ∧ halfHazard gTrap .fmul (halfY 9) = .ok () ∧
    halfFn .fmul (halfY 9) (gTrap.src 3 (.v 9) 0) (gTrap.src 3 (.v 10) 0) = .ok ⟨0x7FC00000, 1⟩ ∧ trappedKinds gTrap [1] ≠ 0 ∧ halfX.dst ≠ (halfY 11).dst :=
  ⟨rfl, rfl, rfl, rfl, rfl, rfl, rfl, rfl, rfl, rfl, rfl, by decide, by decide⟩

/-- `fadd` beside `fmul` on register `r`. -/
def pairReads (w : BitVec 96) (r : BitVec 9) : Prop :=
  w.getLsbD 94 = true ∧ decodeHalf (w.extractLsb' 47 47) = some (.fadd, ⟨4, .v 5, .v 6, 3, 8⟩) ∧
    decodeHalf (w.extractLsb' 0 47) = some (.fmul, ⟨r, .v 9, .s 3, 0, 12⟩) ∧
    pairOk .fadd ⟨4, .v 5, .v 6, 3, 8⟩ .fmul ⟨r, .v 9, .s 3, 0, 12⟩ = true

/-- On two registers, and on one, which is PAIRRULE. -/
theorem witness_PairWordReadsBeforeItWrites_decode : pairReads 0x5000400A019C20810026018C 8 ∧ pairReads 0x5000400A019C20808026018C 4 ∧
    decodeLane 0x5000400A019C20808026018C = .error .pairRule :=
  ⟨⟨rfl, rfl, rfl, rfl⟩, ⟨rfl, rfl, rfl, rfl⟩, rfl⟩

theorem witness_PairWordReadsBeforeItWrites_clash : pairClash .fadd ⟨4, .v 5, .v 6, 3, 8⟩ .fmul ⟨4, .v 9, .s 3, 0, 12⟩ ∧
    ¬ pairClash .fadd ⟨4, .v 5, .v 6, 3, 8⟩ .fmul ⟨8, .v 9, .s 3, 0, 12⟩ := by
  refine ⟨.inr (.inr (.inr (.inr rfl))), ?_⟩
  rintro (h | h | ⟨n, h⟩ | ⟨h, -⟩ | h)
  · revert h; decide
  · revert h; decide
  · revert n; decide
  · revert h; decide
  · revert h; decide

/-- A wave of 32 lane registers and no lane in a mask. -/
def narrow : State := grid fun w => { w with shape := w.shape &&& ~~~(0x3C00 : DWord), m := [] }

/-- Masks m1 and m7; a random counter that has room, one that has not, and one that may wrap; indexes in the allocation and beyond it. -/
theorem witness_MaskIdentityRandomAndIndirectWords : (1 : BitVec 3) ≠ 0 ∧ g0.laneReady 0x017 { addWord with dst := .m 1 } false ∧
    g0.regCheck 0x01F { addWord with a := .v 0, b := .v 0, mods := 0 } false = .ok () ∧
    g0.regCheck 0x01E { addWord with a := .v 0, b := .v 0, mods := 0x080000000 } false = .ok () ∧
    dstCheck g0 (.v 4) (g0.w.active 0) = .ok () ∧ (∀ L ∈ g0.w.active 0, look 0 g0.w.rng L ≠ BitVec.allOnes 64) ∧
    (∃ L ∈ g0.w.active 0, look 0 (grid fun w => { w with rng := [(15, BitVec.allOnes 64)] }).w.rng L = BitVec.allOnes 64) ∧
    g0.run.wrapOk = false ∧ (grid fun w => { w with lq := [.run { run0 with wrapOk := true }] }).run.wrapOk = true ∧
    g0.laneReady 0x020 addWord false ∧ g0.laneReady 0x021 addWord true ∧
    (∀ L ∈ g0.w.active 0, 504 + (g0.src 0 (.v 5) L).toNat < g0.w.regs ∧ (504 + (g0.src 0 (.v 5) L).toNat) ∉ g0.w.pend) ∧
    (∃ L ∈ g0.w.active 0, g0.w.regs ≤ 505 + (g0.src 0 (.v 5) L).toNat) ∧
    narrow.w.regs ≤ (LaneWord.fld { addWord with a := .v 0, mods := 0x004000000 } 18 9).toNat :=
  ⟨by decide, ⟨rfl, by decide, rfl⟩, rfl, rfl, rfl, by decide, ⟨15, by decide, by decide⟩, rfl, rfl, ⟨rfl, by decide, rfl⟩,
   ⟨rfl, by decide, rfl⟩, by decide, ⟨0, by decide, by decide⟩, by decide⟩

/-- A base beyond the allocation traps with no lane active, too. -/
theorem test_rdx_base : narrow.w.active 1 = [] ∧
    narrow.rangeCheck 0x020 { addWord with dst := .v 4, a := .v 0, mods := 0x004000000 } = trap .regrange 0 := ⟨by decide, rfl⟩

/-- A descriptor of one plane. -/
def desc (base fmt h w : Nat) (crinkled : Bool) : BitVec 128 :=
  BitVec.ofNat 128 (base + fmt * 2 ^ 52 + (if crinkled then 3 * 2 ^ 56 else 0) + (h - 1) * 2 ^ 68 + (w - 1) * 2 ^ 80)

/-- `refold.f32 d1, d0`, on planes of one element, so that the footprint has pad cells too. -/
def refoldWord : LaneWord := { addWord with dst := .v 0, a := .v 0, b := .v 0, mods := 0x0C4000000 }

def planes (d1 : BitVec 128) : State := grid fun w => { w with d := [(0, desc 0 3 1 1 false), (1, d1)] }

def p0 : State := planes (desc 512 3 1 1 false)

theorem witness_PlaneWordWritesItsDestination : let d := p0.w.desc 1
    let a := p0.w.desc 0
    (refoldWord.fld 26 4).toNat = 1 ∧ p0.w.descOk d refoldWord.ty d.n = .ok () ∧ p0.w.descOk a 3 d.n = .ok () ∧
      (a.h == d.h && a.w == d.w) = true ∧ p0.w.agree a false d false = true ∧ a.base + p0.w.footprint a ≤ p0.w.lambda ∧
      d.base + p0.w.footprint d ≤ p0.w.lambda ∧ p0.sbWait (p0.w.descGranules a) false = .ok () ∧
      p0.sbWait (p0.w.descGranules d) true = .ok () ∧ (∀ c ∈ p0.w.cellsOf d, c.2.1 < d.h ∧ c.2.2 < d.w ↔ c = (0, 0, 0)) ∧
      p0.w.readElem a 0 0 0 = .ok 0 ∧ cellsWritten d ((p0.w.cellsOf d).map fun c => (c, ⟨0, 0⟩)) (fun _ _ _ => .ok ⟨0, 0⟩) p0.w :=
  ⟨rfl, rfl, rfl, rfl, rfl, by decide, by decide, rfl, rfl, by decide, rfl, rfl, fun e h => by
    obtain ⟨c, -, rfl⟩ := List.mem_map.1 h
    exact ⟨fun _ => rfl, fun _ => rfl⟩⟩

/-- Reserved bits; formats 0, 9 and 10; a base off a granule. -/
theorem witness_PlaneWordWritesItsDestination_faults : ((planes (1 <<< 60)).w.desc 1).resv ≠ 0 ∧ ((planes 0).w.desc 1).resv = 0 ∧
    ((planes 0).w.desc 1).fmt = 0 ∧ ((planes (desc 0 9 1 1 false)).w.desc 1).fmt ≤ 9 ∧ 9 < ((planes (desc 0 10 1 1 false)).w.desc 1).fmt ∧
    1 ≤ ((planes (desc 1 1 1 1 false)).w.desc 1).fmt ∧ ((planes (desc 1 1 1 1 false)).w.desc 1).base % 16 ≠ 0 := by decide

theorem witness_PlaneAndAccumulatorArithmetic : 1 ≤ (descOf 0 (desc 0 1 1 1 false)).fmt ∧ (descOf 0 (desc 0 9 1 1 false)).fmt ≤ 9 ∧
    (descOf 0 (desc 0 9 1 1 false)).n = 1 ∧
    (let d := descOf 0 (desc 0 3 1 1 false + 1 * 2 ^ 92 + 1 * 2 ^ 104)
     d.n = 2 ∧ (wave0.planeBytes d + 15) / 16 * 16 ≤ 128 * d.stride ∧ (0, 0, 0) ∈ wave0.cellsOf d ∧ (1, 0, 0) ∈ wave0.cellsOf d) ∧
    ({ w := true } : AccEntry).w = true := by decide

/-- Types 5 and 6 are where scale words begin. -/
theorem witness_DotWordPromotesItsChunks : planeReady g0 1 ∧ tagsFit g0 { addWord with mods := 0x140000000 } ∧
    tagsFit g0 { addWord with mods := 0x180000000 } ∧
    g0.regCheck 0x400 { addWord with dst := .a 1, a := .v 32, b := .v 48, mods := 0x140000000 } false = .ok () ∧
    g0.regCheck 0x401 { addWord with dst := .a 1, a := .v 32, b := .v 64, mods := 0x180008000 } false = .ok () :=
  ⟨⟨by decide, rfl⟩, .inl (by decide), .inr (by decide), rfl, rfl⟩

/-- The fields of a class 100 word on plane a0 of a wave whose lanes hold no anchor. -/
def accWord : LaneWord := { addWord with dst := .v 64, a := .v 0, b := .v 0, mods := 0x0C0000000, guard := 1 }

theorem witness_AccumulatorWords_resolve : accWord.dst = .v 64 ∧ accWord.bit 20 = false ∧ g0.regCheck 0x405 accWord false = .ok () ∧
    planeReady g0 0 ∧ accWord.bit 26 = false ∧ (∀ L ∈ g0.w.active 1, ∀ e < 64, (g0.w.entry 0 L e).w = false) ∧
    trappedKinds g0 ((g0.w.active 1).flatMap fun L => (List.range 64).map fun e =>
      ((g0.w.entry 0 L e).resolve (g0.w.anchorOf 0 L) 3 (rndOf accWord) (satOf accWord)).kinds) = 0 ∧
    (∃ L ∈ g0.w.active 1, ∃ e < 64, ((grid fun w => { w with acc := [(63, { w := true })] }).w.entry 0 L e).w = true) :=
  ⟨rfl, by decide, rfl, ⟨by decide, rfl⟩, by decide, by decide, by decide, ⟨0, by decide, 63, by decide, by decide⟩⟩

/-- Lane-memory operands that end at the last byte of the window and of its 4,096 offsets. -/
def lmWord (base : BitVec 9) : LaneWord := { accWord with dst := .v 0, a := .lit base, mods := 0x0C0100000 }

theorem witness_AccumulatorWords_memory : (lmWord 0).bit 20 = true ∧ g0.regCheck 0x405 (lmWord 0) false = .ok () ∧ planeReady g0 0 ∧
    lmCheck g0 (lmWord 0) 256 true (g0.w.active 1) = .ok () ∧ lmAddr g0 (lmWord 0) + 256 ≤ 4096 ∧
    g0.regCheck 0x408 { lmWord 0 with mods := 0x800 } false = .ok () ∧ lmAddr g0 { lmWord 0 with mods := 0x800 } = 2048 ∧
    lmCheck g0 { lmWord 0 with mods := 0x800 } 1536 true (g0.w.active 1) = .ok () ∧ 2048 + 1536 ≤ g0.w.lambda ∧
    g0.regCheck 0x409 { lmWord 0 with dst := .a 1, mods := 0 } false = .ok () ∧ planeReady g0 1 ∧
    lmCheck g0 { lmWord 0 with dst := .a 1, mods := 0 } 1536 false (g0.w.active 1) = .ok () ∧ lmEcc g0.w (g0.w.active 1) 0 1536 = .ok () ∧
    (∀ L ∈ g0.w.active 1, ∀ e < 64, (g0.w.lmImage L 0 e).2 = (g0.w.lmImage L 0 0).2) ∧
    (∀ L ∈ g0.w.active 1, ∀ e < 64, (g0.w.lmImage L 0 e).2 = g0.w.anchorOf 1 L) ∧
    g0.regCheck 0x407 { lmWord 0 with dst := .a 1, mods := 0 } false = .ok () ∧ ({ lmWord 0 with dst := .a 1, mods := 0 } : LaneWord).bit 20 = false ∧
    g0.regCheck 0x407 { accWord with dst := .a 1, mods := 0x100000 } false = .ok () ∧
    ({ accWord with dst := .a 1, mods := 0x100000 } : LaneWord).bit 20 = true ∧
    (∀ L ∈ g0.w.active 1, g0.w.anchorOf 0 L = g0.w.anchorOf 1 L) :=
  ⟨by decide, rfl, ⟨by decide, rfl⟩, rfl, by decide, rfl, rfl, rfl, by decide, rfl, ⟨by decide, rfl⟩, rfl, rfl, by decide, by decide, rfl, by decide, rfl,
   by decide, by decide⟩

theorem witness_AccumulatorWords_compare : g0.regCheck 0x406 { accWord with mods := 0x100000 } false = .ok () ∧
    ({ accWord with mods := 0x100000 } : LaneWord).bit 20 = true ∧ g0.regCheck 0x406 { accWord with mods := 0 } false = .ok () ∧
    planeReady g0 0 ∧ planeReady g0 1 ∧ (∀ L ∈ g0.w.active 1, g0.w.anchorOf 0 L = g0.w.anchorOf 1 L) ∧
    g0.regCheck 0x40A { accWord with mods := 0 } false = .ok () ∧ ({ accWord with mods := 0 } : LaneWord).bit 25 = false :=
  ⟨rfl, by decide, rfl, ⟨by decide, rfl⟩, ⟨by decide, rfl⟩, by decide, rfl, by decide⟩

/-- A sweep of type bf16 over planes of 32 by 16 and 16 by 32 elements. -/
def sweepWord : LaneWord := { addWord with dst := .a 1, a := .v 0, b := .v 0, mods := 0x100010000 + 0x2000 }

def s0 : State := grid fun w => { w with d := [(1, desc 0 4 32 16 true), (2, desc 1024 4 16 32 true)] }

/-- The granules of dA and dB. -/
def footprints (s : State) : List Nat := s.w.descGranules (s.w.desc 1) ++ s.w.descGranules (s.w.desc 2)

/-- Planes of 32 by 32 8-bit elements, and a column of scale words. -/
def s8 : State := grid fun w => { w with d := [(1, desc 0 7 32 32 true), (2, desc 1024 7 32 32 true), (3, desc 2048 2 32 1 false)] }

theorem witness_SweepAndAccumulatorControl_sweep : s0.regCheck 0x402 sweepWord false = .ok () ∧ planeReady s0 1 ∧
    sweepCheck s0.w false 4 (sweepDescs s0.w false 4 (s0.w.desc 1) (s0.w.desc 2) (s0.w.desc 0) (s0.w.desc 0)) 16 1 = .ok () ∧
    s0.w.binder = none ∧ s0.w.swTaken = false ∧ s0.sbWait (footprints s0) false = .ok () ∧ sweepTags s0.w sweep0 = .ok () ∧
    s0.core.sbWait = [] ∧ s0.sbUsed + 4 ≤ 48 ∧ s0.w.sbGrant = 0 ∧ ¬ (sweepDescs s0.w false 4 (s0.w.desc 1) (s0.w.desc 2) (s0.w.desc 0)
      (s0.w.desc 0)).length = 0 :=
  ⟨rfl, ⟨by decide, rfl⟩, rfl, rfl, rfl, rfl, rfl, rfl, by decide, rfl, by decide⟩

/-- A copy writes the first granule of dA; and a sweep of 8-bit data whose tile's scale word has the tag of 4-bit data. -/
theorem witness_SweepAndAccumulatorControl_waits :
    (s0.modCore fun c => { c with sb := [⟨0, 1, false, true, 0, true, 0, 9, 0, false, false⟩] }).sbWait (footprints s0) false = .error .wait ∧
    s8.regCheck 0x402 { sweepWord with a := .lit 2, mods := 0x1C0012300 } false = .ok () ∧ planeReady s8 1 ∧
    sweepCheck s8.w false 7 (sweepDescs s8.w false 7 (s8.w.desc 1) (s8.w.desc 2) (s8.w.desc 3) (s8.w.desc 0)) 32 1 = .ok () ∧
    s8.sbWait (footprints s8) false = .ok () ∧
    sweepTags s8.w { sweep0 with ty := 7, tile := 2, dsNum := 3, ds := s8.w.dReg 3 } = .error (.trap .chunk (dw (16 + 512))) :=
  ⟨rfl, rfl, ⟨by decide, rfl⟩, rfl, rfl, rfl⟩

def clearing (c : Cmd) : State := onWave fun w => { w with lq := [.cmd 0x1000 0 0 c] }

theorem witness_SweepAndAccumulatorControl : accWord.dst = .v 64 ∧ g0.regCheck 0x404 { accWord with mods := 0x180200000 } false = .ok () ∧
    (({ accWord with mods := 0x180200000 } : LaneWord).fld 21 3).toNat ≠ 0 ∧
    (grid fun w => { w with sweeps := [sweep0] }).w.sweeps[0]? = some sweep0 ∧ sweep0.started = true ∧ sweep0.bad = none ∧
    (clearing (.accClr 1)).w.lq = .cmd 0x1000 0 0 (.accClr 1) :: [] ∧ (clearing (.accClr 1)).planeWait 1 = .ok () ∧
    ((clearing (.accClr 1)).w.stepping && (clearing (.accClr 1)).w.lstep) = false ∧
    (clearing (.accAnc 0 511)).w.lq = .cmd 0x1000 0 0 (.accAnc 0 511) :: [] ∧ (clearing (.accAnc 0 511)).planeWait 0 = .ok () :=
  ⟨rfl, rfl, by decide, rfl, rfl, rfl, rfl, rfl, rfl, rfl, rfl⟩

/-! Lane memory words, in lane 0 by mask m1: `off` is the byte offset and `more` the registers beyond one. -/

def gRun (f : Wave → Wave) : State :=
  grid fun w => f { w with lq := [.run { run0 with regs := [(3, 0x10008), (4, 0x10200), (8, 124)] }] }

def m0 : State := gRun id

def memWord (a : Src) (off more : Nat) : LaneWord :=
  { addWord with dst := .v 4, a := a, b := .v 6, c := .v 0, mods := BitVec.ofNat 34 (more * 2 ^ 21 + off * 2 ^ 5), guard := 1 }

def access0 : Access := ⟨0, 0, 0x10008, (page 0x10000 .device 0x40000).at 0x10008⟩

theorem witness_GlobalLoadAndStoreUseTheirQueues : (memWord (.s 3) 0 0).dst = .v 4 ∧ m0.regCheck 0x502 (memWord (.s 3) 0 0) true = .ok () ∧
    m0.regCheck 0x504 (memWord (.s 3) 0 0) true = .ok () ∧ globalReady m0 0x502 .load (memWord (.s 3) 0 0) 4 1 4 false [access0] ∧
    globalReady m0 0x504 .load (memWord (.s 3) 0 0) 4 1 4 false [access0] ∧ lineWait m0 false 4 access0 = false ∧
    lineWait m0 true 4 access0 = false ∧ access0.loc.kind = .device ∧ m0.poison = [] ∧ m0.w.buf = [] ∧ m0.w.stq = [] ∧
    (m0.core.inflight = [] ∧ m0.core.l1 = []) ∧ m0.regCheck 0x503 { memWord (.s 3) 0 0 with dst := .v 0, c := .v 6 } false = .ok () ∧
    globalReady m0 0x503 .store { memWord (.s 3) 0 0 with dst := .v 0, c := .v 6 } 4 1 4 false [access0] ∧ m0.repro = false ∧
    m0.w.stgAt = none ∧
    (gRun fun w => { w with stq := List.replicate 63 store0 }).w.stq.length + 1 ≤ 64 :=
  ⟨rfl, rfl, rfl, ⟨rfl, rfl, rfl⟩, ⟨rfl, rfl, rfl⟩, rfl, rfl, rfl, rfl, rfl, rfl, ⟨rfl, rfl⟩, rfl, ⟨rfl, rfl, rfl⟩, rfl, rfl, by decide⟩

/-- 128 lanes, the first 65 on lines of their own. -/
def wide : State :=
  gRun fun w => { w with shape := 0x23DC0, v := (List.range 65).map fun L => (6 * 16384 + L, BitVec.ofNat 32 (128 * L)) }

def wideWord : LaneWord := { memWord (.s 3) 0 0 with dst := .v 0, c := .v 6, guard := 0 }

def wideXs : List Access :=
  (List.range 128).map fun L =>
    let a := 0x10008 + if L < 65 then 128 * L else 0
    ⟨L, 0, dw a, (page 0x10000 .device 0x40000).at a⟩

/-- More lines than the queue holds, and the last of them, which fits. -/
theorem witness_GlobalLoadAndStoreUseTheirQueues_lines : wide.regCheck 0x503 wideWord false = .ok () ∧
    globalReady wide 0x503 .store wideWord 4 1 4 false wideXs ∧ wide.repro = false ∧ wide.w.stgAt = none ∧
    64 < (lineEntries (wideXs.map fun x => (x.loc, leCells x.loc.addr 4 ((dataReg wide 0 (.v 6) x.lane 0).toNat % 2 ^ 32)))).length ∧
    [access0].length ≤ 64 - m0.w.stq.length :=
  ⟨rfl, ⟨rfl, rfl, rfl⟩, rfl, rfl, by decide, by decide⟩

/-- Accesses that end at the last byte of the window of 3,584 bytes, and at the last of a skim window of 128. -/
def m1 : State := { m0 with ctxs := [(1, { vec := 0x4000, skim := 128 * 2 ^ 32 })] }

theorem witness_LaneMemoryAndSkimWordsReachTheirWindows :
    (memWord (.lit 0) 3580 0).dst = .v 4 ∧ m0.regCheck 0x500 (memWord (.lit 0) 3580 0) false = .ok () ∧
    lmLaneCheck m0 (memWord (.lit 0) 3580 0) false (m0.w.active 1) = .ok () ∧ lmEa m0 (memWord (.lit 0) 3580 0) 0 + 4 = m0.w.lambda ∧
    m0.w.lmBad = [] ∧ m0.regCheck 0x501 { memWord (.lit 0) 0 0 with dst := .v 0 } false = .ok () ∧
    lmLaneCheck m0 { memWord (.lit 0) 0 0 with dst := .v 0 } true (m0.w.active 1) = .ok () ∧
    orderBefore m1 (memWord (.s 8) 0 0) = .ok () ∧ skimCheck m1 4 [(0, laneEa m1 (memWord (.s 8) 0 0) 0 0)] = .ok () ∧
    (laneEa m1 (memWord (.s 8) 0 0) 0 0).toNat + 4 = 128 ∧ m1.regCheck 0x505 (memWord (.s 8) 0 0) true = .ok () ∧
    popChecks m1 0x505 (memWord (.s 8) 0 0) (m1.w.active 1) = .ok () ∧ m1.skimBad = [] ∧
    m1.regCheck 0x506 { memWord (.s 8) 0 0 with dst := .v 0, c := .v 6 } false = .ok () ∧
    popChecks m1 0x506 { memWord (.s 8) 0 0 with dst := .v 0, c := .v 6 } (m1.w.active 1) = .ok () :=
  ⟨rfl, rfl, rfl, rfl, rfl, rfl, rfl, rfl, rfl, by decide, rfl, rfl, rfl, rfl, rfl⟩

/-- `latom.u32.add` with and without a result, and `atom.rsum` whose target is three lines of zeros at 0x10200. -/
def latomWord (ret : Nat) : LaneWord :=
  { memWord (.s 3) 0 0 with dst := .v (if ret = 1 then 4 else 0), c := .v 6, mods := BitVec.ofNat 34 (2 ^ 25 + ret) }

def rsumWord : LaneWord := { memWord (.s 4) 0 0 with dst := .v 0, c := .lit 0 }

def line0 (j : Nat) : Access := ⟨0, j, dw (0x10200 + 512 * j), (page 0x10000 .device 0x40000).at (0x10200 + 512 * j)⟩

theorem witness_LaneAtomicActsAtTheHome : atomicsOpen m0 (latomWord 0) [access0] ∧ atomicsOpen m0 (latomWord 1) [access0] ∧
    access0.loc.addr % 4 = 0 ∧ m0.repro = false ∧ dstCheck m0 (.v 4) (m0.w.active 1) = .ok () ∧
    (∀ ret < 2, m0.regCheck 0x507 (latomWord ret) true = .ok () ∧ popChecks m0 0x507 (latomWord ret) (m0.w.active 1) = .ok () ∧
      orderBefore m0 (latomWord ret) = .ok () ∧ (latomWord ret).bit 0 = (ret == 1) ∧ latomOk (latomWord ret) = true) ∧
    globalCheck m0 .atomic (latomWord 1) 4 true ((m0.w.active 1).map fun L => (L, laneEa m0 (latomWord 1) 0 L)) 1 4 = .ok [access0] :=
  ⟨⟨rfl, rfl, fun _ => ⟨rfl, by decide⟩⟩, ⟨rfl, rfl, fun _ => ⟨rfl, by decide⟩⟩, by decide, rfl, rfl, fun ret h => by
    match ret, h with
    | 0, _ => exact ⟨rfl, rfl, rfl, rfl, rfl⟩
    | 1, _ => exact ⟨rfl, rfl, rfl, rfl, rfl⟩, rfl⟩

/-- The atomic in a reproducible context, and one whose old value goes to queue 4. -/
def m2 : State := { m0 with ctxs := inRepro.ctxs }

def m3 : State := gRun fun w => { w with q := [(4, { bound := true, count := 16 })] }

theorem witness_LaneAtomicActsAtTheHome_commit : atomicsOpen m2 (latomWord 1) [access0] ∧ m2.repro = true ∧ (latomWord 1).bit 0 = true ∧
    m2.regCheck 0x507 (latomWord 1) true = .ok () ∧ dstCheck m2 (.v 4) (m2.w.active 1) = .ok () ∧
    globalCheck m2 .atomic (latomWord 1) 4 true ((m2.w.active 1).map fun L => (L, laneEa m2 (latomWord 1) 0 L)) 1 4 = .ok [access0] ∧
    atomicsOpen m3 { latomWord 1 with dst := .q 0 } [access0] ∧ dstCheck m3 (.q 0) (m3.w.active 1) = .ok () ∧
    m3.regCheck 0x507 { latomWord 1 with dst := .q 0 } true = .ok () :=
  ⟨⟨rfl, rfl, fun h => by cases h⟩, rfl, by decide, rfl, rfl, rfl, ⟨rfl, rfl, fun _ => ⟨rfl, by decide⟩⟩, rfl, rfl⟩

/-- The places of the target image. -/
def target0 : List Access := [line0 0, line0 1, line0 2]

theorem witness_LaneAtomicActsAtTheHome_sum : atomicsOpen m0 rsumWord target0 ∧ (∀ x ∈ target0, x.loc.addr % 512 = 0 ∧ x.lane = 0) ∧
    (target0.map (·.loc.addr)).Nodup ∧ (m0.lmBase rsumWord.c + lOff rsumWord) % 16 = 0 ∧ m0.w.active 1 = [0] ∧
    (∀ e < 64, (imageEntry (imageLe m0.mem (target0.map (·.loc)) (24 * e) 24)).2 = (m0.w.lmImage 0 0 0).2 ∧
      (m0.w.lmImage 0 0 e).2 = (m0.w.lmImage 0 0 0).2) ∧ m0.regCheck 0x508 rsumWord false = .ok () ∧
    popChecks m0 0x508 rsumWord (m0.w.active 1) = .ok () ∧ m0.lmBase rsumWord.c + lOff rsumWord = 0 ∧ (0 : Int) + 1536 ≤ m0.w.lambda ∧
    globalCheck m0 .atomic rsumWord 512 true ((m0.w.active 1).map fun L => (L, laneEa m0 rsumWord 0 L)) 3 512 =
      .ok [line0 0, line0 1, line0 2] ∧ m0.sbWait (granules 0 1536) false = .ok () ∧
    m0.w.lmBad = [] :=
  ⟨⟨rfl, rfl, fun _ => ⟨rfl, by decide⟩⟩, by decide, by decide, by decide, rfl, by decide, rfl, rfl, rfl, by decide, rfl, rfl, rfl⟩

/-- Queue 1 with one value in lane 0; queue 0 bound, and every lane skips none. -/
def queued : State :=
  grid fun w => { w with q := [(0, { bound := true }), (1, { bound := true, count := 1, vals := [(0, [⟨7, none, false⟩])] })] }

theorem witness_QueueWordsAndEmptyWords : queued.w.active 7 = [] ∧ queued.w.active 1 ≠ [] ∧
    queued.regCheck 0x600 { memWord (.q 1) 0 0 with b := .v 0, mods := 0 } false = .ok () ∧ popCheck queued 1 1 (queued.w.active 1) = .ok () ∧
    dstCheck queued (.v 4) (queued.w.active 1) = .ok () ∧ (∀ n < 2, queued.run.skip = none ∧ (queued.w.stream n).bound = true ∧ queued.w.isIndexSource n = false) ∧
    queued.regCheck 0x601 { memWord (.q 1) 0 0 with dst := .v 0, b := .lit 1, mods := 0 } false = .ok () ∧
    ((queued.uniform (.lit 1)).setWidth 32).toNat = 1 ∧ ((queued.uniform (.lit 0)).setWidth 32).toNat = 0 ∧
    (∀ L ∈ queued.w.active 1, look 0 (queued.w.stream 1).used L + 1 ≤ (queued.w.stream 1).count) ∧
    (∀ L ∈ queued.w.active 1, 1 ≤ (look [] (queued.w.stream 1).vals L).length ∧ ∀ v ∈ look [] (queued.w.stream 1).vals L,
      v.err = none ∧ v.retry = false) ∧
    (∀ L ∈ queued.w.active 0, look 0 (queued.w.stream 0).used L + 0 ≤ (queued.w.stream 0).count) :=
  ⟨by decide, by decide, rfl, rfl, rfl, by decide, rfl, by decide, by decide, by decide, by decide, by decide⟩

/-- A result that has not returned. -/
def unch0 : Unch := { writes := [(4 * 16384, 7)], held := false, err := none, returned := false }

theorem witness_LaneWordEndsAtItsSlot : g0.w.lq = .run run0 :: [] ∧ (g0.w.stepping && g0.w.lstep) = false ∧
    Run.done { run0 with slot := 1, ran := true } = false ∧ Run.done { { run0 with slot := 1 } with slot := 2, ran := true } = true ∧
    (grid fun w => { w with unch := [unch0] }).w.unch.all (·.returned) = false ∧ g0.w.unch = [] := by decide

/-! Steps: a page of code at 0 with words at 0x1000, and a run whose block holds one word in slot 0. -/

def codeAt (w0 w1 : Nat) : State := { base with mem := writeCells [] (leCells 0x21000 8 (w0 + w1 * 2 ^ 32)) }

def place (a : Nat) : Loc := (page 0 .device 0x20000).at a

/-- The agenda names the wave's scalar stream. -/
def named (s : State) : State := { s with agenda := [.scalar 0] }

theorem witness_DecodeAndEncodeAgree : (Instr.addi 5 0 ⟨0, some 0x080000⟩).wf = true ∧
    encode (.addi 5 0 ⟨0, some 0x080000⟩) = some (.scalar 0x02280000 (some 0x080000)) ∧ extOpcode ((0x02280000 : Word).extractLsb' 25 7).toNat = true ∧
    decodeScalar 0x02280000 (extWord (some 0x080000)) = .ok (.addi 5 0 ⟨0, some 0x080000⟩) ∧
    decodeScalar 0x00084180 (extWord none) = .ok (.add 1 2 3) ∧
    decodeLane 0x000808015060000040000000 = .ok (.laneAdd (.full ⟨false, 0, 0, .v 4, .v 5, .lit 12, .v 0, 0x040000000⟩)) := by decide

/-- An instruction of two words at the last word of the page, whose second word is on no page. -/
def lastWord : State :=
  { onWave fun w => { w with pc := 0x3FFC } with mem := writeCells [] (leCells 0x23FFC 4 0x02280000) }

/-- The agenda is empty, and the agenda names the stream; a pc off a word; no page; an extension word after a transfer; a word and none. -/
theorem witness_StepRunsTheDecodedInstruction_scalar : (codeAt 0x00084180 0).scalarNext (codeAt 0x00084180 0) ∧
    (named (codeAt 0x00084180 0)).scalarNext (codeAt 0x00084180 0) ∧ (codeAt 0x00084180 0).codeLoc 0x1000 = some (place 0x1000) ∧
    (∀ s ∈ [codeAt 0x00084180 0, codeAt 0xFF000000 0, codeAt 0xFE000000 0, codeAt 0x02280000 0xFF080000, lastWord],
      s.codeWaits s.w.pc.toNat = false ∧ s.codeWaits (s.w.pc + 4).toNat = false) ∧
    (codeAt 0x00084180 0).codeWord (place 0x1000) = 0x00084180 ∧ extOpcode ((0x00084180 : Word).extractLsb' 25 7).toNat = false ∧
    isExtWord 0x00084180 = false ∧ decodeScalar 0x00084180 0 = .ok (.add 1 2 3) ∧
    (onWave fun w => { w with pc := 0x1002 }).scalarNext (onWave fun w => { w with pc := 0x1002 }) ∧ bits (0x1002 : DWord) 0 2 ≠ 0 ∧
    (onWave fun w => { w with pc := 0x4000 }).scalarNext (onWave fun w => { w with pc := 0x4000 }) ∧
    (onWave fun w => { w with pc := 0x4000 }).codeLoc 0x4000 = none ∧ (codeAt 0xFF000000 0).scalarNext (codeAt 0xFF000000 0) ∧
    (codeAt 0xFF000000 0).codeWord (place 0x1000) = 0xFF000000 ∧ isExtWord 0xFF000000 = true ∧ (codeAt 0xFF000000 0).w.jumped = true ∧
    (codeAt 0xFE000000 0).scalarNext (codeAt 0xFE000000 0) ∧ (codeAt 0xFE000000 0).codeWord (place 0x1000) = 0xFE000000 ∧
    isExtWord 0xFE000000 = false ∧ decodeScalar 0xFE000000 0 = .error .illegal :=
  ⟨⟨.inl ⟨rfl, rfl, rfl⟩, rfl, rfl, rfl⟩, ⟨.inr ⟨[], rfl, rfl⟩, rfl, rfl, rfl⟩, rfl, by decide, by decide, by decide, by decide, by decide,
   ⟨.inl ⟨rfl, rfl, rfl⟩, rfl, rfl, rfl⟩, by decide, ⟨.inl ⟨rfl, rfl, rfl⟩, rfl, rfl, rfl⟩, by decide,
   ⟨.inl ⟨rfl, rfl, rfl⟩, rfl, rfl, rfl⟩, by decide, by decide, rfl, ⟨.inl ⟨rfl, rfl, rfl⟩, rfl, rfl, rfl⟩, by decide, by decide, by decide⟩

theorem witness_StepRunsTheDecodedInstruction_two : (codeAt 0x02280000 0xFF080000).scalarNext (codeAt 0x02280000 0xFF080000) ∧
    (codeAt 0x02280000 0xFF080000).codeWord (place 0x1000) = 0x02280000 ∧ extOpcode ((0x02280000 : Word).extractLsb' 25 7).toNat = true ∧
    (codeAt 0x02280000 0xFF080000).codeLoc 0x1004 = some (place 0x1004) ∧
    decodeScalar 0x02280000 ((codeAt 0x02280000 0xFF080000).codeWord (place 0x1004)) = .ok (.addi 5 0 ⟨0, some 0x080000⟩) ∧
    lastWord.scalarNext lastWord ∧ lastWord.codeLoc 0x3FFC = some (place 0x3FFC) ∧ lastWord.codeWord (place 0x3FFC) = 0x02280000 ∧
    lastWord.codeLoc (lastWord.w.pc + 4).toNat = none :=
  ⟨⟨.inl ⟨rfl, rfl, rfl⟩, rfl, rfl, rfl⟩, by decide, by decide, rfl, by decide, ⟨.inl ⟨rfl, rfl, rfl⟩, rfl, rfl, rfl⟩, by decide, by decide,
   by decide⟩

/-- A block of one slot, of level 2 and class 2 with the part's tag, that holds `w`. -/
def block0 (w : Nat) : BitVec 1024 := BitVec.ofNat 1024 (1 + 2 * 2 ^ 10 + 2 * 2 ^ 12 + 0xA1 * 2 ^ 20 + w * 2 ^ 64)

def running (image : BitVec 1024) (slot : Nat) (bad : Option DWord) (started : Bool) : State :=
  onWave fun w =>
    { w with lq := [.run { run0 with image := image, slot := slot, bad := bad, started := started }], blocked := true }

theorem witness_StepRunsTheDecodedInstruction_lane : (running (block0 0) 0 none true).laneNextUp (running (block0 0) 0 none true) ∧
    { running (block0 0) 0 none true with agenda := [.lane 0] }.laneNextUp (running (block0 0) 0 none true) ∧
    Block.valid (block0 0x000808015060000040000000) 0 = true ∧
    headerBad (block0 0x000808015060000040000000) (Block.slot (block0 0x000808015060000040000000) 0) = none ∧
    decodeLane (Block.slot (block0 0x000808015060000040000000) 0) =
      .ok (.laneAdd (.full ⟨false, 0, 0, .v 4, .v 5, .lit 12, .v 0, 0x040000000⟩)) ∧
    (running (block0 0) 0 (some 0x2000) true).laneNextUp (running (block0 0) 0 (some 0x2000) true) ∧
    (running (block0 0) 1 none true).laneNextUp (running (block0 0) 1 none true) ∧ Block.valid (block0 0) 1 = false ∧
    Block.valid 1 0 = true ∧ headerBad 1 (Block.slot 1 0) ≠ none ∧ Block.valid (block0 (7 * 2 ^ 88)) 0 = true ∧
    headerBad (block0 (7 * 2 ^ 88)) (Block.slot (block0 (7 * 2 ^ 88)) 0) = none ∧
    decodeLane (Block.slot (block0 (7 * 2 ^ 88)) 0) = .error .unimpl :=
  ⟨⟨.inl ⟨rfl, ⟨rfl, rfl⟩, rfl⟩, rfl⟩, ⟨.inr ⟨[], rfl, rfl⟩, rfl⟩, by decide, by decide, by decide,
   ⟨.inl ⟨rfl, ⟨rfl, rfl⟩, rfl⟩, rfl⟩, ⟨.inl ⟨rfl, ⟨rfl, rfl⟩, rfl⟩, rfl⟩, by decide, by decide, by decide, by decide, by decide,
   by decide⟩

/-- A command and a run that has not started at the queue's head; and a device step that the agenda names. -/
theorem witness_StepRunsTheDecodedInstruction_device :
    (onWave fun w => { w with lq := [cmd0], blocked := true }).laneNextUp (onWave fun w => { w with lq := [cmd0], blocked := true }) ∧
    (running (block0 0) 0 none false).laneNextUp (running (block0 0) 0 none false) ∧
    ({ base with agenda := [.event 0 .trapEntry] } : State).agenda = .event base.wid .trapEntry :: [] ∧ encode .trapEntry = none ∧
    laneHead .trapEntry = false :=
  ⟨⟨.inl ⟨rfl, ⟨rfl, rfl⟩, rfl⟩, rfl⟩, ⟨.inl ⟨rfl, ⟨rfl, rfl⟩, rfl⟩, rfl⟩, rfl, by decide, rfl⟩

theorem witness_StepKeepsMemoriesAndCounters : base.memWf ∧ base.countersFit ∧ ∃ t, step (named (codeAt 0x00084180 0)) = .next t :=
  ⟨⟨rfl, rfl, rfl, by decide⟩, ⟨fun _ => Nat.two_pow_pos 40, fun _ => Nat.two_pow_pos 40⟩, _, rfl⟩

theorem witness_InstructionKeepsSystemRegistersAndOtherWaves : (encode (.add 1 2 3)).isSome = true ∧ base.w.sys = false ∧
    1 ≠ base.wid ∧ base.row.vec ≠ 0 ∧
    ∃ t, exec (.add 1 2 3) base = .next t ∧ t.w.sys = false ∧ t.w.trapping = none ∧ t.w.life ≠ .killed :=
  ⟨rfl, rfl, by decide, by decide, _, rfl, rfl, rfl, by decide⟩

/-! Device steps of a wave's units. -/

def headed (c : Cmd) : State := onWave fun w => { w with lq := [.cmd 0x1000 0 0 c] }

/-- The place of 16 bytes at 0x10010. -/
def loc16 : Loc := (page 0x10000 .device 0x40000).at 0x10010

theorem witness_WaveUnitStepTakesEffect : (onWave fun w => { w with sret := [(7, 5), (8, 6)] }).w.sret[1]? = some (8, 6) ∧
    (∀ e ∈ (onWave fun w => { w with sret := [(7, 5), (8, 6)] }).w.sret.eraseIdx 1, e.1 ≠ 8) ∧
    (onWave fun w => { w with unch := [unch0] }).w.unch[0]? = some unch0 ∧ unch0.returned = false ∧ unch0.held = false ∧ unch0.err = none ∧
    unch0.late = [] ∧ (∀ x ∈ (onWave fun w => { w with unch := [unch0] }).w.unch.drop 1, x.returned = false) ∧ base.w.parked = none ∧
    (onWave fun w => { w with unch := [unch0], parked := some (0x2000, 0) }).w.parked = some (0x2000, 0) ∧
    (∀ x ∈ (onWave fun w => { w with unch := [unch0], parked := some (0x2000, 0) }).w.unch.eraseIdx 0, x.returned = true) ∧
    (∀ x ∈ (onWave fun w => { w with unch := [unch0], parked := some (0x2000, 0) }).w.unch, x.err = none) ∧
    (running (block0 0) 0 none false).w.lq = .run { run0 with image := block0 0, started := false } :: [] ∧
    (headed .rngReset).w.lq = .cmd 0x1000 0 0 .rngReset :: [] ∧ (headed (.dMov 15 0)).headCmd (.dMov 15 0) [] ∧
    (headed (.dSet 15 8 0)).headCmd (.dSet 15 8 0) [] ∧ fieldOk 8 0 = true ∧ fieldOk 1 9 = true ∧
    (headed (.dLd 15 0x10010 loc16)).headCmd (.dLd 15 0x10010 loc16) [] ∧ loc16.kind ≠ .peer ∧
    (base.fromHome loc16 16 && !base.missOpen base.w.core loc16) = false ∧ base.poisoned loc16 16 = false ∧
    (headed (.dSt 15 loc16)).headCmd (.dSt 15 loc16) [] ∧ base.repro = false ∧ (List.replicate 63 store0).length < 64 :=
  ⟨rfl, by decide, rfl, rfl, rfl, rfl, rfl, by decide, rfl, rfl, by decide, by decide, rfl, rfl, ⟨⟨_, _, _, rfl⟩, rfl⟩, ⟨⟨_, _, _, rfl⟩, rfl⟩,
   rfl, rfl, ⟨⟨_, _, _, rfl⟩, rfl⟩, by decide, rfl, rfl, ⟨⟨_, _, _, rfl⟩, rfl⟩, rfl, by decide⟩

/-- The wave's state after the step's cycles, and what its watchdog holds then, as the statement says them. -/
def counted (s : State) : State :=
  let n := Config.stepCycles s.free
  let later : State := { s with free := s.free + 1 }.modCore fun c => { c with cycle := dw (min (2 ^ 64 - 1) (c.cycle.toNat + n)) }
  let limit := if s.w.wdog = 0 then s.row.wdog.toNat % 2 ^ 32 else s.w.wdogLim
  if limit = 0 then later else later.modW fun w => { w with wdog := w.wdog + n, wdogLim := limit }

/-- A count that has begun, under the limit of one unit that it reached whatever the step's cycles, and under one it has far to go to. -/
def begun (limit : Nat) : State := onWave fun w => { w with wdog := 4096, wdogLim := limit }

/-- A count at the quantum's length and one below it; a limit of one unit that is reached, and no limit. -/
theorem witness_WaveUnitStepTakesEffect_counts : inRepro.repro = true ∧ inRepro.w.qended = false ∧
    ({ inRepro.w with qcount := 4096 } : Wave).quantum ≤ ({ inRepro.w with qcount := 4096 } : Wave).qcount ∧
    ({ inRepro.w with qcount := 4095 } : Wave).qcount < inRepro.w.quantum ∧ base.w.sys = false ∧ base.w.life = .running ∧
    base.w.trapping = none ∧ (counted base).w.wdog = 0 ∧ 0 < (counted (begun 1)).w.wdog ∧
    (counted (begun 1)).w.wdogLim * 4096 ≤ (counted (begun 1)).w.wdog :=
  ⟨rfl, rfl, by decide, by decide, rfl, rfl, rfl, rfl, Nat.lt_of_lt_of_le (by decide) (Nat.le_add_right 4096 _), Nat.le_add_right 4096 _⟩

/-! The engines: a descriptor of one element of f32, whose copy reads or writes the line at 0x10000. -/

def copyCmd (kind : CopyKind) (base : DWord) : CopyCmd :=
  { kind := kind, ticket := 1, base := base, view := 0, dn := 1, circ := 0, sys := false }

def withDesc (f : Wave → Wave) : State := onWave fun w => f { w with d := [(1, desc 512 3 1 1 false)], ticket := 2 }

def accepting (kind : CopyKind) : State :=
  withDesc fun w =>
    { w with lq := [.cmd 0x1000 0 0 (.copy (copyCmd kind 0x10000))]
             ops := [{ cmd := copyCmd kind 0x10000, desc := 0, accepted := false, todo := [], fault := none, held := none, done := false }] }

theorem witness_EngineStepTakesEffect_copy : (accepting .plane).headCmd (.copy (copyCmd .plane 0x10000)) [] ∧
    copyCheck (accepting .plane) (copyCmd .plane 0x10000) = .ok () ∧ (accepting .plane).repro = false ∧
    (accepting .plane).storesPerformed = true ∧ (accepting .plane).entryRoom ∧
    copyCheck (accepting .planeSw) (copyCmd .planeSw 0x10000) = .ok () :=
  ⟨⟨⟨_, _, _, rfl⟩, rfl⟩, rfl, rfl, rfl, ⟨rfl, by decide, rfl⟩, rfl⟩

/-- A copy operation that has been accepted, with one line to land. -/
def landing (kind : CopyKind) (base : DWord) (l : Option Loc) : CopyOp :=
  { cmd := copyCmd kind base, desc := desc 512 3 1 1 false, accepted := true, todo := [{ line := base.toNat / (copyCmd kind base).unit, loc := l }]
    fault := none, held := none, done := false }

def landingAt (o : CopyOp) : State := withDesc fun w => { w with ops := [o] }

def toPlane : CopyOp := landing .plane 0x10000 (some ((page 0x10000 .device 0x40000).at 0x10000))

theorem witness_EngineStepTakesEffect_line : (landingAt toPlane).w.opOf toPlane.cmd.ticket = some toPlane ∧
    (toPlane.todo.find? fun i => i.line == 128) = some ⟨128, some ((page 0x10000 .device 0x40000).at 0x10000), none, []⟩ ∧
    toPlane.cmd.kind.load = true ∧
    (∃ m u, (landingAt toPlane).lineData toPlane ⟨128, some ((page 0x10000 .device 0x40000).at 0x10000), none, []⟩ = some (.ok (m, u))) ∧
    (∀ x ∈ toPlane.cellsAt (landingAt toPlane).w 128, granuleFree ((landingAt toPlane).earlier 0 1) true x.granule = true) ∧
    (landing .fill 0 none).cmd.kind = .fill ∧ (landing .fill 0 none).fault = none ∧ (landing .fill 0 none).held = none ∧
    ((landing .fill 0 none).todo.find? fun i => i.line == 0) = some ⟨0, none, none, []⟩ ∧
    (landingAt (landing .fill 0 none)).w.opOf 1 = some (landing .fill 0 none) ∧
    (∀ x ∈ (landing .fill 0 none).cellsAt (landingAt (landing .fill 0 none)).w 0,
      granuleFree ((landingAt (landing .fill 0 none)).earlier 0 1) false x.granule = true) ∧
    toPlane.landed = false ∧ ({ toPlane with todo := [] } : CopyOp).landed = true ∧ toPlane.done = false ∧
    (landingAt { toPlane with todo := [] }).w.sweeps = [] ∧ (landingAt { toPlane with todo := [] }).w.opOf 1 = some { toPlane with todo := [] } :=
  ⟨rfl, rfl, rfl, ⟨_, _, rfl⟩, fun _ _ => rfl, rfl, rfl, rfl, rfl, rfl, fun _ _ => rfl, rfl, rfl, rfl, rfl, rfl⟩

/-- A request that fits 48 entries, and one that does not. -/
def asking (held : Nat) : State :=
  { base with cores := [(5, { sb := List.replicate held { first := 0, n := 1, rd := true, wr := true, owner := 0, kind := 0, ref := 1
                                                          bitmap := 0, fault := false, held := false }, sbWait := [(0, 4)] })] }

theorem witness_EngineStepTakesEffect_grant : ((asking 44).coreAt 5).sbWait = (0, 4) :: [] ∧
    ((asking 44).coreAt 5).sb.length + ((asking 44).waveIds.map fun m =>
      if ((asking 44).wave m).core = 5 then ((asking 44).wave m).sbGrant else 0).sum + 4 ≤ 48 ∧ ((asking 45).coreAt 5).sbWait = (0, 4) :: [] ∧
    48 < ((asking 45).coreAt 5).sb.length + ((asking 45).waveIds.map fun m =>
      if ((asking 45).wave m).core = 5 then ((asking 45).wave m).sbGrant else 0).sum + 4 := by decide

/-- A sweep that is ready and has not started. -/
def waiting : State := s0 |>.modW fun w => { w with sweeps := [{ sweep0 with started := false, da := w.dReg 1, db := w.dReg 2 }] }

theorem witness_EngineStepTakesEffect_sweep :
    waiting.w.sweeps.find? waiting.sweepReady = some { sweep0 with started := false, da := waiting.w.dReg 1, db := waiting.w.dReg 2 } ∧
    sweepTags waiting.w { sweep0 with started := false, da := waiting.w.dReg 1, db := waiting.w.dReg 2 } = .ok () := ⟨rfl, rfl⟩

/-- A stream of one word of lane memory, which ends at the window's last byte, and one of one word of device memory. -/
def record (lane : Bool) : Nat :=
  (if lane then 3580 + 2 ^ 56 else 0x10008) + 2 ^ 52 + 2 ^ 64 + 4 * 2 ^ 128

def bindState (lane : Bool) : State :=
  { headed (.srBind 3 0x10020 ((page 0x10000 .device 0x40000).at 0x10020) false) with mem := writeCells [] (leCells 0x40020 32 (record lane)) }

theorem witness_EngineStepTakesEffect_bind : ∀ lane, (bindState lane).headCmd (.srBind 3 0x10020 ((page 0x10000 .device 0x40000).at 0x10020) false) [] ∧
    ((bindState lane).w.stream 3).bound = false ∧ (bindState lane).repro = false ∧ (bindState lane).storesPerformed = true ∧
    (∃ r u, (bindState lane).readRecord 0x10020 ((page 0x10000 .device 0x40000).at 0x10020) = .ok (r, u) ∧ (recordOf r false).1 = true ∧
      (recordOf r false).2.lane = lane ∧
      streamValid (bindState lane).w 3 (recordOf r false).2 = true ∧ streamOut (bindState lane).w (recordOf r false).2 = none) ∧
    (bindState lane).entryRoom := by
  intro lane
  cases lane <;> exact ⟨⟨⟨_, _, _, rfl⟩, rfl⟩, rfl, rfl, rfl, ⟨_, _, rfl, rfl, rfl, rfl, rfl⟩, ⟨rfl, by decide, rfl⟩⟩

/-- A queue of read streams and one of scatter streams that hold one value in lane 0 or none. -/
def streaming (q : Nat) (lane : Bool) (vals : List QVal) : State :=
  onWave fun w =>
    { w with lq := [.cmd 0x1000 0 0 (.srStop q)]
             q := [(q, { (recordOf (record lane) false).2 with vals := if vals.isEmpty then [] else [(0, vals)] })] }

/-- A binding to a queue at which a stream stands. -/
def rebinding : State := { streaming 3 true [] with w := { (streaming 3 true []).w with lq := [.cmd 0x1000 0 0 (.srBind 3 0x10020 store0.loc false)] } }

theorem witness_EngineStepTakesEffect_rebind : rebinding.headCmd (.srBind 3 0x10020 store0.loc false) [] ∧
    (rebinding.w.stream 3).bound = true ∧ rebinding.w.isIndexSource 3 = false ∧
    ∀ L < rebinding.w.lanes, if 3 < 4 then rebinding.laneHeld 3 L = false else look [] (rebinding.w.stream 3).vals L = [] :=
  ⟨⟨⟨_, _, _, rfl⟩, rfl⟩, rfl, by decide, fun L _ => by rw [if_pos (by decide)]; rfl⟩

theorem witness_EngineStepTakesEffect_stop : ∀ q ∈ [3, 4], (streaming q true []).headCmd (.srStop q) [] ∧
    (streaming q true []).w.isIndexSource q = false ∧ (∀ L < (streaming q true []).w.lanes,
      if q < 4 then (streaming q true []).laneHeld q L = false else look [] ((streaming q true []).w.stream q).vals L = []) ∧
    ((streaming q true []).w.stream q).bound = true := by
  intro q h
  have : q = 3 ∨ q = 4 := by simpa using h
  rcases this with rfl | rfl <;> exact ⟨⟨⟨_, _, _, rfl⟩, rfl⟩, by decide, fun L _ => by first | (rw [if_pos (by decide)]; rfl) | (rw [if_neg (by decide)]; rfl), rfl⟩

/-- The last read queue and the first scatter queue; the last word of the window, and device memory. -/
theorem witness_EngineStepTakesEffect_fetch : (streaming 3 true []).fetchDue 3 0 ∧
    (streaming 3 true []).w.streamAddr ((streaming 3 true []).w.stream 3) 0 0 = some 3580 ∧
    (3580 : Int) + 4 ≤ (streaming 3 true []).w.lambda ∧
    (∀ g ∈ granules 3580 4, granuleFree ((streaming 3 true []).earlier 2 3) false g = true) ∧ (streaming 3 false []).fetchDue 3 0 ∧
    (streaming 3 false []).w.streamAddr ((streaming 3 false []).w.stream 3) 0 0 = some 0x10008 ∧
    (∃ ps, (streaming 3 false []).bytePlaces false .load 0x10008 4 = .ok ps ∧ (∀ p ∈ ps, p.kind = .device) ∧
      (streaming 3 false []).unitsHeld none (unitLocs ps) = false) ∧
    (streaming 3 false []).core.lineBuf = [] ∧ (streaming 3 false []).poison = [] :=
  ⟨⟨by decide, rfl, by decide, by decide, by decide, by decide, by decide, rfl, rfl⟩, rfl, by decide, by decide,
   ⟨by decide, rfl, by decide, by decide, by decide, by decide, by decide, rfl, rfl⟩, rfl, ⟨_, rfl, by decide, by decide⟩, rfl, rfl⟩

theorem witness_EngineStepTakesEffect_drain : (streaming 4 true [⟨7, none, false⟩]).drainDue 4 0 7 [] ∧
    (streaming 4 true [⟨7, none, false⟩]).w.streamAddr ((streaming 4 true [⟨7, none, false⟩]).w.stream 4) 0 0 = some 3580 ∧
    (∀ g ∈ granules 3580 4, granuleFree ((streaming 4 true [⟨7, none, false⟩]).earlier 2 4) true g = true) ∧
    (streaming 4 false [⟨7, none, false⟩]).drainDue 4 0 7 [] ∧
    (streaming 4 false [⟨7, none, false⟩]).w.streamAddr ((streaming 4 false [⟨7, none, false⟩]).w.stream 4) 0 0 = some 0x10008 ∧
    (∃ ps, (streaming 4 false [⟨7, none, false⟩]).bytePlaces false .store 0x10008 4 = .ok ps ∧ (ps.map fun p => p.addr).Nodup ∧
      ∀ p ∈ ps, p.kind = .device ∧ (streaming 4 false [⟨7, none, false⟩]).atomOpen 5 p = true) :=
  ⟨⟨by decide, by decide, rfl, rfl, by decide, rfl, rfl⟩, rfl, by decide, ⟨by decide, by decide, rfl, rfl, by decide, rfl, rfl⟩, rfl, ⟨_, rfl, by decide, by decide⟩⟩

/-- Page Requests of a copy, a stream and a bulk copy; the last that can be outstanding is the 64th. -/
def pageReq (kind ref : Nat) : PageReq := { ctx := 1, pasid := 0, addr := 0x10000, write := false, wave := 0, kind := kind, ref := ref }

def requesting : State :=
  { landingAt { toPlane with held := some 128 } with
    sectors := [(0, { pageReqs := List.replicate 61 (pageReq 1 0) ++ [pageReq 1 0, pageReq 2 0, pageReq 0 1] })] }

theorem witness_EngineStepTakesEffect_page : (requesting.sector 0).pageReqs[63]? = some (pageReq 0 1) ∧
    (requesting.sector 0).pageReqs[62]? = some (pageReq 2 0) ∧ (requesting.sector 0).pageReqs[61]? = some (pageReq 1 0) ∧
    (pageReq 0 1).wave = requesting.wid ∧ requesting.w.opOf 1 = some { toPlane with held := some 128 } ∧ requesting.fw.recovery = false :=
  ⟨rfl, rfl, rfl, rfl, rfl, rfl⟩

/-! Stores on their way. -/

def drains (e : StoreEntry) (f : Wave → Wave) : State := onWave fun w => f { w with stq := [e] }

def request0 (line : Nat) (started : Bool) (acks : List Nat) : HomeReq :=
  { line := line, cells := [(0x40008, 0xAB)], agent := { core := 5, id := 9, wave := 0 }, slice := 0, stamp := 0, started := started
    asked := acks, acks := acks }

/-- A flow with packets under way, the first one due. -/
def flow0 (cls : MsgClass) (src dst : Nat) (ps : List Packet) : Flow :=
  { cls := cls, src := src, dst := dst, sendSeq := BitVec.ofNat 16 ps.length, packets := ps.zipIdx.map fun p => (BitVec.ofNat 16 p.2, p.1) }

/-- A flow whose two allowances two packets hold; the other flow of the wave is the one that nothing has used. A cluster in reset. -/
def noAllow : State :=
  let s := drains store0 id
  { s with flows := [flow0 .req (clusterOf s.w.core) (144 + store0.loc.slice) [.inv 1, .inv 2]] }

theorem witness_StoreReachesItsHome_drain : (drains store0 id).w.stq = store0 :: [] ∧
    (drains store0 fun w => { w with sret := [(7, 5)] }).w.sret ≠ [] ∧
    (drains store0 fun w => { w with unch := [unch0] }).w.unch.all (·.returned) = false ∧
    ((drains store0 id).modCore fun c => { c with inReset := true }).core.inReset = true ∧ (drains store0 id).core.inReset = false ∧
    (drains store0 id).w.sret = [] ∧ (drains store0 id).w.unch.all (·.returned) = true ∧ store0.loc.kind = .device ∧
    (drains store0 id).allow .req (clusterOf 5) (144 + store0.loc.slice) ≠ 0 ∧ noAllow.w.stq = store0 :: [] ∧
    noAllow.allow .req (clusterOf 5) (144 + store0.loc.slice) = 0 ∧ (page 0x18000 .host 0x8000).loc.kind = .host ∧
    (page 0x1C000 .peer 0x4000).loc.kind = .peer := by decide

/-- A store, an invalidation for sector 2 and its acknowledgement, each due; writes of lines without copies and with copies in sectors. -/
def network (vec : Nat) (r : HomeReq) : State :=
  { base with vec := if vec = 0 then [] else [(0x40008 / 512, BitVec.ofNat 12 vec)], homeReqs := [r]
              cores := [(5, { inflight := [{ store0 with id := 9 }] })]
              flows := [flow0 .req 1 144 [.write (request0 512 false [])], flow0 .inv 144 290 [.inv 512], flow0 .ack 290 144 [.invAck 512]] }

theorem witness_StoreReachesItsHome_delivery :
    (network 0 (request0 512 false [])).flows[0]? = some (flow0 .req 1 144 [.write (request0 512 false [])]) ∧
    ((flow0 .req 1 144 [.write (request0 512 false [])]).packets.find? fun p => p.1 == 0) = some (0, .write (request0 512 false [])) ∧
    (network 0 (request0 512 false [])).flows[1]? = some (flow0 .inv 144 290 [.inv 512]) ∧
    ((flow0 .inv 144 290 [.inv 512]).packets.find? fun p => p.1 == 0) = some (0, .inv 512) ∧ (flow0 .inv 144 290 [.inv 512]).dst = 288 + 2 ∧
    (∀ f ∈ (network 0 (request0 512 false [])).flows, (network 0 (request0 512 false [])).noneWaits f ∧ f.dlvSeq = 0) ∧
    (network 0 (request0 512 false [])).allow .ack 290 144 ≠ 0 := by
  unfold State.noneWaits
  decide

/-- Four packets of two units behind one ingress, the sector controller's own and its host port's: two are under way, and the others wait. -/
def sharing : State :=
  { base with flows := [{ flow0 .req 288 144 [.inv 1] with waiting := [.inv 3] }, { flow0 .req 312 144 [.inv 2] with waiting := [.inv 4] }] }

/-- They hold the two allowances between them; the one that comes back lets in what waits in its own flow, else in the other. -/
theorem test_allowances_of_one_ingress : sharing.allow .req 288 144 = 0 ∧ sharing.allow .req 312 144 = 0 ∧ sharing.allow .req 321 144 = 2 ∧
    ((sharing.deliverFrom (sharing.flow .req 312 144)).map fun e =>
      (e.1, (e.2.flow .req 312 144).packets.map (·.2), (e.2.flow .req 288 144).waiting)) = some (.inv 2, [.inv 4], [.inv 3]) ∧
    (let s := sharing.setFlow (flow0 .req 312 144 [.inv 2])
     ((s.deliverFrom (s.flow .req 312 144)).map fun e =>
      (e.1, (e.2.flow .req 312 144).packets.map (·.2), (e.2.flow .req 288 144).packets.map (·.2))) = some (.inv 2, [], [.inv 1, .inv 3])) := by decide

theorem witness_StoreReachesItsHome_waiting : sharing.flows[1]? = some { flow0 .req 312 144 [.inv 2] with waiting := [.inv 4] } ∧
    (let s : State := { base with flows := [{ flow0 .req 1 144 [.write (request0 512 false [])] with waiting := [.inv 4] }]}
     ∃ f ∈ s.flows, s.flows[0]? = some f ∧ (f.packets.find? fun p => p.1 == f.dlvSeq) = some (0, .write (request0 512 false [])) ∧ f.waiting = .inv 4 :: []) :=
  ⟨rfl, _, by simp, rfl, rfl, rfl⟩

/-- The last acknowledgement and one before it; writes of a core, of a host link and of a pod device; an invalidation of a flow that nothing
has used. -/
theorem witness_StoreReachesItsHome : (network 0 (request0 512 false [])).homeReqs[0]? = some (request0 512 false []) ∧
    (network 0 (request0 512 false [])).homeReady 0 (request0 512 false []) = true ∧ (∀ c ∈ (request0 512 false []).cells, c.1 / 512 = 512) ∧
    (request0 512 false []).cells ≠ [] ∧ look 0 (network 0 (request0 512 false [])).vec 512 = 0 ∧
    (∃ e ∈ ((network 0 (request0 512 false [])).coreAt (request0 512 false []).agent.core).inflight, e.id = (request0 512 false []).agent.id) ∧
    (let r := { request0 512 false [] with agent := { core := 579, id := 9, wave := 0 } }
     578 ≤ r.agent.core ∧ (network 0 r).isOpen .ack (144 + r.slice) ((network 0 r).outsidePort r.agent.core) = true ∧ (network 0 r).homeReqs[0]? = some r ∧ (network 0 r).homeReady 0 r = true) ∧
    (network 4 (request0 512 false [])).homeReady 0 (request0 512 false []) = true ∧ look 0 (network 4 (request0 512 false [])).vec 512 ≠ 0 ∧
    ((network 8 (request0 512 false [])).flow .inv 144 291).waiting = [] ∧ (network 8 (request0 512 false [])).allow .inv 144 291 ≠ 0 ∧
    (network 4 (request0 512 true [2])).homeReqs[0]? = some (request0 512 true [2]) ∧ (2 ∈ (request0 512 true [2]).acks) ∧
    ((((network 4 (request0 512 true [2])).flow .ack 290 144).packets.find? fun p => p.1 == 0) = some (0, .invAck 512)) ∧
    ((request0 512 true [2]).acks.filter fun x => x != 2) = [] ∧ ((request0 512 true [2, 11]).acks.filter fun x => x != 2) ≠ [] ∧
    (∀ i ∈ (network 4 (request0 512 true [2])).installs, i.line ≠ 512) := by decide

/-- An acknowledgement that is due, one that is behind another, and one that nothing carries; requests to a pod device with a route and
without. -/
def acked (ps : List Packet) : State :=
  { base with cores := [(5, { acks := [(9, 0)] })], flows := if ps.isEmpty then [] else [flow0 .ack 144 (clusterOf 5) ps] }

def toPeer (port : Nat) : State := { base with peerReqs := [{ core := 5, id := 9, dev := 3, addr := 0x4000 }], routes := [(3, port)] }

def ackFlow (s : State) : Option Flow :=
  s.flows.find? fun f => f.cls == .ack && f.dst == clusterOf 5 && (f.packets.any (·.2 == .storeAck 5 9) || f.waiting.contains (.storeAck 5 9))

theorem witness_StoreReachesItsHome_ack : (∀ ps, ((acked ps).coreAt 5).acks[0]? = some (9, 0)) ∧ ackFlow (acked []) = none ∧
    ackFlow (acked [.storeAck 5 9]) = some (flow0 .ack 144 (clusterOf 5) [.storeAck 5 9]) ∧
    ((flow0 .ack 144 (clusterOf 5) [.storeAck 5 9]).packets.find? fun p => p.1 == 0) = some (0, .storeAck 5 9) ∧
    ackFlow (acked [.storeAck 5 8, .storeAck 5 9]) = some (flow0 .ack 144 (clusterOf 5) [.storeAck 5 8, .storeAck 5 9]) ∧
    ((flow0 .ack 144 (clusterOf 5) [.storeAck 5 8, .storeAck 5 9]).packets.find? fun p => p.1 == 0) = some (0, .storeAck 5 8) ∧
    (∀ p, ((toPeer p).peerReqs.filter fun x => x.core == 5)[0]? = some { core := 5, id := 9, dev := 3, addr := 0x4000 }) ∧
    look 0 (toPeer 0).routes 3 = 0 ∧ look 0 (toPeer 1).routes 3 ≠ 0 :=
  ⟨fun _ => rfl, by decide, by decide, by decide, by decide, by decide, fun _ => rfl, by decide, by decide⟩

/-- An install that is under way and one that is in place; a probe that hits a core of the sector, one that does not, with its line open at
the home and held there, and one whose line comes. -/
def copies0 (installed replica : Bool) : State :=
  { base with installs := [{ line := 512, slice := 3, home := 0, replica := replica, installed := installed }]
              flows := [flow0 .rsp 144 147 [.install 512], flow0 .ack 147 144 [.installAck 512]] }

/-- An install whose packet another one goes before. -/
def behind : State := { copies0 false true with flows := [flow0 .rsp 144 147 [.install 511, .install 512]] }

def probing (hit held : Bool) (p : Loc × Bool × Bool) : State :=
  { base with cores := [(5, { probes := [p], pred := if hit then [(0x40008 / 512 % 256, (7, 2))] else [] }), (7, { ro := [0x40008 / 128] })]
              homeReqs := if held then [request0 512 true [2]] else [] }

def hits (s : State) : Prop :=
  let p := look (0, 0) s.core.pred (0x40008 / 128 / 4 % 256)
  p.2 ≠ 0 ∧ 0x40008 / 128 ∈ (s.coreAt (sectorOf s.w.core * 48 + p.1)).ro

theorem witness_StoreReachesItsHome_copies :
    (∀ b, (copies0 false b).installs[0]? = some ⟨512, 3, 0, b, false⟩ ∧ (copies0 true b).installs[0]? = some ⟨512, 3, 0, b, true⟩) ∧
    (∀ b, ((copies0 b true).flow .rsp 144 147).due.map Prod.snd = some (.install 512) ∧
      ((copies0 b true).flow .ack 147 144).due.map Prod.snd = some (.installAck 512) ∧ ((copies0 b true).flow .ack 147 144).waiting = [] ∧
      (copies0 b true).allow .ack 147 144 ≠ 0 ∧ ((copies0 b true).flow .rsp 144 147).waiting = []) ∧
    (∀ b, (copies0 b true).noneWaits ((copies0 b true).flow .ack 147 144)) ∧
    (behind.flow .rsp 144 147).due.map Prod.snd ≠ some (.install 512) ∧ (behind.flow .ack 147 144).due.map Prod.snd ≠ some (.installAck 512) ∧
    ((copies0 false true).heldWays 3 512).1 + ((copies0 false true).heldWays 3 512).2 < 16 ∧
    (∀ hit held inv b, (probing hit held (store0.loc, inv, b)).core.probes[0]? = some (store0.loc, inv, b)) ∧
    (∀ held, hits (probing true held (store0.loc, false, false)) ∧ ¬ hits (probing false held (store0.loc, false, false))) ∧
    (probing false true (store0.loc, false, false)).missOpen 5 store0.loc = false ∧
    (probing false false (store0.loc, false, false)).missOpen 5 store0.loc = true ∧
    (probing true false (store0.loc, false, false)).poison = [] ∧ (probing true false (store0.loc, false, false)).core.inReset = false ∧
    ((probing true false (store0.loc, false, false)).modCore fun c => { c with inReset := true }).core.inReset = true ∧
    ∃ i ∈ (copies0 false false).installs, i.line = 512 :=
  ⟨fun _ => ⟨rfl, rfl⟩, by decide, by unfold State.noneWaits; decide, by decide, by decide, by decide, fun _ _ _ _ => rfl, fun held => by cases held <;> exact ⟨⟨by decide, by decide⟩, fun h => absurd h.1 (by decide)⟩,
   by decide, by decide, rfl, rfl, by decide, by decide⟩
/-! Requests from outside the device: the last byte of the device address space, the first source that is a pod device and the last, and
an aperture that ends with the request. -/

def aperture : State := { base with apertures := [(0, 13 + 7 * 2 ^ 8), (63, 14 + 7 * 2 ^ 8)] }

/-- A request of each kind at the last 8 bytes that the aperture of source 0 holds. -/
def outside (op : BusOp) : BusReq := { addr := 0x1FF8, op := op }

/-- A device in the recovery state. -/
def recovering : State := { base with fw := { recovery := true } }

theorem witness_OutsideRequestTakesEffect : base.fw.recovery = false ∧ recovering.fw.recovery = true ∧ (2 ^ 48 - 8) + busBytes (.read 8) ≤ 2 ^ 48 ∧
    2 ^ 48 < (2 ^ 48 - 7) + busBytes (.read 8) ∧ 65 < 66 ∧
    aperture.fw.recovery = false ∧ (∀ op ∈ [BusOp.read 8, .write (List.replicate 8 1), .swap true 1, .fetchAdd true 1, .cas true 1 2],
      apertureAllows (look 0 aperture.apertures 0) (outside op) = true ∧ (outside op).addr + busBytes op ≤ 2 ^ 48 ∧
        apertureAllows (look 0 aperture.apertures 63) (outside op) = true ∧ apertureAllows (look 0 aperture.apertures 1) (outside op) = false ∧
        apertureAllows (look 0 aperture.apertures 0) { outside op with addr := 0x1FF9 } = false) ∧
    (aperture.flow .req 312 (144 + homeOf 3 0 0x1E00)).waiting = [] ∧ aperture.allow .req 312 (144 + homeOf 3 0 0x1E00) ≠ 0 ∧
    List.replicate 8 (1 : Byte) ≠ [] ∧ 0x1FF8 / 512 = (0x1FF8 + (List.replicate 8 (1 : Byte)).length - 1) / 512 := by decide

/-- A read, and atomic operations of a host link on 8 and 4 bytes, whose compare value matches and does not. -/
def unitReq0 (op : BusOp) : UnitReq := { src := 576, addr := 0x40008, op := op, id := 1, slice := 0, stamp := 0 }

def unit0 (op : BusOp) : State := { base with unitReqs := [unitReq0 op] }

theorem witness_OutsideRequestTakesEffect_atomic : ∀ op ∈ [BusOp.read 8, .fetchAdd true 1, .fetchAdd false 1, .cas true 0 2, .cas false 1 2],
    (unit0 op).unitReqs[0]? = some (unitReq0 op) ∧ (unit0 op).unitReady 0 (unitReq0 op) = true ∧ (unit0 op).poison = [] := by decide

/-- A request to a peer, links that drain and that are down, counts that fit their counter and that do not, and a held record. -/
def leavingState (size : Nat) : State :=
  { base with peerReqs := [{ core := 5, id := 9, dev := 3, addr := 0x4000 }], linksDraining := [(2, 11)], linksDown := [(0, 23)]
              w := { base.w with counts := [(7, 3)] }, counters := [(7, 2 ^ 40 - 2)]
              events := [(evKey 1 0, { seq := 5, held := [(4, 0, 3, [1])] })], mg := { evsize := dw size, evbase := 0x100000, evhead := 63 } }

theorem witness_OutsideRequestTakesEffect_leaving : (leavingState 6).peerReqs[0]? = some ⟨5, 9, 3, 0x4000⟩ ∧
    (2, 11) ∈ (leavingState 6).linksDraining ∧ (0, 23) ∈ (leavingState 6).linksDown ∧ (leavingState 6).others = [] ∧
    (leavingState 6).w.counts = [(7, 3)] ∧ 2 ^ 40 - 1 < look 0 (leavingState 6).counters 7 + 3 ∧
    (look {} (leavingState 6).events (evKey 1 0)).held = (4, 0, 3, [1]) :: [] ∧ (leavingState 6).fw.recovery = false ∧
    6 ≤ (leavingState 6).mg.evsize.toNat ∧ (leavingState 16).mg.evsize.toNat ≤ 16 ∧
    (leavingState 6).mg.evhead - (leavingState 6).mg.evtail ≠ BitVec.ofNat 64 (2 ^ (leavingState 6).mg.evsize.toNat) := by decide

/-! Fills: hints whose walk finds no table, a page that permits execution and one that does not, and fills of both kinds. -/

def root0 (leaf : Nat) : DWord := if leaf = 0 then 0 else 1 + 2 ^ 23

def fill0 (kind leaf : Nat) (l : Option Loc) : Fill := { ctx := 1, sys := false, va := 0x2000, kind := kind, root := root0 leaf, loc := l }

/-- A core with a fill, and with a block at the fill's place that may not be trusted or may. -/
def filling (f : Fill) (leaf : Nat) (verified : Bool) : State :=
  { base with ctxs := [(1, { vec := 0x4000, root := root0 leaf })], mem := if leaf = 0 then [] else writeCells [] (leCells (2 ^ 23) 8 leaf)
              cores := [(5, { fills := [f], lcc := [{ addr := 0x40010, image := 3, verified := verified, count := 0 }] })]
              sectors := [(0, { trowel := [{ core := 5, addr := 0x40010, image := 3, cls := 2 }]
                                finished := [{ core := 5, addr := 0x40010, image := 3, cls := 0 }, { core := 5, addr := 0x2080, image := 3, cls := 0 }] })] }

def walking (leaf : Nat) : State := filling (fill0 0 leaf none) leaf true

theorem witness_CodeFillTakesEffect_walk : (∀ leaf, ((walking leaf).coreAt 5).fills[0]? = some (fill0 0 leaf none) ∧ (fill0 0 leaf none).loc = none) ∧
    (walking 0).walkHeld (root0 0) 0x2000 = false ∧ (walking 0).walkFrom (root0 0) 1 0x2000 = none ∧
    (walking 0x17).walkHeld (root0 0x17) 0x2000 = false ∧ (walking 0x07).walkHeld (root0 0x07) 0x2000 = false ∧
    (∃ e, (walking 0x17).walkFrom (root0 0x17) 1 0x2000 = some e ∧ e.permits .fetch false = true ∧ e.loc.kind = .device) ∧
    (∃ e, (walking 0x07).walkFrom (root0 0x07) 1 0x2000 = some e ∧ e.permits .fetch false = false) :=
  ⟨fun _ => ⟨rfl, rfl⟩, rfl, rfl, rfl, rfl, ⟨_, rfl, rfl, rfl⟩, ⟨_, rfl, rfl⟩⟩

theorem witness_CodeFillTakesEffect : (∀ kind b, ((filling (fill0 kind 0 (some loc16)) 0 b).coreAt 5).fills[0]? = some (fill0 kind 0 (some loc16)) ∧
      (filling (fill0 kind 0 (some loc16)) 0 b).poison.contains (loc16.addr / 128) = false ∧
      (filling (fill0 kind 0 (some loc16)) 0 b).missOpen 5 loc16 = true) ∧ (fill0 0 0 (some loc16)).loc = some loc16 ∧
    ((filling (fill0 0 0 (some loc16)) 0 true).coreAt 5).codeLine (loc16.addr / 128) = none ∧ (fill0 1 0 (some loc16)).kind = 1 ∧
    (∀ b ∈ ((filling (fill0 1 0 (some loc16)) 0 true).coreAt 5).lcc, b.addr = loc16.addr → b.verified = true) ∧
    (∃ b ∈ ((filling (fill0 1 0 (some loc16)) 0 false).coreAt 5).lcc, b.verified = false ∧
      (((filling (fill0 1 0 (some loc16)) 0 false).coreAt 5).fills.find? fun f => f.kind == 1 && (f.loc.map (·.addr)) == some b.addr) =
        some (fill0 1 0 (some loc16))) ∧
    (∃ r, ((walking 0).sector 0).trowel = r :: []) ∧ (walking 0).fw.recovery = false ∧
    (∃ r, ((walking 0).sector 0).finished[0]? = some r ∧ ∃ b ∈ ((walking 0).coreAt r.core).lcc, b.addr = r.addr ∧ b.image = r.image) ∧
    (∃ r, ((walking 0).sector 0).finished[1]? = some r ∧ ∀ b ∈ ((walking 0).coreAt r.core).lcc, ¬ (b.addr = r.addr ∧ b.image = r.image)) :=
  ⟨fun _ _ => ⟨rfl, rfl, rfl⟩, rfl, rfl, rfl, by decide, by decide, ⟨_, rfl⟩, rfl, ⟨_, rfl, by decide⟩, ⟨_, rfl, by decide⟩⟩

/-! Queues: one at 0x8400 with 16 slots at 0x8800, whose first slot holds a packet of words `ws`. -/

def words (ws : List Nat) : Nat := ws.foldr (fun x n => x + 2 ^ 64 * n) 0

def packet (kind : Nat) (ws : List Nat) (five : Nat) : Nat := words (ws ++ List.replicate (5 - ws.length) 0 ++ [five, 0, 1 + kind * 2 ^ 32])

def queue0 : Queue := { cb := 0x8400, pa := 0x8400, ctx := 1, cand := none, age := 0, stamp := 0, bad := none, notified := true }

def withPacket (write p : Nat) (tlb : List TlbEntry) : State :=
  { base with sectors := [(0, { queues := [queue0], tlb := tlb })]
              mem := writeCells [] (leCells 0x8400 8 write ++ leCells 0x8608 8 0x8800 ++ leCells 0x8610 8 4 ++ leCells 0x8618 8 1 ++ leCells 0x8800 64 p) }

def maps : List TlbEntry := [page 0x8000 .device 0x8000, page 0x10000 .device 0x40000]

def slot0 : Loc := (page 0x8000 .device 0x8000).at 0x8800

/-- A queue without an entry, one whose slot does not translate, and one whose packet is of kind 4, which no unit takes. -/
theorem witness_QueuePacketTakesEffect_look : (withPacket 0 0 maps).queueAt 0 0 = some queue0 ∧ (withPacket 0 0 maps).controls 0 = true ∧
    queue0.cand = none ∧ queue0.bad = none ∧ (withPacket 0 0 maps).blockOpen queue0 = true ∧
    (withPacket 0 0 maps).slotVa 0x8400 ((withPacket 0 0 maps).readIndex queue0) = 0x8800 ∧ (withPacket 0 0 maps).sectorWaits 0 1 0x8800 = false ∧
    (withPacket 0 0 maps).writeIndex queue0 ≤ (withPacket 0 0 maps).readIndex queue0 ∧
    (withPacket 1 0 []).sectorWaits 0 1 0x8800 = false ∧ (withPacket 1 0 []).readIndex queue0 < (withPacket 1 0 []).writeIndex queue0 ∧ (withPacket 1 0 []).headPlace 0 queue0 = none ∧
    (let s := withPacket 1 (packet 4 [] 0) maps
     s.sectorWaits 0 1 0x8800 = false ∧ s.readIndex queue0 < s.writeIndex queue0 ∧ s.headPlace 0 queue0 = some slot0 ∧ pkKind (s.packetAt slot0) ≠ 0 ∧
       packetBad queue0 (s.packetAt slot0) = true ∧ s.consumeReady queue0 slot0 = true) ∧
    apart (slot0.addr + 0x3C) 1 (queue0.pa + 0x200) 8 :=
  ⟨rfl, rfl, rfl, rfl, rfl, by decide, rfl, by decide, rfl, by decide, by decide, by decide, .inr (by decide)⟩

def taskPacket : State := withPacket 1 (packet 1 [] (0x23D20 + 2 ^ 32)) maps

def due (s : State) (kind : Nat) : Prop := s.packetDue 0 0 kind queue0 0 slot0 (s.packetAt slot0)

/-- A task that a dispatcher takes, and one without crews. -/
theorem witness_QueuePacketTakesEffect_task : due taskPacket 1 ∧ taskPacket.packetCase 0 1 (taskPacket.packetAt slot0) = none ∧
    due (withPacket 1 (packet 1 [] 0x23D20) maps) 1 ∧
    (withPacket 1 (packet 1 [] 0x23D20) maps).packetCase 0 1 ((withPacket 1 (packet 1 [] 0x23D20) maps).packetAt slot0) = some 3 :=
  ⟨⟨rfl, rfl, by decide, by decide, by decide, by decide, .inr (by decide)⟩, by decide,
   ⟨rfl, rfl, by decide, by decide, by decide, by decide, .inr (by decide)⟩, by decide⟩

/-- A candidate whose phase is below its context's. -/
def staleCandidate : State :=
  let s := withPacket 1 (packet 1 [] (0x23D20 + 2 ^ 32)) maps
  { s with ctxs := [(1, { phase := 1 })], tasks := [{ task0 with record := s.packetAt slot0 }]
           sectors := [(0, { queues := [{ queue0 with cand := some 70 }], tlb := maps })] }

theorem witness_QueuePacketTakesEffect_stale :
    let q := { queue0 with cand := some 70 }
    staleCandidate.queueAt 0 0 = some q ∧ staleCandidate.controls 0 = true ∧ q.cand = some 70 ∧ (∃ x, staleCandidate.taskOf 70 = some x ∧
      pkPhase x.record < (staleCandidate.rowAt x.ctx).phase) ∧ staleCandidate.headPlace 0 q = some slot0 ∧
    staleCandidate.consumeReady q slot0 = true := ⟨rfl, rfl, rfl, ⟨_, rfl, by decide⟩, by decide, by decide⟩

def signalPacket : State := withPacket 1 (packet 3 [0x10008, 5] 0) maps

/-- A second queue of the context, registered later, whose turn comes after the first one's. -/
def queue1 : Queue := { queue0 with cb := 0x9400, pa := 0x9400 }

def slot1 : Loc := (page 0x8000 .device 0x8000).at 0x9800

def second (p : Nat) : State :=
  { base with sectors := [(0, { queues := [queue0, queue1], tlb := maps })]
              mem := writeCells [] (leCells 0x8400 8 1 ++ leCells 0x8608 8 0x8800 ++ leCells 0x8610 8 4 ++ leCells 0x8618 8 1 ++ leCells 0x8800 64 p ++
                leCells 0x9400 8 1 ++ leCells 0x9608 8 0x9800 ++ leCells 0x9610 8 4 ++ leCells 0x9618 8 1 ++ leCells 0x9800 64 p) }

theorem witness_QueuePacketTakesEffect_turn : ∀ k ∈ [2, 3],
    let s := second (packet k [0x10008, 5] 0)
    s.packetDue 0 1 k queue1 0 slot1 (s.packetAt slot1) ∧ (s.nextPacket 0).map Prod.fst ≠ some queue1.pa := by
  intro k h
  have : k = 2 ∨ k = 3 := by simpa using h
  rcases this with rfl | rfl <;> exact ⟨⟨rfl, rfl, by decide, by decide, by decide, by decide, .inr (by decide)⟩, by decide⟩

/-- A bulk copy of 2 bytes, and the same under way. -/
def bulkState : State :=
  let b : Bulk := { id := 80, cb := 0x8400, slot := 0, ctx := 1, src := 0x10000, dst := 0x10100, len := 2, sig := 0, addend := 0, refused := false }
  { base with sectors := [(0, { queues := [queue0], tlb := maps, bulk := [b] })] }

theorem witness_QueuePacketTakesEffect : due (withPacket 1 (packet 2 [0x10000, 0x10100, 2] 0) maps) 2 ∧ due signalPacket 3 ∧
    ((withPacket 1 (packet 2 [0x10000, 0x10100, 2] 0) maps).nextPacket 0).map Prod.fst = some queue0.pa ∧
    (signalPacket.nextPacket 0).map Prod.fst = some queue0.pa ∧ signalPacket.sectorWaits 0 1 0x10008 = false ∧
    (pk (signalPacket.packetAt slot0) 0).toNat % 8 = 0 ∧
    signalPacket.unitPlace 0 1 (pk (signalPacket.packetAt slot0) 0).toNat = some ((page 0x10000 .device 0x40000).at 0x10008) ∧
    signalPacket.lineFree (0x40008 / 512) = true ∧ apart 0x40008 8 (queue0.pa + 0x200) 8 ∧ apart 0x40008 8 (slot0.addr + 0x3C) 1 :=
  ⟨⟨rfl, rfl, by decide, by decide, by decide, by decide, .inr (by decide)⟩,
   ⟨rfl, rfl, by decide, by decide, by decide, by decide, .inr (by decide)⟩, by decide, by decide, rfl, by decide, by decide, rfl, .inr (by decide), .inr (by decide)⟩

theorem witness_QueuePacketTakesEffect_bulk : ∃ b, (bulkState.sector 0).bulk[0]? = some b ∧ b.sig = 0 ∧
    bulkState.homeReqs = [] ∧ (bulkState.sector 0).pageReqs = [] ∧ (page 0x10000 .device 0x40000).loc.kind = .device ∧
    (∀ i < b.len, bulkState.bulkPlace 0 b.ctx false ((b.src.toNat + i) % 2 ^ 64) = some ((page 0x10000 .device 0x40000).at (0x10000 + i)) ∧
      bulkState.bulkPlace 0 b.ctx true ((b.dst.toNat + i) % 2 ^ 64) = some ((page 0x10000 .device 0x40000).at (0x10100 + i)) ∧
      bulkState.poison.contains ((0x40000 + i) / 128) = false ∧ bulkState.lineFree ((0x40100 + i) / 512) = true) ∧
    (∀ i < b.len, ∀ j < b.len, (i ≠ j → 0x40100 + i ≠ 0x40100 + j) ∧ 0x40100 + i ≠ 0x40000 + j) :=
  ⟨_, rfl, rfl, rfl, rfl, rfl, by decide, by decide⟩

/-! Crews: one that waits to be placed for a task at its queue's head, and crews of which wave 0 is the last. -/

def record0 (crews succ sig : Nat) : BitVec 512 := BitVec.ofNat 512 (words [0, 0, 0, sig, succ, 0x23D20 + crews * 2 ^ 32, 0, 1 + 2 ^ 32])

def oneTask (x : Task) : State :=
  { base with tasks := [x], sectors := [(0, { queues := [{ queue0 with cand := some 70 }], tlb := maps })]
              mem := writeCells [] (leCells 0x8400 8 1 ++ leCells 0x8608 8 0x8800 ++ leCells 0x8610 8 4 ++ leCells 0x8618 8 1) }

def launching : Task := { task0 with record := record0 1 0 0, placed := 0 }

theorem witness_CrewStepTakesEffect_place : (oneTask launching).queueAt 0 0 = some { queue0 with cand := some 70 } ∧
    (oneTask launching).controls 0 = true ∧ (oneTask launching).fw.recovery = false ∧ ((oneTask launching).nextCrew 0).isSome = true ∧
    (∀ y ∈ (oneTask launching).nextCrew 0, y.2.1.placed + 1 = pkCrews y.2.1.record ∧ (oneTask launching).headPlace 0 y.1 = some slot0 ∧
      (oneTask launching).consumeReady y.1 slot0 = true) := by decide

/-- A crew that has not started; a barrier at which every wave has arrived, the last of the four among them; a commit of one store. -/
def crewed (c : Crew) (f : Wave → Wave) : State := { onWave f with crews := [c] }

theorem witness_CrewStepTakesEffect : (crewed { crew0 with started := false } id).crewOf 60 = some { crew0 with started := false } ∧
    crew0.killed = false ∧ (crewed crew0 fun w => { w with arr := [(3, 1)] }).crewOf 60 = some crew0 ∧ 3 < 4 ∧
    (crewed crew0 fun w => { w with arr := [(3, 1)] }).genReady crew0 3 = true ∧ crew0.committing = false ∧
    (let s := crewed crew0 fun w => { w with qended := true, buf := [.bytes store0.loc store0.cells] }
     s.crewOf 60 = some crew0 ∧ crew0.waves = [s.wid] ∧ s.commitReady crew0 = true ∧ s.w.life = .running ∧ s.core.inReset = false ∧ s.w.ret = none ∧
       s.w.buf = [(store0.loc, store0.cells)].map (fun e => .bytes e.1 e.2) ∧ store0.loc.kind = .device ∧
       ∀ x ∈ store0.cells, s.lineFree (x.1 / 512) = true) := by decide

/-- The task has one crew more, none more, and none more with a signal at 0x10008. -/
def retiring (crews sig : Nat) : State :=
  { oneTask { task0 with record := record0 crews 0 sig } with w := { base.w with life := .exited } }

theorem witness_CrewStepTakesEffect_retire : (∀ n ∈ [1, 2], ∀ sig ∈ [0, 0x10008], (retiring n sig).crewOf 60 = some crew0 ∧ crew0.started = true ∧
      crew0.killed = false ∧ (∀ m ∈ crew0.waves, ((retiring n sig).wave m).life = .exited ∧ (retiring n sig).storesOut m = false) ∧
      (retiring n sig).taskOf crew0.task = some { task0 with record := record0 n 0 sig }) ∧ task0.succ = none ∧
    task0.retired + 1 < pkCrews (record0 2 0 0) ∧ pkCrews (record0 1 0 0) ≤ task0.retired + 1 ∧ pk (record0 1 0 0) 3 = 0 ∧
    pk (record0 1 0 0x10008) 3 ≠ 0 ∧
    (retiring 1 0x10008).retirePlace 0 1 (pk (record0 1 0 0x10008) 3).toNat 8 = some ((page 0x10000 .device 0x40000).at 0x10008) ∧
    (retiring 1 0x10008).lineFree (0x40008 / 512) = true ∧ (retiring 1 0x10008).sectorWaits 0 1 0x10008 = false := by decide

/-- The list of a task at 0x10200: its first entry names the record at 0x10280, which waits for `count` decrements, and the queue at 0x8400. -/
def succeeding (x : Task) (entries count : Nat) : State :=
  let s := oneTask x
  { s with w := { base.w with life := .exited }
           mem := writeCells s.mem (leCells 0x40200 1 entries ++ leCells 0x40210 8 0x10280 ++ leCells 0x40218 8 0x8400 ++ leCells 0x402B0 4 count) }

/-- The place of the queue's control block. -/
def queueLoc : Loc := (page 0x8000 .device 0x8000).at 0x8400

/-- The task after its parent's decrement, where it has claimed its place, and where it pushes the record. -/
def decremented (list : Nat) (pushing : Option (BitVec 512 × Loc)) (claimed : Option Nat) : Task :=
  { task0 with record := record0 1 list 0, succ := some 0, pushing := pushing, claimed := claimed }

theorem witness_CrewStepTakesEffect_successors : (∀ list ∈ [0, 0x10200], ∀ p ∈ [(none, none), (some (5, queueLoc), none), (some (5, queueLoc), some 1)],
      let x := decremented list p.1 p.2
      (succeeding x 1 1).crewOf 60 = some crew0 ∧ (∀ m ∈ crew0.waves, ((succeeding x 1 1).wave m).life = .exited ∧ (succeeding x 1 1).storesOut m = false) ∧
        (succeeding x 1 1).taskOf crew0.task = some x ∧ x.succ = some 0 ∧ (pk x.record 4).toNat = list) ∧
    (∀ n ∈ [0, 1, 2], ∀ p ∈ [(none, none), (some (5, queueLoc), none), (some (5, queueLoc), some 1)],
      let s := succeeding (decremented 0x10200 p.1 p.2) 1 n
      let p := page 0x10000 .device 0x40000
      let q := page 0x8000 .device 0x8000
      s.retirePlace 0 1 0x10200 64 = some (p.at 0x10200) ∧ 0 < (readByte s.mem 0x40200).toNat ∧ s.retirePlace 0 1 0x10210 16 = some (p.at 0x10210) ∧
        s.retirePlace 0 1 (readLe s.mem 0x40210 8) 64 = some (p.at 0x10280) ∧ s.retirePlace 0 1 (readLe s.mem 0x40218 8) 1024 = some (q.at 0x8400) ∧
        readLe s.mem 0x402B0 4 = n ∧ s.lineFree (0x402B0 / 512) = true ∧ s.lineFree (0x8400 / 512) = true ∧ s.slotRoom 0x8400 1 = true ∧
        s.retirePlace 0 1 (s.slotVa 0x8400 1) 1 = some (q.at 0x8840) ∧ s.lineFree (0x8840 / 512) = true ∧ s.lineHeld (0x40200 / 512) = false ∧
        (∀ a ∈ [0x10200, 0x10210, 0x10280, 0x8400, 0x8840], s.sectorWaits 0 1 a = false)) ∧
    (readByte (succeeding (decremented 0x10200 none none) 0 0).mem 0x40200).toNat ≤ 0 :=
  ⟨by decide, by decide, by decide⟩

/-- A phase that is closed with no task in it, closed with a task in it, and open. -/
def phased (closed : Bool) (live : List (Nat × Nat × Nat)) : State := { base with ctxs := [(1, { vec := 0x4000, closed := closed, live := live })] }

theorem witness_CrewStepTakesEffect_phase : ((phased true [(1, 0, 0)]).rowAt 1).closed = true ∧
    (∀ x ∈ ((phased true [(1, 0, 0)]).rowAt 1).live, x.1 ≠ ((phased true [(1, 0, 0)]).rowAt 1).phase) ∧
    ((phased false []).rowAt 1).closed = false ∧
    (∃ x ∈ ((phased true [(0, 0, 0)]).rowAt 1).live, x.1 = ((phased true [(0, 0, 0)]).rowAt 1).phase) := by decide

/-! The platform: each temperature and power at which the steps differ, at the last core, region and context. -/

def hot : State := { base with doubled := [143], atRating := [143], retraining := some 575 }

theorem witness_PlatformEventTakesEffect : hot.retraining = some 575 ∧ (575 : Nat) < 576 ∧ 575 ∉ base.inRefresh ∧ base.fw.recovery = false ∧ recovering.fw.recovery = true ∧ (143 : Nat) < 144 ∧
    ((85 : Int) < 86 ∧ 143 ∉ base.doubled) ∧ ((81 : Int) < 82 ∧ 143 ∈ hot.doubled) ∧ ((82 : Int) ≤ 82 ∧ (85 : Int) ≤ 85) ∧ (95 : Int) ≤ 95 ∧
    ((92 : Int) ≤ 92 ∧ (94 : Int) < 95) ∧ (91 : Int) < 92 ∧ (2200 : Nat) < 2201 ∧ (2099 : Nat) < 2100 ∧ ((2100 : Nat) ≤ 2100 ∧ (2200 : Nat) ≤ 2200) ∧
    2 ^ 48 - 1 < 2 ^ 48 ∧ (287 < 288 ∧ 2 ^ 22 - 1 < 2 ^ 22) ∧ (base.wave 0).resident = true ∧ hot.commanded 4 = False ∧
    ({ hot with mg := { busy := true, cmd := 4 } } : State).commanded 4 :=
  ⟨rfl, by decide, by decide, rfl, rfl, by decide, by decide, by decide, by decide, by decide, by decide, by decide, by decide, by decide, by decide,
   by decide, by decide, rfl, eq_false (by rintro ⟨h, -⟩; exact absurd h (by decide)), rfl, rfl⟩

/-! Resets and management: the last cluster, whose cores stand in reset; a switch of two sectors, the last of which is the sector that
remains; and registers 0x008 to 0x028. -/

def inResets : State :=
  { base with cores := (List.range 4).map fun k => (572 + k, ({ inReset := true } : Core)) }

def mgState (busy : Bool) (cmd : Nat) (args : List Nat) : State :=
  { base with mg := { busy := busy, cmd := cmd, arg := putAll 0 [] (args.zipIdx.map fun e => (e.2, dw e.1)) } }

theorem witness_ResetAndManagementRegistersTakeEffect : (143 : Nat) < 144 ∧ base.controls (143 / 12) = true ∧
    ({ base with fw := { switching := [11] } } : State).controls (143 / 12) = false ∧ 572 ∈ clusterCores 143 ∧
    (∀ r ∈ inResets.fw.resets, r.1 ≠ 143) ∧ (∀ n ∈ clusterCores 143, (inResets.coreAt n).inReset = true) ∧
    (∃ n ∈ base.waveIds, (base.wave n).core ∈ clusterCores 1 ∧ (base.wave n).resident = true ∧
      base.crewOf (base.wave n).crew = some crew0 ∧ n ∈ crew0.waves) ∧ base.dirty = [] ∧
    (∀ l ∈ [[11], [0, 11]], ({ base with fw := { switching := l } } : State).fw.switching = l ∧
      ({ base with fw := { switching := l } } : State).fw.resets = []) ∧
    ({ mgState true 2 [] with fw := { switching := [11] } } : State).commanded 2 ∧ (mgState true 0 []).mg.busy = true ∧
    (mgState false 0 []).mg.busy = false ∧ base.mgOpen = true ∧
    ({ base with flows := [flow0 .req 312 144 [.write { request0 512 false [] with agent := ⟨576, 1, 0⟩ }]] } : State).mgOpen = false ∧ (1 ≤ (1 : DWord).toNat % 2 ^ 8 ∧ (9 : DWord).toNat % 2 ^ 8 ≤ 9) ∧ base.fw.recovery = false ∧
    recovering.fw.recovery = true ∧ base.mg.cmd < 2 ^ 8 ∧ base.mg.status < 2 ^ 8 ∧ 2 < (3 : DWord).toNat % 2 ^ 8 ∧ (2 : DWord).toNat % 2 ^ 8 ≤ 2 ∧
    (0x100 : DWord).toNat % 2 ^ 8 = 0 ∧ 9 < (10 : DWord).toNat % 2 ^ 8 ∧ 3 < 4 :=
  ⟨by decide, rfl, rfl, by decide, by decide, by decide, ⟨0, by decide⟩, rfl, by decide, ⟨rfl, rfl⟩, by decide⟩

/-- Every command; for those with an operand the first one that it turns away and the last that it takes. -/
theorem witness_ManagementCommandTakesEffect : (∀ c ∈ [1, 2, 3, 4, 5, 6, 7, 8, 9], (mgState true c [7, 9]).mg.busy = true ∧
      (mgState true c [7, 9]).mg.cmd = c) ∧ base.fw.switching = [] ∧ base.fw.staged = none ∧ base.retraining = none ∧
    (mgState true 4 [576]).mg.argN 0 = 576 ∧ (mgState true 4 [575]).mg.argN 0 < 576 ∧
    linkCount ((mgState true 5 [0, 24]).mg.argN 0) ≤ (mgState true 5 [0, 24]).mg.argN 1 ∧
    ((mgState true 5 [2, 11]).mg.argN 1 < linkCount ((mgState true 5 [2, 11]).mg.argN 0) ∧ (2, 11) ∉ base.linksDraining ∧ (2, 11) ∉ base.linksDown) ∧
    144 ≤ (mgState true 6 [144]).mg.argN 0 ∧ (mgState true 6 [143]).mg.argN 0 < 144 ∧ (base.coreAt 575).leaving = false ∧
    (∀ n ∈ base.waveIds, (base.wave n).resident = true → (base.wave n).core ≠ 575) ∧
    (∀ c ∈ base.crews, c.killed = false → ∀ k ∈ c.waves, (base.wave k).core ≠ 575) ∧
    (({ base with cores := [(575, { retired := true })] } : State).coreAt 575).leaving = true ∧
    (let s : State := { base with cores := (List.range 4).map fun k => (572 + k, ({ retiring := true } : Core)) }
     ∀ n ∈ clusterCores 143, (s.coreAt n).leaving = true) ∧ (∃ n ∈ clusterCores 143, (base.coreAt n).leaving = false) ∧
    (64 ≤ (mgState true 9 [64, 0]).mg.argN 0 ∧ 12 ≤ (mgState true 9 [63, 12]).mg.argN 1 ∧ (mgState true 9 [63, 12]).mg.argN 1 ≠ 15) ∧
    ((mgState true 9 [63, 11]).mg.argN 0 < 64 ∧ (mgState true 9 [63, 11]).mg.argN 1 < 12) ∧ (mgState true 9 [63, 15]).mg.argN 1 = 15 := by decide

/-- A staged image without the marks of one, which is turned away; an image that is whole, if the free digest and verification of the model
(log entry 7) accept it. -/
def image0 : List Byte := []

def staged (i : List Byte) : State := { mgState true 2 [] with fw := { staged := some i } }

theorem witness_ManagementCommandTakesEffect_activate : (staged image0).commanded 2 ∧ (staged image0).fw.staged = some image0 ∧
    imgStatus (staged image0).fw.rollback image0 ≠ 0 ∧ (staged image0).fw.recovery = false ∧
    ∀ i, imgStatus 0 i = 0 → imgStatus (staged i).fw.rollback i = 0 := ⟨⟨rfl, rfl⟩, rfl, by decide, rfl, fun _ h => h⟩

/-! Registers of device units. -/

def selecting (xsel ctx : Nat) : State := { base with ctxs := [(1, { vec := 0x4000, xsel := dw xsel })], ctxsel := dw ctx }

/-- A control block at 0x8400 of an order, and `n` other queues that are registered, besides those of a list. -/
def registering (n order : Nat) (qs : List Queue) : State :=
  { base with sectors := [(0, { queues := List.replicate n { queue0 with cb := 0, pa := 0 } ++ qs })]
              mem := writeCells [] (leCells 0x8608 8 0x8800 ++ leCells 0x8610 8 order ++ leCells 0x8618 8 1) }

/-- Whether the control block of a state is one that can be registered. -/
def valid (s : State) : Bool :=
  ((s.translate false 0x8400).map fun e => e.loc.kind) == some .device && readLe s.mem (0x8400 + 0x208) 8 % 512 == 0 &&
    decide (4 ≤ readLe s.mem (0x8400 + 0x210) 8 % 32) && decide (readLe s.mem (0x8400 + 0x210) 8 % 32 ≤ 20)

theorem witness_DeviceRegisterWriteTakesEffect_free : (registering 0 4 []).qregWaits 0x8400 = false ∧
    (registering 0 4 []).qregWaits 0x8401 = false := ⟨rfl, rfl⟩

theorem witness_DeviceRegisterWriteTakesEffect_held : tableHeld.qregWaits 0x8400 = true ∧ tableHeld.qregWaits 0x8401 = true := ⟨rfl, rfl⟩

theorem witness_DeviceRegisterWriteTakesEffect : (bits (selecting 0x10 1).row.xsel 4 4 = 1 ∧ bits (selecting 0x90 1).row.xsel 4 4 = 9) ∧
    (0x8400 : DWord).toNat / 2 ^ 10 % 2 ^ 42 * 2 ^ 10 = 0x8400 ∧
    (((registering 0 4 []).translate false 0x8400).map fun e => (e.at 0x8400).addr) = some 0x8400 ∧
    ({ base with cores := [] } : State).translate false 0x8400 = none ∧ valid (registering 0 3 []) = false ∧ valid (registering 0 21 []) = false ∧
    valid { registering 0 4 [] with cores := [] } = false ∧
    (∀ order ∈ [4, 20], ∀ n ∈ [0, 63], valid (registering n order []) = true ∧ valid (registering n order [queue0]) = true ∧
      (((registering n order [queue0]).sector 0).queues.filter fun q => q.pa != 0x8400).length = n ∧
      (((registering n order [queue0]).sector 0).queues.find? fun q => q.pa == 0x8400) = some queue0 ∧
      ∀ q ∈ ((registering n order []).sector 0).queues, q.pa ≠ 0x8400) ∧
    64 ≤ (((registering 64 4 [queue0]).sector 0).queues.filter fun q => q.pa != 0x8400).length ∧
    (selecting 0 1).drained 1 = false ∧ (selecting 0 2).drained 2 = true ∧
    (let v : DWord := 0x80 + 0x3FFF80 * 2 ^ 32
     bits v 0 7 = 0 ∧ bits v 22 10 = 0 ∧ bits v 55 9 = 0 ∧ bits v 0 22 + bits v 32 23 ≤ 2 ^ 22) ∧
    (let v : DWord := 0x80 + 0x3FFF81 * 2 ^ 32
     ¬ bits v 0 22 + bits v 32 23 ≤ 2 ^ 22) ∧ ((selecting 0 2).rowAt 2).locked = false ∧ apctlOk 0 = true ∧ apctlOk 1 = false := by decide
/-! Steps and values of the manual's own examples. -/

def after {α : Type} (o : Host.Outcome State Fault Refusal) (f : State → α) : Option α :=
  match o with
  | .next t => some (f t)
  | _ => none

/-- R71's example: s9 holds 0x1000, where `addi s5, s0, #0x1_0000_0000` stands; `jlr s0, s9, #4` retires, and at the extension word MIDINSN
is taken with that address in `ctl.epc` and `ctl.fva`; from 0x1000 the two words run, and the next is at 0x1008. -/
def r71 (pc : DWord) : State :=
  { onWave fun w => { w with pc := pc, s := [(5, 7), (9, 0x1000)] } with mem := writeCells [] (leCells 0x21000 8 0xFF08000002280000) }

theorem test_r71_jlr : after (exec (.jlr 0 9 ⟨4, none⟩) (r71 0x800)) (fun t => (t.w.pc, t.w.jumped, t.getS 0)) = some (0x1004, true, 0) := by decide

theorem test_r71_midinsn : after (step (r71 0x1004)) (fun t => (t.w.cause, t.w.epc, t.w.fva, t.getS 5)) =
    some (5, 0x1004, 0x1004, 7) := by decide

theorem test_r71_addi : after (step (r71 0x1000)) (fun t => (t.getS 5, t.w.pc)) = some (0x100000000, 0x1008) := by decide

/-- R127's example: 1 + 2^-23 times 1 - 2^-23 minus 1 is -2^-46 in one rounding. -/
theorem test_fma_rounds_once :
    after (exec (.fma ⟨false, 0, 1, .v 4, .v 5, .v 6, .v 7, 0x0C0000000⟩)
      (grid fun w => { w with v := [(5 * 16384, 0x3F800001), (6 * 16384, 0x3F7FFFFE), (7 * 16384, 0xBF800000)] }))
      (fun t => t.w.v32 4 0) = some 0xA8800000 := by decide

/-- The example of the manual's accumulator section: states of an entry with anchor 58, chunk sums of 6.0625 and -2.8125, a row scale of
0.5 and a tile scale of 1. -/
def chunk (σ : Word) (e : AccEntry) : AccEntry := e.promote 58 (decodeF 3 σ.toNat) (scaleVal 0x3F000000) (scaleVal 0x3F800000)

theorem test_promote_two_chunks : chunk 0x40C20000 {} = { s := 0x30 } ∧
    chunk 0xC0340000 (chunk 0x40C20000 {}) = { s := 0xFFFFFFFFFFFFFFDA, c := 0x40, t := 0x3F } ∧
    chunk 0xC0340000 {} = { s := 0xFFFFFFFFFFFFFFEA, t := 0x3F } ∧
    chunk 0x40C20000 (chunk 0xC0340000 {}) = { s := 0xFFFFFFFFFFFFFFDA, c := 0x40, t := 0x3F } := by decide

theorem test_merge_and_resolve : (chunk 0x40C20000 {}).rawAdd (chunk 0xC0340000 {}) = { s := 0xFFFFFFFFFFFFFF9A, c := 0x80, t := 0x3F } ∧
    ((chunk 0x40C20000 {}).rawAdd (chunk 0xC0340000 {})).value = 26 ∧
    (((chunk 0x40C20000 {}).rawAdd (chunk 0xC0340000 {})).resolve 58 3 .rne false).bits = 0x3FD00000 := by decide

/-- A word stored where the machine fetches after reset runs there: `addi s1, s0, #5`. -/
theorem test_fetch_after_reset : after (step (State.reset.withFetchWord 32 0x02080005)) (fun t => (t.getS 1, t.w.pc)) = some (5, 4) := by decide

/-! Code objects (R333, R334): a header alone, of level 2 and class 0; one of level 3, of class 2 with another stepping, with a lane section
beyond the object, and with a block of level 0. -/

def object (level cls tag laneSize : Nat) (rest : List Byte) : List Byte :=
  (leCells 0 64 (0x4A424154 + 2 ^ 32 + level * 2 ^ 40 + cls * 2 ^ 48 + tag * 2 ^ 56 + 128 * 2 ^ 192 + laneSize * 2 ^ 256)).map Prod.snd ++ rest

theorem test_loader_checks : State.reset.loaderRefuses 1 [] = some 0 ∧ State.reset.loaderRefuses 1 (object 3 0 0 0 (List.replicate 64 0)) = some 1 ∧
    State.reset.loaderRefuses 1 (object 2 2 0xA2 0 (List.replicate 64 0)) = some 2 ∧
    State.reset.loaderRefuses 1 (object 2 0 0 128 (List.replicate 64 0)) = some 3 ∧
    State.reset.loaderRefuses 1 (object 2 0 0 128 (List.replicate 192 0)) = some 4 ∧
    State.reset.loaderRefuses 1 (object 2 2 0xA1 0 (List.replicate 64 0)) = none := by decide


/-! Further clauses: the youngest byte in an older entry and among the stores under way; rights that a page lacks; full fences; kinds that trap. -/

/-- A younger store beside the byte. -/
def store1 : StoreEntry := { store0 with cells := [(0x40010, 1)] }

def inFlight (e : StoreEntry) : State := base.modCore fun c => { c with inflight := [e] }

theorem witness_ScalarLoadSendsTheBytes_older : (onWave fun w => { w with stq := [store0, store1] }).w.stq = [] ++ store0 :: [store1] ∧
    holdsNot [store1] store0.loc 0x40008 ∧ (onWave fun w => { w with stq := [store0, store1] }).w.buf = [] ∧
    holdsNot (inFlight store0).w.stq store0.loc 0x40008 ∧ (inFlight store0).core.inflight = [] ++ store0 :: [] ∧
    holdsNot [] store0.loc 0x40008 :=
  ⟨rfl, fun e h => by rw [List.mem_singleton.1 h]; decide, rfl, fun e h => absurd (show e ∈ ([] : List StoreEntry) from h) (by simp), rfl, fun e h => absurd h (by simp)⟩

/-- A record at 0x10200 with one entry, whose address is given: misaligned, and on a page that the wave may read and not write. -/
def grouped (addr : Nat) (tlb : List TlbEntry) : State :=
  { base with mem := writeCells [] (leCells 0x40200 8 addr), cores := [(5, { dtlb := page 0x10000 .device 0x40000 :: tlb })] }

def readOnly : TlbEntry := { page 0x24000 .device 0x64000 with w := false }

theorem witness_ScalarAccessTrapsBeforeAnyEffect_rights : (∃ e, barred.maps 0x10008 e ∧ e.permits .atomic false = false) ∧
    (base.getS 4).toNat % 128 = 0 ∧ base.storesAcked = true ∧ (0 < (base.getS 8).toNat ∧ (base.getS 8).toNat ≤ 4) ∧
    ({ base with cores := [] } : State).unmapped (base.getS 4) ∧ (∃ e, barred.maps (base.getS 4) e ∧ e.permits .load false = false) ∧
    (∀ addr ∈ [0x24002, 0x28000, 0x24000], let s := grouped addr [readOnly]
      let l := (page 0x10000 .device 0x40000).at 0x10200
      s.maps (s.getS 4) (page 0x10000 .device 0x40000) ∧ l.kind = .device ∧ (s.fromHome l 128 && !s.missOpen 5 l) = false ∧ s.poisoned l 128 = false ∧
        (cstEntry (BitVec.ofNat 1024 (s.lsLe l l.addr 128)) 0).ok = true ∧ (cstEntry (BitVec.ofNat 1024 (s.lsLe l l.addr 128)) 0).addr = addr ∧
        cstLocs s [] = .ok []) ∧
    0x24002 % 4 ≠ 0 ∧ (grouped 0x28000 [readOnly]).unmapped 0x28000 ∧ (grouped 0x24000 [readOnly]).maps 0x24000 readOnly ∧
    readOnly.permits .store false = false :=
  ⟨⟨_, ⟨rfl, rfl⟩, rfl⟩, by decide, rfl, by decide, ⟨rfl, rfl⟩, ⟨_, ⟨rfl, rfl⟩, rfl⟩, fun addr h => by
    have : addr = 0x24002 ∨ addr = 0x28000 ∨ addr = 0x24000 := by simpa using h
    rcases this with rfl | rfl | rfl <;> exact ⟨⟨rfl, rfl⟩, rfl, rfl, rfl, rfl, rfl, rfl⟩, by decide, ⟨rfl, rfl⟩, ⟨rfl, rfl⟩, rfl⟩

/-- A store of another wave of the core under way: it holds back a full fence of any scope and no release. -/
theorem witness_FenceCompletes_full : base.core.inflight = [] ∧ (inFlight { store0 with wave := 3 }).storesAcked = true ∧
    (inFlight { store0 with wave := 3 }).core.inflight ≠ [] ∧
    (inFlight { store0 with wave := 3 }).lanesWait = .ok () ∧ scatterWait (inFlight { store0 with wave := 3 }) = .ok () :=
  ⟨rfl, rfl, by decide, rfl, rfl⟩

/-- A full fence of core scope evicts the lines that another core's store may have passed by, and an acquire of that scope does not. -/
theorem test_full_fence_evicts : let s := base.modCore fun c => { c with l1 := [(0x40008 / 128, [])], skimBuf := [(0x400, [])] }
    (∃ t, exec (.fence 3 1) s = .next t ∧ t.core.l1 = [] ∧ t.core.skimBuf = []) ∧
    ∃ t, exec (.fence 1 1) s = .next t ∧ t.core.l1 ≠ [] := ⟨⟨_, rfl, rfl, rfl⟩, ⟨_, rfl, by decide⟩⟩

/-- A trap while a push waits for room; its register held 5. -/
theorem witness_TrapEntryFollowsItsSteps_push : (claimed 16).w.pushWait = some { push0 with w := 16 } ∧ push0.d ≠ 0 ∧ (claimed 16).w.sys = false ∧
    (claimed 16).w.trapBusy = false ∧ (claimed 16).row.vec ≠ 0 := ⟨rfl, by decide, rfl, rfl, by decide⟩

/-- A plane whose entry overflows; anchors of one lane that differ between the planes, and within an image. -/
def rounding : State :=
  grid fun w => { w with lq := [.run { run0 with fptrap := 15 }], acc := [(0, { s := 0x40000001 })], anchor := [(0, 511)], lm := [(24 + 18, 1)] }

theorem witness_AccumulatorWords_traps : rounding.regCheck 0x405 accWord false = .ok () ∧ planeReady rounding 0 ∧
    (∀ L ∈ rounding.w.active 1, ∀ e < 64, (rounding.w.entry 0 L e).w = false) ∧
    trappedKinds rounding ((rounding.w.active 1).flatMap fun L => (List.range 64).map fun e =>
      ((rounding.w.entry 0 L e).resolve (rounding.w.anchorOf 0 L) 3 (rndOf accWord) (satOf accWord)).kinds) ≠ 0 ∧
    rounding.regCheck 0x406 { accWord with mods := 0 } false = .ok () ∧ planeReady rounding 1 ∧
    (∃ L ∈ rounding.w.active 1, rounding.w.anchorOf 0 L ≠ rounding.w.anchorOf 1 L) ∧
    lmCheck rounding { lmWord 0 with dst := .a 1, mods := 0 } 1536 false (rounding.w.active 1) = .ok () ∧
    lmEcc rounding.w (rounding.w.active 1) 0 1536 = .ok () ∧
    (∃ L ∈ rounding.w.active 1, ∃ e < 64, (rounding.w.lmImage L 0 e).2 ≠ (rounding.w.lmImage L 0 0).2 ∧
      (rounding.w.lmImage L 0 e).2 ≠ rounding.w.anchorOf 1 L) :=
  ⟨rfl, ⟨by decide, rfl⟩, by decide, by decide, by decide, ⟨by decide, rfl⟩, ⟨0, by decide, by decide⟩, rfl, rfl, ⟨0, by decide, 1, by decide, by decide⟩⟩

/-- `pack` of the greatest binary32 value, which overflows in bf16; random numbers as fractions. -/
theorem witness_RoundedWordWritesAndCounts_packTrap :
    cvtFn 4 3 .rne .rne false 0x7F7FFFFF = .ok ⟨0x7F80, 6⟩ ∧ trappedKinds gTrap [6, 0] ≠ 0 ∧ gTrap.regCheck 0x201 packWord false = .ok () ∧
    dstCheck gTrap packWord.dst (gTrap.w.active 1) = .ok () ∧
    g0.regCheck 0x01E { addWord with a := .v 0, b := .v 0, mods := 0x0C0000000 } false = .ok () ∧
    ({ addWord with a := .v 0, b := .v 0, mods := 0x0C0000000 } : LaneWord).ty = 3 := ⟨rfl, by decide, rfl, rfl, rfl, rfl⟩

/-- `p.mul` of an infinity by 0; a destination with an error in its first byte, of whole bytes and of half bytes, for either choice. -/
def mulWordP : LaneWord := { refoldWord with mods := 0x0C4040000 }

def pTrap : State :=
  { p0 with w := { p0.w with lq := [.run { run0 with fptrap := 15 }], lm := [(2, 0x80), (3, 0x7F)] } }

def badAt (d1 : BitVec 128) : State := { planes d1 with w := { (planes d1).w with lmBad := [512] } }

theorem witness_PlaneWordWritesItsDestination_kinds :
    (fmulFn 3 (planeRnd mulWordP) (planeSat mulWordP) 0x7F800000 0 = .ok ⟨0x7FC00000, 1⟩) ∧ pTrap.w.readElem (pTrap.w.desc 0) 0 0 0 = .ok 0x7F800000 ∧
    pTrap.w.readElem (pTrap.w.desc 1) 0 0 0 = .ok 0 ∧ trappedKinds pTrap [1, 0] ≠ 0 ∧
    (∃ rest, (badAt (desc 512 3 1 1 false)).w.badCells ((badAt (desc 512 3 1 1 false)).w.desc 1) = 512 :: rest) ∧
    nibs ((badAt (desc 512 3 1 1 false)).w.desc 1).fmt ≠ 1 ∧
    (∃ rest, (badAt (desc 512 8 1 1 false)).w.badCells ((badAt (desc 512 8 1 1 false)).w.desc 1) = 512 :: rest) ∧
    nibs ((badAt (desc 512 8 1 1 false)).w.desc 1).fmt = 1 ∧ p0.w.badCells (p0.w.desc 1) = [] ∧
    (Config.freeChoice p0.free = true ∨ Config.freeChoice p0.free = false) :=
  ⟨rfl, rfl, rfl, by decide, ⟨_, rfl⟩, by decide, ⟨_, rfl⟩, by decide, rfl, by cases Config.freeChoice p0.free <;> simp⟩

/-- A trap at a word of a reproducible context: a lane word and two scalar words have issued, and the quantum ends before the next word, after the
last one, or not at all. -/
def inQuantum (ended before : Bool) (lq : List Entry) : State :=
  { inRepro with w := { inRepro.w with qcount := 2, qused := true, qended := ended, qbefore := before, lq := lq } }

theorem witness_QuantumPassesTheTrap : (inQuantum false false [cmd0]).w.sys = false ∧ (0x4000 : DWord) ≠ 0 ∧
    (inQuantum false false [cmd0]).w.qlane = false ∧ (inQuantum false false [cmd0]).committing = false ∧
    (∀ e ∈ (inQuantum false false [cmd0]).w.lq, e.mark ≤ (inQuantum false false [cmd0]).w.qcount) ∧
    (inQuantum false false [cmd0]).w.stepping = false ∧ (inQuantum true true []).w.qbefore = true ∧ (inQuantum true false []).w.qended = true ∧
    (inQuantum true false []).w.qexp = false ∧ (inQuantum true false []).w.leftAside 0 = [] ∧ (inQuantum true false [cmd0]).w.leftAside 0 ≠ [] ∧
    (inQuantum true false [cmd0]).repro = true ∧
    (let w := { (inQuantum true false []).w with qexp := true }
     w.qexp = true ∧ w.qagain = false ∧ { w with qagain := true }.qagain = true) ∧
    (let w := { (inQuantum true false []).w with life := .exiting, qlane := true }
     w.life = .exiting ∧ w.qlane = true) :=
  ⟨rfl, by decide, rfl, rfl, by decide, rfl, rfl, rfl, rfl, rfl, by decide, rfl, ⟨rfl, rfl, rfl⟩, rfl, rfl⟩

/-- Five words stand in a quantum of four that a `qnt` has ended: its count ends it first, and the next one keeps the word behind the fourth and
ends where the `qnt` stood. -/
theorem test_quantum_keeps_what_stands_behind :
    let w := Wave.overrun { base.w with quantum := 4, qcount := 5, qended := true, qexp := true, qused := true }
    w.qagain = true ∧ w.nextQuantum.qcount = 1 ∧ w.nextQuantum.qended = true ∧ w.nextQuantum.qused = true := by decide

/-- A handler entered over a quantum whose lane word stands aside. -/
def overQuantum : State := (inQuantum true false [cmd0]).enterTrap 0 .brk 0 0 0 0x4000

theorem overQuantum_lanesDone : overQuantum.w.lanesDone = true := by decide
theorem overQuantum_sweeps : overQuantum.w.sweeps = [] := rfl

theorem witness_QuantumPassesTheTrap_eret :
    State.lanesWait { overQuantum with w := { overQuantum.w with drop := false, elpc := 0 } } = .ok () := by
  have h1 : ({ overQuantum with w := { overQuantum.w with drop := false, elpc := 0 } } : State).w.lanesDone = true := overQuantum_lanesDone
  have h2 : ({ overQuantum with w := { overQuantum.w with drop := false, elpc := 0 } } : State).w.sweeps = [] := overQuantum_sweeps
  unfold State.lanesWait State.sweepWait
  rw [h1, h2]
  rfl

end Sys2Proof.Tests
end

