-- ==== Sys2Proof/Proofs/KeepsRules.lean ====
section
/-! SUPPORT. What a step keeps of the byte memories and the counters, and how it is shown of an act from its parts. `State.SameMem` speaks of the
memories alone; `State.Keeps` takes the counters with them, so that each operation is gone through once for both. -/

namespace Sys2Proof.Machine

open Sys2Proof

/-- Byte memories in canonical form stay so, and counters within 40 bits stay so. -/
def State.Keeps (s t : State) : Prop := (s.memWf → t.memWf) ∧ (s.countersFit → t.countersFit)

/-- Every value that a part of a meaning gives has the property. -/
def Res.Gives {α : Type} (r : Res α) (P : α → Prop) : Prop := ∀ a, r = .ok a → P a

/-- Where there is a state, it keeps what `s` has. -/
def State.KeptIn (s : State) (o : Option State) : Prop := ∀ t, o = some t → s.Keeps t

/-- What an attempt of an engine gives, where it waits for nothing and meets no fault, has the property. -/
def Through {α : Type} (P : α → Prop) (r : Option (Except Nat α)) : Prop := ∀ a, r = some (.ok a) → P a

/-- Where an act has a next state, that state keeps what `s` has. -/
def State.KeptBy (s : State) (o : Host.Outcome State Fault Refusal) : Prop := ∀ t, o = .next t → s.Keeps t

variable {s t u : State}

/-! The relation. -/

theorem State.Keeps.refl (s : State) : s.Keeps s := ⟨id, id⟩

theorem State.Keeps.trans (h : s.Keeps t) (k : t.Keeps u) : s.Keeps u := ⟨k.1 ∘ h.1, k.2 ∘ h.2⟩

/-- A change that writes none of the six fields. -/
theorem State.Keeps.same (h : s.Keeps t) (e : (u.mem, u.hostMem, u.skim, u.dirty, u.counters, u.thresholds) =
    (t.mem, t.hostMem, t.skim, t.dirty, t.counters, t.thresholds)) : s.Keeps u := by
  simp only [Prod.mk.injEq] at e
  obtain ⟨mem, host, skim, dirty, counters, thresholds⟩ := e
  unfold State.Keeps State.memWf State.countersFit at *
  rw [mem, host, skim, dirty, counters, thresholds]
  exact h

/-- A change of the memories alone. -/
theorem State.Keeps.ofMem (h : s.Keeps t) (m : t.memWf → u.memWf) (e : (u.counters, u.thresholds) = (t.counters, t.thresholds)) :
    s.Keeps u := by
  simp only [Prod.mk.injEq] at e
  obtain ⟨counters, thresholds⟩ := e
  refine ⟨m ∘ h.1, fun k => ?_⟩
  unfold State.countersFit
  rw [counters, thresholds]
  exact h.2 k

theorem State.Keeps.ite {c : Prop} [Decidable c] (ht : s.Keeps t) (hu : s.Keeps u) : s.Keeps (if c then t else u) := by
  split
  · exact ht
  · exact hu

theorem State.Keeps.foldl {α : Type} {f : State → α → State} {l : List α} (h : s.Keeps t)
    (hf : ∀ u a, s.Keeps u → s.Keeps (f u a)) : s.Keeps (l.foldl f t) :=
  foldl_inv f l t h hf

theorem State.Keeps.iteSnd {β : Type} {c : Prop} [Decidable c] {x y : β × State} (hx : s.Keeps x.2) (hy : s.Keeps y.2) :
    s.Keeps (if c then x else y).2 := by
  split
  · exact hx
  · exact hy

theorem State.Keeps.iteFst {β : Type} {c : Prop} [Decidable c] {x y : State × β} (hx : s.Keeps x.1) (hy : s.Keeps y.1) :
    s.Keeps (if c then x else y).1 := by
  split
  · exact hx
  · exact hy

theorem State.Keeps.ofSnd {β : Type} {x : β × State} {b : β} (h : s.Keeps x.2) (e : x = (b, u)) : s.Keeps u := by
  cases e
  exact h

theorem State.Keeps.ofFst {β : Type} {x : State × β} {b : β} (h : s.Keeps x.1) (e : x = (u, b)) : s.Keeps u := by
  cases e
  exact h

/-- A fold that carries a value beside the state. -/
theorem State.Keeps.foldlSnd {α β : Type} {f : β × State → α → β × State} {l : List α} {b : β} (h : s.Keeps t)
    (hf : ∀ p a, s.Keeps p.2 → s.Keeps (f p a).2) : s.Keeps (l.foldl f (b, t)).2 :=
  foldl_inv (P := fun p => s.Keeps p.2) f l (b, t) h hf

/-! Results that may not be there. -/

theorem State.KeptIn.none : s.KeptIn none := by
  intro u hu
  cases hu

theorem State.KeptIn.some (h : s.Keeps t) : s.KeptIn (some t) := by
  intro u hu
  cases hu
  exact h

theorem State.KeptIn.ite {c : Prop} [Decidable c] {o o' : Option State} (h : s.KeptIn o) (h' : s.KeptIn o') :
    s.KeptIn (if c then o else o') := by
  split
  · exact h
  · exact h'

theorem State.KeptIn.map {α : Type} {o : Option α} {f : α → State} (h : ∀ a, s.Keeps (f a)) : s.KeptIn (o.map f) := by
  cases o with
  | none => exact .none
  | some a => exact .some (h a)

theorem State.Keeps.getD {o : Option State} (h : s.Keeps t) (ho : s.KeptIn o) : s.Keeps (o.getD t) := by
  cases o with
  | none => exact h
  | some u => exact ho u rfl

/-! Parts of a meaning. -/

variable {α β : Type} {P : α → Prop} {Q : β → Prop} {r : Res α}

theorem Res.Gives.ok {a : α} (h : P a) : Res.Gives (.ok a) P := by
  intro b hb
  cases hb
  exact h

theorem Res.Gives.error {e : Halt} : Res.Gives (.error e) P := by
  intro b hb
  cases hb

theorem Res.Gives.trap {c : Cause} {fva : DWord} : Res.Gives (trap c fva) P := .error

theorem Res.Gives.ite {c : Prop} [Decidable c] {r' : Res α} (h : r.Gives P) (h' : r'.Gives P) : Res.Gives (if c then r else r') P := by
  split
  · exact h
  · exact h'

/-- A part whose value has a property of its own. -/
theorem Res.Gives.bind {x : Res β} {f : β → Res α} (hx : x.Gives Q) (h : ∀ b, Q b → (f b).Gives P) : Res.Gives (x >>= f) P := by
  intro a ha
  cases x with
  | error e => cases ha
  | ok b => exact h b (hx b rfl) a ha

/-- A check, or a part whose value says nothing of the state. -/
theorem Res.Gives.step {x : Res β} {f : β → Res α} (h : ∀ b, (f b).Gives P) : Res.Gives (x >>= f) P :=
  .bind (Q := fun _ => True) (fun _ _ => trivial) fun b _ => h b

/-- Two checks, of which a condition takes one, before the same rest. -/
theorem Res.Gives.branch {c : Prop} [Decidable c] {x y : Res β} {f : β → Res α} (h : ∀ b, (f b).Gives P) :
    Res.Gives (if c then x >>= f else y >>= f) P :=
  .ite (.step h) (.step h)

theorem Res.Gives.map {x : Res β} {f : β → α} (hx : x.Gives Q) (h : ∀ b, Q b → P (f b)) : Res.Gives (x.map f) P := by
  intro a ha
  cases x with
  | error e => cases ha
  | ok b =>
    cases ha
    exact h b (hx b rfl)

/-! Attempts of an engine. -/

theorem Through.none : Through P none := by
  intro a ha
  cases ha

theorem Through.error {n : Nat} : Through P (some (.error n)) := by
  intro a ha
  cases ha

theorem Through.ok {a : α} (h : P a) : Through P (some (.ok a)) := by
  intro b hb
  cases hb
  exact h

theorem Through.ite {c : Prop} [Decidable c] {x y : Option (Except Nat α)} (hx : Through P x) (hy : Through P y) :
    Through P (if c then x else y) := by
  split
  · exact hx
  · exact hy

/-- An attempt that a fault or a result ends. -/
theorem Through.someIte {c : Prop} [Decidable c] {n : Nat} {a : α} (h : P a) : Through P (some (if c then .error n else .ok a)) := by
  split
  · exact .error
  · exact .ok h

/-! Acts. -/

theorem State.KeptBy.next (h : s.Keeps t) : s.KeptBy (.next t) := by
  intro u hu
  cases hu
  exact h

theorem State.KeptBy.stay : s.KeptBy (.next s) := .next (.refl s)

theorem State.KeptBy.fault {f : Fault} : s.KeptBy (.fault f) := by
  intro u hu
  cases hu

theorem State.KeptBy.ite {c : Prop} [Decidable c] {o o' : Host.Outcome State Fault Refusal} (h : s.KeptBy o) (h' : s.KeptBy o') :
    s.KeptBy (if c then o else o') := by
  split
  · exact h
  · exact h'

/-- An act of a state that keeps what `s` has. -/
theorem State.KeptBy.after {o : Host.Outcome State Fault Refusal} (h : s.Keeps t) (k : t.KeptBy o) : s.KeptBy o :=
  fun u hu => h.trans (k u hu)

end Sys2Proof.Machine
end

