-- ==== Sys2Proof/Proofs/KeepsOps.lean ====
section
/-! SUPPORT. The shared operations of Machine/Ops.lean and Machine/Operands.lean keep the memories and the counters. -/

namespace Sys2Proof.Machine

open Sys2Proof

variable {s t : State}

/-! Updates of one part. -/

theorem State.Keeps.modW {f} (h : s.Keeps t) : s.Keeps (t.modW f) := h
theorem State.Keeps.modCoreAt {n f} (h : s.Keeps t) : s.Keeps (t.modCoreAt n f) := h.same rfl
theorem State.Keeps.modCore {f} (h : s.Keeps t) : s.Keeps (t.modCore f) := h.modCoreAt
theorem State.Keeps.modSector {n f} (h : s.Keeps t) : s.Keeps (t.modSector n f) := h.same rfl
theorem State.Keeps.modRow {n f} (h : s.Keeps t) : s.Keeps (t.modRow n f) := h.same rfl
theorem State.Keeps.emit {a b c p} (h : s.Keeps t) : s.Keeps (t.emit a b c p) := h.same rfl
theorem State.Keeps.emitSector {a b p} (h : s.Keeps t) : s.Keeps (t.emitSector a b p) := h.emit
theorem State.Keeps.setS {d v} (h : s.Keeps t) : s.Keeps (t.setS d v) := h.modW
theorem State.Keeps.sendS {d v} (h : s.Keeps t) : s.Keeps (t.sendS d v) := h.modW

theorem State.Keeps.setWave {n w} (h : s.Keeps t) : s.Keeps (t.setWave n w) := .ite (h.same rfl) (h.same rfl)

theorem State.Keeps.modWave {n f} (h : s.Keeps t) : s.Keeps (t.modWave n f) := h.setWave

theorem State.Keeps.focus {n} (h : s.Keeps t) : s.Keeps (t.focus n) := .ite h (h.same rfl)

/-! Updates of a field by no named operation, where the state before it is a long term. -/

theorem State.Keeps.setNextId {n} (h : s.Keeps t) : s.Keeps { t with nextId := n } := h.same rfl
theorem State.Keeps.setTasks {l} (h : s.Keeps t) : s.Keeps { t with tasks := l } := h.same rfl

/-! Exception counters (R104, R109). -/

/-- A counter holds at most 2^40 - 1, whatever is added (R104). -/
theorem State.countersFit_count (s : State) (k n : Nat) (h : s.countersFit) : (s.count k n).countersFit := by
  have hc : (s.count k n).counters = put 0 s.counters k (min (look 0 s.counters k + n) cntMax) := by
    unfold State.count
    extract_lets
    split <;> rfl
  have ht : (s.count k n).thresholds = s.thresholds := by
    unfold State.count
    extract_lets
    split <;> rfl
  refine ⟨fun j => ?_, fun j => ht ▸ h.2 j⟩
  rw [hc, look_put]
  split
  · have : cntMax < 2 ^ 40 := by decide
    omega
  · exact h.1 j

theorem State.Keeps.count {k n} (h : s.Keeps t) : s.Keeps (t.count k n) :=
  h.trans ⟨(State.SameMem.count t k n).wf, State.countersFit_count t k n⟩

theorem State.Keeps.countAll {l : List (Nat × Nat)} (h : s.Keeps t) : s.Keeps (l.foldl (fun s e => s.count e.1 e.2) t) :=
  h.foldl fun _ _ h => h.count

theorem State.Keeps.deliver (h : s.Keeps t) : s.Keeps t.deliver := h.countAll.modW

theorem State.Keeps.deliverCore {core} (h : s.Keeps t) : s.Keeps (t.deliverCore core) :=
  h.foldl fun _ _ h => .ite h.countAll.modWave h

/-- Clearing a counter (R108). -/
theorem State.Keeps.clearCounter {k} (h : s.Keeps t) : s.Keeps { t with counters := put 0 t.counters k 0 } := by
  refine ⟨h.1, fun hs => ⟨fun j => ?_, (h.2 hs).2⟩⟩
  show look 0 (put 0 t.counters k 0) j < 2 ^ 40
  rw [look_put]
  split
  · exact Nat.two_pow_pos 40
  · exact (h.2 hs).1 j

/-- Setting a threshold (R110). -/
theorem State.Keeps.setThreshold {k v} (h : s.Keeps t) : s.Keeps { t with thresholds := put 0 t.thresholds k (bits v 0 40) } := by
  refine ⟨h.1, fun hs => ⟨(h.2 hs).1, fun j => ?_⟩⟩
  show look 0 (put 0 t.thresholds k (bits v 0 40)) j < 2 ^ 40
  rw [look_put]
  split
  · exact Nat.mod_lt _ (Nat.two_pow_pos 40)
  · exact (h.2 hs).2 j

/-! Free choices. -/

theorem State.Keeps.choose (h : s.Keeps t) : s.Keeps t.choose.2 := h.same rfl
theorem State.Keeps.passCycles (h : s.Keeps t) : s.Keeps t.passCycles.2 := .modCore (h.same rfl)
theorem State.Keeps.pick {n} (h : s.Keeps t) : s.Keeps (t.pick n).2 := h.same rfl

theorem State.Keeps.outside {n} (h : s.Keeps t) : s.Keeps (t.outside n).2 := by
  induction n generalizing t with
  | zero => exact h
  | succ n ih => exact ih (h.same rfl)

/-! Traps and the end of a scalar instruction. -/

theorem State.Keeps.killWave {n} (h : s.Keeps t) : s.Keeps (t.killWave n) := h.modWave.modCoreAt
theorem State.Keeps.retireCores (h : s.Keeps t) : s.Keeps t.retireCores := h.same rfl

theorem State.Keeps.killCrew {id c1 c2 epc elpc} (h : s.Keeps t) : s.Keeps (t.killCrew id c1 c2 epc elpc) := by
  unfold State.killCrew
  split
  · exact h.modW.retireCores
  · next c _ =>
    have hw : s.Keeps (c.waves.foldl State.killWave t) := h.foldl fun _ _ h => h.killWave
    exact .emitSector (.retireCores (hw.same rfl))

theorem State.Keeps.untakeSweep (h : s.Keeps t) : s.Keeps t.untakeSweep := .ite h.modCore.modW h

theorem State.Keeps.enterTrap {kind c fva at' word vec} (h : s.Keeps t) : s.Keeps (t.enterTrap kind c fva at' word vec) := by
  have hu := h.untakeSweep
  unfold State.enterTrap
  extract_lets u w scalar w0 w1 w2 w3 x
  have hx : s.Keeps x := .modCore (hu.same rfl)
  exact .ite hu.killCrew (.ite hx.killCrew hx.modW.modW)

theorem State.Keeps.endsWalks {c va} (h : s.Keeps t) : s.Keeps (t.endsWalks c va) := .ite h.modCore h

theorem State.Keeps.raise {kind c fva at' word} (h : s.Keeps t) : s.Keeps (t.raise kind c fva at' word) :=
  .ite h.endsWalks.modW h.endsWalks.enterTrap

theorem State.Keeps.setEngine {a b} (h : s.Keeps t) : s.Keeps (t.setEngine a b) := h.modW
theorem State.Keeps.dropSweep {k} (h : s.Keeps t) : s.Keeps (t.dropSweep k) := h.modW
theorem State.Keeps.stall (h : s.Keeps t) : s.Keeps t.stall := h.modW
theorem State.Keeps.endQuantum (h : s.Keeps t) : s.Keeps t.endQuantum := h.modW
theorem State.Keeps.endQuantumLane {more} (h : s.Keeps t) : s.Keeps (t.endQuantumLane more) := h.modW
theorem State.Keeps.advance {n} (h : s.Keeps t) : s.Keeps (t.advance n) := h.modW
theorem State.Keeps.jump {a} (h : s.Keeps t) : s.Keeps (t.jump a) := h.modW
theorem State.Keeps.retire (h : s.Keeps t) : s.Keeps t.retire := .ite h.modW.raise h.modW

theorem State.KeptBy.finish {r : Res State} (h : r.Gives s.Keeps) : s.KeptBy (finish s r) :=
  match r with
  | .ok t => .next (h t rfl).retire
  | .error (.trap ..) => .next (.raise (.refl s))
  | .error (.engine ..) => .next (.raise (.setEngine (.refl s)))
  | .error (.chunk ..) => .next (.raise (.dropSweep (.refl s)))
  | .error .wait => .next (.stall (.refl s))
  | .error (.entries _) => .next (.stall (.refl s))
  | .error .commit => .next (.stall (.modW (.refl s)))

theorem State.KeptBy.finishSeq {len} {r : Res State} (h : r.Gives s.Keeps) : s.KeptBy (finishSeq len s r) :=
  .finish (h.map fun _ h => h.advance)

/-- A device step whose checks may refuse it. -/
theorem State.KeptBy.event {r : Res State} (h : r.Gives s.Keeps) : s.KeptBy (event s r) :=
  match r with
  | .ok t => .next (h t rfl)
  | .error _ => .stay

end Sys2Proof.Machine
end

