-- ==== Sys2Proof/Proofs/KeepsMemory.lean ====
section
/-! SUPPORT. Translation, packets, caches and the operations at the homes keep the memories and the counters (Machine/Mem.lean). -/

namespace Sys2Proof.Machine

open Sys2Proof

variable {s t : State}

/-! Packets and walks. -/

theorem State.Keeps.setFlow {f} (h : s.Keeps t) : s.Keeps (t.setFlow f) := h.same rfl
theorem State.Keeps.send {cls src dst p} (h : s.Keeps t) : s.Keeps (t.send cls src dst p) := h.setFlow
theorem State.Keeps.pass {cls src dst} (h : s.Keeps t) : s.Keeps (t.pass cls src dst) := .ite h.setFlow (h.same rfl)
theorem State.Keeps.trip {src dst} (h : s.Keeps t) : s.Keeps (t.trip src dst) := h.pass.pass
theorem State.Keeps.writeTrip {src dst} (h : s.Keeps t) : s.Keeps (t.writeTrip src dst) := h.pass.pass
theorem State.Keeps.exchange {w src dst} (h : s.Keeps t) : s.Keeps (t.exchange w src dst) := .ite h.writeTrip h.trip

theorem State.Keeps.exchangeAt {w unit l} (h : s.Keeps t) : s.Keeps (t.exchangeAt w unit l) := by
  unfold State.exchangeAt
  split
  · exact h.exchange
  · exact h.exchange
  · exact h

theorem State.Keeps.atomTrip {core l} (h : s.Keeps t) : s.Keeps (t.atomTrip core l) := h.exchangeAt
theorem State.Keeps.storeTrip {core l} (h : s.Keeps t) : s.Keeps (t.storeTrip core l) := h.exchangeAt
theorem State.Keeps.missTrip {core l} (h : s.Keeps t) : s.Keeps (t.missTrip core l) := h.trip

theorem State.Keeps.notifyQueues {line} (h : s.Keeps t) : s.Keeps (t.notifyQueues line) :=
  h.foldl fun _ _ h => h.foldl fun _ _ h => h.pass

theorem State.Keeps.walkTrips {n root va} (h : s.Keeps t) : s.Keeps (t.walkTrips n root va) :=
  .ite h (h.foldl fun _ _ h => h.trip)

/-- A packet that is delivered. -/
theorem State.Keeps.deliverFrom {f : Flow} {p : Packet} {u : State} (h : s.Keeps t) (hu : t.deliverFrom f = some (p, u)) : s.Keeps u := by
  obtain ⟨x, -, e⟩ := Option.map_eq_some_iff.1 hu
  obtain ⟨-, rfl⟩ := Prod.mk.inj e
  split
  · exact h.setFlow.setFlow
  · exact h.setFlow

theorem State.Keeps.take {f : Flow} {p : Packet} (h : s.Keeps t) : s.KeptIn (t.take f p) := by
  intro u hu
  obtain ⟨⟨q, v⟩, hd, hq⟩ := Option.bind_eq_some_iff.1 hu
  split at hq
  · cases hq
    exact h.deliverFrom hd
  · cases hq

/-! Translation buffers and caches. -/

theorem State.Keeps.seeAt {sector e} (h : s.Keeps t) : s.Keeps (t.seeAt sector e) := h.modSector

theorem State.Keeps.fillTlbAt {core code e} (h : s.Keeps t) : s.Keeps (t.fillTlbAt core code e) := h.modCoreAt.modSector.seeAt

theorem State.Keeps.endWalk {core f} (h : s.Keeps t) : s.Keeps (t.endWalk core f) := by
  unfold State.endWalk
  extract_lets same u
  have hu : s.Keeps u := h.walkTrips
  split
  · exact hu.modCoreAt
  · exact hu.fillTlbAt.modCoreAt

theorem State.Keeps.touchTlb {code va} (h : s.Keeps t) : s.Keeps (t.touchTlb code va) := by
  unfold State.touchTlb
  extract_lets u
  have hu : s.Keeps u := by
    refine .ite ?_ h
    split
    · exact h.endWalk
    · exact h.walkTrips
  split
  · exact hu.fillTlbAt
  · exact hu

theorem State.Keeps.setVec {home line sector} (h : s.Keeps t) : s.Keeps (t.setVec home line sector) := h.same rfl

theorem State.Keeps.sendCopy {core l} (h : s.Keeps t) : s.Keeps (t.sendCopy core l) :=
  .ite h (.ite (.setVec (.send (h.same rfl))) h)

theorem State.Keeps.l1Room {core k} (h : s.Keeps t) : s.Keeps (t.l1Room core k) := by
  unfold State.l1Room
  extract_lets c ws
  refine .ite h (.ite h ?_)
  dsimp only
  split
  · exact h.pick.modCoreAt
  · exact h.pick.modCoreAt
  · exact h.pick

theorem State.Keeps.fillL1 {l} (h : s.Keeps t) : s.Keeps (t.fillL1 l) := .ite h.missTrip.l1Room.modCore.sendCopy h

theorem State.Keeps.roTake {core l u} (h : s.Keeps t) : s.Keeps (t.roTake core l u) := by
  have hr : s.Keeps (if ((t.missTrip core l).coreAt core).ro.contains u then t.missTrip core l else (t.missTrip core l).l1Room core u) :=
    .ite h.missTrip h.missTrip.l1Room
  exact hr.modCoreAt.modSector.setVec.sendCopy

theorem State.Keeps.roTouch {l} (h : s.Keeps t) : s.Keeps (t.roTouch l) := by
  unfold State.roTouch
  exact .ite h (.ite h.modCore h.roTake)

theorem State.Keeps.touchCode {va} (h : s.Keeps t) : s.Keeps (t.touchCode va) := by
  unfold State.touchCode
  split
  · exact h
  · exact .ite h.touchTlb.missTrip.modCore (.ite h.touchTlb.atomTrip h.touchTlb)

theorem State.Keeps.fillSkim {k} (h : s.Keeps t) : s.Keeps (t.fillSkim k) := .ite h h.modCore

theorem State.Keeps.invalidate {line} (h : s.Keeps t) : s.Keeps (t.invalidate line) := by
  unfold State.invalidate
  extract_lets drop1 home u v
  have hu : s.Keeps u := h.foldl fun _ _ h => h.pass.pass
  have hv : s.Keeps v := hu.foldl fun _ _ h => h.modCoreAt
  exact hv.same rfl

theorem State.Keeps.dropL1 {core cells} (h : s.Keeps t) : s.Keeps (t.dropL1 core cells) := h.modCoreAt

theorem State.Keeps.dropLines {cores lines} (h : s.Keeps t) : s.Keeps (t.dropLines cores lines) := h.foldl fun _ _ h => h.modCoreAt

theorem State.Keeps.ageBuffers {lines} (h : s.Keeps t) : s.Keeps (t.ageBuffers lines) := h.same rfl

theorem State.Keeps.acquire {scope} (h : s.Keeps t) : s.Keeps (t.acquire scope) := .ite h.modCore h
theorem State.Keeps.release {scope} (h : s.Keeps t) : s.Keeps (t.release scope) := .ite h.deliverCore h
theorem State.Keeps.freshen (h : s.Keeps t) : s.Keeps t.freshen := h.modCore

/-! Writes. -/

theorem State.Keeps.perform {cells} (h : s.Keeps t) : s.Keeps (t.perform cells) := h.ofMem (t.memWf_perform cells) rfl

theorem State.Keeps.writeHome {cells} (h : s.Keeps t) : s.Keeps (t.writeHome cells) :=
  .perform (h.foldl fun _ _ h => h.invalidate.notifyQueues)

theorem State.Keeps.writeFrom {core cells} (h : s.Keeps t) : s.Keeps (t.writeFrom core cells) := h.writeHome.dropL1

theorem State.Keeps.writeHost {cells} (h : s.Keeps t) : s.Keeps { t with hostMem := writeCells t.hostMem cells } :=
  h.ofMem (t.memWf_setHostMem cells) rfl

theorem State.Keeps.writeSkim {cells} (h : s.Keeps t) : s.Keeps (t.writeSkim cells) := h.ofMem (t.memWf_writeSkim cells) rfl

theorem State.Keeps.engineWrite {core l cs} (h : s.Keeps t) : s.Keeps (t.engineWrite core l cs) := by
  unfold State.engineWrite
  split
  · exact h.writeFrom.modCoreAt
  · exact h.writeHost
  · exact h

theorem State.Keeps.atomHome {core l n f} (h : s.Keeps t) : s.Keeps (t.atomHome core l n f).2 := by
  unfold State.atomHome
  dsimp only
  split
  · exact h.atomTrip.writeFrom
  · exact h.atomTrip.dropL1

theorem State.Keeps.atomHost {core l n f} (h : s.Keeps t) : s.Keeps (t.atomHost core l n f).2 := by
  unfold State.atomHost
  dsimp only
  split
  · exact h.atomTrip.writeHost
  · exact h.atomTrip

/-! Loads and stores of a wave. -/

theorem State.Keeps.dropStore {dev addr} (h : s.Keeps t) : s.Keeps (t.dropStore dev addr) := h.emit

theorem State.Keeps.peerFrom {w unit dev} (h : s.Keeps t) : s.Keeps (t.peerFrom w unit dev).2 := by
  unfold State.peerFrom
  split
  · exact h.exchange.choose
  · exact h

theorem State.Keeps.peerFails {dev} (h : s.Keeps t) : s.Keeps (t.peerFails dev).2 := h.peerFrom
theorem State.Keeps.peerRefuses {dev} (h : s.Keeps t) : s.Keeps (t.peerRefuses dev).2 := h.peerFrom

theorem State.Keeps.load {va l n} (h : s.Keeps t) : (t.load va l n).Gives fun r => s.Keeps r.2 := by
  unfold State.load
  cases l.kind with
  | peer => exact .ite (.ok h.touchTlb) (.ite .trap (.ok h.peerFails.outside.touchTlb))
  | device | host => exact .ite .error (.ite .trap (.ok (.ite h.touchTlb.fillL1 (.ite h.touchTlb.atomTrip h.touchTlb))))

theorem State.Keeps.enqueue {l cells} (h : s.Keeps t) : s.Keeps (t.enqueue l cells) := h.same rfl

theorem State.Keeps.bufferAt {fresh items} (h : s.Keeps t) : (t.bufferAt fresh items).Gives s.Keeps :=
  .ite (.ok h.modW) (.ite .trap .error)

theorem State.Keeps.buffer {items} (h : s.Keeps t) : (t.buffer items).Gives s.Keeps := h.bufferAt
theorem State.Keeps.laneBuffer {items} (h : s.Keeps t) : (t.laneBuffer items).Gives s.Keeps := h.bufferAt

theorem State.Keeps.store {va l n v} (h : s.Keeps t) : (t.store va l n v).Gives s.Keeps :=
  .ite (h.buffer.map fun _ h => h.touchTlb) (.ite (.ok h.enqueue.touchTlb) .error)

end Sys2Proof.Machine
end

