-- ==== Sys2Proof/Proofs/KeepsWords.lean ====
section
/-! SUPPORT. How lane words, lane commands and scalar instructions end, and the words and instructions of a wave, by the shared meaning of each
kind, keep the memories and the counters. -/

namespace Sys2Proof.Machine

open Sys2Proof

variable {s t : State}

/-! How a lane word and a lane command end. -/

theorem State.Keeps.swapPoint (h : s.Keeps t) : s.Keeps t.swapPoint := by
  unfold State.swapPoint
  split
  · split
    · exact .ite h h.modCore.modW
    · exact h
  · exact h

theorem State.Keeps.parkDone {target word} (h : s.Keeps t) : s.Keeps (t.parkDone target word) := by
  unfold State.parkDone
  extract_lets e u
  have hu : s.Keeps u := h.modW
  clear_value e u
  split
  · exact hu.raise
  · exact .ite hu.modW hu.swapPoint

theorem State.Keeps.laneStepped (h : s.Keeps t) : s.Keeps t.laneStepped := .ite h.raise h

theorem State.Keeps.laneNext {mark} (h : s.Keeps t) : s.Keeps (t.laneNext mark) := by
  unfold State.laneNext
  extract_lets target word u v
  have hu : s.Keeps u := h.modW
  have hv : s.Keeps v := .ite (.ite hu.parkDone hu.modW) hu.modW
  exact hv.laneStepped

theorem State.Keeps.askEntries {n} (h : s.Keeps t) : s.Keeps (t.askEntries n) := h.modW.modCore

theorem State.KeptBy.finishLane {mark} {r : Res State} (h : r.Gives s.Keeps) : s.KeptBy (finishLane mark s r) :=
  match r with
  | .ok t => .next (h t rfl).laneNext
  | .error (.trap ..) => .next (.raise (.refl s))
  | .error (.engine ..) => .next (.raise (.setEngine (.refl s)))
  | .error (.chunk ..) => .next (.raise (.dropSweep (.refl s)))
  | .error (.entries _) => .next (.askEntries (.refl s))
  | .error .wait => .next (.modW (.refl s))
  | .error .commit => .next (.endQuantumLane (.refl s))

theorem State.KeptBy.finishCmd {r : Res State} (h : r.Gives s.Keeps) : s.KeptBy (finishCmd s r) :=
  match r with
  | .ok t => .next (.ite (.raise (.modW (h t rfl))) (.modW (h t rfl)))
  | .error (.trap ..) => .next (.raise (.refl s))
  | .error (.engine ..) => .next (.raise (.setEngine (.refl s)))
  | .error (.chunk ..) => .next (.raise (.dropSweep (.refl s)))
  | .error (.entries _) => .next (.askEntries (.refl s))
  | .error .wait => .next (.modW (.refl s))
  | .error .commit => .next (.endQuantumLane (.refl s))

/-! Lane words that compute. -/

theorem State.Keeps.writeDst {d unchecked es} (h : s.Keeps t) : s.Keeps (t.writeDst d unchecked es) := by
  unfold State.writeDst
  split
  · exact .ite h.modW h.modW
  · exact h.modW
  · exact h

theorem keptBy_elementwise {op w tyA fmt unchecked f} : s.KeptBy (elementwise op w tyA fmt unchecked f s) :=
  .finishLane <| .step fun _ => .step fun _ => .step fun _ => .step fun _ => .step fun _ =>
    have h := (State.Keeps.refl s).modW.writeDst
    .ok (.ite h h.modW)

theorem keeps_halfWrite {p h es} (k : s.Keeps t) : s.Keeps (halfWrite p h es t) := .ite k.writeDst k.writeDst.modW

theorem keptBy_pairWord {mark xop x yop y} : s.KeptBy (pairWord mark xop x yop y s) :=
  .finishLane <| .step fun _ => .step fun _ => .step fun _ => .step fun _ => .step fun _ => .step fun _ => .step fun _ =>
    .ok (keeps_halfWrite (keeps_halfWrite (.refl s)))

theorem keptBy_maskWord {op w f} : s.KeptBy (maskWord op w f s) := by
  refine .finishLane <| .step fun _ => .step fun _ => ?_
  dsimp only
  split
  · exact .ok (.modW (.modW (.refl s)))
  · exact .ok (.modW (.refl s))

theorem keptBy_identWord {op w f} : s.KeptBy (identWord op w f s) :=
  .finishLane <| .step fun _ => .step fun _ => .ok (.writeDst (.refl s))

/-! Plane words. -/

theorem State.Keeps.someCells {d es} (h : s.Keeps t) : s.Keeps (t.someCells d es) := h.foldl fun _ _ h => .ite h.choose.modW h.choose

theorem State.Keeps.writeEcc {d} (h : s.Keeps t) : s.Keeps (t.writeEcc d).2 := by
  unfold State.writeEcc
  split
  · exact h
  · split
    · exact h
    · exact h.choose

theorem keptBy_planeWord {lw p} : s.KeptBy (planeWord lw p s) := by
  unfold planeWord
  split
  · exact .next (.raise (.someCells (.refl s)))
  · exact .finishLane .error
  · have h : s.Keeps (s.writeEcc p.dst).2 := .writeEcc (.refl s)
    generalize s.writeEcc p.dst = x at h ⊢
    obtain ⟨_ | off, t⟩ := x
    · exact .finishLane (.ok (.ite h.modW h.modW.modW))
    · exact .next h.someCells.raise

theorem keptBy_foldWord {f fl w} : s.KeptBy (foldWord f fl w s) := keptBy_planeWord
theorem keptBy_planeArith {srcs f counts w} : s.KeptBy (planeArith srcs f counts w s) := keptBy_planeWord

theorem keptBy_execPack {w} : s.KeptBy (execPack w s) := by
  refine .finishLane ?_
  repeat refine .step fun _ => ?_
  exact .ok (.modW (.writeDst (.refl s)))

theorem keptBy_execUnpack {w} : s.KeptBy (execUnpack w s) := by
  refine .finishLane ?_
  repeat refine .step fun _ => ?_
  exact .ok (.modW (.refl s))

theorem keptBy_execRng {w} : s.KeptBy (execRng w s) := by
  refine .finishLane ?_
  repeat refine .step fun _ => ?_
  exact .ok (.writeDst (.modW (.refl s)))

theorem keptBy_execRdx {w} : s.KeptBy (execRdx w s) := by
  refine .finishLane ?_
  repeat refine .step fun _ => ?_
  exact .ok (.writeDst (.modW (.refl s)))

theorem keptBy_execWrx {w} : s.KeptBy (execWrx w s) := by
  refine .finishLane ?_
  repeat refine .step fun _ => ?_
  exact .ok (.modW (.refl s))

/-! Accumulators (R160 to R183). -/

theorem keptBy_dotWord {op w f} : s.KeptBy (dotWord op w f s) :=
  .finishLane <| .step fun _ => .step fun _ => .branch fun _ => .ok (.modW (.refl s))

theorem keptBy_execSpack {w} : s.KeptBy (execSpack w s) := .finishLane <| .step fun _ => .ok (.modW (.refl s))

theorem keptBy_execResolve {w} : s.KeptBy (execResolve w s) := by
  refine .finishLane <| .step fun _ => .branch fun _ => ?_
  repeat refine .step fun _ => ?_
  exact .ok (.modW (.refl s))

theorem keptBy_execAccCmp {w} : s.KeptBy (execAccCmp w s) :=
  .finishLane <| .step fun _ => .step fun _ => .branch fun _ => .step fun _ => .ok (.modW (.refl s))

theorem keptBy_execAccFlags {w} : s.KeptBy (execAccFlags w s) :=
  .finishLane <| .step fun _ => .step fun _ => .ok (.modW (.refl s))

theorem keptBy_execAccSave {w} : s.KeptBy (execAccSave w s) :=
  .finishLane <| .step fun _ => .step fun _ => .step fun _ => .ok (.modW (.refl s))

theorem keptBy_execAccLoad {w} : s.KeptBy (execAccLoad w s) := by
  refine .finishLane ?_
  repeat refine .step fun _ => ?_
  exact .ok (.modW (.refl s))

theorem keptBy_execAccMerge {w} : s.KeptBy (execAccMerge w s) :=
  .finishLane <| .step fun _ => .branch fun _ => .step fun _ => .branch fun _ => .step fun _ => .ok (.modW (.refl s))

/-! Lane commands. -/

theorem State.Keeps.enqueueCmd {i c} (h : s.Keeps t) : (t.enqueueCmd i c).Gives s.Keeps := .step fun _ => .ok h.modW

theorem keeps_descWork {c} (h : s.Keeps t) : (descWork t c).Gives s.Keeps := by
  cases c with
  | dLd n va l => exact .bind h.load fun _ h => .ok h.modW
  | dSt n l => exact .ite h.laneBuffer (.step fun _ => .ok h.enqueue)
  | dMov n m => exact .ok h.modW
  | dSet n f v => exact .ok h.modW
  | accClr _ | accAnc _ _ | copy _ | srBind _ _ _ _ | srStop _ | rngReset => exact .error

theorem keptBy_execDescriptorCommandApply : s.KeptBy (execDescriptorCommandApply s) := by
  unfold execDescriptorCommandApply
  split
  · split
    · exact .finishCmd (keeps_descWork (.refl s))
    · exact .finishCmd (keeps_descWork (.refl s))
    · exact .finishCmd (keeps_descWork (.refl s))
    · exact .finishCmd (keeps_descWork (.refl s))
    · exact .stay
  · exact .stay

theorem keptBy_execAccControlApply : s.KeptBy (execAccControlApply s) := by
  unfold execAccControlApply
  split
  · exact .finishCmd (.step fun _ => .ok (.modW (.refl s)))
  · exact .finishCmd (.step fun _ => .ok (.modW (.refl s)))
  · exact .stay

/-! Sweeps (R175 to R177). -/

theorem State.Keeps.takeEntries {es} (h : s.Keeps t) : (t.takeEntries es).Gives s.Keeps :=
  .ite (.ok h) (.ite (.ok h.modW.modCore) (.ite (.ok h.modCore) .error))

theorem State.Keeps.freeSweep {x} (h : s.Keeps t) : s.Keeps (t.freeSweep x) := h.modCore

theorem keptBy_sweepWord {sp op w} : s.KeptBy (sweepWord sp op w s) := by
  unfold sweepWord
  extract_lets p num da db ds dm xs op' isCopy es merged recorded
  have hr : recorded.Gives s.Keeps :=
    .step fun _ => .step fun _ => .step fun _ => .ite (.ok (.refl s)) (.bind (State.Keeps.refl s).takeEntries fun _ h => .ok h.modW.modCore)
  clear_value recorded
  split
  · exact .finishLane .error
  · next t =>
    have ht : s.Keeps t := hr t rfl
    dsimp only
    split
    · exact .finishLane (.ok ht.modW)
    · exact .next ht.modW
    · exact .after ht.untakeSweep (.finishLane .error)

theorem keptBy_execBoundSweepStart : s.KeptBy (execBoundSweepStart s) := by
  unfold execBoundSweepStart
  split
  · exact .stay
  · dsimp only
    split
    · exact .next (.freeSweep (.modW (.refl s)))
    · exact .next (.modW (.refl s))

theorem keptBy_execSweepComplete {k} : s.KeptBy (execSweepComplete k s) := by
  unfold execSweepComplete
  split
  · exact .stay
  · exact .ite .stay (.next (.modW (.freeSweep (.dropSweep (.modW (.refl s))))))

/-! Integer instructions, branches and immediate forms (R63 to R71). -/

theorem keptBy_finishSeq_setS {len d v} : s.KeptBy (finishSeq len s (.ok (s.setS d v))) := .finishSeq (.ok (.setS (.refl s)))

theorem keptBy_division {f d a b} : s.KeptBy (division f d a b s) := .finishSeq (.step fun _ => .ok (.setS (.refl s)))

theorem keptBy_branch {c a b o} : s.KeptBy (branch c a b o s) := .finish (.ok (.ite (.jump (.refl s)) (.advance (.refl s))))

/-! Registers of the device that an instruction or a step writes (R84, R110, R263, R292, R366). -/

theorem State.Keeps.setXthr {v} (h : s.Keeps t) : (t.setXthr v).Gives s.Keeps := .step fun _ => .ok h.setThreshold
theorem State.Keeps.setCtxctl {v} (h : s.Keeps t) : s.Keeps (t.setCtxctl v) := h.modRow
theorem State.Keeps.setFqval {v} (h : s.Keeps t) : s.Keeps (t.setFqval v) := h.modRow
theorem State.Keeps.setCtxskim {v} (h : s.Keeps t) : (t.setCtxskim v).Gives s.Keeps := .step fun _ => .ok (.ite h.modRow h)
theorem State.Keeps.setApctl {v} (h : s.Keeps t) : (t.setApctl v).Gives s.Keeps := .step fun _ => .ok (h.same rfl)

theorem State.Keeps.setQreg {v} (h : s.Keeps t) : s.Keeps (t.setQreg v) := by
  unfold State.setQreg
  extract_lets cb n place pa u old f x home q
  have hu : s.Keeps u := h.touchTlb
  have hx : s.Keeps x := hu.getD (.map fun _ => .ite hu.trip hu)
  exact .ite hu.modSector (.ite hx.modSector hx.emitSector)

theorem keeps_csrSet {c v} (h : s.Keeps t) : (csrSet t c v).Gives s.Keeps := by
  unfold csrSet
  split
  case h_13 | h_15 => exact .ok h.modRow
  case h_14 => exact h.setXthr
  case h_16 => exact .step fun _ => .ok h.setQreg
  case h_17 | h_20 | h_27 => exact .ok (h.same rfl)
  case h_18 => exact .ok h.setCtxctl
  case h_19 => exact .ok h.modSector
  case h_21 => exact .ok h.setFqval
  case h_22 | h_24 | h_25 | h_26 => exact .step fun _ => .ok h.modRow
  case h_23 => exact h.setCtxskim
  case h_28 => exact h.setApctl
  case h_29 => exact .ok (.ite h.modW h)
  all_goals exact .ok h.modW

theorem keptBy_execCsrw {a c} : s.KeptBy (execCsrw a c s) := .finishSeq (.step fun _ => keeps_csrSet (.refl s))

theorem keptBy_execXcnt {d k f} : s.KeptBy (execXcnt d k f s) := .finishSeq (.step fun _ => .ok (.setS (.deliver (.refl s))))

theorem keptBy_execXclr {k f} : s.KeptBy (execXclr k f s) := .finishSeq (.step fun _ => .ok (.clearCounter (.deliver (.refl s))))

end Sys2Proof.Machine
end

