-- ==== Sys2Proof/Proofs/KeepsAccess.lean ====
section
/-! SUPPORT. The instructions and words that access memory keep the memories and the counters (Machine/MemScalar.lean, Machine/MemLane.lean). -/

namespace Sys2Proof.Machine

open Sys2Proof

variable {s t : State}

/-! Scalar accesses and fences (R197, R206, R210, R211). -/

theorem keptBy_scalarLoad {n signed d a i} : s.KeptBy (scalarLoad n signed d a i s) :=
  .finishSeq <| .step fun _ => .step fun _ => .step fun _ => .bind (State.Keeps.refl s).load fun _ h => .ok h.sendS

theorem keptBy_scalarStore {n d a i} : s.KeptBy (scalarStore n d a i s) :=
  .finishSeq <| .step fun _ => .step fun _ => .step fun _ => (State.Keeps.refl s).store

theorem keptBy_execScalarLoadReturn {k} : s.KeptBy (execScalarLoadReturn k s) := by
  unfold execScalarLoadReturn
  split
  · exact .next (.modW (.refl s))
  · exact .stay

theorem keptBy_execFence {k sc} : s.KeptBy (execFence k sc s) := by
  have h : s.Keeps (if k = 1 then s else s.release sc.toNat) := .ite (.refl s) (.release (.refl s))
  exact .finishSeq <| .step fun _ => .step fun _ => .branch fun _ => .branch fun _ => .ok (.ite h.freshen (.ite h h.acquire))

theorem keptBy_execPfence {p} : s.KeptBy (execPfence p s) := .finishSeq <| .step fun _ => .step fun _ => .ok (.modCore (.refl s))

theorem keeps_atomWork {ea l n op v cmp} (h : s.Keeps t) : (atomWork t ea l n op v cmp).Gives fun r => s.Keeps r.2 := by
  unfold atomWork
  cases l.kind with
  | device => exact .step fun _ => .step fun _ => .ok h.atomHome
  | host => exact .step fun _ => .step fun _ => .ok h.atomHost
  | peer => exact .step fun _ => .step fun _ => .step fun _ => .ok h.peerFails.outside

theorem State.Keeps.hold {r acq} (h : s.Keeps t) : s.Keeps (t.hold r acq) := h.modW.endQuantum

theorem keptBy_scalarAtomic {op d a b w o} : s.KeptBy (scalarAtomic op d a b w o s) := by
  refine .finishSeq <| .step fun _ => .step fun _ => .step fun l => .step fun _ => .branch fun _ => ?_
  have h : s.Keeps ((if o.getLsbD 1 then s.release 4 else s).touchTlb false (s.getS a).toNat) :=
    .touchTlb (.ite (.release (.refl s)) (.refl s))
  have hp {t : State} (h : s.Keeps t) : s.Keeps (if l.kind = .peer then t.peerFails l.home else (false, t)).2 := .iteSnd h.peerFails h
  have ha {t : State} (h : s.Keeps t) : s.Keeps (if o.getLsbD 0 then t.acquire 4 else t) := .ite h.acquire h
  exact .ite (.step fun _ => .step fun _ => .ite (State.Keeps.buffer (ha (hp h))) (.ok (.hold (ha (hp h)))))
    (.bind (keeps_atomWork h) fun _ h => .ok (.sendS (ha h)))

theorem keptBy_execLdv {d a i} : s.KeptBy (execLdv d a i s) := by
  refine .finishSeq ?_
  repeat refine .step fun _ => ?_
  exact .ok (.sendS (.dropL1 (.atomTrip (.touchTlb (.refl s)))))

/-! Pinning and prefetches (R212 to R214). -/

theorem keptBy_execPinL2 {d a} : s.KeptBy (execPinL2 d a s) := by
  unfold execPinL2
  extract_lets ea done
  have hd : ∀ v t, s.Keeps t → s.KeptBy (done v t) := fun v t h => .finishSeq (.step fun _ => .ok h.setS)
  clear_value done
  have ht : s.Keeps (s.touchTlb false ea.toNat) := .touchTlb (.refl s)
  split
  · exact hd _ _ ht
  · refine .ite (hd _ _ ht) (.ite (hd _ _ ht) (.ite (hd _ _ ht) (.ite (hd _ _ ht) (hd _ _ (.touchTlb ?_)))))
    exact .same (.refl s) rfl

theorem State.Keeps.unpin {lines} (h : s.Keeps t) : s.Keeps (t.unpin lines) := by
  refine h.foldl fun u k h => ?_
  split
  · exact .modRow (h.same rfl)
  · exact h

theorem keptBy_execUnpinL2 {a} : s.KeptBy (execUnpinL2 a s) := by
  have ht : s.Keeps (s.touchTlb false (s.getS a).toNat) := .touchTlb (.refl s)
  refine .finishSeq (.step fun _ => .ok ?_)
  split
  · exact ht
  · dsimp only
    split
    · exact .ite ht.unpin ht
    · exact ht

theorem keptBy_execPref {l a i} : s.KeptBy (execPref l a i s) := by
  unfold execPref
  extract_lets ea hit
  clear_value hit
  refine .finishSeq (.ok ?_)
  split
  · exact .ite (.ite (.fillL1 (.refl s)) (.refl s)) (.refl s)
  · exact .refl s

/-! Conditional stores (R365). -/

theorem State.Keeps.cstApply {core es} (h : s.Keeps t) : s.Keeps (t.cstApply core es).2 := by
  unfold State.cstApply
  refine .iteSnd h ?_
  extract_lets u
  have hu : s.Keeps u := h.getD (.map fun _ => h.atomTrip)
  clear_value u
  split
  · exact hu.dropL1
  · exact hu.writeFrom.dropLines.ageBuffers

theorem State.Keeps.recordLoaded {u : State} {l n va lines} (h : s.Keeps t) (hu : s.Keeps u) : s.Keeps (t.recordLoaded u l n va lines) :=
  .ite h.touchTlb.missTrip hu

theorem keptBy_execCst4 {d a b} : s.KeptBy (execCst4 d a b s) := by
  refine .finishSeq <| .step fun _ => .step fun _ => .step fun _ => ?_
  extract_lets done
  have hd : ∀ v t, s.Keeps t → s.Keeps (done v t) := fun v t h => .ite h.release.acquire.setS.endQuantum h.release.acquire.setS
  clear_value done
  refine .ite (.ok (hd _ _ (.refl s))) (.step fun l => .bind (State.Keeps.refl s).load fun x h => .ite (.ok (hd _ _ h)) (.step fun ls => ?_))
  have ht : s.Keeps (((List.range (s.getS b).toNat).map (cstEntry (BitVec.ofNat 1024 x.1))).foldl (fun t e => t.touchTlb false e.addr)
      (s.recordLoaded x.2 l 128 (s.getS a) (ls.map fun e => e.1.addr / 512))) :=
    .foldl (.recordLoaded (.refl s) h) fun _ _ h => h.touchTlb
  exact .ite (.ok ht.release.acquire.hold) (.step fun _ => .ok (hd _ _ ht.cstApply))

/-! Lane accesses (R198 to R209). -/

theorem State.Keeps.ordered {w} (h : s.Keeps t) : s.Keeps (t.ordered w) := by
  have hr : s.Keeps (if (lOrder w).getLsbD 1 then t.release (lScope w) else t) := .ite h.release h
  have ha := State.Keeps.ite (c := (lOrder w).getLsbD 0) (hr.acquire (scope := lScope w)) hr
  exact .ite ha.freshen ha

theorem State.Keeps.popSources {op w lanes} (h : s.Keeps t) : s.Keeps (t.popSources op w lanes) := h.modW

theorem State.Keeps.touchAll {xs} (h : s.Keeps t) : s.Keeps (t.touchAll xs) := h.foldl fun _ _ h => h.touchTlb

theorem keeps_loadElem {s0 ro b x} (h : s.Keeps t) : s.Keeps (loadElem s0 t ro b x).1 := by
  unfold loadElem
  extract_lets own u v
  have hv : s.Keeps v := .ite h.roTake h.roTouch
  clear_value own v
  split
  · split
    · exact h
    · dsimp only
      split
      · exact h.peerFails
      · exact h.peerFails.outside
  · exact .ite h h.atomTrip
  · split
    · split
      · exact h
      · split
        · exact hv
        · split
          · exact h
          · exact hv
    · split
      · exact h
      · exact .ite h.fillL1 h

theorem keeps_loadElems {s0 ro b xs} (h : s.Keeps t) : s.Keeps (loadElems s0 t ro b xs).1 := by
  induction xs generalizing t with
  | nil => exact h
  | cons x xs ih => exact ih (keeps_loadElem h)

theorem keptBy_laneLoad {op ro w} : s.KeptBy (laneLoad op ro w s) := by
  refine .finishLane ?_
  repeat refine .step fun _ => ?_
  exact .ok (.ordered (.modW (.popSources (keeps_loadElems (.touchAll (.refl s))))))

theorem State.Keeps.enqueueAll {es : List (Loc × List Host.Cell)} (h : s.Keeps t) :
    s.Keeps (es.foldl (fun s e => s.enqueue e.1 e.2) t) :=
  h.foldl fun _ _ h => h.enqueue

theorem keptBy_storeOn {w es} : s.KeptBy (storeOn w s es) :=
  .ite (.finishLane (.ok (.modW (.enqueueAll (.refl s))))) (.next (.modW (.enqueueAll (.refl s))))

theorem keptBy_execStG {w} : s.KeptBy (execStG w s) := by
  unfold execStG
  extract_lets b lanes checks
  have hc : checks.Gives fun r => s.Keeps r.1 := by
    repeat refine .step fun _ => ?_
    extract_lets es done
    have hd {t : State} (h : s.Keeps t) : s.Keeps (done t) := h.touchAll.popSources.ordered
    exact .ite ((State.Keeps.refl s).laneBuffer.map fun _ h => hd h)
      (.ite (.ok (hd (.refl s))) (.step fun _ => .ok (hd (.enqueueAll (.refl s)))))
  clear_value checks
  split
  · exact keptBy_storeOn
  · split
    · next t => exact .finishLane (.ok (hc _ rfl))
    · next t _ _ => exact .after (hc _ rfl) keptBy_storeOn
    · exact .finishLane .error

theorem keptBy_execLdLm {w} : s.KeptBy (execLdLm w s) := by
  refine .finishLane ?_
  repeat refine .step fun _ => ?_
  exact .ok (.modW (.refl s))

theorem keptBy_execStLm {w} : s.KeptBy (execStLm w s) := .finishLane <| .step fun _ => .step fun _ => .ok (.modW (.refl s))

theorem keptBy_execLdSk {w} : s.KeptBy (execLdSk w s) := by
  refine .finishLane ?_
  repeat refine .step fun _ => ?_
  exact .ok (.ordered (.modW (.popSources (.ite (.refl s) (.foldl (.refl s) fun _ _ h => h.fillSkim)))))

theorem keptBy_execStSk {w} : s.KeptBy (execStSk w s) := by
  refine .finishLane ?_
  repeat refine .step fun _ => ?_
  exact .ok (.ordered (.popSources (.writeSkim (.refl s))))

/-! Lane atomics (R208, R209). -/

theorem State.Keeps.latomAll {core op xs} (h : s.Keeps t) : s.Keeps (t.latomAll core op xs).2 := by
  induction xs generalizing t with
  | nil => exact h
  | cons x xs ih => exact ih (h.atomHome (l := x.2.1) (n := 4) (f := fun old => latomNew op old x.2.2.1.toNat x.2.2.2.toNat))

theorem State.Keeps.endAfterLane (h : s.Keeps t) : s.Keeps t.endAfterLane := h.endQuantumLane

theorem keptBy_execLatom {w} : s.KeptBy (execLatom w s) := by
  refine .finishLane <| .step fun _ => .step fun _ => .branch fun _ => .step fun xs => .step fun _ => ?_
  extract_lets ops t done
  have ht : s.Keeps t := .touchAll (.refl s)
  have hd {u : State} (h : s.Keeps u) : s.Keeps (done u) := h.popSources.ordered
  clear_value t done
  refine .ite (.step fun _ => .ite (.ok (hd ht).modW.endAfterLane) (ht.laneBuffer.map fun _ h => hd h)) (.step fun _ => .ok ?_)
  have hu := fun (bad : Option Access) => hd (ht.latomAll (core := t.w.core) (op := latomOp w) (xs := if bad.isSome then [] else ops))
  split
  · exact .ite (hu _).modW (hu _)
  · exact .ite (hu _).modW (hu _)

theorem State.Keeps.rsumLane {core L a ls} (h : s.Keeps t) : s.Keeps (t.rsumLane core L a ls) :=
  .writeFrom (h.foldl fun _ _ h => h.atomTrip)

theorem keptBy_execAtomRsum {w} : s.KeptBy (execAtomRsum w s) := by
  refine .finishLane <| .step fun _ => .step fun _ => .step fun _ => ?_
  extract_lets rest
  have hr : ∀ u, (rest u).Gives s.Keeps := fun _ => by
    refine .step fun _ => .branch fun _ => ?_
    repeat refine .step fun _ => ?_
    have ht {xs lanes} : s.Keeps ((s.touchAll xs).popSources 0x508 w lanes) := .popSources (.touchAll (.refl s))
    exact .ite (.ok ht.ordered.modW.endAfterLane) (.ok (.ordered (ht.foldl fun _ _ h => h.rsumLane)))
  exact .ite (.step hr) (.step fun _ => .step hr)

/-! Queue words (R262). -/

theorem keptBy_execQpeek {w} : s.KeptBy (execQpeek w s) :=
  .finishLane <| .step fun _ => .step fun _ => .step fun _ => .ok (.writeDst (.refl s))

theorem keptBy_execQskip {w} : s.KeptBy (execQskip w s) := by
  unfold execQskip
  extract_lets n k lanes left x check
  clear_value check
  split
  · exact .finishLane .error
  · exact .ite (.finishLane (.ok (.modW (.modW (.refl s))))) (.next (.modW (.modW (.refl s))))

end Sys2Proof.Machine
end

