-- ==== Sys2Proof/Proofs/KeepsEngines.lean ====
section
/-! SUPPORT. The copy engine and the stream engine keep the memories and the counters (Machine/Engine.lean). -/

namespace Sys2Proof.Machine

open Sys2Proof

variable {s t : State}

/-! Accesses. -/

theorem State.Keeps.askPage {va write kind ref} (h : s.Keeps t) : s.Keeps (t.askPage va write kind ref) := h.modSector
theorem State.Keeps.modEntry {kind ref f} (h : s.Keeps t) : s.Keeps (t.modEntry kind ref f) := h.modCore
theorem State.Keeps.wake (h : s.Keeps t) : s.Keeps t.wake := h.modW

theorem State.Keeps.planeRead {snap units} (h : s.Keeps t) : s.Keeps (t.planeRead snap units).2 := by
  unfold State.planeRead
  split
  · exact h
  · refine h.foldlSnd fun p u h => ?_
    dsimp only
    split
    · exact h
    · exact h.atomTrip.modCore

/-! Copies (R243 to R252). -/

theorem keptBy_copyIssue {kind i d a b n c} : s.KeptBy (copyIssue kind i d a b n c s) :=
  .finishSeq <| .bind (State.Keeps.refl s).enqueueCmd fun _ h => .ok h.modW.setS

theorem keptBy_execCopyCommandAccept : s.KeptBy (execCopyCommandAccept s) := by
  unfold execCopyCommandAccept
  split
  · exact .finishCmd <| .step fun _ => .step fun _ => .bind (State.Keeps.refl s).takeEntries fun _ h => .ok h.modW
  · exact .stay

theorem keptBy_execScoreboardEntryGrant {core} : s.KeptBy (execScoreboardEntryGrant core s) := by
  unfold execScoreboardEntryGrant
  split
  · exact .stay
  · exact .ite (.next (.modWave (.modCoreAt (.refl s)))) .stay

theorem State.Keeps.setOp {o} (h : s.Keeps t) : s.Keeps (t.setOp o) := h.modW.modEntry.wake
theorem State.Keeps.markOp {o line reason} (h : s.Keeps t) : s.Keeps (t.markOp o line reason) := h.setOp
theorem State.Keeps.askOp {o line reason} (h : s.Keeps t) : s.Keeps (t.askOp o line reason) := .ite h.setOp.askPage h.markOp

theorem State.Keeps.requestLines {o upto xs} (h : s.Keeps t) : s.Keeps (t.requestLines o upto xs).1 := by
  induction xs generalizing t with
  | nil => exact h
  | cons i r ih =>
    unfold State.requestLines
    extract_lets keep
    have hk {u j} (h : s.Keeps u) : s.Keeps (keep u j).1 := .iteFst h (ih h)
    clear_value keep
    refine .iteFst (hk h) (.iteFst (hk h) ?_)
    split
    · exact hk h.touchTlb
    · exact h
    · exact h.touchTlb

theorem State.Keeps.lineData {o i} (h : s.Keeps t) : Through (fun r => s.Keeps r.2) (t.lineData o i) := by
  unfold State.lineData
  refine .ite .none (.ite (.ite .error (.ok h.fillSkim)) ?_)
  split
  · exact .none
  · next l _ =>
    extract_lets back
    split
    · exact .ite .none (.ite .error (.ok h.planeRead))
    · exact .ok h.atomTrip
    · split
      next e =>
      refine .ite .error ?_
      split
      next e' => exact .ok ((h.peerFails.ofSnd e).outside.ofSnd e')

theorem State.Keeps.landGranules {o i m left} (h : s.Keeps t) : s.Keeps (t.landGranules o i m left) := h.modW.setOp

theorem State.Keeps.storeLine {o i} (h : s.Keeps t) : Through s.Keeps (t.storeLine o i) := by
  unfold State.storeLine
  refine .ite .none (.ite .none (.ite (.ok h.writeSkim) ?_))
  split
  · exact .none
  · next l _ =>
    refine .ite (.someIte (.modW (.iteSnd h.peerRefuses h))) ?_
    cases l.kind with
    | device => exact .ite (.ok h.storeTrip.engineWrite) .none
    | host => exact .ok h.storeTrip.engineWrite
    | peer => exact .someIte h.peerRefuses

theorem State.Keeps.landLine {o i} (h : s.Keeps t) : s.Keeps (t.landLine o i) := by
  unfold State.landLine
  refine .ite ?_ ?_
  · split
    · exact h.landGranules
    · split
      · exact h.setOp
      · exact h.markOp
      · next e => exact (h.lineData _ e).landGranules
  · split
    · exact h.setOp
    · exact h.markOp
    · next e => exact (h.storeLine _ e).setOp

theorem keptBy_execCopyLineLand {ticket line} : s.KeptBy (execCopyLineLand ticket line s) := by
  unfold execCopyLineLand
  split
  · exact .stay
  · next o _ =>
    split
    · exact .stay
    · refine .ite .stay (.ite (.next (.landLine (.refl s))) (.ite .stay ?_))
      have h : s.Keeps (s.requestLines o line o.todo).1 := .requestLines (.refl s)
      generalize s.requestLines o line o.todo = x at h ⊢
      obtain ⟨t, todo, f⟩ := x
      dsimp only
      split
      · exact .next h.askOp
      · split
        · exact .next h.landLine
        · exact .stay

theorem keptBy_execCopyOperationComplete {ticket} : s.KeptBy (execCopyOperationComplete ticket s) := by
  unfold execCopyOperationComplete
  split
  · exact .stay
  · exact .ite .stay (.next (.wake (.modW (.modCore (.refl s)))))

theorem keptBy_execCpWait {a} : s.KeptBy (execCpWait a s) :=
  .finishSeq <| .ite (.ok (.refl s)) (.step fun _ => .branch fun _ => .step fun _ => .branch fun _ => .ok (.refl s))

theorem keptBy_execCpRetry {a} : s.KeptBy (execCpRetry a s) :=
  .finishSeq <| .step fun _ => .ok (.foldl (.refl s) fun _ _ h => .ite h.setOp h)

/-! Streams (R253 to R260). -/

theorem State.Keeps.freeStream {q} (h : s.Keeps t) : s.Keeps (t.freeStream q) := h.modCore.modW

theorem keeps_stopWork {n} (h : s.Keeps t) : (stopWork t n).Gives s.Keeps :=
  .ite (.ok h) (.step fun _ => .step fun _ => .ok h.modW.freeStream)

theorem keptBy_execSrStopAccept : s.KeptBy (execSrStopAccept s) := by
  unfold execSrStopAccept
  split
  · exact .finishCmd (keeps_stopWork (.refl s))
  · exact .stay

theorem keptBy_execSrBind {n a i} : s.KeptBy (execSrBind n a i s) :=
  .finishSeq <| .step fun _ => .step fun _ => State.Keeps.enqueueCmd (.touchTlb (.refl s))

theorem State.Keeps.readRecord {va l} (h : s.Keeps t) : (t.readRecord va l).Gives fun r => s.Keeps r.2 := by
  unfold State.readRecord
  split
  · refine .step fun _ => .step fun _ => ?_
    split
    next e => exact .ok (h.planeRead.ofSnd e)
  · exact .ok h.atomTrip
  · split
    next e =>
    refine .ite .trap ?_
    split
    next e' => exact .ok ((h.peerFails.ofSnd e).outside.ofSnd e')

theorem keptBy_execSrBindAccept : s.KeptBy (execSrBindAccept s) := by
  unfold execSrBindAccept
  split
  · next q va l sys _ _ =>
    have hs := keeps_stopWork (n := q) (.refl s)
    generalize stopWork s q = r at hs ⊢
    refine .ite ?_ (.finishCmd <| .step fun _ => .bind (State.Keeps.refl s).readRecord fun x h => ?_)
    · split
      · exact .next (.modW (hs _ rfl))
      · exact .finishCmd hs
    · obtain ⟨r, t⟩ := x
      dsimp only
      split
      all_goals exact .step fun _ => .step fun _ => .bind h.takeEntries fun _ h => .ok h.modW
  · exact .stay

theorem State.Keeps.touchBytes {va n} (h : s.Keeps t) : s.Keeps (t.touchBytes va n) := h.foldl fun _ _ h => h.touchTlb

theorem State.Keeps.streamRead {snap ps} (h : s.Keeps t) : Through (fun r => s.Keeps r.2) (t.streamRead snap ps) := by
  unfold State.streamRead
  extract_lets devs
  refine .ite .none (.ite .error ?_)
  have hm : s.Keeps (t.planeRead snap devs).2 := h.planeRead
  generalize t.planeRead snap devs = x at hm ⊢
  obtain ⟨m, u⟩ := x
  have hp : s.Keeps (match ps.find? fun l : Loc => l.kind == PageKind.peer with
      | some l => u.peerFails l.home
      | none => (false, u)).2 := by
    split
    · exact hm.peerFails
    · exact hm
  refine .ite .error (.ok (hp.foldlSnd fun p x h => ?_))
  dsimp only
  split
  · exact h
  · exact .ite h.atomTrip h
  · exact h.outside

theorem State.Keeps.lmValue {lane a n} (h : s.Keeps t) : s.Keeps (t.lmValue lane a n).2 := .iteSnd h (h.same rfl)

theorem State.Keeps.landStream {q} (h : s.Keeps t) : s.Keeps (t.landStream q) := .ite h (.ite h.freeStream h.modEntry)

theorem State.Keeps.fetchGlobal {q lane x a} (h : s.Keeps t) : s.Keeps (t.fetchGlobal q lane x a) := by
  unfold State.fetchGlobal
  dsimp only
  split
  · exact h
  · exact .ite h.touchBytes.askPage h.touchBytes.modW.wake
  · split
    · exact h
    · exact h.touchBytes.modW.wake
    · next e => exact (h.touchBytes.streamRead _ e).modW.wake

theorem keptBy_execStreamValueFetch {q lane} : s.KeptBy (execStreamValueFetch q lane s) := by
  unfold execStreamValueFetch
  extract_lets x n b vs
  clear_value vs
  refine .ite .stay ?_
  split
  · exact .next (.fetchGlobal (.refl s))
  · refine .ite .stay ?_
    split
    · exact .stay
    · exact .ite (.next (.fetchGlobal (.refl s))) (.ite (.next (.wake (.landStream (.modW (.lmValue (.refl s)))))) .stay)

theorem State.Keeps.streamWrite {q lane n ps v} (h : s.Keeps t) : Through s.Keeps (t.streamWrite q lane n ps v) := by
  unfold State.streamWrite
  extract_lets cs
  refine .ite .none ?_
  have hp : s.Keeps (match ps.find? fun l : Loc => l.kind == PageKind.peer with
      | some l => t.peerRefuses l.home
      | none => (false, t)).2 := by
    split
    · exact h.peerRefuses
    · exact h
  refine .ite .error (.ite (.ok hp.modW) ?_)
  clear_value cs
  split
  · exact .ok hp
  · exact .ok (.foldl (.engineWrite (.foldl hp fun _ _ h => h.storeTrip)) fun _ _ h => h.engineWrite)

theorem keptBy_execStreamScatterDrain {q lane} : s.KeptBy (execStreamScatterDrain q lane s) := by
  unfold execStreamScatterDrain
  extract_lets x n b
  split
  · exact .stay
  · refine .ite .stay ?_
    split
    · exact .stay
    · next a _ =>
      refine .ite (.ite (.next (.wake (.landStream (.modW (.refl s))))) .stay) ?_
      dsimp only
      split
      · exact .stay
      · exact .ite (.next (.askPage (.touchBytes (.refl s)))) (.next (.wake (.modW (.touchBytes (.refl s)))))
      · have h : s.Keeps (s.touchBytes a b) := .touchBytes (.refl s)
        split
        · exact .stay
        · exact .next (.wake (.modW h))
        · next e => exact .next (.wake (.modW (h.streamWrite _ e)))

/-! Page Requests (R242, R326). -/

theorem State.Keeps.refusePage {r} (h : s.Keeps t) : s.Keeps (t.refusePage r) := by
  unfold State.refusePage
  refine .ite ?_ (.ite (.wake (.ite h.modW h.modW)) h)
  split
  · exact h.setOp
  · exact h

theorem State.Keeps.grantPage {r} (h : s.Keeps t) : s.Keeps (t.grantPage r) := by
  unfold State.grantPage
  refine .ite ?_ h.modCore
  split
  · exact h.modCore.setOp
  · exact h.modCore

end Sys2Proof.Machine
end

