-- ==== Sys2Proof/Proofs/KeepsQueues.lean ====
section
/-! SUPPORT. The queue units of the sectors, and the tasks and crews that they serve, keep the memories and the counters (Machine/Queues.lean,
Machine/Tasks.lean). -/

namespace Sys2Proof.Machine

open Sys2Proof

variable {s t : State}

/-! Accesses of a sector's units. -/

theorem State.Keeps.unitTrip {write sector l} (h : s.Keeps t) : s.Keeps (t.unitTrip write sector l) := h.exchangeAt

theorem State.Keeps.lookSector {sector ctx va} (h : s.Keeps t) : s.Keeps (t.lookSector sector ctx va) := by
  unfold State.lookSector
  extract_lets walked u
  have hu : s.Keeps u := .ite h.walkTrips h
  clear_value u
  split
  · exact hu.modSector.seeAt
  · exact hu

theorem State.Keeps.reachSector {write sector ctx va} (h : s.Keeps t) : s.Keeps (t.reachSector write sector ctx va) := by
  unfold State.reachSector
  split
  · exact h.lookSector.unitTrip
  · exact h.lookSector

theorem State.Keeps.touchSector {sector ctx va} (h : s.Keeps t) : s.Keeps (t.touchSector sector ctx va) := h.reachSector

theorem State.Keeps.touchRange {write sector ctx va n} (h : s.Keeps t) : s.Keeps (t.touchRange write sector ctx va n) :=
  .ite h (h.foldl fun _ _ h => h.reachSector)

theorem State.Keeps.modQueue {sector pa f} (h : s.Keeps t) : s.Keeps (t.modQueue sector pa f) := h.modSector

theorem State.Keeps.consume {sector q l} (h : s.Keeps t) : s.Keeps (t.consume sector q l) := h.unitTrip.writeHome.writeTrip.writeHome

theorem State.Keeps.dropLive {ctx phase pa slot} (h : s.Keeps t) : s.Keeps (t.dropLive ctx phase pa slot) := h.modRow
theorem State.Keeps.addLive {ctx phase pa slot} (h : s.Keeps t) : s.Keeps (t.addLive ctx phase pa slot) := h.modRow

/-! Packets (R264 to R268). -/

theorem keptBy_execQueueNotify {sector k} : s.KeptBy (execQueueNotify sector k s) := by
  unfold execQueueNotify
  split
  · exact .stay
  · extract_lets r t
    have ht : s.Keeps t := .modQueue (.refl s)
    clear_value t
    refine .ite .stay (.ite (.next ht) ?_)
    split
    · exact .next (.ite ht.modQueue ht.modQueue.emitSector)
    · exact .ite (.next ht.modQueue.touchSector.consume.dropLive.emitSector) (.next ht.modQueue.touchSector)

theorem State.Keeps.signal {sector ctx cb slot addr addend} (h : s.Keeps t) : s.KeptIn (t.signal sector ctx cb slot addr addend) := by
  unfold State.signal
  split
  · exact .ite (.some h.touchSector.writeHome) .none
  · exact .some h.emitSector

theorem keptBy_takePacket {sector k kind act} (ha : ∀ t q slot p, s.Keeps t → s.KeptIn (act t q slot p)) :
    s.KeptBy (s.takePacket sector k kind act) := by
  unfold State.takePacket
  split
  · exact .stay
  · split
    · refine .ite ?_ .stay
      split
      · next e =>
        refine .next (State.Keeps.consume (ha _ _ _ _ ?_ _ e))
        exact .same (.refl s) rfl
      · exact .stay
    · exact .stay

theorem keptBy_execSignalPacket {sector k} : s.KeptBy (execSignalPacket sector k s) := keptBy_takePacket fun _ _ _ _ h => h.signal

theorem keptBy_execBulkCopyPacket {sector k} : s.KeptBy (execBulkCopyPacket sector k s) :=
  keptBy_takePacket fun _ _ _ _ h => .some (.modSector (h.same rfl))

/-! Bulk copies (R268). -/

theorem State.Keeps.bulkPeer {sector b f} (h : s.Keeps t) : s.Keeps (t.bulkPeer sector b f).2 := by
  unfold State.bulkPeer
  split
  · exact h
  · next p ps _ =>
    refine .iteSnd ?_ h.peerFrom
    dsimp only
    split
    all_goals exact h.peerFrom.pick (n := ps.length + 1)

/-- One byte of a copy. -/
theorem State.Keeps.writeMemByte {a v} (h : s.Keeps t) : s.Keeps { t with mem := writeByte t.mem a v } :=
  h.ofMem (fun w => ⟨Memory.wf_writeByte _ _ _ w.1, w.2⟩) rfl

theorem State.Keeps.writeHostByte {a v} (h : s.Keeps t) : s.Keeps { t with hostMem := writeByte t.hostMem a v } :=
  h.ofMem (fun w => ⟨w.1, Memory.wf_writeByte _ _ _ w.2.1, w.2.2⟩) rfl

theorem State.Keeps.bulkMove {s0 : State} {sector b choice i n} (h : s.Keeps t) : s.Keeps (s0.bulkMove sector b choice i n t) := by
  induction n generalizing t i with
  | zero => exact h
  | succ n ih =>
    unfold State.bulkMove
    split
    · next a z _ _ =>
      have hv : s.Keeps (if a.kind = .peer then (((t.outside 1).1.head?).getD 0, (t.outside 1).2)
          else (if choice.testBit i then t.byteAt a else s0.byteAt a, t)).2 := .iteSnd h.outside h
      refine ih ?_
      cases z.kind with
      | device => exact hv.writeMemByte
      | host => exact hv.writeHostByte
      | peer => exact hv
    · exact h

theorem State.Keeps.bulkRun {sector b choice n} (h : s.Keeps t) : s.KeptIn (t.bulkRun sector b choice n) := by
  have hu : s.Keeps { t.bulkMove sector b choice 0 n t with mem := t.mem } :=
    have hb : s.Keeps (t.bulkMove sector b choice 0 n t) := h.bulkMove
    ⟨fun w => ⟨(h.1 w).1, (hb.1 w).2⟩, hb.2⟩
  exact .ite (.some hu.touchRange.touchRange.writeHome) .none

theorem keptBy_execBulkCopyComplete {sector k choice} : s.KeptBy (execBulkCopyComplete sector k choice s) := by
  unfold execBulkCopyComplete
  split
  · exact .stay
  · next b _ =>
    refine .ite .stay ?_
    have h : s.Keeps (s.bulkPeer sector b (s.bulkFault sector b 0 b.len)).2 := .bulkPeer (.refl s)
    generalize s.bulkPeer sector b (s.bulkFault sector b 0 b.len) = x at h ⊢
    obtain ⟨_ | f, t⟩ := x
    · dsimp only
      split
      · exact .stay
      · next e =>
        have hu := h.bulkRun _ e
        refine .ite (.next hu.modSector) ?_
        split
        · next e => exact .next (.modSector (hu.signal _ e))
        · exact .stay
    · refine .ite (.next h.modSector) ?_
      split
      · next e => exact .next (.emitSector (.modSector (h.bulkRun _ e)))
      · exact .stay

theorem keptBy_execPageRequestResponse {sector k ok} : s.KeptBy (execPageRequestResponse sector k ok s) := by
  unfold execPageRequestResponse
  split
  · exact .stay
  · have h {f} : s.Keeps (s.modSector sector f) := .modSector (.refl s)
    exact .ite .stay (.ite (.next (.ite h h.modSector)) (.next (.focus (.ite h.focus.grantPage h.focus.refusePage))))

/-! Dispatch and placement (R273, R284 to R288). -/

theorem State.Keeps.rejectTask {sector q l slot p c} (h : s.Keeps t) : s.Keeps (t.rejectTask sector q l slot p c) :=
  h.consume.dropLive.emitSector

theorem keptBy_execTaskPacketPop {sector k} : s.KeptBy (execTaskPacketPop sector k s) := by
  unfold execTaskPacketPop
  split
  · exact .stay
  · split
    · split
      · exact .ite (.next (.setTasks (.modQueue (.rejectTask (.refl s))))) .stay
      · exact .stay
    · split
      · exact .stay
      · refine .ite .stay ?_
        split
        · exact .next (.ite (.rejectTask (.refl s)) (.refl s))
        · exact .next (.addLive (.modQueue (.modSector (.same (.refl s) rfl))))

theorem State.Keeps.reserveNow {sector} (h : s.Keeps t) : s.Keeps (t.reserveNow sector) := h.modSector
theorem State.Keeps.reserveAll (h : s.Keeps t) : s.Keeps t.reserveAll := h.foldl fun _ _ h => h.reserveNow

theorem keptBy_execCandidateAging {sector k cycles} : s.KeptBy (execCandidateAging sector k cycles s) := by
  unfold execCandidateAging
  split
  · exact .stay
  · exact .ite .stay (.next (.reserveNow (.modQueue (.refl s))))

theorem State.Keeps.carve {core option} (h : s.Keeps t) : s.Keeps (t.carve core option) := h.modCoreAt

theorem State.Keeps.placeWave {task crew idx x} (h : s.Keeps t) : s.Keeps (t.placeWave task crew idx x) := .setWave h.carve.setNextId

theorem State.Keeps.placeWaves {task crew i xs} (h : s.Keeps t) : s.Keeps (t.placeWaves task crew i xs).1 := by
  induction xs generalizing t i with
  | nil => exact h
  | cons x r ih => exact ih h.placeWave

theorem State.Keeps.modTask {id f} (h : s.Keeps t) : s.Keeps (t.modTask id f) := h.same rfl
theorem State.Keeps.modCrew {id f} (h : s.Keeps t) : s.Keeps (t.modCrew id f) := h.same rfl

theorem keptBy_execCrewPlace {sector} : s.KeptBy (execCrewPlace sector s) := by
  unfold execCrewPlace
  split
  · exact .next (.reserveNow (.refl s))
  · next q task plan x _ =>
    extract_lets last place id u
    refine .ite .stay ?_
    have h : s.Keeps (u.placeWaves task id 0 plan).1 := .placeWaves (.same (.refl s) rfl)
    generalize u.placeWaves task id 0 plan = y at h ⊢
    obtain ⟨v, ns⟩ := y
    have hv {c f g} : s.Keeps (({ v with crews := c }.modTask task.id f).modRow task.ctx g) := .modRow (.modTask (h.same rfl))
    refine .ite (.next (.reserveNow ?_)) (.next hv.modQueue.reserveNow)
    clear_value place
    split
    · exact hv.modQueue.consume
    · exact hv.modQueue

theorem keptBy_execWaveStart {crew} : s.KeptBy (execWaveStart crew s) := by
  unfold execWaveStart
  split
  · exact .stay
  · exact .ite .stay (.next (.modCrew (.foldl (.refl s) fun _ _ h => h.modWave.modCoreAt)))

/-! Retirement and phases (R276 to R278, R302, R303). -/

theorem State.Keeps.putSlot {unit core l pa w data} (h : s.Keeps t) : s.Keeps (t.putSlot unit core l pa w data) := by
  cases core with
  | none => exact h.writeTrip.writeHome.writeTrip.writeHome.addLive
  | some c => exact h.writeTrip.writeFrom.writeTrip.writeFrom.addLive

theorem State.Keeps.claim {unit core q} (h : s.Keeps t) : s.Keeps (t.claim unit core q).2 := by
  cases core with
  | none => exact h.trip.writeHome
  | some c => exact h.trip.writeFrom

theorem State.Keeps.pushSuccessor {task data q} (h : s.Keeps t) : s.Keeps (t.pushSuccessor task data q).1 := by
  unfold State.pushSuccessor
  split
  · exact .iteFst h.claim.modTask h
  · refine .iteFst h ?_
    extract_lets ended
    have he {u} (h : s.Keeps u) : s.Keeps (ended u).1 := h.modTask
    clear_value ended
    split
    · exact .iteFst (he h.lookSector.putSlot) h
    · exact he h.emitSector

theorem State.Keeps.successor {task va} (h : s.Keeps t) : s.Keeps (t.successor task va).1 := by
  unfold State.successor
  extract_lets skip waits
  have hs {x v} : s.Keeps (skip x v).1 := h.emitSector
  clear_value skip
  split
  · exact h.pushSuccessor
  · refine .iteFst h ?_
    split
    · exact hs
    · refine .iteFst h ?_
      split
      · refine .iteFst h (.iteFst hs ?_)
        have hw {l : List Nat} {cells} : s.Keeps ((l.foldl (fun s a => s.touchSector task.sector task.ctx a) t).writeHome cells) :=
          .writeHome (h.foldl fun _ _ h => h.touchSector)
        exact .iteFst hw.modTask hw
      · exact hs

theorem State.Keeps.removeCrew {c} (h : s.Keeps t) : s.Keeps (t.removeCrew c) := .retireCores (.ite (h.same rfl) (h.same rfl))

theorem State.Keeps.retireTask {task} (h : s.Keeps t) : s.Keeps (t.retireTask task) := .modRow (.dropLive (h.same rfl))

theorem State.Keeps.parentDecrement {task} (h : s.Keeps t) : s.KeptIn (t.parentDecrement task) := by
  unfold State.parentDecrement
  refine .ite (.some h) (.ite .none ?_)
  split
  · exact .ite (.some h.touchSector.writeHome) .none
  · exact .some h.emitSector

theorem State.Keeps.listCheck {task} (h : s.Keeps t) : s.Keeps (t.listCheck task) := .ite h.emitSector h

theorem State.Keeps.retireOn {c task} (h : s.Keeps t) : s.Keeps (t.retireOn c task) := by
  unfold State.retireOn
  extract_lets e list place held last
  clear_value last
  refine .ite h (.ite h.retireTask.removeCrew ?_)
  have hx : s.Keeps (t.successor task (list + 0x10 + 16 * e)).1 := h.successor
  split
  · next e => exact (hx.ofFst e).modTask
  · next e => exact hx.ofFst e

theorem keptBy_execCrewRetire {crew} : s.KeptBy (execCrewRetire crew s) := by
  unfold execCrewRetire
  split
  · exact .stay
  · refine .ite .stay ?_
    split
    · exact .next (.removeCrew (.refl s))
    · refine .ite (.next (.retireOn (.refl s))) (.ite (.next (.removeCrew (.modTask (.refl s)))) (.ite .stay ?_))
      split
      · exact .stay
      · next e => exact .next (.listCheck (.modTask ((State.Keeps.refl s).parentDecrement _ e)))

theorem keptBy_execPhaseEnd : s.KeptBy (execPhaseEnd s) := by
  refine .finishSeq (.ok ?_)
  split
  · exact .modTask (.refl s)
  · exact .refl s

theorem keptBy_execPhaseAdvance {ctx} : s.KeptBy (execPhaseAdvance ctx s) := .ite (.next (.modRow (.refl s))) .stay

/-! `task.push` and signal words (R280 to R282). -/

/-- A push that stalls goes on later; one that may not begin ends as an instruction does. -/
theorem keptBy_okOrFinish {r : Res State} : r.Gives s.Keeps → s.KeptBy (match r with
    | .ok t => .next t
    | r => finish s r) := by
  intro h
  split
  · exact .next (h _ rfl)
  · exact .finish h

theorem keptBy_execTaskPush {d a b} : s.KeptBy (execTaskPush d a b s) := by
  unfold execTaskPush
  extract_lets r q
  refine .ite (.next (.stall (.refl s))) (.ite (.finishSeq ?_) ?_)
  · refine .step fun _ => .step fun _ => .step fun _ => .bind (State.Keeps.load (.release (.refl s))) fun _ h => ?_
    exact .ite h.touchTlb.buffer (.ok h.touchTlb.hold)
  · split
    · exact .next (.modW (.refl s))
    · refine keptBy_okOrFinish <| .step fun x => .step fun _ => .bind (State.Keeps.refl s).load fun _ h => .step fun _ => .step fun _ => ?_
      extract_lets t
      have ht : s.Keeps t := .release (.recordLoaded (.refl s) h)
      clear_value t
      cases s.w.heldClaim x.2 with
      | some w => exact .ok ht.touchTlb.modW
      | none =>
        have hc : s.Keeps (t.claim (clusterOf s.w.core) (some s.w.core) x.2).2 := ht.claim
        generalize t.claim (clusterOf s.w.core) (some s.w.core) x.2 = y at hc ⊢
        exact .ok hc.touchTlb.modW

theorem keptBy_execTaskPushSlotWrite : s.KeptBy (execTaskPushSlotWrite s) := by
  unfold execTaskPushSlotWrite
  split
  · exact .stay
  · refine .ite .stay ?_
    dsimp only
    split
    · exact .ite (.next (.raise (.modW (.refl s))))
        (.ite (.next (.retire (.advance (.putSlot (.touchTlb (.modW (.refl s))))))) .stay)
    · exact .stay
    · exact .next (.raise (.modW (.refl s)))

theorem keptBy_execSigAdd {d a b} : s.KeptBy (execSigAdd d a b s) := by
  have h : s.Keeps ((s.release 5).touchTlb false (s.getS a).toNat) := .touchTlb (.release (.refl s))
  exact .finishSeq <| .step fun _ => .step fun _ => .step fun _ =>
    .ite (.step fun _ => .ite h.buffer (.ok h.hold)) (.bind (keeps_atomWork h) fun _ h => .ok h.sendS)

theorem keptBy_execSigWait {d a b c} : s.KeptBy (execSigWait d a b c s) := by
  refine .finishSeq <| .step fun _ => .branch fun _ => ?_
  repeat refine .step fun _ => ?_
  exact .ok (.setS (.acquire (.touchTlb (.dropL1 (.atomTrip (.refl s))))))

/-! Crew barriers (R283). -/

theorem State.Keeps.completeGen {c b} (h : s.Keeps t) : s.Keeps (t.completeGen c b) := .modCrew (h.foldl fun _ _ h => h.modWave)

theorem State.Keeps.arrive {b} (h : s.Keeps t) : s.Keeps (t.arrive b) := by
  unfold State.arrive
  extract_lets u
  have hu : s.Keeps u := h.release.modW
  clear_value u
  split
  · exact .ite hu.completeGen hu
  · exact hu

theorem State.Keeps.atBarrier {b} (h : s.Keeps t) : s.Keeps (t.atBarrier b) := h.modW.stall

theorem keptBy_execCrewArrive {a} : s.KeptBy (execCrewArrive a s) := .finishSeq <| .step fun _ => .ok (.arrive (.refl s))

theorem keptBy_execCrewWait {a} : s.KeptBy (execCrewWait a s) :=
  .ite (.ite (.finishSeq (.ok (.acquire (.refl s)))) (.next (.atBarrier (.refl s)))) (.finishSeq .error)

theorem keptBy_execCrewBar {a} : s.KeptBy (execCrewBar a s) := by
  unfold execCrewBar
  extract_lets b wait
  have hw {t} (h : s.Keeps t) : s.KeptBy (wait t) :=
    .after h (.ite (.finishSeq (.ok (.modW (.acquire (.refl t))))) (.next (.atBarrier (.refl t))))
  clear_value wait
  refine .ite (hw (.refl s)) ?_
  split
  · exact hw (.modW (.arrive (.refl s)))
  · exact .finishSeq .error

theorem keptBy_execBarrierGenerationComplete {crew b} : s.KeptBy (execBarrierGenerationComplete crew b s) := by
  unfold execBarrierGenerationComplete
  split
  · exact .stay
  · exact .next (.ite (.completeGen (.refl s)) (.refl s))

end Sys2Proof.Machine
end

