-- ==== Sys2Proof/Proofs/KeepsCommit.lean ====
section
/-! SUPPORT. The commit of a quantum keeps the memories and the counters (Machine/Tasks.lean, R294 to R300). -/

namespace Sys2Proof.Machine

open Sys2Proof

variable {s t u : State}

/-- Host memory written on top of the state `t`, the rest taken from a later state `u`. -/
theorem State.Keeps.setHost {cells} (h : s.Keeps t) (k : s.Keeps u) : s.Keeps { u with hostMem := writeCells t.hostMem cells } :=
  ⟨fun w => ⟨(k.1 w).1, Memory.wf_writeCells _ _ (h.1 w).2.1, (k.1 w).2.2⟩, k.2⟩

theorem State.Keeps.commitPeer {l} (h : s.Keeps t) : s.Keeps (t.commitPeer l) := .ite h.peerRefuses.dropStore h.peerRefuses

theorem State.Keeps.commitTrip {write l} (h : s.Keeps t) : s.Keeps (t.commitTrip write l) := .ite (.ite h.exchange h) h.exchangeAt

theorem State.Keeps.commitAtom {core op wide l v cmp} (h : s.Keeps t) : s.Keeps (t.commitAtom core op wide l v cmp).2 := by
  unfold State.commitAtom
  extract_lets n f
  clear_value f
  split
  · exact h.atomHome
  · exact h.atomHost
  · exact h.commitTrip.outside

theorem State.Keeps.commitPush {q data back} (h : s.Keeps t) : s.Keeps (t.commitPush q data back).2 := by
  unfold State.commitPush
  split
  · split
    · have hc : s.Keeps (t.claim (sectorUnit (sectorOf t.w.core)) (some t.w.core) q).2 := h.claim
      generalize t.claim (sectorUnit (sectorOf t.w.core)) (some t.w.core) q = x at hc ⊢
      exact hc.modW
    · exact h
  · extract_lets w va ended fault
    have he {u} (h : s.Keeps u) : s.Keeps (ended u).2 := h.modW
    have hf : s.Keeps fault.2 := he h.modW.raise
    clear_value ended fault
    refine .iteSnd h ?_
    split
    · exact .iteSnd hf (.iteSnd (he h.touchTlb.putSlot.dropLines) h)
    · exact h
    · exact hf

theorem State.Keeps.commitCells {cs} (h : s.Keeps t) : s.Keeps (t.commitCells cs) := by
  refine h.foldl fun u k h => ?_
  split
  · exact h
  · exact h.commitTrip.engineWrite

theorem State.Keeps.commitItem {i} (h : s.Keeps t) : s.Keeps (t.commitItem i).1 := by
  cases i with
  | bytes l cells =>
    dsimp only [State.commitItem]
    cases l.kind with
    | device => exact h.commitTrip.writeFrom
    | host => exact h.setHost h.commitTrip
    | peer => exact h.commitPeer
  | atom op wide l v cmp => exact h.commitAtom
  | push q data =>
    have hp : s.Keeps (t.commitPush q data 0).2 := h.commitPush
    dsimp only [State.commitItem]
    split
    · next e => exact hp.ofSnd e
    · next e => exact hp.ofSnd e
  | engine ticket cells => exact h.commitCells
  | scatter q vs => exact h.foldl fun _ _ h => h.commitCells
  | acq scope => exact h.acquire

theorem State.Keeps.commitBuf {is} (h : s.Keeps t) : s.Keeps (t.commitBuf is).1 := by
  induction is generalizing t with
  | nil => exact h.modW
  | cons i r ih =>
    have hi : s.Keeps (t.commitItem i).1 := h.commitItem
    unfold State.commitBuf
    split
    · next e => exact ih (hi.ofFst e)
    · next e => exact (hi.ofFst e).modW

theorem State.Keeps.commitRet (h : s.Keeps t) : s.Keeps t.commitRet.1 := by
  unfold State.commitRet
  extract_lets done
  have hd {u} (h : s.Keeps u) : s.Keeps (done u).1 := .modW (.ite h h.acquire)
  clear_value done
  split
  · exact h
  · exact hd h.commitAtom.modW
  · split
    · next e => exact hd (h.commitPush.ofSnd e).modW
    · next e => exact h.commitPush.ofSnd e
  · exact hd h.cstApply.modW
  · next ops dst op _ =>
    have hl : s.Keeps (t.latomAll t.w.core op ops).2 := h.latomAll
    refine hd ?_
    split
    · exact hl.modW
    · exact hl.writeDst
  · exact hd (h.foldl fun _ _ h => h.rsumLane)

theorem State.Keeps.commitWaves {ns} (h : s.Keeps t) : s.Keeps (t.commitWaves ns).1 := by
  induction ns generalizing t with
  | nil => exact h
  | cons n r ih =>
    unfold State.commitWaves
    dsimp only
    have hb : s.Keeps ((t.focus n).commitBuf (t.focus n).w.buf).1 := h.focus.commitBuf
    split
    · next u e =>
      have hr : s.Keeps u.commitRet.1 := (hb.ofFst e).commitRet
      split
      · next e => exact ih (hr.ofFst e)
      · next e => exact hr.ofFst e
    · next e => exact hb.ofFst e

theorem State.Keeps.beginCommit {c} (h : s.Keeps t) : s.Keeps (t.beginCommit c) := .ite h (h.foldl fun _ _ h => h.modWave)

theorem keptBy_execQuantumCommit {crew} : s.KeptBy (execQuantumCommit crew s) := by
  unfold execQuantumCommit
  split
  · exact .stay
  · next c _ =>
    extract_lets ws lines
    have h {cores : List Nat} : s.Keeps (((cores.foldl State.deliverCore (s.beginCommit c)).modCrew crew fun c =>
        { c with committing := true }).commitWaves c.waves).1 :=
      .commitWaves (.modCrew (.foldl (.beginCommit (.refl s)) fun _ _ h => h.deliverCore))
    exact .ite .stay (.ite (.next (.modCrew (.foldl h.focus.dropLines fun _ _ h => h.modWave))) (.next h.focus.dropLines))

end Sys2Proof.Machine
end

