-- ==== Sys2Proof/Proofs/KeepsDevice.lean ====
section
/-! SUPPORT. The network, the slices and the platform keep the memories and the counters (Machine/Network.lean, Machine/Platform.lean). -/

namespace Sys2Proof.Machine

open Sys2Proof

variable {s t : State}

/-! Stores on their way (R193, R197, R358). -/

theorem keptBy_execStoreQueueDrain : s.KeptBy (execStoreQueueDrain s) := by
  unfold execStoreQueueDrain
  split
  · exact .stay
  · refine .ite .stay ?_
    extract_lets t
    have ht : s.Keeps t := .modW (.refl s)
    clear_value t
    split
    · exact .ite .stay (.next ht.modCore.setFlow)
    · exact .next (.modCore (ht.setHost (.pass ht)))
    · exact .next (.modCore (State.Keeps.same (.pass ht) rfl))

theorem State.Keeps.invalidateSector {sector line} (h : s.Keeps t) : s.Keeps (t.invalidateSector sector line) := by
  unfold State.invalidateSector
  extract_lets drop1 u
  have hu : s.Keeps u := h.foldl fun _ _ h => h.modCoreAt
  exact hu.same rfl

theorem keptBy_execPacketDelivery {k} : s.KeptBy (execPacketDelivery k s) := by
  unfold execPacketDelivery
  split
  · exact .stay
  · split
    · next e => exact .next (((State.Keeps.refl s).deliverFrom e).same rfl)
    · next e => exact .next (((State.Keeps.refl s).deliverFrom e).same rfl)
    · next e => exact .next ((State.Keeps.refl s).deliverFrom e).invalidateSector.send
    · exact .stay

theorem State.Keeps.reply {src r} (h : s.Keeps t) : s.Keeps (t.reply src r) := h.same rfl

theorem State.Keeps.performReq {k r} (h : s.Keeps t) : s.Keeps (t.performReq k r) := by
  unfold State.performReq
  extract_lets v u
  have hu : s.Keeps u := .perform (.notifyQueues (h.same rfl))
  clear_value u
  exact .ite (.ite hu.pass.reply hu.pass) (.ite hu.modCoreAt.send hu)

theorem State.Keeps.sendInvs {slice line sectors} (h : s.Keeps t) : s.Keeps (t.sendInvs slice line sectors) := h.foldl fun _ _ h => h.send

theorem keptBy_execHomeWrite {k} : s.KeptBy (execHomeWrite k s) := by
  unfold execHomeWrite
  split
  · exact .stay
  · exact .ite .stay (.ite (.next (.performReq (.refl s))) (.next (.sendInvs (.same (.refl s) rfl))))

theorem keptBy_execInvalidationAck {k sector} : s.KeptBy (execInvalidationAck k sector s) := by
  unfold execInvalidationAck
  split
  · exact .stay
  · refine .ite .stay ?_
    split
    · exact .stay
    · next e =>
      have ht := (State.Keeps.refl s).take _ e
      exact .ite .stay (.next (.ite ht.performReq (ht.same rfl)))

theorem keptBy_execStoreAck {core k} : s.KeptBy (execStoreAck core k s) := by
  unfold execStoreAck
  extract_lets acks done
  have hd {t} (h : s.Keeps t) : s.Keeps (done t) := h.modCoreAt
  clear_value done
  split
  · dsimp only
    split
    · exact .next (hd (.pass (.refl s)))
    · refine .next (State.Keeps.getD (.refl s) fun u hu => ?_)
      obtain ⟨t, ht, rfl⟩ := Option.map_eq_some_iff.1 hu
      exact hd ((State.Keeps.refl s).take _ ht)
  · split
    · exact .stay
    · exact .ite .stay (.next (.modCoreAt (.pass (.same (.refl s) rfl))))

/-! Copies (R355 to R362). -/

theorem State.Keeps.addCopy {slice line} (h : s.Keeps t) : s.Keeps (t.addCopy slice line) := by
  unfold State.addCopy
  refine .ite h ?_
  extract_lets mine
  have hc {c : Prop} [Decidable c] : s.Keeps (if c then (true, t) else t.choose).2 := .iteSnd h h.choose
  split
  split
  next e =>
  have hu := hc.ofSnd e
  exact .ite hu (.ite (hu.same rfl) ((hu.pick (n := mine.length)).same rfl))

theorem keptBy_install {replica k} : s.KeptBy (install replica k s) := by
  unfold install
  split
  · exact .stay
  · refine .ite .stay ?_
    split
    · exact .stay
    · next e => exact .next (.send (.addCopy (((State.Keeps.refl s).take _ e).same rfl)))

theorem keptBy_execInstallAck {k} : s.KeptBy (execInstallAck k s) := by
  unfold execInstallAck
  split
  · exact .stay
  · split
    · exact .stay
    · next e =>
      split at e
      · exact .next (((State.Keeps.refl s).take _ e).same rfl)
      · cases e

theorem State.Keeps.readLate {core unit} (h : s.Keeps t) : s.Keeps (t.readLate core unit) := by
  have hw {l : List Nat} {f : Wave → Wave} : s.Keeps (l.foldl (fun u n => u.modWave n f) t) := h.foldl fun _ _ h => h.modWave
  exact .ite hw.modCoreAt hw

theorem keptBy_execProbe {k} : s.KeptBy (execProbe k s) := by
  unfold execProbe
  split
  · exact .stay
  · have ht {src dst} : s.Keeps (s.trip src dst) := .trip (.refl s)
    exact .ite .stay (.ite (.next ht.modCore.readLate) (.ite .stay (.next (.readLate (.ite ht.modCore ht.modCore.roTake)))))

theorem keptBy_execForwardedLineArrival {k} : s.KeptBy (execForwardedLineArrival k s) := by
  unfold execForwardedLineArrival
  split
  · exact .stay
  · exact .ite .stay (.next (.modCore (.ite (.refl s) (.modCore (.l1Room (.refl s))))))

/-! Requests from outside the device (R16, R363, R367 to R369). -/

theorem State.Keeps.sendOutside {src slice p} (h : s.Keeps t) : s.Keeps (t.sendOutside src slice p) := h.setNextId.send

theorem State.Keeps.outsideWrite {src home addr bs} (h : s.Keeps t) : s.Keeps (t.outsideWrite src home addr bs) :=
  h.foldl fun _ _ h => h.sendOutside

theorem State.Keeps.outsideRequest {src home r} (h : s.Keeps t) : s.Keeps (t.outsideRequest src home r) := by
  unfold State.outsideRequest
  split
  · exact h.outsideWrite
  · exact h.reply
  · exact h.sendOutside

theorem keptBy_execHostLinkRequest {link r} : s.KeptBy (execHostLinkRequest link r s) :=
  .ite .stay (.ite (.next (.outsideRequest (.refl s))) .fault)

theorem keptBy_execPeerRequestArrival {src r} : s.KeptBy (execPeerRequestArrival src r s) := by
  unfold execPeerRequestArrival
  refine .ite .stay (.ite (.ite (.next (.outsideRequest (.refl s))) .fault) ?_)
  dsimp only
  split
  · exact .next (.emit (.reply (.refl s)))
  · exact .next (.reply (.refl s))

theorem keptBy_execAtomicUnitOperation {k} : s.KeptBy (execAtomicUnitOperation k s) := by
  unfold execAtomicUnitOperation
  split
  · exact .stay
  · refine .ite .stay ?_
    extract_lets n t u
    have ht : s.Keeps t := .pass (.same (.refl s) rfl)
    have hu : s.Keeps u := ht.reply
    clear_value t u
    refine .ite (.next ht.reply) ?_
    split
    · exact .next hu.writeHome
    · exact .next hu

theorem keptBy_execPeerRequestTimeout {k} : s.KeptBy (execPeerRequestTimeout k s) := by
  unfold execPeerRequestTimeout
  split
  · exact .stay
  · exact .next (.dropStore (.modCoreAt (.same (.refl s) rfl)))

/-! Links, records and sensors (R194, R289, R351, R352, R370, R371, R381). -/

theorem State.Keeps.mgDone {status} (h : s.Keeps t) : s.Keeps (t.mgDone status) := h.same rfl

theorem keptBy_execLinkOutOfService {kind num} : s.KeptBy (execLinkOutOfService kind num s) :=
  .ite (.next (.emitSector (.same (.refl s) rfl))) .stay

theorem keptBy_execLinkBackInService {kind num} : s.KeptBy (execLinkBackInService kind num s) :=
  .ite (.next (.emitSector (.ite (.mgDone (.same (.refl s) rfl)) (.same (.refl s) rfl)))) .stay

theorem keptBy_execEventRecordWrite {kind num} : s.KeptBy (execEventRecordWrite kind num s) := by
  unfold execEventRecordWrite
  extract_lets src
  split
  · exact .stay
  · refine .ite .stay (.next ?_)
    exact .same (State.Keeps.setHost (.refl s) (.pass (.refl s))) rfl

theorem keptBy_execRefreshWindow {channel} : s.KeptBy (execRefreshWindow channel s) := .next (.ite (.refl s) (.same (.refl s) rfl))
theorem keptBy_execRefreshWindowEnd {channel} : s.KeptBy (execRefreshWindowEnd channel s) := .next (.same (.refl s) rfl)

theorem keptBy_execRefreshStateChange {region celsius} : s.KeptBy (execRefreshStateChange region celsius s) :=
  .ite .stay (.ite (.next (.emitSector (.same (.refl s) rfl))) (.ite (.next (.emitSector (.same (.refl s) rfl))) .stay))

theorem keptBy_execDramRetrainEnd {channel} : s.KeptBy (execDramRetrainEnd channel s) :=
  .ite (.next (.ite (.mgDone (.same (.refl s) rfl)) (.same (.refl s) rfl))) .stay

theorem keptBy_execThermalAllowanceUpdate {core} : s.KeptBy (execThermalAllowanceUpdate core s) :=
  .next (.ite (.refl s) (.modCoreAt (.refl s)))

theorem keptBy_execLogicAllowanceSet {cluster celsius} : s.KeptBy (execLogicAllowanceSet cluster celsius s) :=
  .next (.ite (.refl s) (.same (.refl s) rfl))

theorem keptBy_execPowerAllowanceStep {watts} : s.KeptBy (execPowerAllowanceStep watts s) := .next (.same (.refl s) rfl)

theorem keptBy_execDramRegionAtRating {region celsius} : s.KeptBy (execDramRegionAtRating region celsius s) :=
  .next (.ite (.refl s) (.ite (.same (.refl s) rfl) (.ite (.same (.refl s) rfl) (.refl s))))

theorem keptBy_execUncorrectableErrorPoison {unit num addr} : s.KeptBy (execUncorrectableErrorPoison unit num addr s) :=
  .next (.ite (.ite (.refl s) (.same (.refl s) rfl)) (.ite (.ite (.refl s) (.same (.refl s) rfl)) (.modWave (.refl s))))

/-! Resets (R372, R373, R375). -/

theorem State.Keeps.containWave {n} (h : s.Keeps t) : s.Keeps (t.containWave n) := .ite h.killCrew h

theorem State.Keeps.modCores {l : List Nat} {f : Core → Core} (h : s.Keeps t) : s.Keeps (l.foldl (fun s n => s.modCoreAt n f) t) :=
  h.foldl fun _ _ h => h.modCoreAt

theorem State.Keeps.resetCluster {cluster trigger} (h : s.Keeps t) : s.Keeps (t.resetCluster cluster trigger) :=
  .emitSector (.modCores (.foldl h.modCores fun _ _ h => h.containWave))

theorem keptBy_execClusterReset {cluster trigger} : s.KeptBy (execClusterReset cluster trigger s) := by
  have h : s.Keeps ((clusterCores cluster).foldl (fun s n => s.modCoreAt n fun c => { c with inReset := true }) s) := .modCores (.refl s)
  exact .ite .stay (.ite (.next (.resetCluster (.refl s))) (.next (h.same rfl)))

theorem keptBy_execResetSweepEnd {cluster} : s.KeptBy (execResetSweepEnd cluster s) :=
  .ite .stay (.next (.retireCores (.foldl (.ite (.same (.refl s) rfl) (.refl s)) fun _ _ h => .ite h.modCoreAt h)))

/-- Putting back the bytes that DRAM holds of a sector. -/
theorem State.Keeps.restoreSector {k old} (h : s.Keeps t) (ho : s.memWf → Memory.wf old = true) :
    s.Keeps { t with mem := setRegion t.mem (128 * k) 128 old } :=
  ⟨fun w => ⟨Memory.wf_setRegion _ _ _ _ (h.1 w).1 (ho w), (h.1 w).2⟩, h.2⟩

theorem State.Keeps.loseDirty (h : s.Keeps t) : s.Keeps t.loseDirty :=
  List.foldlRecOn t.dirty _ h fun _ hu e he => .ite hu.choose (.restoreSector hu.choose fun w => (h.1 w).2.2.2 e he)

/-- A device reset leaves no dirty sector and no counter (R375). -/
theorem State.Keeps.restart (h : s.Keeps t) : s.Keeps t.restart := by
  have hl : s.Keeps t.loseDirty := h.loseDirty
  refine ⟨fun w => ?_, fun _ => ⟨fun _ => Nat.two_pow_pos 40, fun _ => Nat.two_pow_pos 40⟩⟩
  obtain ⟨hmem, hhost, hskim, -⟩ := hl.1 w
  exact ⟨hmem, hhost, hskim, fun _ he => nomatch he⟩

/-! Firmware and the management interface (R376 to R383). -/

theorem State.Keeps.setFw {fw} (h : s.Keeps t) : s.Keeps { t with fw := fw } := h.same rfl

theorem State.Keeps.dropTrowel {sector} (h : s.Keeps t) : s.Keeps (t.dropTrowel sector) := .modSector (h.foldl fun _ _ h => h.modCoreAt)

theorem keptBy_execSectorFirmwareSwitch {sector} : s.KeptBy (execSectorFirmwareSwitch sector s) := by
  unfold execSectorFirmwareSwitch
  split
  · exact .stay
  · refine .ite .stay ?_
    have h {l : List (Nat × Nat)} {image fw} : s.Keeps (l.foldl (fun t r => t.resetCluster r.1 r.2)
        { (s.dropTrowel sector).modSector sector fun y => { y with image := image } with fw := fw }) :=
      .foldl (.setFw (.modSector (.dropTrowel (.refl s)))) fun _ _ h => h.resetCluster
    exact .next (.ite h.mgDone h)

theorem keptBy_execEventRingConfig {size v} : s.KeptBy (execEventRingConfig size v s) := .next (.ite (.same (.refl s) rfl) (.refl s))

theorem keptBy_execMgRegisterWrite {reg v} : s.KeptBy (execMgRegisterWrite reg v s) := by
  have h {mg} : s.Keeps { s with mg := mg } := .same (.refl s) rfl
  exact .next (.ite (.refl s) (.ite (.ite (.refl s) (.ite h (.mgDone h))) (.ite h (.ite h (.refl s)))))

theorem keptBy_command {code f} (h : s.Keeps (f s)) : s.KeptBy (command code s f) := .next (.ite h (.refl s))

theorem keptBy_execStageImage : s.KeptBy (execStageImage s) := keptBy_command (.mgDone (.ite (.same (.refl s) rfl) (.refl s)))

theorem keptBy_execActivate : s.KeptBy (execActivate s) := by
  refine keptBy_command (.ite (.refl s) ?_)
  split
  · exact .mgDone (.refl s)
  · exact .ite (.mgDone (.refl s)) (.ite (.restart (State.Keeps.refl s).setFw) (State.Keeps.refl s).setFw)

theorem keptBy_execAttest : s.KeptBy (execAttest s) :=
  keptBy_command (.mgDone (.ofMem (.refl s) (fun w => ⟨w.1, Memory.wf_writeCells _ _ (Memory.wf_writeCells _ _ w.2.1), w.2.2⟩) rfl))

theorem keptBy_execRetrainDramChannel : s.KeptBy (execRetrainDramChannel s) :=
  keptBy_command (.ite (.mgDone (.refl s)) (.ite (.refl s) (.same (.refl s) rfl)))

theorem keptBy_execRetrainLink : s.KeptBy (execRetrainLink s) :=
  keptBy_command (.ite (.mgDone (.refl s)) (.ite (.refl s) (.same (.refl s) rfl)))

theorem keptBy_execResetCluster : s.KeptBy (execResetCluster s) :=
  keptBy_command (.ite (.mgDone (.refl s)) (.mgDone (.resetCluster (.refl s))))

theorem State.Keeps.retireAll {cores} (h : s.Keeps t) : s.Keeps (t.retireAll cores) := h.modCores.retireCores

theorem keptBy_execRetireCore : s.KeptBy (execRetireCore s) :=
  keptBy_command (.ite (.mgDone (.refl s)) (.ite (.mgDone (.refl s)) (.mgDone (.retireAll (.refl s)))))

theorem keptBy_execRetireCluster : s.KeptBy (execRetireCluster s) :=
  keptBy_command (.ite (.mgDone (.refl s)) (.ite (.mgDone (.refl s)) (.mgDone (.retireAll (.refl s)))))

theorem keptBy_execSetPeerRoute : s.KeptBy (execSetPeerRoute s) :=
  keptBy_command (.ite (.mgDone (.same (.refl s) rfl)) (.mgDone (.refl s)))

end Sys2Proof.Machine
end

