-- ==== Sys2Proof/Proofs/KeepsControl.lean ====
section
/-! SUPPORT. Lane runs, traps, translation buffers, cache instructions and the code that a core fetches keep the memories and the counters
(Machine/LaneQueue.lean, Machine/System.lean). -/

namespace Sys2Proof.Machine

open Sys2Proof

variable {s t : State}

/-! The lane queue and what enters it (R72 to R79, R85, R137, R258, R345). -/

theorem State.Keeps.enqueueRun {target} (h : s.Keeps t) : s.Keeps (t.enqueueRun target) := by
  unfold State.enqueueRun
  extract_lets va u v
  have hv : s.Keeps v := by
    refine .touchTlb ?_
    unfold u
    split
    · exact .ite h.missTrip (.ite h.atomTrip h)
    · exact h
  clear_value v
  split
  · exact h.touchTlb.modW
  · refine .modW ?_
    split
    · exact hv.modCore
    · exact hv

theorem keeps_lexecWork {target} (h : s.Keeps t) : (lexecWork t target).Gives s.Keeps :=
  .step fun _ => .step fun _ => .step fun _ => .ok h.enqueueRun

theorem keptBy_execLexec {a i} : s.KeptBy (execLexec a i s) := .finishSeq (keeps_lexecWork (.refl s))
theorem keptBy_execLexecC {c a i} : s.KeptBy (execLexecC c a i s) := .finishSeq (.ite (.ok (.refl s)) (keeps_lexecWork (.refl s)))
theorem keptBy_waiting {d f} : s.KeptBy (waiting d f s) := .finishSeq (.step fun _ => .ok (.setS (.refl s)))
theorem keptBy_execLread {d a n} : s.KeptBy (execLread d a n s) := .finishSeq (.step fun _ => .step fun _ => .ok (.setS (.refl s)))
theorem keptBy_execLsync : s.KeptBy (execLsync s) := .finishSeq (.step fun _ => .step fun _ => .ok (.refl s))
theorem keptBy_execSrStop {n} : s.KeptBy (execSrStop n s) := .finishSeq (State.Keeps.refl s).enqueueCmd

theorem keptBy_execDLd {n a i} : s.KeptBy (execDLd n a i s) :=
  .finishSeq (.step fun _ => .step fun _ => (State.Keeps.refl s).touchTlb.enqueueCmd)

theorem keptBy_execDSt {n a i} : s.KeptBy (execDSt n a i s) :=
  .finishSeq (.step fun _ => .step fun _ => (State.Keeps.refl s).touchTlb.enqueueCmd)

theorem keptBy_execDMov {n m} : s.KeptBy (execDMov n m s) := .finishSeq (State.Keeps.refl s).enqueueCmd
theorem keptBy_execDSet {n a f} : s.KeptBy (execDSet n a f s) := .finishSeq (.step fun _ => .step fun _ => (State.Keeps.refl s).enqueueCmd)
theorem keptBy_execDGet {d m f} : s.KeptBy (execDGet d m f s) := .finishSeq (.step fun _ => .step fun _ => .ok (.setS (.refl s)))
theorem keptBy_execAccClr {n} : s.KeptBy (execAccClr n s) := .finishSeq (.step fun _ => (State.Keeps.refl s).enqueueCmd)
theorem keptBy_execAccAnc {n a} : s.KeptBy (execAccAnc n a s) := .finishSeq (.step fun _ => .step fun _ => (State.Keeps.refl s).enqueueCmd)

/-! Lane runs (R26, R85, R118, R342 to R347). -/

theorem State.Keeps.trowelRequest {a image cls} (h : s.Keeps t) : s.Keeps (t.trowelRequest a image cls) :=
  .ite h (.ite h.modCore h.modCore.modSector)

theorem keptBy_execLaneRunStart : s.KeptBy (execLaneRunStart s) := by
  unfold execLaneRunStart
  split
  · refine .ite .stay ?_
    extract_lets t
    have ht : s.Keeps t := .modW (.refl s)
    clear_value t
    split
    · exact .next (.ite (.swapPoint (.ite ht.modCore.trowelRequest ht.modCore)) (.ite ht.modCore.trowelRequest ht.modCore))
    · exact .next ht
  · exact .stay

theorem keptBy_execUncheckedResultReturn {k} : s.KeptBy (execUncheckedResultReturn k s) := by
  unfold execUncheckedResultReturn
  split
  · exact .stay
  · refine .ite .stay ?_
    extract_lets younger es t
    have ht : s.Keeps t := .modW (.refl s)
    clear_value t
    split
    · exact .next (.ite ht.parkDone.laneStepped ht)
    · exact .next ht

theorem keptBy_execRngCounterReset : s.KeptBy (execRngCounterReset s) := by
  unfold execRngCounterReset
  split
  · exact .next (.modW (.refl s))
  · exact .stay

theorem State.Keeps.blockArrives {core a} (h : s.Keeps t) : s.Keeps (t.blockArrives core a) := .ite h h.modCoreAt

theorem keptBy_execLaneBlockFill {core k} : s.KeptBy (execLaneBlockFill core k s) := by
  unfold execLaneBlockFill
  split
  · exact .ite .stay (.next (.blockArrives (.modCoreAt (.missTrip (.refl s)))))
  · exact .stay

theorem keptBy_execUnverifiedBlockRefetch {core block} : s.KeptBy (execUnverifiedBlockRefetch core block s) := by
  unfold execUnverifiedBlockRefetch
  extract_lets c
  split
  · exact .ite (.next (.blockArrives (.modCoreAt (.missTrip (.refl s))))) .stay
  · exact .stay

theorem keptBy_execLnop {w} : s.KeptBy (execLnop w s) := .finishLane (.ok (.refl s))
theorem keptBy_execLbrk {w} : s.KeptBy (execLbrk w s) := .finishLane (.step fun _ => .ok (.refl s))

/-- A word that no core runs. -/
theorem keptBy_unimplWord {mark} : s.KeptBy (finishLane mark s (trap .unimpl 0)) := .finishLane .error

/-! The end of a wave, traps and the watchdog (R81, R310 to R319, R324). -/

theorem keptBy_execExit : s.KeptBy (execExit s) := .ite (.next (.stall (.refl s))) (.next (.modW (.refl s)))

theorem keptBy_execWaveFree : s.KeptBy (execWaveFree s) := by
  unfold execWaveFree
  split
  · exact .next (.modW (.deliverCore (.refl s)))
  · exact .next (.raise (.refl s))
  · exact .next (.raise (.setEngine (.refl s)))
  · exact .next (.raise (.dropSweep (.refl s)))
  · exact .next (.ite (.endQuantum (.refl s)) (.refl s))

theorem State.Keeps.countWord (h : s.Keeps t) : s.Keeps t.countWord := h.modW

theorem keptBy_execSys {i} : s.KeptBy (execSys i s) := .next (.raise (.countWord (.refl s)))
theorem keptBy_execBrk {i} : s.KeptBy (execBrk i s) := .next (.raise (.countWord (.refl s)))

theorem keptBy_execEret : s.KeptBy (execEret s) := by
  unfold execEret
  split
  · exact .next (.modW (.countWord (.refl s)))
  · exact .next (.raise (.refl s))
  · exact .next (.raise (.setEngine (.refl s)))
  · exact .next (.raise (.dropSweep (.refl s)))
  · exact .next (.stall (.refl s))

theorem keptBy_execStep : s.KeptBy (execStep s) := .finishSeq (.step fun _ => .ok (.modW (.refl s)))
theorem keptBy_execFq {d i} : s.KeptBy (execFq d i s) := .finishSeq (.step fun _ => .ok (.setS (.refl s)))

theorem keptBy_execTrapEntry : s.KeptBy (execTrapEntry s) := by
  unfold execTrapEntry
  split
  · exact .next (.ite (.refl s) (.enterTrap (.refl s)))
  · exact .stay

theorem State.Keeps.passTime (h : s.Keeps t) : s.Keeps t.passTime := by
  have hp : s.Keeps t.passCycles.2 := h.passCycles
  unfold State.passTime
  split
  next u e =>
  have hu : s.Keeps u := hp.ofSnd e
  split
  next e =>
  have hv := State.Keeps.ofSnd (.iteSnd hu.choose hu) e
  exact .ite hv.modW hv

theorem keptBy_execWatchdog : s.KeptBy (execWatchdog s) :=
  have h : s.Keeps s.passTime := .passTime (.refl s)
  .next (.ite h.raise h)

/-! Translation buffers and cache instructions (R215, R218, R321, R322). -/

/-- Sectors that leave the list of the dirty ones. -/
theorem State.Keeps.dropDirty {p : Nat × Memory → Bool} (h : s.Keeps t) : s.Keeps { t with dirty := t.dirty.filter p } :=
  h.ofMem (fun ⟨hmem, hhost, hskim, hdirty⟩ => ⟨hmem, hhost, hskim, fun e he => hdirty e (List.mem_of_mem_filter he)⟩) rfl

theorem State.Keeps.invalidateTlbs {k} (h : s.Keeps t) : s.Keeps (t.invalidateTlbs k) := by
  unfold State.invalidateTlbs
  extract_lets pages pins u lines v keep x
  have hu : s.Keeps u := h.unpin
  have hv : s.Keeps v := hu.dropDirty.foldl fun _ _ h => h.invalidate
  have hx : s.Keeps x := hv.foldl fun _ _ h => h.modCoreAt
  exact hx.foldl fun _ _ h => h.modSector

theorem keptBy_tlbOp {k} : s.KeptBy (tlbOp k s) := by
  refine .finishSeq ?_
  repeat refine .step fun _ => ?_
  exact .ok (.invalidateTlbs (.freshen (.release (.refl s))))

theorem State.Keeps.writeBack {line} (h : s.Keeps t) : s.Keeps (t.writeBack line) := h.dropDirty

theorem State.Keeps.discardSector {k old} (h : s.Keeps t) (ho : s.memWf → Memory.wf old = true) : s.Keeps (t.discardSector k old).1 :=
  .iteFst h.choose.dropDirty (State.Keeps.restoreSector h.choose ho).dropDirty

theorem State.Keeps.discardSectors {es : List (Nat × Memory)} (h : s.Keeps t) (hes : s.memWf → ∀ e ∈ es, Memory.wf e.2 = true) :
    s.Keeps (t.discardSectors es).1 := by
  induction es generalizing t with
  | nil => exact h
  | cons e r ih =>
    exact ih (h.discardSector fun w => hes w e List.mem_cons_self) fun w e he => hes w e (List.mem_cons_of_mem _ he)

theorem State.Keeps.discardLine {line} (h : s.Keeps t) : s.Keeps (t.discardLine line) := by
  unfold State.discardLine
  refine .ite h.writeBack ?_
  have hd : s.Keeps (t.discardSectors (t.dirty.filter fun e => e.1 / 4 == line)).1 :=
    h.discardSectors fun w e he => (h.1 w).2.2.2 e (List.mem_of_mem_filter he)
  split
  next e =>
  have hu := hd.ofFst e
  exact .modCore (.invalidate (.ite (hu.same rfl) hu))

theorem State.Keeps.touchLines {va len} (h : s.Keeps t) : s.Keeps (t.touchLines va len) := .ite h (h.foldl fun _ _ h => h.touchTlb)

theorem State.Keeps.flushLine {line} (h : s.Keeps t) : s.Keeps (t.flushLine line) := by
  unfold State.flushLine
  refine .ite h.writeBack ?_
  split
  next e =>
  have hu := State.Keeps.ofSnd (.iteSnd h.choose h) e
  have hd := (hu.writeBack (line := line)).discardLine (line := line)
  exact .ite (hd.same rfl) hd

theorem keptBy_cacheOp {priv f a b} (hf : ∀ t line, s.Keeps t → s.Keeps (f t line)) : s.KeptBy (cacheOp priv f a b s) :=
  .finishSeq <| .step fun _ => .step fun _ => .step fun _ => .ok (.foldl (.touchLines (.refl s)) hf)

theorem keptBy_execCacheWb {a b} : s.KeptBy (execCacheWb a b s) := keptBy_cacheOp fun _ _ h => h.writeBack
theorem keptBy_execCacheInv {a b} : s.KeptBy (execCacheInv a b s) := keptBy_cacheOp fun _ _ h => h.discardLine
theorem keptBy_execCacheWbinv {a b} : s.KeptBy (execCacheWbinv a b s) := keptBy_cacheOp fun _ _ h => h.flushLine

/-! Code that a core fetches (R336 to R347). -/

theorem keptBy_execIpref {k a i} : s.KeptBy (execIpref k a i s) := by
  unfold execIpref
  extract_lets unit f hit start
  refine .finishSeq (.ok (.ite (.refl s) ?_))
  have hs (f : Fill) : s.Keeps (start f) := .modCore (.refl s)
  clear_value hit start
  split
  · split
    · exact .ite (.refl s) (hs _)
    · exact .ite (.refl s) (hs _)
  · exact .ite (.ite (.refl s) (.ite (.refl s) (.ite (.refl s) (hs _)))) (.refl s)

theorem keptBy_execPageWalkComplete {core k} : s.KeptBy (execPageWalkComplete core k s) := by
  unfold execPageWalkComplete
  split
  · exact .next (.ite (.refl s) (.endWalk (.refl s)))
  · exact .stay

theorem keptBy_execIcacheFill {core k} : s.KeptBy (execIcacheFill core k s) := by
  unfold execIcacheFill
  split
  · have ht {l} : s.Keeps (s.missTrip core l) := .missTrip (.refl s)
    exact .ite .stay (.next (.ite ht.modCoreAt (.modCoreAt ht.modCoreAt)))
  · exact .stay

theorem keptBy_execPfenceCode : s.KeptBy (execPfenceCode s) :=
  .finishSeq <| .branch fun _ => .step fun _ => .step fun _ => .ok (.modCore (.refl s))

theorem keptBy_execTrowelTranslationComplete {sector no} : s.KeptBy (execTrowelTranslationComplete sector no s) := by
  unfold execTrowelTranslationComplete
  split
  · exact .stay
  · exact .next (.modCoreAt (.modSector (.refl s)))

theorem keptBy_execTraceInstall {sector k} : s.KeptBy (execTraceInstall sector k s) := by
  unfold execTraceInstall
  split
  · exact .stay
  · have ht {f} : s.Keeps (s.modSector sector f) := .modSector (.refl s)
    exact .next (.ite (.modCoreAt ht) ht)

/-! Jumps and instructions that write one register. -/

theorem keptBy_execJ {o} : s.KeptBy (execJ o s) := .finish (.ok (.jump (.refl s)))
theorem keptBy_execCall {o} : s.KeptBy (execCall o s) := .finish (.ok (.jump (.setS (.refl s))))
theorem keptBy_execJlr {d a i} : s.KeptBy (execJlr d a i s) := .finish (.step fun _ => .ok (.jump (.setS (.refl s))))

theorem keptBy_execLoop {a o} : s.KeptBy (execLoop a o s) :=
  have h {v} : s.Keeps (s.setS a v) := .setS (.refl s)
  .finish (.ok (.ite h.jump h.advance))

theorem keptBy_execRdcyc {d} : s.KeptBy (execRdcyc d s) := .finishSeq (.ok (.setS (.passCycles (.refl s))))
theorem keptBy_execCsrr {d c} : s.KeptBy (execCsrr d c s) := .finishSeq (.step fun _ => .ok (.setS (.refl s)))

/-! Quanta, and registers that the environment writes. -/

theorem keptBy_execQnt : s.KeptBy (execQnt s) := .finishSeq (.ok (.ite (.endQuantum (.refl s)) (.refl s)))
theorem keptBy_execQuantumCountExpiry : s.KeptBy (execQuantumCountExpiry s) := .next (.ite (.modW (.endQuantum (.refl s))) (.refl s))
theorem keptBy_execSigWaitWake : s.KeptBy (execSigWaitWake s) := .next (.modW (.refl s))
theorem keptBy_execCountDelivery {core} : s.KeptBy (execCountDelivery core s) := .next (.deliverCore (.refl s))
theorem keptBy_execXthrWrite {v} : s.KeptBy (execXthrWrite v s) := .event (State.Keeps.refl s).setXthr
theorem keptBy_execQueueRegister {v} : s.KeptBy (execQueueRegister v s) := .next (.ite (.refl s) (.setQreg (.refl s)))
theorem keptBy_execQueueUnregister {v} : s.KeptBy (execQueueUnregister v s) := .next (.ite (.refl s) (.setQreg (.refl s)))
theorem keptBy_execCtxctlWrite {v} : s.KeptBy (execCtxctlWrite v s) := .next (.setCtxctl (.refl s))
theorem keptBy_execCtxskimWrite {v} : s.KeptBy (execCtxskimWrite v s) := .event (State.Keeps.refl s).setCtxskim
theorem keptBy_execFqvalWrite {v} : s.KeptBy (execFqvalWrite v s) := .next (.setFqval (.refl s))
theorem keptBy_execApctlWrite {v} : s.KeptBy (execApctlWrite v s) := .event (State.Keeps.refl s).setApctl
theorem keptBy_execDeviceReset : s.KeptBy (execDeviceReset s) := .next (.restart (.refl s))

end Sys2Proof.Machine
end

