-- ==== Sys2Proof/Proofs/KeepsStep.lean ====
section
/-! SUPPORT. Every instruction, every step of the device and every turn keeps the memories and the counters (Machine/Dispatch.lean,
Machine/Streams.lean, Machine/Step.lean). -/

namespace Sys2Proof.Machine

open Sys2Proof

variable {s t : State}

/-- By the lemma of the meaning that the instruction has, or shares with others of its kind; `exec` is unfolded first where that meaning takes a
function, which the whole table would hide. -/
theorem keptBy_exec {i : Instr} : s.KeptBy (exec i s) := by
  cases i with
  | add | sub | and | or | xor | andn | shl | shr | sra | mul | mulh | mulhn | min | max | minn | maxn | slt | sltn | seq | clz | ctz | pop | addw
  | subw | addi | andi | ori | xori | shli | shri | srai | slti | sltni | muli | pca | scw | cpTest =>
    exact keptBy_finishSeq_setS
  | div | divn | rem | remn =>
    unfold exec
    exact keptBy_division
  | beq | bne | blt | bge | bltn | bgen =>
    unfold exec
    exact keptBy_branch
  | j => exact keptBy_execJ
  | call => exact keptBy_execCall
  | jlr => exact keptBy_execJlr
  | loop => exact keptBy_execLoop
  | lexec => exact keptBy_execLexec
  | lexecC => exact keptBy_execLexecC
  | lany | lall | lcount =>
    unfold exec
    exact keptBy_waiting
  | lsync => exact keptBy_execLsync
  | lread => exact keptBy_execLread
  | exit => exact keptBy_execExit
  | rdcyc => exact keptBy_execRdcyc
  | csrr => exact keptBy_execCsrr
  | csrw => exact keptBy_execCsrw
  | xcnt => exact keptBy_execXcnt
  | xclr => exact keptBy_execXclr
  | dLd => exact keptBy_execDLd
  | dSt => exact keptBy_execDSt
  | dMov => exact keptBy_execDMov
  | dSet => exact keptBy_execDSet
  | dGet => exact keptBy_execDGet
  | accClr => exact keptBy_execAccClr
  | accAnc => exact keptBy_execAccAnc
  | ldb | ldbn | ldh | ldhn | ldw | ldwn | ldd => exact keptBy_scalarLoad
  | stb | sth | stw | std => exact keptBy_scalarStore
  | atomAdd | atomAnd | atomOr | atomXor | atomMin | atomMax | atomMinn | atomMaxn | atomSwap | atomCas => exact keptBy_scalarAtomic
  | ldv => exact keptBy_execLdv
  | fence => exact keptBy_execFence
  | pfence => exact keptBy_execPfence
  | pinL2 => exact keptBy_execPinL2
  | unpinL2 => exact keptBy_execUnpinL2
  | pref => exact keptBy_execPref
  | cpPlane | cpPlaneSw | cpStore | cpSkim | cpFill => exact keptBy_copyIssue
  | cpWait => exact keptBy_execCpWait
  | cpRetry => exact keptBy_execCpRetry
  | srBind => exact keptBy_execSrBind
  | srStop => exact keptBy_execSrStop
  | taskPush => exact keptBy_execTaskPush
  | crewBar => exact keptBy_execCrewBar
  | crewArrive => exact keptBy_execCrewArrive
  | crewWait => exact keptBy_execCrewWait
  | qnt => exact keptBy_execQnt
  | phaseEnd => exact keptBy_execPhaseEnd
  | sigWait => exact keptBy_execSigWait
  | sigAdd => exact keptBy_execSigAdd
  | sys => exact keptBy_execSys
  | brk => exact keptBy_execBrk
  | eret => exact keptBy_execEret
  | tlbAll | tlbVa | tlbCtx =>
    unfold exec
    exact keptBy_tlbOp
  | cacheWb => exact keptBy_execCacheWb
  | cacheInv => exact keptBy_execCacheInv
  | cacheWbinv => exact keptBy_execCacheWbinv
  | fq => exact keptBy_execFq
  | step => exact keptBy_execStep
  | ipref => exact keptBy_execIpref
  | pfenceCode => exact keptBy_execPfenceCode
  | cst4 => exact keptBy_execCst4
  | mov f | laneAdd f | laneSub f | laneMul f | laneAnd f | laneOr f | laneXor f | laneAndn f | laneShl f | laneShr f | laneSra f | laneMin f
  | laneMax f | abs f | neg f | fadd f | fsub f | fmul f | fmin f | fmax f | fabs f | fneg f | rcp f | rsqrt f | cvt f =>
    dsimp only [exec, execMov, execLaneAdd, execLaneSub, execLaneMul, execLaneAnd, execLaneOr, execLaneXor, execLaneAndn, execLaneShl,
      execLaneShr, execLaneSra, execLaneMin, execLaneMax, execAbs, execNeg, execFadd, execFsub, execFmul, execFmin, execFmax, execFabs,
      execFneg, execRcp, execRsqrt, execCvt]
    cases f with
    | full w => exact keptBy_elementwise
    | pair mark x yop y => exact keptBy_pairWord
  | laneMulh | mad | laneClz | lanePop | laneDiv | laneRem | bfx | bfi | fma | fdiv | sqrt | exp2 | log2 | sin | cos | tanh | mkscale | unscale =>
    unfold exec
    exact keptBy_elementwise
  | cmp | mand | mor | mxor | mnot | mset | fcmp =>
    unfold exec
    exact keptBy_maskWord
  | mget | lid =>
    unfold exec
    exact keptBy_identWord
  | rng => exact keptBy_execRng
  | rdx => exact keptBy_execRdx
  | wrx => exact keptBy_execWrx
  | bmix | dotI4 =>
    unfold exec
    exact keptBy_unimplWord
  | pack => exact keptBy_execPack
  | unpack => exact keptBy_execUnpack
  | shift | rot | spread | scan | refold | ptrans | pick | rotL1 =>
    unfold exec
    exact keptBy_planeWord
  | foldSum | foldMax | foldMin | foldSq =>
    unfold exec
    exact keptBy_foldWord
  | pAdd | pMul | pFma | pMax | pMin =>
    unfold exec
    exact keptBy_planeArith
  | dot | dotSp =>
    unfold exec
    exact keptBy_dotWord
  | sweep | sweepSp => exact keptBy_sweepWord
  | spack => exact keptBy_execSpack
  | resolve => exact keptBy_execResolve
  | accCmp => exact keptBy_execAccCmp
  | accMerge => exact keptBy_execAccMerge
  | accSave => exact keptBy_execAccSave
  | accLoad => exact keptBy_execAccLoad
  | accFlags => exact keptBy_execAccFlags
  | ldLm => exact keptBy_execLdLm
  | stLm => exact keptBy_execStLm
  | ldG | ldRo => exact keptBy_laneLoad
  | stG => exact keptBy_execStG
  | ldSk => exact keptBy_execLdSk
  | stSk => exact keptBy_execStSk
  | latom => exact keptBy_execLatom
  | atomRsum => exact keptBy_execAtomRsum
  | qpeek => exact keptBy_execQpeek
  | qskip => exact keptBy_execQskip
  | lnop => exact keptBy_execLnop
  | lbrk => exact keptBy_execLbrk
  | laneRunStart => exact keptBy_execLaneRunStart
  | uncheckedResultReturn => exact keptBy_execUncheckedResultReturn
  | descriptorCommandApply => exact keptBy_execDescriptorCommandApply
  | accControlApply => exact keptBy_execAccControlApply
  | copyCommandAccept => exact keptBy_execCopyCommandAccept
  | srBindAccept => exact keptBy_execSrBindAccept
  | srStopAccept => exact keptBy_execSrStopAccept
  | scoreboardEntryGrant => exact keptBy_execScoreboardEntryGrant
  | copyLineLand => exact keptBy_execCopyLineLand
  | copyOperationComplete => exact keptBy_execCopyOperationComplete
  | boundSweepStart => exact keptBy_execBoundSweepStart
  | sweepComplete => exact keptBy_execSweepComplete
  | streamValueFetch => exact keptBy_execStreamValueFetch
  | streamScatterDrain => exact keptBy_execStreamScatterDrain
  | pageRequestResponse => exact keptBy_execPageRequestResponse
  | pageWalkComplete => exact keptBy_execPageWalkComplete
  | icacheFill => exact keptBy_execIcacheFill
  | laneBlockFill => exact keptBy_execLaneBlockFill
  | unverifiedBlockRefetch => exact keptBy_execUnverifiedBlockRefetch
  | trowelTranslationComplete => exact keptBy_execTrowelTranslationComplete
  | traceInstall => exact keptBy_execTraceInstall
  | scalarLoadReturn => exact keptBy_execScalarLoadReturn
  | storeQueueDrain => exact keptBy_execStoreQueueDrain
  | storeAck => exact keptBy_execStoreAck
  | homeWrite => exact keptBy_execHomeWrite
  | invalidationAck => exact keptBy_execInvalidationAck
  | installAck => exact keptBy_execInstallAck
  | guestCopyInstall | replicaInstall => exact keptBy_install
  | probe => exact keptBy_execProbe
  | forwardedLineArrival => exact keptBy_execForwardedLineArrival
  | atomicUnitOperation => exact keptBy_execAtomicUnitOperation
  | packetDelivery => exact keptBy_execPacketDelivery
  | hostLinkRequest => exact keptBy_execHostLinkRequest
  | peerRequestArrival => exact keptBy_execPeerRequestArrival
  | peerRequestTimeout => exact keptBy_execPeerRequestTimeout
  | linkOutOfService => exact keptBy_execLinkOutOfService
  | linkBackInService => exact keptBy_execLinkBackInService
  | dramRetrainEnd => exact keptBy_execDramRetrainEnd
  | refreshWindow => exact keptBy_execRefreshWindow
  | refreshStateChange => exact keptBy_execRefreshStateChange
  | thermalAllowanceUpdate => exact keptBy_execThermalAllowanceUpdate
  | logicAllowanceSet => exact keptBy_execLogicAllowanceSet
  | powerAllowanceStep => exact keptBy_execPowerAllowanceStep
  | countDelivery => exact keptBy_execCountDelivery
  | eventRecordWrite => exact keptBy_execEventRecordWrite
  | queueNotify => exact keptBy_execQueueNotify
  | taskPacketPop => exact keptBy_execTaskPacketPop
  | bulkCopyPacket => exact keptBy_execBulkCopyPacket
  | bulkCopyComplete => exact keptBy_execBulkCopyComplete
  | signalPacket => exact keptBy_execSignalPacket
  | taskPushSlotWrite => exact keptBy_execTaskPushSlotWrite
  | candidateAging => exact keptBy_execCandidateAging
  | crewPlace => exact keptBy_execCrewPlace
  | waveStart => exact keptBy_execWaveStart
  | barrierGenerationComplete => exact keptBy_execBarrierGenerationComplete
  | sigWaitWake => exact keptBy_execSigWaitWake
  | quantumCountExpiry => exact keptBy_execQuantumCountExpiry
  | quantumCommit => exact keptBy_execQuantumCommit
  | waveFree => exact keptBy_execWaveFree
  | crewRetire => exact keptBy_execCrewRetire
  | phaseAdvance => exact keptBy_execPhaseAdvance
  | trapEntry => exact keptBy_execTrapEntry
  | watchdog => exact keptBy_execWatchdog
  | clusterReset => exact keptBy_execClusterReset
  | resetSweepEnd => exact keptBy_execResetSweepEnd
  | deviceReset => exact keptBy_execDeviceReset
  | sectorFirmwareSwitch => exact keptBy_execSectorFirmwareSwitch
  | rngCounterReset => exact keptBy_execRngCounterReset
  | xthrWrite => exact keptBy_execXthrWrite
  | queueRegister => exact keptBy_execQueueRegister
  | queueUnregister => exact keptBy_execQueueUnregister
  | ctxctlWrite => exact keptBy_execCtxctlWrite
  | ctxskimWrite => exact keptBy_execCtxskimWrite
  | fqvalWrite => exact keptBy_execFqvalWrite
  | apctlWrite => exact keptBy_execApctlWrite
  | eventRingConfig => exact keptBy_execEventRingConfig
  | mgRegisterWrite => exact keptBy_execMgRegisterWrite
  | stageImage => exact keptBy_execStageImage
  | activate => exact keptBy_execActivate
  | attest => exact keptBy_execAttest
  | retrainDramChannel => exact keptBy_execRetrainDramChannel
  | retrainLink => exact keptBy_execRetrainLink
  | resetCluster => exact keptBy_execResetCluster
  | retireCore => exact keptBy_execRetireCore
  | retireCluster => exact keptBy_execRetireCluster
  | setPeerRoute => exact keptBy_execSetPeerRoute
  | refreshWindowEnd => exact keptBy_execRefreshWindowEnd
  | uncorrectableErrorPoison => exact keptBy_execUncorrectableErrorPoison
  | dramRegionAtRating => exact keptBy_execDramRegionAtRating

/-! The two streams of a wave (R21, R26, R44, R60, R324). -/

theorem State.Keeps.unjam (h : s.Keeps t) : s.Keeps t.unjam := h.same rfl
theorem State.Keeps.unblock (h : s.Keeps t) : s.Keeps t.unblock := h.modW
theorem State.Keeps.laneStall (h : s.Keeps t) : s.Keeps t.laneStall := h.modW
theorem State.Keeps.focusOn {n} (h : s.Keeps t) : s.Keeps (t.focusOn n) := .ite h h.focus.unblock

theorem State.Keeps.touchFetch (h : s.Keeps t) : s.Keeps t.touchFetch := by
  unfold State.touchFetch
  refine .ite h ?_
  split
  · exact h
  · exact .ite h.touchCode.touchCode h.touchCode

theorem keptBy_orWait {o} (h : s.Keeps t) (k : s.KeptBy o) : s.KeptBy (orWait t o) := by
  cases o with
  | next u => exact .next (.ite h (k u rfl))
  | fault f => exact .fault
  | refused r => exact k

theorem keptBy_stepStall {i o} (k : s.KeptBy o) : s.KeptBy (stepStall i o) := by
  cases o with
  | next u =>
    have hu := k u rfl
    exact .ite (.ite (.next hu.modW) (.ite (.next hu) (.next hu.raise))) (.next hu)
  | fault f => exact .fault
  | refused r => exact k

theorem keptBy_noteIssue {o} (k : s.KeptBy o) : s.KeptBy (noteIssue t o) := by
  cases o with
  | next u =>
    have hu := k u rfl
    exact .next (.modW (.ite hu hu.modCoreAt))
  | fault f => exact .fault
  | refused r => exact k

theorem keptBy_scalarTurn : s.KeptBy (scalarTurn s) := by
  have hs : s.Keeps s.stall := .stall (.refl s)
  have hf : s.Keeps s.unjam.touchFetch := .touchFetch (.unjam (.refl s))
  unfold scalarTurn
  refine .ite .stay (.ite (keptBy_exec) (.ite (.ite (.next (.raise (.refl s))) .stay) ?_))
  split
  · exact .next hs
  · exact keptBy_orWait hs (.next hf.raise)
  · exact keptBy_noteIssue (keptBy_stepStall (keptBy_orWait hs (.after hf (keptBy_exec))))

theorem keptBy_laneTurn : s.KeptBy (laneTurn s) := by
  have hs : s.Keeps s.laneStall := .laneStall (.refl s)
  have hu : s.Keeps s.unjam := .unjam (.refl s)
  unfold laneTurn
  refine .ite .stay ?_
  split
  · exact .stay
  · exact keptBy_orWait hs (.after hu (keptBy_exec))
  · refine .ite (keptBy_exec) ?_
    split
    · exact .stay
    · exact .next (.raise (.refl s))
    · exact keptBy_orWait hs (.after hu (keptBy_exec))

theorem keptBy_eventTurn {i} : s.KeptBy (eventTurn i s) :=
  .ite .stay (.ite keptBy_laneTurn (keptBy_orWait (.refl s) (.after (.unjam (.refl s)) (keptBy_exec))))

theorem keptBy_act {turn : Turn} : s.KeptBy (turn.act s) := by
  cases turn with
  | scalar n => exact .after (.focusOn (.refl s)) keptBy_scalarTurn
  | lane n => exact .after (.focusOn (.refl s)) keptBy_laneTurn
  | event n i => exact .after (.focusOn (.refl s)) keptBy_eventTurn

/-! What acts where the environment leaves it open (log entry 1). -/

/-- An act that keeps the memories and the counters of every state. -/
def Act.Keeps (f : Act) : Prop := ∀ s : State, s.KeptBy (f s)

/-- A list of acts, each of which keeps them. -/
def ActsKeep (l : List Act) : Prop := ∀ f ∈ l, f.Keeps

variable {α : Type} {l l' : List Act} {f : Act}

theorem ActsKeep.nil : ActsKeep [] := List.forall_mem_nil _
theorem ActsKeep.cons (h : f.Keeps) (k : ActsKeep l) : ActsKeep (f :: l) := List.forall_mem_cons.2 ⟨h, k⟩
theorem ActsKeep.append (h : ActsKeep l) (k : ActsKeep l') : ActsKeep (l ++ l') := List.forall_mem_append.2 ⟨h, k⟩
theorem ActsKeep.map {g : α → Act} {xs : List α} (h : ∀ x, (g x).Keeps) : ActsKeep (xs.map g) := List.forall_mem_map.2 fun x _ => h x

theorem ActsKeep.flatMap {g : α → List Act} {xs : List α} (h : ∀ x, ActsKeep (g x)) : ActsKeep (xs.flatMap g) :=
  List.forall_mem_flatMap.2 fun x _ => h x

theorem actsKeep_waveEvents : ActsKeep (waveEvents s) := by
  unfold waveEvents
  extract_lets upTo c
  refine .append (.append (.append (.append (.append (.append (.append (.append (.append (.append (.append (.append (.append (.append (.append
    ?_ ?_) ?_) ?_) ?_) ?_) ?_) ?_) ?_) ?_) ?_) ?_) ?_) ?_) ?_) ?_
  · exact .cons (fun _ => keptBy_execTrapEntry) (.cons (fun _ => keptBy_execTaskPushSlotWrite)
      (.cons (fun _ => keptBy_execSigWaitWake) (.cons (fun _ => keptBy_execWaveFree) .nil)))
  · exact .map fun _ _ => keptBy_execScalarLoadReturn
  · exact .map fun _ _ => keptBy_execUncheckedResultReturn
  · exact .cons (fun _ => keptBy_execStoreQueueDrain) .nil
  · exact .map fun _ _ => keptBy_execStoreAck
  · exact .flatMap fun _ => .append (.map fun _ _ => keptBy_execCopyLineLand) (.cons (fun _ => keptBy_execCopyOperationComplete) .nil)
  · exact .cons (fun _ => keptBy_execBoundSweepStart) .nil
  · exact .map fun _ _ => keptBy_execSweepComplete
  · exact .flatMap fun _ => .flatMap fun _ =>
      .cons (fun _ => keptBy_execStreamValueFetch) (.cons (fun _ => keptBy_execStreamScatterDrain) .nil)
  · exact .cons (fun _ => keptBy_execScoreboardEntryGrant) .nil
  · exact .map fun _ _ => keptBy_execProbe
  · exact .map fun _ _ => keptBy_execForwardedLineArrival
  · exact .map fun _ _ => keptBy_execPageWalkComplete
  · exact .map fun _ _ => keptBy_execIcacheFill
  · exact .map fun _ _ => keptBy_execLaneBlockFill
  · exact .map fun _ _ => keptBy_execUnverifiedBlockRefetch

theorem actsKeep_queueEvents {sector k : Nat} :
    ActsKeep [execQueueNotify sector k, execTaskPacketPop sector k, execBulkCopyPacket sector k, execSignalPacket sector k] :=
  .cons (fun _ => keptBy_execQueueNotify) (.cons (fun _ => keptBy_execTaskPacketPop)
    (.cons (fun _ => keptBy_execBulkCopyPacket) (.cons (fun _ => keptBy_execSignalPacket) .nil)))

theorem actsKeep_commands : ActsKeep [execStageImage, execActivate, execAttest, execRetrainDramChannel, execRetrainLink, execResetCluster,
    execRetireCore, execRetireCluster, execSetPeerRoute] :=
  .cons (fun _ => keptBy_execStageImage) (.cons (fun _ => keptBy_execActivate) (.cons (fun _ => keptBy_execAttest)
    (.cons (fun _ => keptBy_execRetrainDramChannel) (.cons (fun _ => keptBy_execRetrainLink) (.cons (fun _ => keptBy_execResetCluster)
      (.cons (fun _ => keptBy_execRetireCore) (.cons (fun _ => keptBy_execRetireCluster) (.cons (fun _ => keptBy_execSetPeerRoute) .nil))))))))

theorem actsKeep_deviceEvents : ActsKeep (deviceEvents s) := by
  unfold deviceEvents
  extract_lets upTo
  refine .append (.append (.append (.append (.append (.append (.append (.append (.append (.append (.append (.append (.append (.append (.append
    (.append ?_ ?_) ?_) ?_) ?_) ?_) ?_) ?_) ?_) ?_) ?_) ?_) ?_) ?_) ?_) ?_) ?_
  · exact .map fun _ _ => keptBy_execPacketDelivery
  · exact .map fun _ _ => keptBy_execHomeWrite
  · exact .flatMap fun _ => .map fun _ _ => keptBy_execInvalidationAck
  · exact .map fun _ _ => keptBy_install
  · exact .map fun _ _ => keptBy_install
  · exact .map fun _ _ => keptBy_execInstallAck
  · exact .map fun _ _ => keptBy_execAtomicUnitOperation
  · exact .flatMap fun _ => .append (.append (.append (.flatMap fun _ => actsKeep_queueEvents) (.map fun _ _ => keptBy_execBulkCopyComplete))
      (.cons (fun _ => keptBy_execCrewPlace) (.cons (fun _ => keptBy_execTrowelTranslationComplete) .nil)))
      (.map fun _ _ => keptBy_execTraceInstall)
  · exact .flatMap fun _ => .append (.append (.cons (fun _ => keptBy_execWaveStart) .nil)
      (.map fun _ _ => keptBy_execBarrierGenerationComplete))
      (.cons (fun _ => keptBy_execQuantumCommit) (.cons (fun _ => keptBy_execCrewRetire) .nil))
  · exact .map fun _ _ => keptBy_execPhaseAdvance
  · exact .map fun _ _ => keptBy_execLinkOutOfService
  · exact .map fun _ _ => keptBy_execLinkBackInService
  · exact .map fun _ _ => keptBy_execDramRetrainEnd
  · exact .map fun _ _ => keptBy_execSectorFirmwareSwitch
  · exact actsKeep_commands
  · exact .map fun _ _ => keptBy_execResetSweepEnd
  · exact .map fun _ _ => keptBy_execEventRecordWrite

theorem keptBy_autoTurn : s.KeptBy (autoTurn s) := by
  unfold autoTurn
  split
  · exact .ite keptBy_scalarTurn (.next (.focus (.refl s)))
  · refine .ite keptBy_laneTurn ?_
    split
    · next f hf =>
      obtain ⟨g, hg, rfl⟩ := List.mem_map.1 (List.mem_of_find?_eq_some hf)
      have hk : g.Keeps := (List.mem_append.1 hg).elim (actsKeep_waveEvents g) (actsKeep_deviceEvents g)
      have hu : s.Keeps s.unblock := .unblock (.refl s)
      exact keptBy_orWait hu (.after hu.unjam (hk _))
    · split
      · exact .next (.focusOn (.refl s))
      · exact .next (.unblock (.refl s))

theorem keptBy_turn : s.KeptBy (turn s) := by
  unfold turn
  split
  · exact .after (.same (.refl s) rfl) keptBy_act
  · exact keptBy_autoTurn

theorem keptBy_settled {o} (k : s.KeptBy o) : s.KeptBy (settled o) := by
  cases o with
  | next u => exact .next (k u rfl).reserveAll
  | fault f => exact .fault
  | refused r => exact k

theorem keptBy_step : s.KeptBy (step s) := keptBy_settled keptBy_turn

/-- Settles O47: no part of a step leaves the canonical form of a byte memory or counts past 40 bits. -/
theorem stepKeepsMemoriesAndCounters : Obligations.StepKeepsMemoriesAndCounters := by
  unfold Obligations.StepKeepsMemoriesAndCounters
  exact fun _ t h => keptBy_step t h

end Sys2Proof.Machine
end

/-! SUPPORT. Requests of host links and peers from their arrival to their completion, links, the delivery of exception counts and event records
(R15, R16, R106, R352, R363, R366 to R371, R382; Machine/Network.lean): what each step leaves, and with it O53. -/

namespace Sys2Proof.Machine

open Sys2Proof

/-! Packets that a flow takes at once (R350, R354). -/

/-- The flow that a pair of units and a class name stands under those names. -/
theorem State.flow_names (s : State) (cls : MsgClass) (src dst : Nat) :
    (s.flow cls src dst).cls = cls ∧ (s.flow cls src dst).src = src ∧ (s.flow cls src dst).dst = dst := by
  unfold State.flow
  cases h : s.flows.find? fun f => f.cls == cls && f.src == src && f.dst == dst with
  | none => exact ⟨rfl, rfl, rfl⟩
  | some f => simpa [and_assoc] using List.find?_some h

/-- The first element that stands for `b` once every such element has become `b`. -/
theorem find?_map_replace {α : Type} (p : α → Bool) (b : α) (hb : p b = true) (l : List α) (h : l.any p = true) :
    (l.map fun x => if p x then b else x).find? p = some b := by
  induction l with
  | nil => cases h
  | cons x r ih =>
    by_cases hx : p x = true
    · simp [hx, hb]
    · simp only [List.any_cons, hx, Bool.false_or] at h
      simpa [hx] using ih h

/-- A flow that has been replaced is found under its names. -/
theorem State.flow_setFlow (s : State) {cls : MsgClass} {src dst : Nat} (f : Flow) (h : f.cls = cls ∧ f.src = src ∧ f.dst = dst) :
    (s.setFlow f).flow cls src dst = f := by
  obtain ⟨rfl, rfl, rfl⟩ := h
  unfold State.flow State.setFlow
  dsimp only
  split
  · next h => rw [find?_map_replace _ f (by simp) _ h]; rfl
  · next h =>
    rw [List.find?_append, List.find?_eq_none.2 (by simpa using h)]
    simp

/-- A packet that meets an open ingress is injected. -/
theorem State.send_of_open (s : State) (cls : MsgClass) (src dst : Nat) (p : Packet) (hw : (s.flow cls src dst).waiting = [])
    (ha : s.allow cls src dst ≠ 0) : s.send cls src dst p = s.setFlow (injected (s.flow cls src dst) p) := by
  have hopen : ((s.flow cls src dst).waiting.isEmpty && s.allow cls src dst != 0) = true := by simp [hw, ha]
  unfold State.send
  exact congrArg s.setFlow (if_pos hopen)

/-- A request from outside that meets an open ingress takes the next number of arrival, and its packet is under way; nothing else changes. -/
theorem State.sendOutside_of_open (s : State) (src slice : Nat) (p : Packet)
    (hw : (s.flow .req (s.outsidePort src) (144 + slice)).waiting = []) (ha : s.allow .req (s.outsidePort src) (144 + slice) ≠ 0) :
    (s.sendOutside src slice p).flow .req (s.outsidePort src) (144 + slice) =
        injected (s.flow .req (s.outsidePort src) (144 + slice)) p ∧
      s.sendOutside src slice p = { s with nextId := s.nextId + 1, flows := (s.sendOutside src slice p).flows } := by
  let u : State := { s with nextId := s.nextId + 1 }
  have hsend : s.sendOutside src slice p = u.setFlow (injected (u.flow .req (s.outsidePort src) (144 + slice)) p) :=
    u.send_of_open .req (s.outsidePort src) (144 + slice) p hw ha
  rw [hsend]
  exact ⟨u.flow_setFlow _ (u.flow_names .req (s.outsidePort src) (144 + slice)), rfl⟩

/-- A step that sends such a packet, with its port named. -/
theorem stepsTo_of_sendOutside {s : State} {i : Instr} {src slice port : Nat} {p : Packet}
    (hexec : exec i s = .next (s.sendOutside src slice p)) (hport : s.outsidePort src = port)
    (hw : (s.flow .req port (144 + slice)).waiting = []) (ha : s.allow .req port (144 + slice) ≠ 0) :
    StepsTo i s fun t => t.flow .req port (144 + slice) = injected (s.flow .req port (144 + slice)) p ∧
      t = { s with nextId := s.nextId + 1, flows := t.flows } := by
  subst hport
  exact ⟨_, hexec, s.sendOutside_of_open src slice p hw ha⟩

/-! Requests from outside the device (R16, R366, R367). -/

/-- A list of one number alone, repeated, has it once. -/
theorem nub_of_forall_eq (a : Nat) (l : List Nat) (hl : l ≠ []) (h : ∀ x ∈ l, x = a) : nub l = [a] := by
  induction l with
  | nil => exact absurd rfl hl
  | cons x r ih =>
    obtain rfl : x = a := h x (by simp)
    have hr : ∀ y ∈ r, y = x := fun y hy => h y (by simp [hy])
    by_cases hn : r = []
    · simp [hn, nub]
    · obtain ⟨y, hy⟩ := List.exists_mem_of_ne_nil r hn
      have hx : x ∈ r := hr y hy ▸ hy
      simp [nub, hx, ih hn hr]

/-- Bytes that lie within one line give cells of that line. -/
theorem cellsAt_line (a : Nat) (bs : List Byte) (h : a / 512 = (a + bs.length - 1) / 512) : ∀ c ∈ cellsAt a bs, c.1 / 512 = a / 512 := by
  intro c hc
  obtain ⟨e, he, rfl⟩ := List.mem_map.1 hc
  have hlt := List.snd_lt_of_mem_zipIdx he
  dsimp only
  omega

/-- A write within one line is one request, to the home of the line (R358, R364). -/
theorem State.outsideWrite_of_line (s : State) (src : Nat) (home : Nat → Nat) (a : Nat) (bs : List Byte) (hbs : bs ≠ [])
    (h : a / 512 = (a + bs.length - 1) / 512) :
    s.outsideWrite src home a bs = s.sendOutside src (home (512 * (a / 512))) (.write
      { line := a / 512, cells := cellsAt a bs, agent := { core := src, id := s.nextId, wave := 0 }, slice := home (512 * (a / 512))
        stamp := 0, started := false, asked := [], acks := [] }) := by
  have hline := cellsAt_line a bs h
  have hne : cellsAt a bs ≠ [] := by simpa [cellsAt] using hbs
  have hnub : nub ((cellsAt a bs).map fun c => c.1 / 512).reverse = [a / 512] :=
    nub_of_forall_eq _ _ (by simpa using hne) fun x hx => by
      obtain ⟨c, hc, rfl⟩ := List.mem_map.1 (List.mem_reverse.1 hx)
      exact hline c hc
  have hall : (cellsAt a bs).filter (fun c => c.1 / 512 == a / 512) = cellsAt a bs :=
    List.filter_eq_self.2 fun c hc => by simpa using hline c hc
  unfold State.outsideWrite
  dsimp only
  rw [hnub, List.reverse_singleton, List.foldl_cons, List.foldl_nil, hall]

/-- A read, a FetchAdd or a CAS is one request, to the home of its address. -/
theorem State.outsideRequest_of_unit (s : State) (src : Nat) (home : Nat → Nat) (r : BusReq)
    (h : (∃ n, r.op = .read n) ∨ (∃ wide v, r.op = .fetchAdd wide v) ∨ ∃ wide v n, r.op = .cas wide v n) :
    s.outsideRequest src home r = s.sendOutside src (home r.addr)
      (.unit { src := src, addr := r.addr, op := r.op, id := s.nextId, slice := home r.addr, stamp := 0 }) := by
  unfold State.outsideRequest
  rcases h with ⟨n, h⟩ | ⟨wide, v, h⟩ | ⟨wide, v, n, h⟩ <;> rw [h]

/-- The completion has been given to the source. -/
theorem State.mem_reply (s : State) (src : Nat) (x : Reply) : (src, x) ∈ (s.reply src x).replies := by
  simp [State.reply]

/-- The home of an address by the class and the home that its source's aperture names, or by the device class for a host link (R366; log
entry 76). -/
def State.outsideHome (s : State) (src : Nat) : Nat → Nat :=
  let v := look 0 s.apertures (src - 2)
  homeOf (if src < 2 then 3 else bits v 11 2) (if src < 2 then 0 else bits v 48 10)

/-- A host link that is up takes requests: in the recovery state link 0 alone does (R375). -/
theorem hostLink_up {s : State} {link : Nat} (hlink : link < 2) (hrec : link = 1 → s.fw.recovery = false) :
    ¬ (2 ≤ link ∨ (link = 1 ∧ s.fw.recovery = true)) := by
  rintro (h | ⟨h, hr⟩)
  · omega
  · rw [hrec h] at hr; cases hr

/-- Outside the recovery state the requests of the 64 pod devices are taken. -/
theorem peer_up {s : State} {src : Nat} (hsrc : src < 64) (hrec : s.fw.recovery = false) : ¬ (64 ≤ src ∨ s.fw.recovery = true) := by
  rintro (h | h)
  · omega
  · rw [hrec] at h; cases h

/-- A request that a host link or an aperture lets in is under way to its home. -/
theorem exec_outside (s : State) (src : Nat) (r : BusReq) (hsrc : src < 66) (hin : r.addr + busBytes r.op ≤ 2 ^ 48)
    (hrec : 1 ≤ src → s.fw.recovery = false) (hap : 2 ≤ src → apertureAllows (look 0 s.apertures (src - 2)) r = true) :
    exec (if src < 2 then .hostLinkRequest src r else .peerRequestArrival (src - 2) r) s =
      .next (s.outsideRequest (576 + src) (s.outsideHome src) r) := by
  have hdev : inDevice r = true := decide_eq_true hin
  by_cases hlt : src < 2
  · have hup := hostLink_up hlt fun h => hrec (by omega)
    simp only [if_pos hlt, State.outsideHome]
    show execHostLinkRequest src r s = _
    unfold execHostLinkRequest
    rw [if_neg hup, if_pos hdev]
  · have hup := peer_up (src := src - 2) (by omega) (hrec (by omega))
    have hnum : 578 + (src - 2) = 576 + src := by omega
    simp only [if_neg hlt, State.outsideHome]
    show execPeerRequestArrival (src - 2) r s = _
    unfold execPeerRequestArrival
    dsimp only
    rw [if_neg hup, if_pos (hap (by omega)), if_pos hdev, hnum]

/-- The port of a host link is its own, that of a peer the one that the route table gives (R349, R352). -/
theorem State.outsidePort_eq (s : State) (src : Nat) :
    s.outsidePort (576 + src) = if src < 2 then 312 + src else 300 + (look 0 s.routes (src - 2) - 1) := by
  unfold State.outsidePort State.portOf hostPort peerPort
  by_cases hlt : src < 2
  · rw [if_pos hlt, if_pos (by omega), Nat.add_sub_cancel_left]
  · rw [if_neg hlt, if_neg (by omega), show 576 + src - 578 = src - 2 by omega]

/-- A request of a host link that names a byte beyond the 48 bits of device addresses stops the machine (R15; log entry 62). -/
theorem exec_hostLinkRequest_beyond (s : State) (link : Nat) (r : BusReq) (hlink : link < 2) (hrec : link = 1 → s.fw.recovery = false)
    (hout : 2 ^ 48 < r.addr + busBytes r.op) :
    exec (.hostLinkRequest link r) s = .fault (.noSuchAddress (r.addr + busBytes r.op - 1)) := by
  have hdev : ¬ inDevice r = true := by simpa [inDevice] using hout
  show execHostLinkRequest link r s = _
  unfold execHostLinkRequest
  rw [if_neg (hostLink_up hlink hrec), if_neg hdev]

/-- A record arises at its source alone. -/
theorem oneRecord_emit {s u : State} (h : u.events = s.events) (kind num code : Nat) (p : List DWord) :
    oneRecord s (u.emit kind num code p) kind num := by
  unfold oneRecord State.emit
  dsimp only
  rw [look_put_self, h]
  split <;> rfl

/-- A peer's request that its aperture does not let in completes with an error; a store is discarded with a record (R367, R369). -/
theorem exec_peerRequestArrival_refused (s : State) (src : Nat) (r : BusReq) (hsrc : src < 64) (hrec : s.fw.recovery = false)
    (hap : apertureAllows (look 0 s.apertures src) r = false) :
    (∀ bs, r.op = .write bs → exec (.peerRequestArrival src r) s =
      .next ((s.reply (578 + src) .error).emit 4 (s.portOf src) 0x000A [dw src, dw r.addr])) ∧
    ((∀ bs, r.op ≠ .write bs) → exec (.peerRequestArrival src r) s = .next (s.reply (578 + src) .error)) := by
  have hno : ¬ apertureAllows (look 0 s.apertures src) r = true := by rw [hap]; exact Bool.false_ne_true
  have hexec : exec (.peerRequestArrival src r) s = execPeerRequestArrival src r s := rfl
  rw [hexec]
  unfold execPeerRequestArrival
  dsimp only
  rw [if_neg (peer_up hsrc hrec), if_neg hno]
  split
  · next bs h => exact ⟨fun _ _ => rfl, fun hne => absurd h (hne bs)⟩
  · next hne => exact ⟨fun bs h => absurd h (hne bs), fun _ => rfl⟩

/-! The atomic units at the homes (R16, R203, R358, R363). -/

/-- `t` is `s` but for the flows, the cores, and the copies of lines with their vectors: what a round of invalidations changes (R358). -/
def State.CopiesOnly (s t : State) : Prop :=
  ∃ flows jam cores copies vec vecHome,
    t = { s with flows := flows, jam := jam, cores := cores, copies := copies, vec := vec, vecHome := vecHome }

theorem State.CopiesOnly.refl (s : State) : s.CopiesOnly s := ⟨_, _, _, _, _, _, rfl⟩

theorem State.CopiesOnly.trans {s t u : State} (h : s.CopiesOnly t) (k : t.CopiesOnly u) : s.CopiesOnly u := by
  obtain ⟨_, _, _, _, _, _, rfl⟩ := h
  obtain ⟨_, _, _, _, _, _, rfl⟩ := k
  exact ⟨_, _, _, _, _, _, rfl⟩

theorem State.CopiesOnly.foldl {α : Type} (f : State → α → State) (l : List α) (s : State) (h : ∀ s a, State.CopiesOnly s (f s a)) :
    s.CopiesOnly (l.foldl f s) :=
  foldl_inv (P := s.CopiesOnly) f l s (.refl s) fun t a ht => ht.trans (h t a)

/-- A packet that passes in one step changes its flow, or leaves the mark that it cannot. -/
theorem State.pass_eq (s : State) (cls : MsgClass) (src dst : Nat) :
    s.pass cls src dst = { s with flows := (s.pass cls src dst).flows, jam := (s.pass cls src dst).jam } := by
  unfold State.pass
  split <;> rfl

theorem State.CopiesOnly.pass (s : State) (cls : MsgClass) (src dst : Nat) : s.CopiesOnly (s.pass cls src dst) :=
  ⟨_, _, _, _, _, _, s.pass_eq cls src dst⟩

theorem State.CopiesOnly.modCoreAt (s : State) (n : Nat) (f : Core → Core) : s.CopiesOnly (s.modCoreAt n f) := ⟨_, _, _, _, _, _, rfl⟩

theorem State.CopiesOnly.invalidate (s : State) (line : Nat) : s.CopiesOnly (s.invalidate line) := by
  unfold State.invalidate
  extract_lets drop1 home t u
  have ht : s.CopiesOnly t := .foldl _ _ s fun s x => (State.CopiesOnly.pass s _ _ _).trans (.pass _ _ _ _)
  have hu : t.CopiesOnly u := .foldl _ _ t fun s n => .modCoreAt s n drop1
  exact (ht.trans hu).trans ⟨_, _, _, _, _, _, rfl⟩

theorem State.CopiesOnly.notifyQueues (s : State) (line : Nat) : s.CopiesOnly (s.notifyQueues line) :=
  .foldl _ _ s fun s _ => .foldl _ _ s fun s _ => .pass s _ _ _

/-- A whole write at its home writes its cells to device memory; it leaves host memory, skim space, and the requests and completions from outside
as they are. -/
theorem State.writeHome_frame (s : State) (cells : List Host.Cell) :
    (s.writeHome cells).mem = writeCells s.mem cells ∧ (s.writeHome cells).hostMem = s.hostMem ∧ (s.writeHome cells).skim = s.skim ∧
      (s.writeHome cells).unitReqs = s.unitReqs ∧ (s.writeHome cells).replies = s.replies := by
  have hround : s.CopiesOnly ((nub (cells.map (·.1 / 512))).foldl (fun s line => (s.invalidate line).notifyQueues line) s) :=
    .foldl _ _ s fun s line => (State.CopiesOnly.invalidate s line).trans (.notifyQueues ..)
  obtain ⟨_, _, _, _, _, _, hround⟩ := hround
  unfold State.writeHome
  rw [hround]
  exact ⟨rfl, rfl, rfl, rfl, rfl⟩

/-- Request k has left its unit and its completion carries the bytes that it names. -/
def State.unitAnswered (s : State) (k : Nat) (r : UnitReq) : State :=
  ({ s with unitReqs := s.unitReqs.eraseIdx k }.pass .rsp (sliceUnit r.slice) (s.outsidePort r.src)).reply r.src
    (.data (readBytes s.mem r.addr (busBytes r.op)))

/-- An answer takes the request away and gives its completion; the memories are as before. -/
theorem State.unitAnswered_frame (s : State) (k : Nat) (r : UnitReq) :
    (s.unitAnswered k r).unitReqs = s.unitReqs.eraseIdx k ∧
      (r.src, Reply.data (readBytes s.mem r.addr (busBytes r.op))) ∈ (s.unitAnswered k r).replies ∧
      (s.unitAnswered k r).mem = s.mem ∧ (s.unitAnswered k r).hostMem = s.hostMem ∧ (s.unitAnswered k r).skim = s.skim := by
  have hmem : ∀ u : State, (r.src, Reply.data (readBytes s.mem r.addr (busBytes r.op))) ∈
      (u.reply r.src (.data (readBytes s.mem r.addr (busBytes r.op)))).replies := fun u => u.mem_reply _ _
  unfold State.unitAnswered
  rw [State.pass_eq]
  exact ⟨rfl, hmem _, rfl, rfl, rfl⟩

/-- Request k, which may be performed and meets no poison, is answered; an AtomicOp that has a new value writes it (R16, R363). -/
theorem exec_atomicUnitOperation (s : State) (k : Nat) (r : UnitReq) (hk : s.unitReqs[k]? = some r) (hr : s.unitReady k r = true)
    (hp : ∀ u ∈ s.poison, ¬ (r.addr / 128 ≤ u ∧ 128 * u < r.addr + busBytes r.op)) :
    (busNew r.op (busBytes r.op) (readLe s.mem r.addr (busBytes r.op)) = none →
      exec (.atomicUnitOperation k) s = .next (s.unitAnswered k r)) ∧
    ∀ v, busNew r.op (busBytes r.op) (readLe s.mem r.addr (busBytes r.op)) = some v →
      exec (.atomicUnitOperation k) s = .next ((s.unitAnswered k r).writeHome (leCells r.addr (busBytes r.op) v)) := by
  have hclean : ¬ (s.poison.any fun u => decide (r.addr / 128 ≤ u) && decide (128 * u < r.addr + busBytes r.op)) = true := by
    simpa using hp
  have hready : ¬ (!s.unitReady k r) = true := by simp [hr]
  have hexec : exec (.atomicUnitOperation k) s = execAtomicUnitOperation k s := rfl
  rw [hexec]
  unfold execAtomicUnitOperation
  rw [hk]
  dsimp only
  rw [if_neg hready, if_neg hclean]
  refine ⟨fun h => ?_, fun v h => ?_⟩
  · rw [h]; rfl
  · rw [h]; rfl

/-- What a request at a home leaves, whichever its operation: it has gone, and its completion carries the bytes as they were. -/
def UnitDone (s t : State) (k : Nat) (r : UnitReq) : Prop :=
  t.unitReqs = s.unitReqs.eraseIdx k ∧ (r.src, Reply.data (readBytes s.mem r.addr (busBytes r.op))) ∈ t.replies

theorem unitDone_unitAnswered (s : State) (k : Nat) (r : UnitReq) : UnitDone s (s.unitAnswered k r) k r :=
  ⟨(s.unitAnswered_frame k r).1, (s.unitAnswered_frame k r).2.1⟩

theorem sameBytesBut_unitAnswered (s : State) (k : Nat) (r : UnitReq) (a n : Nat) : sameBytesBut s (s.unitAnswered k r) a n := by
  obtain ⟨-, -, hmem, hhost, hskim⟩ := s.unitAnswered_frame k r
  exact ⟨fun _ _ => by rw [hmem], fun _ => by rw [hhost], fun _ => by rw [hskim]⟩

/-- The new value of an AtomicOp stands at its address, and nothing else has changed (R16). -/
theorem unitAnswered_writeHome (s : State) (k : Nat) (r : UnitReq) (n v : Nat) :
    UnitDone s ((s.unitAnswered k r).writeHome (leCells r.addr n v)) k r ∧
      readLe ((s.unitAnswered k r).writeHome (leCells r.addr n v)).mem r.addr n = v % 2 ^ (8 * n) ∧
      sameBytesBut s ((s.unitAnswered k r).writeHome (leCells r.addr n v)) r.addr n := by
  obtain ⟨hgone, hreply, hmem, hhost, hskim⟩ := s.unitAnswered_frame k r
  obtain ⟨hmem', hhost', hskim', hgone', hreply'⟩ := (s.unitAnswered k r).writeHome_frame (leCells r.addr n v)
  refine ⟨⟨hgone'.trans hgone, hreply' ▸ hreply⟩, ?_, fun x hx => ?_, fun _ => by rw [hhost', hhost], fun _ => by rw [hskim', hskim]⟩
  · rw [hmem', readLe_writeCells_leCells, Nat.pow_mul]
  · rw [hmem', hmem]
    refine readByte_writeCells_not_mem _ _ _ fun c hc => ?_
    obtain ⟨hlo, hhi⟩ := leCells_range _ _ _ c hc
    omega

/-- A read, a FetchAdd or a CAS at its home (R16, R363). -/
theorem atomicUnitOperation_takesEffect (s : State) (k : Nat) (r : UnitReq) (hk : s.unitReqs[k]? = some r)
    (hr : s.unitReady k r = true) (hp : ∀ u ∈ s.poison, ¬ (r.addr / 128 ≤ u ∧ 128 * u < r.addr + busBytes r.op)) :
    StepsTo (.atomicUnitOperation k) s fun t => t.unitReqs = s.unitReqs.eraseIdx k ∧
      (r.src, Reply.data (readBytes s.mem r.addr (busBytes r.op))) ∈ t.replies ∧
      (∀ n, r.op = .read n → t.mem = s.mem) ∧
      (∀ wide v, r.op = .fetchAdd wide v → let n := if wide then 8 else 4
        readLe t.mem r.addr n = (readLe s.mem r.addr n + v.toNat) % 2 ^ (8 * n) ∧ sameBytesBut s t r.addr n) ∧
      ∀ wide c v, r.op = .cas wide c v → let n := if wide then 8 else 4
        sameBytesBut s t r.addr n ∧
          readLe t.mem r.addr n = if readLe s.mem r.addr n = c.toNat % 2 ^ (8 * n) then v.toNat % 2 ^ (8 * n) else readLe s.mem r.addr n := by
  obtain ⟨hnone, hsome⟩ := exec_atomicUnitOperation s k r hk hr hp
  obtain ⟨hgone, hreply, hmem, -, -⟩ := s.unitAnswered_frame k r
  obtain ⟨src, addr, op, id, slice, stamp⟩ := r
  cases op with
  | read n => exact ⟨_, hnone rfl, hgone, hreply, fun _ _ => hmem, nofun, nofun⟩
  | write bs => exact ⟨_, hnone rfl, hgone, hreply, nofun, nofun, nofun⟩
  | swap wide v => exact ⟨_, hnone rfl, hgone, hreply, nofun, nofun, nofun⟩
  | fetchAdd wide v =>
    obtain ⟨⟨hgone, hreply⟩, hval, hframe⟩ := unitAnswered_writeHome s k _ _ _
    refine ⟨_, hsome _ rfl, hgone, hreply, nofun, ?_, nofun⟩
    rintro _ _ ⟨⟩
    refine ⟨hval.trans ?_, hframe⟩
    dsimp only [busBytes]
    rw [Nat.mod_mod, Nat.add_mod_mod]
  | cas wide c v =>
    by_cases heq : readLe s.mem addr (if wide then 8 else 4) = c.toNat % 2 ^ (8 * if wide then 8 else 4)
    · obtain ⟨⟨hgone, hreply⟩, hval, hframe⟩ := unitAnswered_writeHome s k _ _ _
      refine ⟨_, hsome _ (if_pos heq), hgone, hreply, nofun, nofun, ?_⟩
      rintro _ _ _ ⟨⟩
      exact ⟨hframe, (hval.trans (Nat.mod_mod _ _)).trans (if_pos heq).symm⟩
    · refine ⟨_, hnone (if_neg heq), hgone, hreply, nofun, nofun, ?_⟩
      rintro _ _ _ ⟨⟩
      refine ⟨sameBytesBut_unitAnswered .., ?_⟩
      dsimp only
      rw [if_neg heq, hmem]

/-! Stores to peers that fail, and links (R351, R352, R369). -/

theorem State.coreAt_modCoreAt (s : State) (n : Nat) (f : Core → Core) : (s.modCoreAt n f).coreAt n = f (s.coreAt n) :=
  look_put_self ..

/-- A store to a peer that does not complete in time is discarded, with a record of the peer port (R369). -/
theorem peerRequestTimeout_takesEffect (s : State) (k : Nat) (r : PeerReq) (hk : s.peerReqs[k]? = some r) :
    StepsTo (.peerRequestTimeout k) s fun t => t.peerReqs = s.peerReqs.eraseIdx k ∧ (∀ e ∈ (t.coreAt r.core).inflight, e.id ≠ r.id) ∧
      oneRecord s t 4 (s.portOf r.dev) ∧ t.mem = s.mem := by
  let u : State := { s with peerReqs := s.peerReqs.eraseIdx k }
  let v : State := u.modCoreAt r.core fun c => { c with inflight := c.inflight.filter fun e => e.id != r.id }
  have hexec : exec (.peerRequestTimeout k) s = .next (v.dropStore r.dev r.addr) := by
    show execPeerRequestTimeout k s = _
    unfold execPeerRequestTimeout
    rw [hk]
  have hcore : (v.coreAt r.core).inflight = (s.coreAt r.core).inflight.filter fun e => e.id != r.id := by
    unfold v
    rw [State.coreAt_modCoreAt]
    rfl
  refine ⟨_, hexec, rfl, fun e he => ?_, oneRecord_emit (u := v) rfl _ _ _ _, rfl⟩
  have he : e ∈ (v.coreAt r.core).inflight := he
  rw [hcore] at he
  simpa using (List.mem_filter.1 he).2

/-- A link whose buffers have drained goes out of service, with a record of its sector (R352). -/
theorem linkOutOfService_takesEffect (s : State) (kind num : Nat) (h : (kind, num) ∈ s.linksDraining) :
    StepsTo (.linkOutOfService kind num) s fun t => (kind, num) ∈ t.linksDown ∧ (kind, num) ∉ t.linksDraining ∧
      oneRecord s t 1 (linkSector kind num) ∧ t.mem = s.mem := by
  let u : State := { s with linksDraining := s.linksDraining.filter (fun x => x != (kind, num)), linksDown := s.linksDown ++ [(kind, num)] }
  have hexec : exec (.linkOutOfService kind num) s = .next (u.emitSector (linkSector kind num) 0x000B [dw kind, dw num, 1]) :=
    if_pos (List.contains_iff_mem.2 h)
  refine ⟨_, hexec, ?_, ?_, oneRecord_emit (u := u) rfl _ _ _ _, rfl⟩
  · show (kind, num) ∈ u.linksDown
    simp [u]
  · show (kind, num) ∉ u.linksDraining
    simp [u]

/-- A link that has trained returns, with a record of its sector; the command that asked for it ends (R352, R383). -/
theorem linkBackInService_takesEffect (s : State) (kind num : Nat) (h : (kind, num) ∈ s.linksDown) :
    StepsTo (.linkBackInService kind num) s fun t => (kind, num) ∉ t.linksDown ∧ oneRecord s t 1 (linkSector kind num) ∧
      (s.commanded 5 → ended t 0) ∧ t.mem = s.mem := by
  let u : State := { s with linksDown := s.linksDown.filter fun x => x != (kind, num) }
  let v : State := if u.mg.runs 5 then u.mgDone 0 else u
  have hexec : exec (.linkBackInService kind num) s = .next (v.emitSector (linkSector kind num) 0x000B [dw kind, dw num, 0]) :=
    if_pos (List.contains_iff_mem.2 h)
  have hv : v.linksDown = u.linksDown ∧ v.events = s.events ∧ v.mem = s.mem := by
    unfold v
    split
    · exact ⟨rfl, rfl, rfl⟩
    · exact ⟨rfl, rfl, rfl⟩
  obtain ⟨hdown, hevents, hmem⟩ := hv
  refine ⟨_, hexec, ?_, oneRecord_emit hevents _ _ _ _, ?_, hmem⟩
  · show (kind, num) ∉ v.linksDown
    simp [hdown, u]
  · rintro ⟨hbusy, hcmd⟩
    have hruns : u.mg.runs 5 = true := by simp [Mg.runs, u, hbusy, hcmd]
    have hdone : v = u.mgDone 0 := if_pos hruns
    rw [hdone]
    exact ⟨rfl, rfl⟩

/-! The delivery of exception counts (R104, R106). -/

/-- A count changes its counter, and may leave a record. -/
theorem State.count_eq (s : State) (k n : Nat) :
    s.count k n = { s with counters := put 0 s.counters k (min (look 0 s.counters k + n) cntMax), events := (s.count k n).events } := by
  unfold State.count
  extract_lets
  split <;> rfl

/-- Counts that are delivered change counters and records alone. -/
theorem State.countAll_eq (s : State) (l : List (Nat × Nat)) :
    ∃ counters events, l.foldl (fun s e => s.count e.1 e.2) s = { s with counters := counters, events := events } := by
  refine foldl_inv (P := fun t => ∃ counters events, t = { s with counters := counters, events := events }) _ l s ⟨_, _, rfl⟩ ?_
  rintro _ e ⟨_, _, rfl⟩
  exact ⟨_, _, State.count_eq ..⟩

/-- A wave after one wave has been replaced. -/
theorem State.wave_setWave (s : State) (n m : Nat) (w : Wave) : (s.setWave n w).wave m = if m = n then w else s.wave m := by
  unfold State.setWave
  by_cases hn : n = s.wid
  · rw [if_pos hn, hn]
    unfold State.wave
    split <;> rfl
  · rw [if_neg hn]
    unfold State.wave
    dsimp only
    rw [look_put]
    by_cases hm : m = s.wid
    · rw [if_pos hm, if_pos hm, if_neg (hm ▸ Ne.symm hn)]
    · rw [if_neg hm, if_neg hm]

/-- The wave holds no counts. -/
def Wave.emptied (w : Wave) : Wave := { w with counts := [] }

@[simp] theorem Wave.emptied_core (w : Wave) : w.emptied.core = w.core := rfl
@[simp] theorem Wave.emptied_counts (w : Wave) : w.emptied.counts = [] := rfl
@[simp] theorem Wave.emptied_emptied (w : Wave) : w.emptied.emptied = w.emptied := rfl

/-- A wave of the core delivers what it holds. -/
def State.deliverWave (core : Nat) (s : State) (n : Nat) : State :=
  if (s.wave n).core = core then
    ((s.wave n).counts.foldl (fun s e => s.count e.1 e.2) s).modWave n Wave.emptied
  else s

theorem State.deliverCore_eq (s : State) (core : Nat) : s.deliverCore core = s.waveIds.foldl (State.deliverWave core) s := rfl

/-- A delivery empties the counts of its wave. -/
theorem State.wave_deliverWave (s : State) (core n m : Nat) :
    (s.deliverWave core n).wave m = if m = n ∧ (s.wave m).core = core then (s.wave m).emptied else s.wave m := by
  unfold State.deliverWave
  by_cases hc : (s.wave n).core = core
  · obtain ⟨_, _, hcounts⟩ := s.countAll_eq (s.wave n).counts
    rw [if_pos hc, hcounts, State.modWave, State.wave_setWave]
    by_cases hm : m = n
    · rw [if_pos hm, if_pos ⟨hm, hm ▸ hc⟩, hm]; rfl
    · rw [if_neg hm, if_neg fun h => hm h.1]; rfl
  · rw [if_neg hc, if_neg]
    rintro ⟨rfl, h⟩
    exact hc h

/-- Deliveries empty the counts of the core's waves among those listed, and change no other wave. -/
theorem State.wave_deliverWaves (core m : Nat) (l : List Nat) (s : State) :
    (l.foldl (State.deliverWave core) s).wave m =
      if m ∈ l ∧ (s.wave m).core = core then (s.wave m).emptied else s.wave m := by
  induction l generalizing s with
  | nil => simp
  | cons n r ih =>
    rw [List.foldl_cons, ih, State.wave_deliverWave]
    by_cases hc : (s.wave m).core = core
    · by_cases hm : m = n
      · subst hm
        simp [hc]
      · simp [hc, hm]
    · simp [hc]

/-- What a delivery may change: waves, counters and records. -/
def State.Delivers (s t : State) : Prop :=
  ∃ w others counters events, t = { s with w := w, others := others, counters := counters, events := events }

theorem State.Delivers.setWave (s : State) (n : Nat) (w : Wave) : s.Delivers (s.setWave n w) := by
  unfold State.setWave
  split
  · exact ⟨_, _, _, _, rfl⟩
  · exact ⟨_, _, _, _, rfl⟩

theorem State.Delivers.trans {s t u : State} (h : s.Delivers t) (k : t.Delivers u) : s.Delivers u := by
  obtain ⟨_, _, _, _, rfl⟩ := h
  obtain ⟨_, _, _, _, rfl⟩ := k
  exact ⟨_, _, _, _, rfl⟩

theorem State.Delivers.deliverWave (s : State) (core n : Nat) : s.Delivers (s.deliverWave core n) := by
  unfold State.deliverWave
  split
  · obtain ⟨_, _, hcounts⟩ := s.countAll_eq (s.wave n).counts
    rw [hcounts]
    exact State.Delivers.trans ⟨_, _, _, _, rfl⟩ (.setWave ..)
  · exact ⟨_, _, _, _, rfl⟩

theorem State.Delivers.sameBytes {s t : State} (h : s.Delivers t) : sameBytes s t := by
  obtain ⟨_, _, _, _, rfl⟩ := h
  exact ⟨fun _ => rfl, fun _ => rfl, fun _ => rfl, rfl, rfl⟩

/-- The counts that the waves of a core hold are delivered (R106). -/
theorem countDelivery_takesEffect (s : State) (core : Nat) :
    StepsTo (.countDelivery core) s fun t => (∀ n ∈ s.waveIds, (s.wave n).core = core → (t.wave n).counts = []) ∧ sameBytes s t ∧
      ∀ k n, s.others = [] → s.w.core = core → s.w.counts = [(k, n)] →
        look 0 t.counters k = min (look 0 s.counters k + n) (2 ^ 40 - 1) := by
  refine ⟨s.deliverCore core, rfl, fun n hn hc => ?_, ?_, fun k n hothers hc hcounts => ?_⟩
  · rw [State.deliverCore_eq, State.wave_deliverWaves, if_pos ⟨hn, hc⟩, Wave.emptied_counts]
  · exact State.Delivers.sameBytes <| foldl_inv (P := s.Delivers) (State.deliverWave core) s.waveIds s ⟨_, _, _, _, rfl⟩
      fun t n ht => ht.trans (.deliverWave t core n)
  · have hids : s.waveIds = [s.wid] := by simp [State.waveIds, hothers]
    have hw : s.wave s.wid = s.w := if_pos rfl
    have hone : s.deliverCore core = (s.count k n).modWave s.wid Wave.emptied := by
      rw [State.deliverCore_eq, hids, List.foldl_cons, List.foldl_nil, State.deliverWave, hw, if_pos hc, hcounts]
      rfl
    rw [hone, State.modWave, State.setWave_counters, State.count_eq]
    exact look_put_self ..

/-! Event records in the ring (R370, R371, R382). -/

/-- A value whose bytes no written cell names reads as before. -/
theorem readLe_writeCells_of_apart (cs : List Host.Cell) (m : Memory) (a n : Nat) (h : ∀ c ∈ cs, c.1 < a ∨ a + n ≤ c.1) :
    readLe (writeCells m cs) a n = readLe m a n := by
  induction n generalizing a with
  | zero => rfl
  | succ n ih =>
    have hfirst : readByte (writeCells m cs) a = readByte m a :=
      readByte_writeCells_not_mem cs m a fun c hc => by have := h c hc; omega
    have hrest := ih (a + 1) fun c hc => by have := h c hc; omega
    simp only [readLe, hfirst, hrest]

theorem writeCells_append (m : Memory) (xs ys : List Host.Cell) : writeCells m (xs ++ ys) = writeCells (writeCells m xs) ys :=
  List.foldl_append

/-- The cells of `n` doublewords from `a` up. -/
def wordCells (a n : Nat) (f : Nat → Nat) : List Host.Cell := (List.range n).flatMap fun k => leCells (a + 8 * k) 8 (f k)

theorem wordCells_succ (a n : Nat) (f : Nat → Nat) : wordCells a (n + 1) f = wordCells a n f ++ leCells (a + 8 * n) 8 (f n) := by
  simp [wordCells, List.range_succ]

theorem wordCells_range (a n : Nat) (f : Nat → Nat) : ∀ c ∈ wordCells a n f, a ≤ c.1 ∧ c.1 < a + 8 * n := by
  intro c hc
  obtain ⟨k, hk, hc⟩ := List.mem_flatMap.1 hc
  have hk := List.mem_range.1 hk
  obtain ⟨hlo, hhi⟩ := leCells_range _ _ _ c hc
  omega

/-- Each doubleword just written reads back. -/
theorem readLe_writeCells_wordCells (m : Memory) (a n : Nat) (f : Nat → Nat) (k : Nat) (hk : k < n) :
    readLe (writeCells m (wordCells a n f)) (a + 8 * k) 8 = f k % 2 ^ 64 := by
  induction n with
  | zero => omega
  | succ n ih =>
    rw [wordCells_succ, writeCells_append]
    by_cases hn : k = n
    · rw [hn, readLe_writeCells_leCells, show 256 ^ 8 = 2 ^ 64 by norm_num]
    · rw [readLe_writeCells_of_apart, ih (by omega)]
      intro c hc
      obtain ⟨hlo, hhi⟩ := leCells_range _ _ _ c hc
      omega

/-- The doublewords of a record (R370): its header, the records dropped before it, and its payload. -/
def recordWord (kind num : Nat) (e : BitVec 32 × Nat × Nat × List DWord) : Nat → Nat
  | 0 => num % 4096 + kind * 2 ^ 12 + e.2.2.1 * 2 ^ 16 + e.1.toNat * 2 ^ 32
  | 1 => e.2.1
  | k + 2 => ((e.2.2.2[k]?).getD 0).toNat

theorem recordCells_eq (a kind num : Nat) (e : BitVec 32 × Nat × Nat × List DWord) :
    recordCells a kind num e = wordCells a 8 (recordWord kind num e) := rfl

/-- The ring takes a record (R371, R382). -/
theorem eventRecordWrite_takesEffect (s : State) (kind num : Nat) (e : BitVec 32 × Nat × Nat × List DWord)
    (rest : List (BitVec 32 × Nat × Nat × List DWord)) (hheld : (look {} s.events (evKey kind num)).held = e :: rest)
    (hrec : s.fw.recovery = false) (hring : s.mg.ringReady = true) :
    let a := s.mg.evbase.toNat + 64 * (s.mg.evhead.toNat % 2 ^ s.mg.evsize.toNat)
    StepsTo (.eventRecordWrite kind num) s fun t => (∀ k < 8, readLe t.hostMem (a + 8 * k) 8 = recordWord kind num e k % 2 ^ 64) ∧
      (∀ x, x < a ∨ a + 64 ≤ x → readByte t.hostMem x = readByte s.hostMem x) ∧ (look {} t.events (evKey kind num)).held = rest ∧
      t.mg = { s.mg with evhead := s.mg.evhead + 1 } ∧ t.mem = s.mem := by
  intro a
  let u : State := { s.pass .evt (eventUnit kind num) (hostPort 0) with
    hostMem := writeCells s.hostMem (recordCells a kind num e)
    events := put {} s.events (evKey kind num) { look {} s.events (evKey kind num) with held := rest }
    mg := { s.mg with evhead := s.mg.evhead + 1 } }
  have hopen : ¬ (s.fw.recovery || !s.mg.ringReady) = true := by simp [hrec, hring]
  have hexec : exec (.eventRecordWrite kind num) s = .next u := by
    show execEventRecordWrite kind num s = _
    unfold execEventRecordWrite
    dsimp only
    rw [hheld]
    exact if_neg hopen
  have hhost : u.hostMem = writeCells s.hostMem (wordCells a 8 (recordWord kind num e)) :=
    congrArg (writeCells s.hostMem) (recordCells_eq a kind num e)
  refine ⟨u, hexec, fun k hk => ?_, fun x hx => ?_, ?_, rfl, ?_⟩
  · rw [hhost]
    exact readLe_writeCells_wordCells _ _ _ _ k hk
  · rw [hhost]
    refine readByte_writeCells_not_mem _ _ _ fun c hc => ?_
    obtain ⟨hlo, hhi⟩ := wordCells_range _ _ _ c hc
    omega
  · exact congrArg EvSource.held (look_put_self ..)
  · show (s.pass .evt (eventUnit kind num) (hostPort 0)).mem = s.mem
    rw [State.pass_eq]

/-! The statement. -/

/-- Settles O53: an open ingress takes the packet of a request that its link or aperture lets in; each of the other steps has its own lemma
above. -/
theorem outsideRequestTakesEffect : Obligations.OutsideRequestTakesEffect := by
  unfold Obligations.OutsideRequestTakesEffect
  intro s
  refine ⟨?_, ?_, ?_, ?_, atomicUnitOperation_takesEffect s, peerRequestTimeout_takesEffect s, linkOutOfService_takesEffect s,
    linkBackInService_takesEffect s, countDelivery_takesEffect s, ?_⟩
  · intro src r hsrc hin hrec v hap i home port
    have hexec : exec i s = .next (s.outsideRequest (576 + src) home r) := exec_outside s src r hsrc hin hrec hap
    have hport : s.outsidePort (576 + src) = port := s.outsidePort_eq src
    refine ⟨?_, ?_, ?_⟩
    · intro bs hop hbs hline dst f q
      have hsend : s.outsideRequest (576 + src) home r = s.sendOutside (576 + src) dst (.write q) := by
        unfold State.outsideRequest
        rw [hop]
        exact s.outsideWrite_of_line (576 + src) home r.addr bs hbs hline
      exact stepsTo_of_sendOutside (hsend ▸ hexec) hport
    · intro wide x hop
      have hreply : s.outsideRequest (576 + src) home r = s.reply (576 + src) .unsupported := by
        unfold State.outsideRequest
        rw [hop]
      exact ⟨_, hreply ▸ hexec, s.mem_reply _ _, rfl⟩
    · intro hop f
      exact stepsTo_of_sendOutside (s.outsideRequest_of_unit (576 + src) home r hop ▸ hexec) hport
  · exact exec_hostLinkRequest_beyond s
  · exact fun r hrec => if_pos (.inr ⟨rfl, hrec⟩)
  · intro src r hsrc hrec hap
    obtain ⟨hwrite, hother⟩ := exec_peerRequestArrival_refused s src r hsrc hrec hap
    by_cases hop : ∃ bs, r.op = .write bs
    · obtain ⟨bs, hbs⟩ := hop
      exact ⟨_, hwrite bs hbs, rfl, s.mem_reply _ _, fun _ => oneRecord_emit rfl _ _ _ _, fun hne => absurd hbs (hne bs)⟩
    · exact ⟨_, hother fun bs hbs => hop ⟨bs, hbs⟩, rfl, s.mem_reply _ _, fun h => absurd h hop, fun _ => rfl⟩
  · intro kind num seq dropped code payload rest hheld hrec hlo hhi hroom a
    have hring : s.mg.ringReady = true := by
      simp only [Mg.ringReady, Bool.and_eq_true, decide_eq_true_eq, bne_iff_ne]
      exact ⟨⟨hlo, hhi⟩, hroom⟩
    obtain ⟨t, hexec, hwords, hframe, hrest, hmg, hmem⟩ := eventRecordWrite_takesEffect s kind num _ rest hheld hrec hring
    refine ⟨t, hexec, hwords 0 (by omega), hwords 1 (by omega), fun k hk => ?_, hframe, hrest, hmg, hmem⟩
    have hpay := hwords (k + 2) (by omega)
    rw [show a + 16 + 8 * k = a + 8 * (k + 2) by omega, hpay]
    exact Nat.mod_eq_of_lt (BitVec.isLt _)

end Sys2Proof.Machine

/-! SUPPORT. The encoder and the decoder undo each other (R18 to R40, R56 to R58; Decode.lean): the fields of a word, then scalar words,
lane words and pair words, each in both directions, and with them O44. -/

namespace Sys2Proof

/-! Fields of a word. -/

/-- Two fields side by side, read as one. -/
theorem extract_eq_append {m n N a : Nat} {x : BitVec m} {y : BitVec n} {w : BitVec N} :
    w.extractLsb' a (m + n) = x ++ y ↔ w.extractLsb' (a + n) m = x ∧ w.extractLsb' a n = y := by
  rw [← BitVec.extractLsb'_append_extractLsb'_eq_extractLsb' rfl]
  constructor
  · intro h
    have hhi := congrArg (BitVec.extractLsb' n m) h
    have hlo := congrArg (BitVec.extractLsb' 0 n) h
    simpa only [BitVec.extractLsb'_append_eq_left, BitVec.extractLsb'_append_eq_right] using And.intro hhi hlo
  · rintro ⟨rfl, rfl⟩
    rfl

theorem extract_eq_ofBool {N : Nat} {w : BitVec N} {a : Nat} {b : Bool} :
    w.extractLsb' a 1 = BitVec.ofBool b ↔ w.getLsbD a = b := by
  have hbit : (w.extractLsb' a 1).getLsbD 0 = w.getLsbD a := by simp
  rw [← hbit]
  generalize w.extractLsb' a 1 = x
  revert x b
  decide

/-- Reserved bits that lie side by side are clear together. -/
theorem extract_zero {m n N a : Nat} {w : BitVec N} :
    w.extractLsb' a (m + n) = 0#(m + n) ↔ w.extractLsb' (a + n) m = 0#m ∧ w.extractLsb' a n = 0#n := by
  rw [← extract_eq_append, BitVec.zero_append_zero]

theorem extract_eq_ofNat {N a k n : Nat} {w : BitVec N} (h : (w.extractLsb' a k).toNat = n) : w.extractLsb' a k = BitVec.ofNat k n := by
  rw [← h, BitVec.ofNat_toNat, BitVec.setWidth_eq]

theorem eq_iff_extract_all {k : Nat} {x w : BitVec k} : x = w ↔ w.extractLsb' 0 k = x := by rw [BitVec.extractLsb'_eq_self, eq_comm]

/-- The layouts of the scalar words (R18, R57): a word is the fields it is put together from. -/
theorem scalarWord_eq_iff (w : Word) :
    (∀ (o : BitVec 7) (p q r : BitVec 6) (s : BitVec 7), (o ++ p ++ q ++ r ++ s : Word) = w ↔
      w.extractLsb' 25 7 = o ∧ w.extractLsb' 19 6 = p ∧ w.extractLsb' 13 6 = q ∧ w.extractLsb' 7 6 = r ∧ w.extractLsb' 0 7 = s) ∧
    (∀ (o : BitVec 7) (p q : BitVec 6) (r : BitVec 13), (o ++ p ++ q ++ r : Word) = w ↔
      w.extractLsb' 25 7 = o ∧ w.extractLsb' 19 6 = p ∧ w.extractLsb' 13 6 = q ∧ w.extractLsb' 0 13 = r) ∧
    (∀ (o : BitVec 7) (p q r : BitVec 6) (s : BitVec 1) (t : BitVec 6), (o ++ p ++ q ++ r ++ s ++ t : Word) = w ↔
      w.extractLsb' 25 7 = o ∧ w.extractLsb' 19 6 = p ∧ w.extractLsb' 13 6 = q ∧ w.extractLsb' 7 6 = r ∧ w.extractLsb' 6 1 = s ∧
      w.extractLsb' 0 6 = t) ∧
    (∀ (o : BitVec 7) (p : BitVec 25), (o ++ p : Word) = w ↔
      w.extractLsb' 25 7 = o ∧ w.extractLsb' 0 25 = p) ∧
    (∀ (o : BitVec 7) (p q : BitVec 6) (r s : BitVec 3) (t : BitVec 7), (o ++ p ++ q ++ r ++ s ++ t : Word) = w ↔
      w.extractLsb' 25 7 = o ∧ w.extractLsb' 19 6 = p ∧ w.extractLsb' 13 6 = q ∧ w.extractLsb' 10 3 = r ∧ w.extractLsb' 7 3 = s ∧
      w.extractLsb' 0 7 = t) ∧
    (∀ (o : BitVec 7) (p q : BitVec 6) (r : BitVec 4) (s : BitVec 9), (o ++ p ++ q ++ r ++ s : Word) = w ↔
      w.extractLsb' 25 7 = o ∧ w.extractLsb' 19 6 = p ∧ w.extractLsb' 13 6 = q ∧ w.extractLsb' 9 4 = r ∧ w.extractLsb' 0 9 = s) ∧
    (∀ (o : BitVec 7) (p q : BitVec 6) (r : BitVec 1) (s : BitVec 12), (o ++ p ++ q ++ r ++ s : Word) = w ↔
      w.extractLsb' 25 7 = o ∧ w.extractLsb' 19 6 = p ∧ w.extractLsb' 13 6 = q ∧ w.extractLsb' 12 1 = r ∧ w.extractLsb' 0 12 = s) ∧
    (∀ (o : BitVec 7) (p q r : BitVec 6) (s : BitVec 5) (t : BitVec 2), (o ++ p ++ q ++ r ++ s ++ t : Word) = w ↔
      w.extractLsb' 25 7 = o ∧ w.extractLsb' 19 6 = p ∧ w.extractLsb' 13 6 = q ∧ w.extractLsb' 7 6 = r ∧ w.extractLsb' 2 5 = s ∧
      w.extractLsb' 0 2 = t) ∧
    (∀ (o : BitVec 7) (p q r : BitVec 6) (s : BitVec 1) (t : BitVec 2) (u : BitVec 4), (o ++ p ++ q ++ r ++ s ++ t ++ u : Word) = w ↔
      w.extractLsb' 25 7 = o ∧ w.extractLsb' 19 6 = p ∧ w.extractLsb' 13 6 = q ∧ w.extractLsb' 7 6 = r ∧ w.extractLsb' 6 1 = s ∧
      w.extractLsb' 4 2 = t ∧ w.extractLsb' 0 4 = u) ∧
    (∀ (o : BitVec 7) (p : BitVec 2) (q : BitVec 4) (r : BitVec 6) (s : BitVec 13), (o ++ p ++ q ++ r ++ s : Word) = w ↔
      w.extractLsb' 25 7 = o ∧ w.extractLsb' 23 2 = p ∧ w.extractLsb' 19 4 = q ∧ w.extractLsb' 13 6 = r ∧ w.extractLsb' 0 13 = s) ∧
    (∀ (o : BitVec 7) (p : BitVec 2) (q : BitVec 4) (r : BitVec 2) (s : BitVec 4) (t : BitVec 6) (u : BitVec 7),
      (o ++ p ++ q ++ r ++ s ++ t ++ u : Word) = w ↔
      w.extractLsb' 25 7 = o ∧ w.extractLsb' 23 2 = p ∧ w.extractLsb' 19 4 = q ∧ w.extractLsb' 17 2 = r ∧ w.extractLsb' 13 4 = s ∧
      w.extractLsb' 7 6 = t ∧ w.extractLsb' 0 7 = u) ∧
    (∀ (o : BitVec 7) (p : BitVec 2) (q : BitVec 4) (r s : BitVec 6) (t : BitVec 7), (o ++ p ++ q ++ r ++ s ++ t : Word) = w ↔
      w.extractLsb' 25 7 = o ∧ w.extractLsb' 23 2 = p ∧ w.extractLsb' 19 4 = q ∧ w.extractLsb' 13 6 = r ∧ w.extractLsb' 7 6 = s ∧
      w.extractLsb' 0 7 = t) ∧
    (∀ (o : BitVec 7) (p : BitVec 6) (q : BitVec 2) (r : BitVec 4) (s : BitVec 6) (t : BitVec 7), (o ++ p ++ q ++ r ++ s ++ t : Word) = w ↔
      w.extractLsb' 25 7 = o ∧ w.extractLsb' 19 6 = p ∧ w.extractLsb' 17 2 = q ∧ w.extractLsb' 13 4 = r ∧ w.extractLsb' 7 6 = s ∧
      w.extractLsb' 0 7 = t) ∧
    (∀ (o : BitVec 7) (p : BitVec 5) (q : BitVec 1) (r s : BitVec 6) (t : BitVec 7), (o ++ p ++ q ++ r ++ s ++ t : Word) = w ↔
      w.extractLsb' 25 7 = o ∧ w.extractLsb' 20 5 = p ∧ w.extractLsb' 19 1 = q ∧ w.extractLsb' 13 6 = r ∧ w.extractLsb' 7 6 = s ∧
      w.extractLsb' 0 7 = t) ∧
    (∀ (o : BitVec 7) (p q r : BitVec 6) (s : BitVec 4) (t : BitVec 1) (u : BitVec 2), (o ++ p ++ q ++ r ++ s ++ t ++ u : Word) = w ↔
      w.extractLsb' 25 7 = o ∧ w.extractLsb' 19 6 = p ∧ w.extractLsb' 13 6 = q ∧ w.extractLsb' 7 6 = r ∧ w.extractLsb' 3 4 = s ∧
      w.extractLsb' 2 1 = t ∧ w.extractLsb' 0 2 = u) ∧
    (∀ (o : BitVec 7) (p q r : BitVec 6) (s t : BitVec 2) (u : BitVec 3), (o ++ p ++ q ++ r ++ s ++ t ++ u : Word) = w ↔
      w.extractLsb' 25 7 = o ∧ w.extractLsb' 19 6 = p ∧ w.extractLsb' 13 6 = q ∧ w.extractLsb' 7 6 = r ∧ w.extractLsb' 5 2 = s ∧
      w.extractLsb' 3 2 = t ∧ w.extractLsb' 0 3 = u) ∧
    (∀ (o : BitVec 7) (p q r : BitVec 6) (s : BitVec 4) (t : BitVec 3), (o ++ p ++ q ++ r ++ s ++ t : Word) = w ↔
      w.extractLsb' 25 7 = o ∧ w.extractLsb' 19 6 = p ∧ w.extractLsb' 13 6 = q ∧ w.extractLsb' 7 6 = r ∧ w.extractLsb' 3 4 = s ∧
      w.extractLsb' 0 3 = t) ∧
    (∀ (o : BitVec 7) (p : BitVec 5) (q : BitVec 1) (r : BitVec 6) (s : BitVec 13), (o ++ p ++ q ++ r ++ s : Word) = w ↔
      w.extractLsb' 25 7 = o ∧ w.extractLsb' 20 5 = p ∧ w.extractLsb' 19 1 = q ∧ w.extractLsb' 13 6 = r ∧ w.extractLsb' 0 13 = s) ∧
    (∀ (o : BitVec 7) (p q : BitVec 3) (r : BitVec 6) (s : BitVec 13), (o ++ p ++ q ++ r ++ s : Word) = w ↔
      w.extractLsb' 25 7 = o ∧ w.extractLsb' 22 3 = p ∧ w.extractLsb' 19 3 = q ∧ w.extractLsb' 13 6 = r ∧ w.extractLsb' 0 13 = s) ∧
    (∀ (o : BitVec 7) (p q : BitVec 3) (r s : BitVec 6) (t : BitVec 7), (o ++ p ++ q ++ r ++ s ++ t : Word) = w ↔
      w.extractLsb' 25 7 = o ∧ w.extractLsb' 22 3 = p ∧ w.extractLsb' 19 3 = q ∧ w.extractLsb' 13 6 = r ∧ w.extractLsb' 7 6 = s ∧
      w.extractLsb' 0 7 = t) := by
  refine ⟨?_, ?_, ?_, ?_, ?_, ?_, ?_, ?_, ?_, ?_, ?_, ?_, ?_, ?_, ?_, ?_, ?_, ?_, ?_, ?_⟩
  all_goals
    intros
    rw [eq_iff_extract_all]
    simp only [extract_eq_append, and_assoc]


/-- The reserved bits of a scalar word, as the decoder reads them and as the encoder writes them. -/
theorem reservedBits_iff (w : Word) :
    (w.extractLsb' 6 7 = 0#7 ↔ w.extractLsb' 7 6 = 0#6 ∧ w.extractLsb' 6 1 = 0#1) ∧
    (w.extractLsb' 10 9 = 0#9 ↔ w.extractLsb' 13 6 = 0#6 ∧ w.extractLsb' 10 3 = 0#3) ∧
    (w.extractLsb' 2 11 = 0#11 ↔ w.extractLsb' 7 6 = 0#6 ∧ w.extractLsb' 2 5 = 0#5) ∧
    (w.extractLsb' 7 12 = 0#12 ↔ w.extractLsb' 13 6 = 0#6 ∧ w.extractLsb' 7 6 = 0#6) ∧
    (w.extractLsb' 13 12 = 0#12 ↔ w.extractLsb' 19 6 = 0#6 ∧ w.extractLsb' 13 6 = 0#6) ∧
    (w.extractLsb' 7 18 = 0#18 ↔ w.extractLsb' 19 6 = 0#6 ∧ w.extractLsb' 13 6 = 0#6 ∧ w.extractLsb' 7 6 = 0#6) ∧
    (w.extractLsb' 6 13 = 0#13 ↔ w.extractLsb' 13 6 = 0#6 ∧ w.extractLsb' 7 6 = 0#6 ∧ w.extractLsb' 6 1 = 0#1) ∧
    (w.extractLsb' 6 19 = 0#19 ↔
      w.extractLsb' 19 6 = 0#6 ∧ w.extractLsb' 13 6 = 0#6 ∧ w.extractLsb' 7 6 = 0#6 ∧ w.extractLsb' 6 1 = 0#1) ∧
    (w.extractLsb' 0 13 = 0#13 ↔ w.extractLsb' 7 6 = 0#6 ∧ w.extractLsb' 0 7 = 0#7) ∧
    (w.extractLsb' 0 19 = 0#19 ↔ w.extractLsb' 13 6 = 0#6 ∧ w.extractLsb' 7 6 = 0#6 ∧ w.extractLsb' 0 7 = 0#7) ∧
    (w.extractLsb' 0 25 = 0#25 ↔
      w.extractLsb' 19 6 = 0#6 ∧ w.extractLsb' 13 6 = 0#6 ∧ w.extractLsb' 7 6 = 0#6 ∧ w.extractLsb' 0 7 = 0#7) := by
  have two (a m n : Nat) := extract_zero (w := w) (a := a) (m := m) (n := n)
  have three (a l m n : Nat) := (two a l (m + n)).trans (and_congr_right' (two a m n))
  have four (a k l m n : Nat) := (two a k (l + (m + n))).trans (and_congr_right' (three a l m n))
  exact ⟨two 6 6 1, two 10 6 3, two 2 6 5, two 7 6 6, two 13 6 6, three 7 6 6 6, three 6 6 6 1, four 6 6 6 6 1, two 0 6 7,
    three 0 6 6 7, four 0 6 6 6 7⟩

/-- The bits that tell `pfence` from `fence`, as the encoder writes them and as the decoder reads them. -/
theorem pfenceBits_iff {w : Word} : w.extractLsb' 3 4 = 4#4 ↔ w.extractLsb' 5 2 = 1#2 ∧ w.extractLsb' 3 2 = 0#2 :=
  extract_eq_append (x := 1#2) (y := 0#2)

theorem decodeFields_encodeScalar {i : Instr} {w : Word} {p : Option (BitVec 24)} (h : encodeScalar i = some (w, p)) :
    decodeFields w p = .ok i := by
  cases i
  case addi | andi | ori | xori | slti | sltni | muli | beq | bne | blt | bge | bltn | bgen | jlr | lexecC | ldb | ldbn | ldh | ldhn |
      ldw | ldwn | ldd | stb | sth | stw | std | ldv =>
    rename_i i
    obtain ⟨lo, ext⟩ := i
    obtain ⟨hw, rfl⟩ := Prod.mk.inj (Option.some.inj h)
    simp only [scalarWord_eq_iff w] at hw
    obtain ⟨hop, hw⟩ := hw
    rw [decodeFields, hop]
    casesm* _ ∧ _
    subst_vars
    rfl
  case pca | loop | lexec | dLd | dSt | pref | ipref | srBind =>
    rename_i i
    obtain ⟨lo, ext⟩ := i
    obtain ⟨hw, rfl⟩ := Prod.mk.inj (Option.some.inj h)
    simp only [scalarWord_eq_iff w] at hw
    obtain ⟨hop, hw⟩ := hw
    rw [decodeFields, hop]
    casesm* _ ∧ _
    subst_vars
    exact if_pos (by simp only [BitVec.ofNat_eq_ofNat, reservedBits_iff w, and_self, *])
  case j | call =>
    obtain ⟨hw, rfl⟩ := Prod.mk.inj (Option.some.inj h)
    simp only [scalarWord_eq_iff w] at hw
    obtain ⟨hop, rfl⟩ := hw
    rw [decodeFields, hop]
    rfl
  case cpPlane | cpPlaneSw | cpStore | cpSkim | cpFill =>
    obtain ⟨hw, rfl⟩ := Prod.mk.inj (Option.some.inj h)
    simp only [scalarWord_eq_iff w] at hw
    obtain ⟨hop, hw⟩ := hw
    rw [decodeFields, hop]
    casesm* _ ∧ _
    subst_vars
    rfl
  case shli | shri | srai | fq | sys | brk | taskPush | sigAdd | cst4 | cpTest | cpWait | cpRetry | qnt | phaseEnd | eret | step |
      pfenceCode | lread | scw | sigWait | xcnt | xclr | dMov | dSet | dGet | accClr | accAnc | srStop =>
    obtain ⟨hw, rfl⟩ := Prod.mk.inj (Option.some.inj h)
    simp only [scalarWord_eq_iff w] at hw
    obtain ⟨hop, hw⟩ := hw
    rw [decodeFields, hop]
    casesm* _ ∧ _
    subst_vars
    exact if_pos (by simp only [BitVec.ofNat_eq_ofNat, reservedBits_iff w, and_self, *])
  case add | sub | and | or | xor | andn | shl | shr | sra | mul | mulh | mulhn | div | divn | rem | remn | min | max | minn | maxn |
      slt | sltn | seq | addw | subw =>
    obtain ⟨hw, rfl⟩ := Prod.mk.inj (Option.some.inj h)
    simp only [scalarWord_eq_iff w] at hw
    obtain ⟨hop, rfl, rfl, rfl, hf⟩ := hw
    rw [decodeFields, hop]
    change decodeOp00 w = _
    rw [decodeOp00, hf]
    rfl
  case clz | ctz | pop =>
    obtain ⟨hw, rfl⟩ := Prod.mk.inj (Option.some.inj h)
    simp only [scalarWord_eq_iff w] at hw
    obtain ⟨hop, rfl, rfl, h0, hf⟩ := hw
    rw [decodeFields, hop]
    change decodeOp00 w = _
    rw [decodeOp00, hf]
    exact if_pos h0
  case lany | lall | lcount =>
    obtain ⟨hw, rfl⟩ := Prod.mk.inj (Option.some.inj h)
    simp only [scalarWord_eq_iff w] at hw
    obtain ⟨hop, rfl, h0, h1, rfl, hf⟩ := hw
    rw [decodeFields, hop]
    change decodeOp1C w = _
    rw [decodeOp1C, hf]
    exact if_pos (by simp only [BitVec.ofNat_eq_ofNat, reservedBits_iff w, and_self, *])
  case lsync =>
    obtain ⟨hw, rfl⟩ := Prod.mk.inj (Option.some.inj h)
    simp only [scalarWord_eq_iff w] at hw
    obtain ⟨hop, h0, h1, h2, hf⟩ := hw
    rw [decodeFields, hop]
    change decodeOp1C w = _
    rw [decodeOp1C, hf]
    exact if_pos (by simp only [BitVec.ofNat_eq_ofNat, reservedBits_iff w, and_self, *])
  case exit =>
    obtain ⟨hw, rfl⟩ := Prod.mk.inj (Option.some.inj h)
    simp only [scalarWord_eq_iff w] at hw
    obtain ⟨hop, h0, h1, h2, hf⟩ := hw
    rw [decodeFields, hop]
    change decodeOp1E w = _
    rw [decodeOp1E, hf]
    exact if_pos (by simp only [BitVec.ofNat_eq_ofNat, reservedBits_iff w, and_self, *])
  case rdcyc =>
    obtain ⟨hw, rfl⟩ := Prod.mk.inj (Option.some.inj h)
    simp only [scalarWord_eq_iff w] at hw
    obtain ⟨hop, rfl, h0, h1, hf⟩ := hw
    rw [decodeFields, hop]
    change decodeOp1E w = _
    rw [decodeOp1E, hf]
    exact if_pos (by simp only [BitVec.ofNat_eq_ofNat, reservedBits_iff w, and_self, *])
  case csrr =>
    obtain ⟨hw, rfl⟩ := Prod.mk.inj (Option.some.inj h)
    simp only [scalarWord_eq_iff w] at hw
    obtain ⟨hop, rfl, h0, hf, rfl⟩ := hw
    rw [decodeFields, hop]
    change decodeOp1F w = _
    rw [decodeOp1F, hf]
    exact if_pos (by simp only [BitVec.ofNat_eq_ofNat, reservedBits_iff w, and_self, *])
  case csrw =>
    obtain ⟨hw, rfl⟩ := Prod.mk.inj (Option.some.inj h)
    simp only [scalarWord_eq_iff w] at hw
    obtain ⟨hop, h0, rfl, hf, rfl⟩ := hw
    rw [decodeFields, hop]
    change decodeOp1F w = _
    rw [decodeOp1F, hf]
    exact if_pos (by simp only [BitVec.ofNat_eq_ofNat, reservedBits_iff w, and_self, *])
  case atomAdd | atomAnd | atomOr | atomXor | atomMin | atomMax | atomMinn | atomMaxn | atomSwap | atomCas =>
    obtain ⟨hw, rfl⟩ := Prod.mk.inj (Option.some.inj h)
    simp only [scalarWord_eq_iff w] at hw
    obtain ⟨hop, rfl, rfl, rfl, hf, hw, rfl⟩ := hw
    rw [decodeFields, hop]
    change decodeOp5B w = _
    rw [decodeOp5B, hf]
    rw [← extract_eq_ofBool.1 hw]
    rfl
  case fence =>
    obtain ⟨hw, rfl⟩ := Prod.mk.inj (Option.some.inj h)
    simp only [scalarWord_eq_iff w] at hw
    obtain ⟨hop, h0, h1, h2, hf, rfl, rfl⟩ := hw
    rw [decodeFields, hop]
    change decodeOp5D w = _
    rw [decodeOp5D, hf]
    exact if_pos (by simp only [BitVec.ofNat_eq_ofNat, reservedBits_iff w, and_self, *])
  case pfence =>
    obtain ⟨hw, rfl⟩ := Prod.mk.inj (Option.some.inj h)
    simp only [scalarWord_eq_iff w] at hw
    obtain ⟨hop, h0, h1, h2, hf, rfl⟩ := hw
    obtain ⟨hf, h3⟩ := pfenceBits_iff.1 hf
    rw [decodeFields, hop]
    change decodeOp5D w = _
    rw [decodeOp5D, hf]
    exact if_pos (by simp only [BitVec.ofNat_eq_ofNat, reservedBits_iff w, and_self, *])
  case pinL2 =>
    obtain ⟨hw, rfl⟩ := Prod.mk.inj (Option.some.inj h)
    simp only [scalarWord_eq_iff w] at hw
    obtain ⟨hop, rfl, rfl, h0, hf⟩ := hw
    rw [decodeFields, hop]
    change decodeOp5E w = _
    rw [decodeOp5E, hf]
    exact if_pos (by simp only [BitVec.ofNat_eq_ofNat, reservedBits_iff w, and_self, *])
  case unpinL2 =>
    obtain ⟨hw, rfl⟩ := Prod.mk.inj (Option.some.inj h)
    simp only [scalarWord_eq_iff w] at hw
    obtain ⟨hop, h0, rfl, h1, hf⟩ := hw
    rw [decodeFields, hop]
    change decodeOp5E w = _
    rw [decodeOp5E, hf]
    exact if_pos (by simp only [BitVec.ofNat_eq_ofNat, reservedBits_iff w, and_self, *])
  case crewBar | crewArrive | crewWait =>
    obtain ⟨hw, rfl⟩ := Prod.mk.inj (Option.some.inj h)
    simp only [scalarWord_eq_iff w] at hw
    obtain ⟨hop, h0, rfl, h1, hf⟩ := hw
    rw [decodeFields, hop]
    change decodeOp6B w = _
    rw [decodeOp6B, hf]
    exact if_pos (by simp only [BitVec.ofNat_eq_ofNat, reservedBits_iff w, and_self, *])
  case tlbAll =>
    obtain ⟨hw, rfl⟩ := Prod.mk.inj (Option.some.inj h)
    simp only [scalarWord_eq_iff w] at hw
    obtain ⟨hop, h0, h1, h2, hf⟩ := hw
    rw [decodeFields, hop]
    change decodeOp73 w = _
    rw [decodeOp73, hf]
    exact if_pos (by simp only [BitVec.ofNat_eq_ofNat, reservedBits_iff w, and_self, *])
  case tlbVa | tlbCtx =>
    obtain ⟨hw, rfl⟩ := Prod.mk.inj (Option.some.inj h)
    simp only [scalarWord_eq_iff w] at hw
    obtain ⟨hop, h0, rfl, h1, hf⟩ := hw
    rw [decodeFields, hop]
    change decodeOp73 w = _
    rw [decodeOp73, hf]
    exact if_pos (by simp only [BitVec.ofNat_eq_ofNat, reservedBits_iff w, and_self, *])
  case cacheWb | cacheInv | cacheWbinv =>
    obtain ⟨hw, rfl⟩ := Prod.mk.inj (Option.some.inj h)
    simp only [scalarWord_eq_iff w] at hw
    obtain ⟨hop, h0, rfl, rfl, hf⟩ := hw
    rw [decodeFields, hop]
    change decodeOp74 w = _
    rw [decodeOp74, hf]
    exact if_pos (by simp only [BitVec.ofNat_eq_ofNat, reservedBits_iff w, and_self, *])
  all_goals nomatch h

theorem ite_illegal_eq_ok {c : Prop} [Decidable c] {x i : Instr} :
    (if c then Except.ok x else Except.error Bad.illegal) = Except.ok i ↔ c ∧ x = i := by
  split <;> simp [*]

theorem encodeScalar_of_decodeOp00 {w : Word} {i : Instr} (hop : w.extractLsb' 25 7 = 0x00#7) (h : decodeOp00 w = .ok i) :
    encodeScalar i = some (w, none) := by
  unfold decodeOp00 at h
  split at h
  case h_29 => nomatch h
  all_goals
    rename_i hf
    replace hf := extract_eq_ofNat hf
    simp only [ite_illegal_eq_ok, Except.ok.injEq, BitVec.ofNat_eq_ofNat, reservedBits_iff w] at h
    have hfields := And.intro hop h
    casesm* _ ∧ _
    subst_vars
    refine congrArg some (Prod.ext ?_ rfl)
    simp only [scalarWord_eq_iff w, extract_eq_ofBool, pfenceBits_iff, and_self, *]

theorem encodeScalar_of_decodeOp1C {w : Word} {i : Instr} (hop : w.extractLsb' 25 7 = 0x1C#7) (h : decodeOp1C w = .ok i) :
    encodeScalar i = some (w, none) := by
  unfold decodeOp1C at h
  split at h
  case h_5 => nomatch h
  all_goals
    rename_i hf
    replace hf := extract_eq_ofNat hf
    simp only [ite_illegal_eq_ok, Except.ok.injEq, BitVec.ofNat_eq_ofNat, reservedBits_iff w] at h
    have hfields := And.intro hop h
    casesm* _ ∧ _
    subst_vars
    refine congrArg some (Prod.ext ?_ rfl)
    simp only [scalarWord_eq_iff w, extract_eq_ofBool, pfenceBits_iff, and_self, *]

theorem encodeScalar_of_decodeOp1E {w : Word} {i : Instr} (hop : w.extractLsb' 25 7 = 0x1E#7) (h : decodeOp1E w = .ok i) :
    encodeScalar i = some (w, none) := by
  unfold decodeOp1E at h
  split at h
  case h_3 => nomatch h
  all_goals
    rename_i hf
    replace hf := extract_eq_ofNat hf
    simp only [ite_illegal_eq_ok, Except.ok.injEq, BitVec.ofNat_eq_ofNat, reservedBits_iff w] at h
    have hfields := And.intro hop h
    casesm* _ ∧ _
    subst_vars
    refine congrArg some (Prod.ext ?_ rfl)
    simp only [scalarWord_eq_iff w, extract_eq_ofBool, pfenceBits_iff, and_self, *]

theorem encodeScalar_of_decodeOp1F {w : Word} {i : Instr} (hop : w.extractLsb' 25 7 = 0x1F#7) (h : decodeOp1F w = .ok i) :
    encodeScalar i = some (w, none) := by
  unfold decodeOp1F at h
  split at h
  case h_3 => nomatch h
  all_goals
    rename_i hf
    replace hf := extract_eq_ofNat hf
    simp only [ite_illegal_eq_ok, Except.ok.injEq, BitVec.ofNat_eq_ofNat, reservedBits_iff w] at h
    have hfields := And.intro hop h
    casesm* _ ∧ _
    subst_vars
    refine congrArg some (Prod.ext ?_ rfl)
    simp only [scalarWord_eq_iff w, extract_eq_ofBool, pfenceBits_iff, and_self, *]

theorem encodeScalar_of_decodeOp5B {w : Word} {i : Instr} (hop : w.extractLsb' 25 7 = 0x5B#7) (h : decodeOp5B w = .ok i) :
    encodeScalar i = some (w, none) := by
  unfold decodeOp5B at h
  split at h
  case h_11 => nomatch h
  all_goals
    rename_i hf
    replace hf := extract_eq_ofNat hf
    simp only [ite_illegal_eq_ok, Except.ok.injEq, BitVec.ofNat_eq_ofNat, reservedBits_iff w] at h
    have hfields := And.intro hop h
    casesm* _ ∧ _
    subst_vars
    refine congrArg some (Prod.ext ?_ rfl)
    simp only [scalarWord_eq_iff w, extract_eq_ofBool, pfenceBits_iff, and_self, *]

theorem encodeScalar_of_decodeOp5D {w : Word} {i : Instr} (hop : w.extractLsb' 25 7 = 0x5D#7) (h : decodeOp5D w = .ok i) :
    encodeScalar i = some (w, none) := by
  unfold decodeOp5D at h
  split at h
  case h_3 => nomatch h
  all_goals
    rename_i hf
    replace hf := extract_eq_ofNat hf
    simp only [ite_illegal_eq_ok, Except.ok.injEq, BitVec.ofNat_eq_ofNat, reservedBits_iff w] at h
    have hfields := And.intro hop h
    casesm* _ ∧ _
    subst_vars
    refine congrArg some (Prod.ext ?_ rfl)
    simp only [scalarWord_eq_iff w, extract_eq_ofBool, pfenceBits_iff, and_self, *]

theorem encodeScalar_of_decodeOp5E {w : Word} {i : Instr} (hop : w.extractLsb' 25 7 = 0x5E#7) (h : decodeOp5E w = .ok i) :
    encodeScalar i = some (w, none) := by
  unfold decodeOp5E at h
  split at h
  case h_3 => nomatch h
  all_goals
    rename_i hf
    replace hf := extract_eq_ofNat hf
    simp only [ite_illegal_eq_ok, Except.ok.injEq, BitVec.ofNat_eq_ofNat, reservedBits_iff w] at h
    have hfields := And.intro hop h
    casesm* _ ∧ _
    subst_vars
    refine congrArg some (Prod.ext ?_ rfl)
    simp only [scalarWord_eq_iff w, extract_eq_ofBool, pfenceBits_iff, and_self, *]

theorem encodeScalar_of_decodeOp6B {w : Word} {i : Instr} (hop : w.extractLsb' 25 7 = 0x6B#7) (h : decodeOp6B w = .ok i) :
    encodeScalar i = some (w, none) := by
  unfold decodeOp6B at h
  split at h
  case h_4 => nomatch h
  all_goals
    rename_i hf
    replace hf := extract_eq_ofNat hf
    simp only [ite_illegal_eq_ok, Except.ok.injEq, BitVec.ofNat_eq_ofNat, reservedBits_iff w] at h
    have hfields := And.intro hop h
    casesm* _ ∧ _
    subst_vars
    refine congrArg some (Prod.ext ?_ rfl)
    simp only [scalarWord_eq_iff w, extract_eq_ofBool, pfenceBits_iff, and_self, *]

theorem encodeScalar_of_decodeOp73 {w : Word} {i : Instr} (hop : w.extractLsb' 25 7 = 0x73#7) (h : decodeOp73 w = .ok i) :
    encodeScalar i = some (w, none) := by
  unfold decodeOp73 at h
  split at h
  case h_4 => nomatch h
  all_goals
    rename_i hf
    replace hf := extract_eq_ofNat hf
    simp only [ite_illegal_eq_ok, Except.ok.injEq, BitVec.ofNat_eq_ofNat, reservedBits_iff w] at h
    have hfields := And.intro hop h
    casesm* _ ∧ _
    subst_vars
    refine congrArg some (Prod.ext ?_ rfl)
    simp only [scalarWord_eq_iff w, extract_eq_ofBool, pfenceBits_iff, and_self, *]

theorem encodeScalar_of_decodeOp74 {w : Word} {i : Instr} (hop : w.extractLsb' 25 7 = 0x74#7) (h : decodeOp74 w = .ok i) :
    encodeScalar i = some (w, none) := by
  unfold decodeOp74 at h
  split at h
  case h_4 => nomatch h
  all_goals
    rename_i hf
    replace hf := extract_eq_ofNat hf
    simp only [ite_illegal_eq_ok, Except.ok.injEq, BitVec.ofNat_eq_ofNat, reservedBits_iff w] at h
    have hfields := And.intro hop h
    casesm* _ ∧ _
    subst_vars
    refine congrArg some (Prod.ext ?_ rfl)
    simp only [scalarWord_eq_iff w, extract_eq_ofBool, pfenceBits_iff, and_self, *]

theorem encodeScalar_of_decodeFields {w : Word} {p : Option (BitVec 24)} {i : Instr} (h : decodeFields w p = .ok i) :
    encodeScalar i = some (w, if extOpcode (w.extractLsb' 25 7).toNat then p else none) := by
  unfold decodeFields at h
  split at h
  case h_81 | h_82 | h_83 | h_84 => nomatch h
  all_goals
    rename_i hop
    replace hop := extract_eq_ofNat hop
    rw [hop]
  case h_1 => exact encodeScalar_of_decodeOp00 hop h
  case h_25 => exact encodeScalar_of_decodeOp1C hop h
  case h_27 => exact encodeScalar_of_decodeOp1E hop h
  case h_28 => exact encodeScalar_of_decodeOp1F hop h
  case h_50 => exact encodeScalar_of_decodeOp5B hop h
  case h_52 => exact encodeScalar_of_decodeOp5D hop h
  case h_53 => exact encodeScalar_of_decodeOp5E hop h
  case h_66 => exact encodeScalar_of_decodeOp6B hop h
  case h_74 => exact encodeScalar_of_decodeOp73 hop h
  case h_75 => exact encodeScalar_of_decodeOp74 hop h
  all_goals
    simp only [ite_illegal_eq_ok, Except.ok.injEq, BitVec.ofNat_eq_ofNat, reservedBits_iff w] at h
    replace h := And.intro hop h
    casesm* _ ∧ _
    subst_vars
    refine congrArg some (Prod.ext ?_ rfl)
    simp only [scalarWord_eq_iff w, and_self, *]

/-! Lane words. -/

/-- The layouts of a source field (R30). -/
theorem srcField_eq_iff (x : BitVec 11) :
    (∀ (k : BitVec 2) (r : BitVec 9), (k ++ r : BitVec 11) = x ↔ x.extractLsb' 9 2 = k ∧ x.extractLsb' 0 9 = r) ∧
    (∀ (k : BitVec 2) (z : BitVec 3) (r : BitVec 6), (k ++ z ++ r : BitVec 11) = x ↔
      x.extractLsb' 9 2 = k ∧ x.extractLsb' 6 3 = z ∧ x.extractLsb' 0 6 = r) ∧
    ∀ (k : BitVec 2) (z : BitVec 7) (n : BitVec 2), (k ++ z ++ n : BitVec 11) = x ↔
      x.extractLsb' 9 2 = k ∧ x.extractLsb' 2 7 = z ∧ x.extractLsb' 0 2 = n := by
  refine ⟨?_, ?_, ?_⟩
  all_goals
    intros
    rw [eq_iff_extract_all]
    simp only [extract_eq_append, and_assoc]

/-- The layouts of a destination field (R29). -/
theorem dstField_eq_iff (x : BitVec 10) :
    (∀ (k : BitVec 1) (r : BitVec 9), (k ++ r : BitVec 10) = x ↔ x.extractLsb' 9 1 = k ∧ x.extractLsb' 0 9 = r) ∧
    (∀ (k : BitVec 1) (z : BitVec 6) (m : BitVec 3), (k ++ z ++ m : BitVec 10) = x ↔
      x.extractLsb' 9 1 = k ∧ x.extractLsb' 3 6 = z ∧ x.extractLsb' 0 3 = m) ∧
    (∀ (k : BitVec 1) (z : BitVec 7) (n : BitVec 2), (k ++ z ++ n : BitVec 10) = x ↔
      x.extractLsb' 9 1 = k ∧ x.extractLsb' 2 7 = z ∧ x.extractLsb' 0 2 = n) ∧
    ∀ (k : BitVec 1) (z : BitVec 8) (n : BitVec 1), (k ++ z ++ n : BitVec 10) = x ↔
      x.extractLsb' 9 1 = k ∧ x.extractLsb' 1 8 = z ∧ x.extractLsb' 0 1 = n := by
  refine ⟨?_, ?_, ?_, ?_⟩
  all_goals
    intros
    rw [eq_iff_extract_all]
    simp only [extract_eq_append, and_assoc]

theorem decodeSrc_encodeSrc {x : BitVec 11} {y : Src} (h : encodeSrc y = x) : decodeSrc x = some y := by
  cases y
  case v | lit =>
    obtain ⟨hk, rfl⟩ := (srcField_eq_iff x).1 _ _ |>.1 h
    rw [decodeSrc, hk]
    rfl
  case s =>
    obtain ⟨hk, h0, rfl⟩ := (srcField_eq_iff x).2.1 _ _ _ |>.1 h
    rw [decodeSrc, hk]
    exact if_pos h0
  case q =>
    obtain ⟨hk, h0, rfl⟩ := (srcField_eq_iff x).2.2 _ _ _ |>.1 h
    rw [decodeSrc, hk]
    exact if_pos h0

theorem encodeSrc_of_decodeSrc {x : BitVec 11} {y : Src} (h : decodeSrc x = some y) : encodeSrc y = x := by
  unfold decodeSrc at h
  split at h
  next hk =>
    cases h
    exact (srcField_eq_iff x).1 _ _ |>.2 ⟨extract_eq_ofNat hk, rfl⟩
  next hk =>
    cases h
    exact (srcField_eq_iff x).1 _ _ |>.2 ⟨extract_eq_ofNat hk, rfl⟩
  next hk =>
    split at h <;> cases h
    next h0 => exact (srcField_eq_iff x).2.1 _ _ _ |>.2 ⟨extract_eq_ofNat hk, h0, rfl⟩
  next h0 h1 h2 =>
    have hk : (x.extractLsb' 9 2).toNat = 3 := by
      have hlt := (x.extractLsb' 9 2).isLt
      simp only [imp_false] at h0 h1 h2
      omega
    split at h <;> cases h
    next h0 => exact (srcField_eq_iff x).2.2 _ _ _ |>.2 ⟨extract_eq_ofNat hk, h0, rfl⟩

/-- Bits read from a part of a field that is known. -/
theorem extract_of_extract {N a k : Nat} {w : BitVec N} {z : BitVec k} (h : w.extractLsb' a k = z) (b j : Nat) (hb : b + j ≤ k) :
    w.extractLsb' (a + b) j = z.extractLsb' b j := by
  subst h
  refine BitVec.eq_of_getLsbD_eq fun i hi => ?_
  have hk : b + i < k := by omega
  simp [hi, hk, Nat.add_assoc]

theorem decodeDst_encodeDst {x : BitVec 10} {y : Dst} (h : encodeDst y = x) : decodeDst x = some y := by
  unfold decodeDst
  cases y
  case v =>
    obtain ⟨hk, rfl⟩ := (dstField_eq_iff x).1 _ _ |>.1 h
    rw [hk]
    rfl
  case m =>
    obtain ⟨hk, h0, rfl⟩ := (dstField_eq_iff x).2.1 _ _ _ |>.1 h
    rw [hk, h0]
    rfl
  case q =>
    obtain ⟨hk, h0, rfl⟩ := (dstField_eq_iff x).2.2.1 _ _ _ |>.1 h
    have hm : x.extractLsb' 3 6 = 2#6 := extract_of_extract h0 1 6 (by decide)
    rw [hk, hm, h0]
    rfl
  case a =>
    obtain ⟨hk, h0, rfl⟩ := (dstField_eq_iff x).2.2.2 _ _ _ |>.1 h
    have hm : x.extractLsb' 3 6 = 4#6 := extract_of_extract h0 2 6 (by decide)
    have hq : x.extractLsb' 2 7 = 8#7 := extract_of_extract h0 1 7 (by decide)
    rw [hk, hm, hq, h0]
    rfl

theorem encodeDst_of_decodeDst {x : BitVec 10} {y : Dst} (h : decodeDst x = some y) : encodeDst y = x := by
  unfold decodeDst at h
  split at h
  next hk => cases h; exact (dstField_eq_iff x).1 _ _ |>.2 ⟨hk, rfl⟩
  next hk =>
    have hk : x.extractLsb' 9 1 = 1#1 := by
      generalize x.extractLsb' 9 1 = b at hk ⊢
      revert b; decide
    split at h
    next h0 => cases h; exact (dstField_eq_iff x).2.1 _ _ _ |>.2 ⟨hk, h0, rfl⟩
    split at h
    next h0 => cases h; exact (dstField_eq_iff x).2.2.1 _ _ _ |>.2 ⟨hk, h0, rfl⟩
    split at h <;> cases h
    next h0 => exact (dstField_eq_iff x).2.2.2 _ _ _ |>.2 ⟨hk, h0, rfl⟩

/-- The layout of a full lane word (R28). -/
theorem laneWord_eq_iff {w : BitVec 96} {m z : BitVec 1} {o a b c : BitVec 11} {d : BitVec 10} {g : BitVec 4} {r : BitVec 2}
    {f : BitVec 34} :
    (m ++ z ++ o ++ d ++ a ++ b ++ c ++ g ++ r ++ f : BitVec 96) = w ↔
      w.extractLsb' 95 1 = m ∧ w.extractLsb' 94 1 = z ∧ w.extractLsb' 83 11 = o ∧ w.extractLsb' 73 10 = d ∧
        w.extractLsb' 62 11 = a ∧ w.extractLsb' 51 11 = b ∧ w.extractLsb' 40 11 = c ∧ w.extractLsb' 36 4 = g ∧
        w.extractLsb' 34 2 = r ∧ w.extractLsb' 0 34 = f := by
  rw [eq_iff_extract_all]
  simp only [extract_eq_append, and_assoc]

/-- The layout of a pair word and of its halves (R37). -/
theorem pairWord_eq_iff {w : BitVec 96} {m z : BitVec 1} {x y : BitVec 47} :
    (m ++ z ++ x ++ y : BitVec 96) = w ↔
      w.extractLsb' 95 1 = m ∧ w.extractLsb' 94 1 = z ∧ w.extractLsb' 47 47 = x ∧ w.extractLsb' 0 47 = y := by
  rw [eq_iff_extract_all]
  simp only [extract_eq_append, and_assoc]

theorem half_eq_iff {h : BitVec 47} {o d : BitVec 9} {a b : BitVec 11} {g : BitVec 3} {f : BitVec 4} :
    (o ++ d ++ a ++ b ++ g ++ f : BitVec 47) = h ↔
      h.extractLsb' 38 9 = o ∧ h.extractLsb' 29 9 = d ∧ h.extractLsb' 18 11 = a ∧ h.extractLsb' 7 11 = b ∧
        h.extractLsb' 4 3 = g ∧ h.extractLsb' 0 4 = f := by
  rw [eq_iff_extract_all]
  simp only [extract_eq_append, and_assoc]

theorem decodeLaneWord_encodeLaneWord {w : BitVec 96} {op : Nat} {lw : LaneWord} (h : encodeLaneWord op lw = w) :
    w.getLsbD 94 = false ∧ w.extractLsb' 83 11 = BitVec.ofNat 11 op ∧ decodeLaneWord w = some lw := by
  obtain ⟨hm, hz, ho, hd, ha, hb, hc, hg, hr, hf⟩ := laneWord_eq_iff.1 h
  refine ⟨extract_eq_ofBool.1 hz, ho, ?_⟩
  unfold decodeLaneWord
  rw [hd, ha, hb, hc, decodeDst_encodeDst rfl, decodeSrc_encodeSrc rfl, decodeSrc_encodeSrc rfl, decodeSrc_encodeSrc rfl, hg, hr, hf,
    extract_eq_ofBool.1 hm]

theorem encodeLaneWord_of_decodeLaneWord {w : BitVec 96} {op : Nat} {lw : LaneWord} (hz : w.getLsbD 94 = false)
    (ho : w.extractLsb' 83 11 = BitVec.ofNat 11 op) (h : decodeLaneWord w = some lw) : encodeLaneWord op lw = w := by
  unfold decodeLaneWord at h
  split at h
  next d a b c hd ha hb hc =>
    cases h
    exact laneWord_eq_iff.2 ⟨extract_eq_ofBool.2 rfl, extract_eq_ofBool.2 hz, ho, (encodeDst_of_decodeDst hd).symm,
      (encodeSrc_of_decodeSrc ha).symm, (encodeSrc_of_decodeSrc hb).symm, (encodeSrc_of_decodeSrc hc).symm, rfl, rfl, rfl⟩
  next => nomatch h

theorem PairOp.ofCode_code (p : PairOp) : PairOp.ofCode p.code = some p := by
  cases p <;> rfl

theorem PairOp.code_of_ofCode {c : BitVec 9} {p : PairOp} (h : PairOp.ofCode c = some p) : p.code = c := by
  unfold PairOp.ofCode at h
  refine BitVec.eq_of_toNat_eq ?_
  split at h <;> cases h
  all_goals
    rename_i hc
    rw [hc]
    rfl

theorem decodeHalf_encodeHalf {h : BitVec 47} {p : PairOp} {x : Half} (hx : encodeHalf p x = h) : decodeHalf h = some (p, x) := by
  obtain ⟨ho, hd, ha, hb, hg, hf⟩ := half_eq_iff.1 hx
  unfold decodeHalf
  rw [ho, ha, hb, PairOp.ofCode_code, decodeSrc_encodeSrc rfl, decodeSrc_encodeSrc rfl, hd, hg, hf]

theorem encodeHalf_of_decodeHalf {h : BitVec 47} {p : PairOp} {x : Half} (hx : decodeHalf h = some (p, x)) : encodeHalf p x = h := by
  unfold decodeHalf at hx
  split at hx
  next hp ha hb =>
    cases hx
    exact half_eq_iff.2 ⟨(PairOp.code_of_ofCode hp).symm, rfl, (encodeSrc_of_decodeSrc ha).symm, (encodeSrc_of_decodeSrc hb).symm, rfl,
      rfl⟩
  next => nomatch hx

theorem mkLane_of_laneFull {i : Instr} {op : Nat} {w : LaneWord} (h : i.laneFull = some (op, w)) : mkLane op w = some i := by
  unfold Instr.laneFull at h
  split at h <;> cases h <;> rfl

theorem laneFull_of_mkLane {i : Instr} {op : Nat} {w : LaneWord} (h : mkLane op w = some i) : i.laneFull = some (op, w) := by
  unfold mkLane at h
  split at h <;> cases h <;> rfl

theorem encodeScalar_of_mkLane {i : Instr} {op : Nat} {w : LaneWord} (h : mkLane op w = some i) : encodeScalar i = none := by
  unfold mkLane at h
  split at h <;> cases h <;> rfl

/-- Every lane opcode fits its eleven bits. -/
theorem mkLane_lt {i : Instr} {op : Nat} {w : LaneWord} (h : mkLane op w = some i) : op < 2048 := by
  unfold mkLane at h
  split at h
  case h_101 => nomatch h
  all_goals decide

theorem mkPair_of_lanePair {i : Instr} {m : Bool} {p q : PairOp} {x y : Half} (h : i.lanePair = some (m, (p, x), (q, y))) :
    mkPair m p x q y = i := by
  unfold Instr.lanePair at h
  split at h <;> cases h <;> rfl

/-- A pair word has its two halves for fields, and is no full lane word and no scalar word. -/
theorem mkPair_forms (m : Bool) (p q : PairOp) (x y : Half) :
    (mkPair m p x q y).lanePair = some (m, (p, x), (q, y)) ∧ (mkPair m p x q y).laneFull = none ∧
      encodeScalar (mkPair m p x q y) = none := by
  cases p <;> exact ⟨rfl, rfl, rfl⟩

/-! Every instruction. -/

/-- What a full lane word decodes to (R28, R43). -/
theorem decodeLane_full_iff {w : BitVec 96} {i : Instr} (hz : w.getLsbD 94 = false) :
    decodeLane w = .ok i ↔ ∃ lw, decodeLaneWord w = some lw ∧ laneOk (w.extractLsb' 83 11).toNat lw = true ∧
      mkLane (w.extractLsb' 83 11).toNat lw = some i := by
  unfold decodeLane
  rw [hz]
  simp only [Bool.false_eq_true, if_false]
  cases hs : laneSpec (w.extractLsb' 83 11).toNat with
  | none =>
    have hno : ∀ lw, laneOk (w.extractLsb' 83 11).toNat lw = false := fun lw => by rw [laneOk, hs]
    simp only [hno, Bool.false_eq_true, false_and, and_false, exists_false, iff_false]
    split <;> exact nofun
  | some sp =>
    cases hw : decodeLaneWord w with
    | none => simp
    | some lw =>
      simp only [Option.some.injEq, exists_eq_left']
      split
      next hok =>
        cases mkLane (w.extractLsb' 83 11).toNat lw with
        | none => exact ⟨nofun, nofun⟩
        | some j => simp only [hok, true_and, Except.ok.injEq, Option.some.injEq]
      next hok => exact ⟨nofun, fun h => absurd h.1 hok⟩

/-- What a pair word decodes to (R37, R38, R43). -/
theorem decodeLane_pair_iff {w : BitVec 96} {i : Instr} (hz : w.getLsbD 94 = true) :
    decodeLane w = .ok i ↔ ∃ p x q y, decodeHalf (w.extractLsb' 47 47) = some (p, x) ∧ decodeHalf (w.extractLsb' 0 47) = some (q, y) ∧
      pairOk p x q y = true ∧ pairRule p x q y = false ∧ mkPair (w.getLsbD 95) p x q y = i := by
  unfold decodeLane
  rw [if_pos hz]
  split
  next p x q y hx hy =>
    rw [hx, hy]
    by_cases hok : pairOk p x q y = true
    · by_cases hr : pairRule p x q y = true
      · simp [hok, hr]
      · simp [hok, hr]
    · simp [hok]
  next h =>
    constructor
    · exact nofun
    · rintro ⟨p, x, q, y, hx, hy, -⟩
      exact (h _ _ _ _ hx hy).elim

theorem Instr.wf_of_laneFull {i : Instr} {op : Nat} {w : LaneWord} (h : i.laneFull = some (op, w)) : i.wf = laneOk op w := by
  rw [Instr.wf, h]

theorem Instr.wf_mkPair (m : Bool) (p q : PairOp) (x y : Half) :
    (mkPair m p x q y).wf = (pairOk p x q y && !pairRule p x q y) := by
  obtain ⟨hpair, hfull, -⟩ := mkPair_forms m p q x y
  rw [Instr.wf, hfull, hpair]

theorem encode_of_mkLane {i : Instr} {op : Nat} {w : LaneWord} (h : mkLane op w = some i) : encode i = some (.lane (encodeLaneWord op w)) := by
  rw [encode, encodeScalar_of_mkLane h, encodeLane, laneFull_of_mkLane h]
  rfl

theorem encode_mkPair (m : Bool) (p q : PairOp) (x y : Half) :
    encode (mkPair m p x q y) = some (.lane (BitVec.ofBool m ++ 1#1 ++ encodeHalf p x ++ encodeHalf q y)) := by
  obtain ⟨hpair, hfull, hs⟩ := mkPair_forms m p q x y
  rw [encode, hs, encodeLane, hfull, hpair]
  rfl

/-- An instruction that has an encoding is a scalar one, a full lane word or a pair word. -/
theorem encode_cases {i : Instr} {e : Enc} (h : encode i = some e) :
    (∃ w p, encodeScalar i = some (w, p) ∧ e = .scalar w p) ∨ (∃ op lw, mkLane op lw = some i ∧ e = .lane (encodeLaneWord op lw)) ∨
      ∃ m p x q y, mkPair m p x q y = i ∧ e = .lane (BitVec.ofBool m ++ 1#1 ++ encodeHalf p x ++ encodeHalf q y) := by
  unfold encode at h
  split at h
  next w p hs =>
    cases h
    exact .inl ⟨w, p, hs, rfl⟩
  next =>
    unfold encodeLane at h
    split at h
    next op lw hl =>
      cases h
      exact .inr (.inl ⟨op, lw, mkLane_of_laneFull hl, rfl⟩)
    split at h
    next m p x q y hl =>
      cases h
      exact .inr (.inr ⟨m, p, x, q, y, mkPair_of_lanePair hl, rfl⟩)
    next => nomatch h

theorem extPayload_extWord (p : Option (BitVec 24)) : extPayload (extWord p) = p := by
  cases p with
  | none => rfl
  | some x =>
    obtain ⟨hk, hx⟩ := (extract_eq_append (a := 0) (w := (0xFF#8 ++ x : Word)) (x := 0xFF#8) (y := x)).1 BitVec.extractLsb'_eq_self
    have hext : isExtWord (0xFF#8 ++ x) = true := by
      rw [isExtWord, hk]
      rfl
    exact (if_pos hext).trans (congrArg some hx)

theorem decodeScalar_eq_ok {w next : Word} {i : Instr} :
    decodeScalar w next = .ok i ↔ decodeFields w (extPayload next) = .ok i ∧ i.wf = true := by
  unfold decodeScalar
  split
  next j hj =>
    by_cases hwf : j.wf = true
    · simp only [hwf, if_true, hj, Except.ok.injEq]
      exact ⟨fun h => ⟨h, h ▸ hwf⟩, And.left⟩
    · simp only [hwf, hj, Except.ok.injEq]
      exact ⟨nofun, fun ⟨h, hi⟩ => absurd (h ▸ hi) hwf⟩
  next e he => simp [he]

theorem decode_encode {i : Instr} {e : Enc} (hwf : i.wf = true) (h : encode i = some e) : decode e = .ok i := by
  obtain ⟨w, p, hs, rfl⟩ | ⟨op, lw, hi, rfl⟩ | ⟨m, p, x, q, y, rfl, rfl⟩ := encode_cases h
  · exact decodeScalar_eq_ok.2 ⟨by rw [extPayload_extWord]; exact decodeFields_encodeScalar hs, hwf⟩
  · obtain ⟨hz, ho, hw⟩ := decodeLaneWord_encodeLaneWord (op := op) (lw := lw) rfl
    have hop : ((encodeLaneWord op lw).extractLsb' 83 11).toNat = op := by
      rw [ho]
      exact Nat.mod_eq_of_lt (mkLane_lt hi)
    rw [Instr.wf_of_laneFull (laneFull_of_mkLane hi)] at hwf
    exact (decodeLane_full_iff hz).2 ⟨lw, hw, hop.symm ▸ hwf, hop.symm ▸ hi⟩
  · obtain ⟨hm, hz, hx, hy⟩ := pairWord_eq_iff.1 (rfl : BitVec.ofBool m ++ 1#1 ++ encodeHalf p x ++ encodeHalf q y = _)
    rw [Instr.wf_mkPair, Bool.and_eq_true, Bool.not_eq_true'] at hwf
    exact (decodeLane_pair_iff (extract_eq_ofBool (b := true).1 hz)).2 ⟨p, x, q, y, decodeHalf_encodeHalf hx.symm, decodeHalf_encodeHalf hy.symm,
      hwf.1, hwf.2, by rw [extract_eq_ofBool.1 hm]⟩

theorem encode_decodeLane {w : BitVec 96} {i : Instr} (h : decodeLane w = .ok i) : i.wf = true ∧ encode i = some (.lane w) := by
  cases hz : w.getLsbD 94 with
  | false =>
    obtain ⟨lw, hw, hok, hi⟩ := (decodeLane_full_iff hz).1 h
    refine ⟨(Instr.wf_of_laneFull (laneFull_of_mkLane hi)).trans hok, ?_⟩
    rw [encode_of_mkLane hi, encodeLaneWord_of_decodeLaneWord hz (extract_eq_ofNat rfl) hw]
  | true =>
    obtain ⟨p, x, q, y, hx, hy, hok, hr, rfl⟩ := (decodeLane_pair_iff hz).1 h
    refine ⟨by rw [Instr.wf_mkPair, hok, hr]; rfl, ?_⟩
    have hw : BitVec.ofBool (w.getLsbD 95) ++ 1#1 ++ encodeHalf p x ++ encodeHalf q y = w :=
      pairWord_eq_iff.2 ⟨extract_eq_ofBool.2 rfl, extract_eq_ofBool (b := true).2 hz, (encodeHalf_of_decodeHalf hx).symm,
        (encodeHalf_of_decodeHalf hy).symm⟩
    rw [encode_mkPair, hw]

theorem encode_decodeScalar {w : Word} {p : Option (BitVec 24)} {i : Instr} (hp : extOpcode (w.extractLsb' 25 7).toNat = true ∨ p = none)
    (h : decodeScalar w (extWord p) = .ok i) : i.wf = true ∧ encode i = some (.scalar w p) := by
  obtain ⟨hd, hwf⟩ := decodeScalar_eq_ok.1 h
  rw [extPayload_extWord] at hd
  have hs := encodeScalar_of_decodeFields hd
  have hext : (if extOpcode (w.extractLsb' 25 7).toNat then p else none) = p := by
    rcases hp with hp | rfl
    · exact if_pos hp
    · exact ite_self _
  rw [hext] at hs
  exact ⟨hwf, by rw [encode, hs]⟩

end Sys2Proof

namespace Sys2Proof.Machine

open Sys2Proof

/-- Settles O44: an encoded instruction is decoded by its layout, and what a word decodes to is encoded by the same layout. -/
theorem decodeAndEncodeAgree : Obligations.DecodeAndEncodeAgree := by
  unfold Obligations.DecodeAndEncodeAgree
  exact ⟨fun _ _ => decode_encode, fun _ _ => encode_decodeLane, fun _ _ _ => encode_decodeScalar⟩

end Sys2Proof.Machine

/-! SUPPORT. Register operations of the scalar stream: how an instruction that writes one register completes, and the values of R63. -/

namespace Sys2Proof.Machine

open Sys2Proof

/-! How an instruction that writes one scalar register completes. -/

/-- The effect of a register write on the wave: its scalar registers alone. -/
theorem Wave.setKey_eq (w : Wave) (k : Nat) (v : DWord) :
    w.setKey k v = { w with s := (w.setKey k v).s, sret := (w.setKey k v).sret } := by
  unfold Wave.setKey; split <;> rfl

/-- A register write changes the scalar registers of the wave alone. -/
theorem State.setS_eq_registers (s : State) (d : BitVec 6) (v : DWord) :
    s.setS d v = { s with w := { s.w with s := (s.setS d v).w.s, sret := (s.setS d v).w.sret } } := by
  conv_lhs => rw [State.setS, State.modW, Wave.setKey_eq]
  rfl

/-- How an instruction of `len` bytes ends in sequence, outside a single step, whose effects led to `u` but for what scalar registers hold. -/
theorem retires_advance (u : State) (h : u.noStep) (len : Nat) (f : Sparse DWord) (r : List (Nat × DWord)) :
    Retires u (({ u with w := { u.w with s := f, sret := r } } : State).advance len).retire (u.w.pc + dw len) false
      ({ u.w with s := f, sret := r } : Wave).sVal := by
  have he := State.retire_eq (({ u with w := { u.w with s := f, sret := r } } : State).advance len) h
  rw [he]
  exact ⟨fun _ => rfl, rfl⟩

/-- The registers after a register write, as the statements spell them. -/
theorem State.setS_sVal (s : State) (d : BitVec 6) (v : DWord) (k : Nat) : (s.setS d v).w.sVal k = s.regSet d v k := by
  rw [State.setS, State.modW_w, Wave.sVal_setKey, State.regSet]
  by_cases hk : k = sKey s.w.sys d
  · subst hk; rfl
  · simp [hk]

/-- Outside a single step, an instruction whose one effect is a register write goes on in sequence (R61, R62). -/
theorem completes_of_setS {i : Instr} {s : State} {d : BitVec 6} {v v' : DWord} {len : Nat} (h : s.noStep)
    (he : exec i s = finishSeq len s (.ok (s.setS d v'))) (hv : v' = v) : Completes i s d v len := by
  have hr := retires_advance s h len (s.setS d v).w.s (s.setS d v).w.sret
  rw [← State.setS_eq_registers] at hr
  exact ⟨_, hv ▸ he, fun k => (hr.1 k).trans (s.setS_sVal d v k), hr.2⟩

/-! The values of R63's Table 1 in the words of the rule. -/

/-- The high half of a signed product. -/
theorem signedHigh_eq (x y : DWord) :
    BitVec.ofInt 64 (x.toInt * y.toInt / 2 ^ 64) = (x.signExtend 128 * y.signExtend 128).extractLsb' 64 64 := by
  have hx := x.toInt_signExtend_of_le (v := 128) (by decide)
  have hy := y.toInt_signExtend_of_le (v := 128) (by decide)
  have hp : x.signExtend 128 * y.signExtend 128 = BitVec.ofInt 128 (x.toInt * y.toInt) := by
    rw [BitVec.ofInt_mul, ← hx, ← hy, BitVec.ofInt_toInt, BitVec.ofInt_toInt]
  apply BitVec.eq_of_toNat_eq
  rw [hp, BitVec.extractLsb'_toNat, BitVec.toNat_ofInt, BitVec.toNat_ofInt, Nat.shiftRight_eq_div_pow]
  have hz : ∀ z : Int, (z / 2 ^ 64 % ((2 ^ 64 : Nat) : Int)).toNat = (z % ((2 ^ 128 : Nat) : Int)).toNat / 2 ^ 64 % 2 ^ 64 := by
    intro z; omega
  exact hz _

/-- The high half of an unsigned product. -/
theorem unsignedHigh_eq (x y : DWord) :
    dw (x.toNat * y.toNat / 2 ^ 64) = (x.setWidth 128 * y.setWidth 128).extractLsb' 64 64 := by
  have hx := x.isLt
  have hy := y.isLt
  have hp : x.toNat * y.toNat < 2 ^ 128 := by
    calc x.toNat * y.toNat < 2 ^ 64 * 2 ^ 64 := Nat.mul_lt_mul'' hx hy
      _ = 2 ^ 128 := by norm_num
  apply BitVec.eq_of_toNat_eq
  rw [dw, BitVec.toNat_ofNat, BitVec.extractLsb'_toNat, BitVec.toNat_mul, BitVec.toNat_setWidth_of_le (by decide),
    BitVec.toNat_setWidth_of_le (by decide), Nat.mod_eq_of_lt hp, Nat.shiftRight_eq_div_pow]

/-- The signed order as R63 writes it: on a tie, minimum and maximum are either operand. -/
theorem ite_slt_min (x y : DWord) : (if x.slt y then x else y) = if x.toInt ≤ y.toInt then x else y := by
  rcases lt_trichotomy x.toInt y.toInt with h | h | h
  · simp [BitVec.slt, h, h.le]
  · simp [BitVec.toInt_inj.mp h]
  · simp [BitVec.slt, h.not_gt, h.not_ge]

theorem ite_slt_max (x y : DWord) : (if x.slt y then y else x) = if x.toInt ≤ y.toInt then y else x := by
  rcases lt_trichotomy x.toInt y.toInt with h | h | h
  · simp [BitVec.slt, h, h.le]
  · simp [BitVec.toInt_inj.mp h]
  · simp [BitVec.slt, h.not_gt, h.not_ge]

/-- The unsigned order likewise. -/
theorem ite_ult_min (x y : DWord) : (if x.ult y then x else y) = if x.toNat ≤ y.toNat then x else y := by
  rcases lt_trichotomy x.toNat y.toNat with h | h | h
  · simp [BitVec.ult, h, h.le]
  · simp [BitVec.toNat_inj.mp h]
  · simp [BitVec.ult, h.not_gt, h.not_ge]

theorem ite_ult_max (x y : DWord) : (if x.ult y then y else x) = if x.toNat ≤ y.toNat then y else x := by
  rcases lt_trichotomy x.toNat y.toNat with h | h | h
  · simp [BitVec.ult, h, h.le]
  · simp [BitVec.toNat_inj.mp h]
  · simp [BitVec.ult, h.not_gt, h.not_ge]

/-- The low word of a sum or difference is the sum or difference of the low words. -/
theorem lowWord_add (x y : DWord) :
    (x.extractLsb' 0 32 + y.extractLsb' 0 32).signExtend 64 = ((x + y).setWidth 32).signExtend 64 := by
  rw [BitVec.setWidth_add _ _ (by decide)]
  rfl

theorem lowWord_sub (x y : DWord) :
    (x.extractLsb' 0 32 - y.extractLsb' 0 32).signExtend 64 = ((x - y).setWidth 32).signExtend 64 := by
  rw [BitVec.sub_eq_add_neg, BitVec.sub_eq_add_neg, BitVec.setWidth_add _ _ (by decide), BitVec.setWidth_neg_of_le (by decide)]
  rfl

/-! The counts of bits (R63). -/

/-- The count of leading zeros stops at the first bit set from the top. -/
theorem clearFromTop_leadingZeros (x : DWord) : clearFromTop x (leadingZeros x) := by
  unfold leadingZeros
  split
  next h => exact ⟨le_rfl, fun i _ => by simp [h], fun h' => absurd h' (lt_irrefl _)⟩
  next h =>
    have h0 : x.toNat ≠ 0 := fun h' => h (BitVec.eq_of_toNat_eq h')
    have hlog : x.toNat.log2 < 64 := (Nat.log2_lt h0).mpr x.isLt
    refine ⟨by omega, fun i hi => ?_, fun _ => ?_⟩
    · exact Nat.testBit_lt_two_pow (lt_of_lt_of_le Nat.lt_log2_self (Nat.pow_le_pow_right (by decide) (by omega)))
    · have : 63 - (63 - x.toNat.log2) = x.toNat.log2 := by omega
      rw [this]
      exact Nat.testBit_log2 h0

/-- The count of trailing zeros from bit `k` up: clear below it, and set there where it ends before the bits do. -/
theorem trailingFrom_spec (x : DWord) (n k : Nat) :
    trailingFrom x n k ≤ n ∧ (∀ i < trailingFrom x n k, x.getLsbD (k + i) = false) ∧
      (trailingFrom x n k < n → x.getLsbD (k + trailingFrom x n k) = true) := by
  induction n generalizing k with
  | zero => simp [trailingFrom]
  | succ n ih =>
    obtain ⟨hle, hclear, hset⟩ := ih (k + 1)
    unfold trailingFrom
    split
    next h => exact ⟨Nat.zero_le _, fun i hi => absurd hi (Nat.not_lt_zero i), fun _ => h⟩
    next h =>
      refine ⟨by omega, fun i hi => ?_, fun hlt => ?_⟩
      · cases i with
        | zero => simpa using h
        | succ i => rw [show k + (i + 1) = k + 1 + i by omega]; exact hclear i (by omega)
      · rw [← Nat.add_assoc]; exact hset (by omega)

theorem clearFromBottom_trailingZeros (x : DWord) : clearFromBottom x (trailingZeros x) := by
  simpa [clearFromBottom, trailingZeros] using trailingFrom_spec x 64 0

theorem registerOperationWritesItsResultClaim : RegisterOperationWritesItsResultClaim := by
  intro s d a b h
  simp only [registerOps, List.forall_mem_cons]
  refine ⟨completes_of_setS h rfl rfl, completes_of_setS h rfl rfl, completes_of_setS h rfl rfl, completes_of_setS h rfl rfl,
    completes_of_setS h rfl rfl, completes_of_setS h rfl rfl, completes_of_setS h rfl rfl, completes_of_setS h rfl rfl,
    completes_of_setS h rfl rfl, completes_of_setS h rfl rfl, completes_of_setS h rfl (signedHigh_eq _ _),
    completes_of_setS h rfl (unsignedHigh_eq _ _), completes_of_setS h rfl (ite_slt_min _ _), completes_of_setS h rfl (ite_slt_max _ _),
    completes_of_setS h rfl (ite_ult_min _ _), completes_of_setS h rfl (ite_ult_max _ _), completes_of_setS h rfl (by simp [BitVec.slt]),
    completes_of_setS h rfl (by simp [BitVec.ult]), completes_of_setS h rfl rfl,
    completes_of_setS h rfl (lowWord_add _ _), completes_of_setS h rfl (lowWord_sub _ _), by simp⟩

theorem bitCountsAreCountsClaim : BitCountsAreCountsClaim := fun s d a h =>
  ⟨⟨_, clearFromTop_leadingZeros _, completes_of_setS h rfl rfl⟩, ⟨_, clearFromBottom_trailingZeros _, completes_of_setS h rfl rfl⟩,
    completes_of_setS h rfl (congrArg dw List.countP_eq_length_filter)⟩

/-- Settles O1: each operation writes one register and retires, its value spelled as in R63's Table 1. -/
theorem registerOperationWritesItsResult : Obligations.RegisterOperationWritesItsResult :=
  ⟨registerOperationWritesItsResultClaim, bitCountsAreCountsClaim⟩

end Sys2Proof.Machine

/-! SUPPORT. What one step of the machine runs: the turn that is due, the scalar word that a fetch gives, and the lane stream's next thing. -/

namespace Sys2Proof.Machine

open Sys2Proof

/-! The turn that is due. -/

theorem State.focusOn_self (s : State) : s.focusOn s.wid = s := if_pos rfl

/-- A wave whose scalar stream acts next takes its scalar turn. -/
theorem step_of_scalarNext {s u : State} (h : s.scalarNext u) : step s = settled (scalarTurn u) := by
  obtain ⟨h, -, -, -⟩ := h
  rcases h with ⟨hag, hrobin, rfl⟩ | ⟨rest, hag, rfl⟩
  · simp only [step, turn, hag, autoTurn, hrobin, if_true]
  · simp only [step, turn, hag, Turn.act]
    rw [State.focusOn_self { s with agenda := rest }]

/-- A wave whose lane stream acts next, with something in its queue, takes its lane turn. -/
theorem step_of_laneNextUp {s u : State} (h : s.laneNextUp u) (hq : u.w.lq ≠ []) : step s = settled (laneTurn u) := by
  obtain ⟨h, hopen⟩ := h
  rcases h with ⟨hag, ⟨hrobin, hblocked⟩, rfl⟩ | ⟨rest, hag, rfl⟩
  · have hgo : (u.laneOpen && !u.w.laneBlocked && !u.w.lq.isEmpty) = true := by simp [hopen, hblocked, hq]
    simp only [step, turn, hag, autoTurn, hrobin, hgo, if_true]
  · simp only [step, turn, hag, Turn.act]
    rw [State.focusOn_self { s with agenda := rest }]

/-! A turn whose packets cannot all pass. -/

theorem orWait_next (w t : State) : orWait w (.next t) = .next (passed w t) := rfl

/-- A turn that ends as `i` does, and is held back where its packets cannot pass. -/
theorem runs_of_orWait {u w : State} {i : Instr} {o : Host.Outcome State Fault Refusal}
    (h : o = settled (orWait w (exec i u.unjam))) : runs u w i o := by
  have hu : u.unjam = { u with jam := false } := rfl
  rw [hu] at h
  refine ⟨fun t ht => ?_, fun f hf => ?_, fun f hf => ?_⟩
  · rw [h, ht, orWait_next]
  · rw [h, hf]; rfl
  · rw [h, hf]; rfl

/-! The scalar stream. -/

/-- A word for which its instruction waits for a second one is no extension word (R21). -/
theorem isExtWord_of_extOpcode {w : Word} (h : extOpcode (w.extractLsb' 25 7).toNat = true) : isExtWord w = false := by
  by_contra hw
  have hx : w.extractLsb' 24 8 = 0xFF#8 := by simpa [isExtWord] using hw
  have h7 : (w.extractLsb' 25 7).toNat = 0x7F := by
    have h8 := congrArg BitVec.toNat hx
    simp only [BitVec.extractLsb'_toNat, Nat.shiftRight_eq_div_pow, BitVec.toNat_ofNat] at h8 ⊢
    omega
  rw [h7] at h
  exact absurd h (by decide)

/-- The scalar turn of a wave whose stream may issue and that no single step holds, where its fetch meets a fault. -/
theorem scalarTurn_fault {u : State} {c : Cause} {fva : DWord} (hopen : u.scalarOpen = true) (hexp : u.countExpired = false)
    (hstep : u.w.stepping = false) (hf : u.fetchScalar = .fault c fva) :
    scalarTurn u = orWait u.stall (.next (u.unjam.touchFetch.raise 0 c fva 0 0)) := by
  simp [scalarTurn, hopen, hexp, hstep, hf]

/-- The same where its fetch gives an instruction. -/
theorem scalarTurn_instr {u : State} {i : Instr} {two : Bool} (hopen : u.scalarOpen = true) (hexp : u.countExpired = false)
    (hstep : u.w.stepping = false) (hf : u.fetchScalar = .instr i two) :
    scalarTurn u = noteIssue u (stepStall i (orWait u.stall (exec i u.unjam.touchFetch))) := by
  simp [scalarTurn, hopen, hexp, hstep, hf]

theorem faultsAt_of_fetch {s u : State} {c : Cause} {fva : DWord} (h : s.scalarNext u) (hf : u.fetchScalar = .fault c fva) :
    faultsAt u c fva (step s) := by
  obtain ⟨-, hopen, hexp, hstep⟩ := id h
  rw [step_of_scalarNext h, scalarTurn_fault hopen hexp hstep hf]
  rfl

/-- A turn of the scalar stream that is held back does not end a single step. -/
theorem stepStall_passed {u t : State} (i : Instr) (hu : u.w.stepping = false) (ht : t.w.stepping = false ∨ t.w.blocked = false) :
    stepStall i (.next (passed u.stall t)) = .next (passed u.stall t) := by
  have hno : ((passed u.stall t).w.stepping && (passed u.stall t).w.blocked) = false := by
    unfold passed
    split
    · simp [State.stall, hu]
    · exact Bool.and_eq_false_iff.mpr ht
  simp only [stepStall, hno, Bool.false_and, Bool.false_eq_true, if_false]

theorem issues_of_fetch {s u : State} {i : Instr} {two : Bool} (h : s.scalarNext u) (hf : u.fetchScalar = .instr i two) :
    issues u i (step s) := by
  obtain ⟨-, hopen, hexp, hstep⟩ := id h
  rw [step_of_scalarNext h, scalarTurn_instr hopen hexp hstep hf]
  refine ⟨fun t ht hblock => ?_, fun f hf => ?_, fun f hf => ?_⟩
  · have he : exec i u.unjam.touchFetch = .next t := ht
    simp only [he, orWait_next, stepStall_passed i hstep hblock]
    rfl
  · have he : exec i u.unjam.touchFetch = .fault f := hf
    simp only [he]; rfl
  · have he : exec i u.unjam.touchFetch = .refused f := hf
    simp only [he]; rfl

/-! What a fetch gives, in the order of R44. -/

theorem State.fetchWord_of_codeLoc {u : State} {va : DWord} {l : Loc} (h : u.codeLoc va.toNat = some l) :
    u.fetchWord va = some (u.codeWord l) := by
  rw [State.fetchWord, h]; rfl

theorem State.fetchWord_eq_none {u : State} {va : DWord} (h : u.codeLoc va.toNat = none) : u.fetchWord va = none := by
  rw [State.fetchWord, h]; rfl

theorem State.fetchScalar_misaligned {u : State} (h : bits u.w.pc 0 2 ≠ 0) : u.fetchScalar = .fault .misalignCode 0 := if_pos h

theorem State.fetchScalar_unmapped {u : State} (hal : bits u.w.pc 0 2 = 0) (hw : u.codeWaits u.w.pc.toNat = false)
    (h : u.codeLoc u.w.pc.toNat = none) : u.fetchScalar = .fault .fetchFault u.w.pc := by
  simp [State.fetchScalar, hal, hw, State.fetchWord_eq_none h]

/-- A first word has been read, and the fetch of the second one that its instruction waits for waits for nothing (R21). -/
structure State.FirstWord (u : State) (l : Loc) : Prop where
  aligned : bits u.w.pc 0 2 = 0
  due : u.codeWaits u.w.pc.toNat = false
  place : u.codeLoc u.w.pc.toNat = some l
  second : extOpcode ((u.codeWord l).extractLsb' 25 7).toNat = true → u.codeWaits (u.w.pc + 4).toNat = false

theorem State.FirstWord.goesOn {u : State} {l : Loc} (h : u.FirstWord l) :
    (extOpcode ((u.codeWord l).extractLsb' 25 7).toNat && u.codeWaits (u.w.pc + 4).toNat) = false := by
  cases htwo : extOpcode ((u.codeWord l).extractLsb' 25 7).toNat
  · rfl
  · exact h.second htwo

theorem State.fetchScalar_secondUnmapped {u : State} {l : Loc} (h : u.FirstWord l) (h2 : u.secondWord (u.codeWord l) = none) :
    u.fetchScalar = .fault .fetchFault (u.w.pc + 4) := by
  simp only [State.fetchScalar, h.aligned, h.due, State.fetchWord_of_codeLoc h.place, h.goesOn, h2, ne_eq, not_true_eq_false,
    Bool.false_eq_true, if_false]

theorem State.fetchScalar_midinsn {u : State} {l : Loc} {next : Word} (h : u.FirstWord l) (h2 : u.secondWord (u.codeWord l) = some next)
    (hx : (isExtWord (u.codeWord l) && u.w.jumped) = true) : u.fetchScalar = .fault .midinsn u.w.pc := by
  simp only [State.fetchScalar, h.aligned, h.due, State.fetchWord_of_codeLoc h.place, h.goesOn, h2, hx, ne_eq, not_true_eq_false,
    Bool.false_eq_true, if_false, if_true]

theorem State.fetchScalar_instr {u : State} {l : Loc} {next : Word} {i : Instr} (h : u.FirstWord l)
    (h2 : u.secondWord (u.codeWord l) = some next) (hx : isExtWord (u.codeWord l) = false)
    (hd : decodeScalar (u.codeWord l) next = .ok i) :
    u.fetchScalar = .instr i (extOpcode ((u.codeWord l).extractLsb' 25 7).toNat) := by
  simp only [State.fetchScalar, h.aligned, h.due, State.fetchWord_of_codeLoc h.place, h.goesOn, h2, hx, hd, Bool.false_and, ne_eq,
    not_true_eq_false, Bool.false_eq_true, if_false]

theorem State.fetchScalar_bad {u : State} {l : Loc} {next : Word} {b : Bad} (h : u.FirstWord l)
    (h2 : u.secondWord (u.codeWord l) = some next) (hx : isExtWord (u.codeWord l) = false)
    (hd : decodeScalar (u.codeWord l) next = .error b) : u.fetchScalar = .fault (Bad.cause b) 0 := by
  simp only [State.fetchScalar, h.aligned, h.due, State.fetchWord_of_codeLoc h.place, h.goesOn, h2, hx, hd, Bool.false_and, ne_eq,
    not_true_eq_false, Bool.false_eq_true, if_false]

theorem stepRunsTheScalarInstructionClaim : StepRunsTheScalarInstructionClaim := by
  intro s u l i e h hw
  dsimp only
  intro hw2
  refine ⟨fun hal => faultsAt_of_fetch h (State.fetchScalar_misaligned hal),
    fun hal hl => faultsAt_of_fetch h (State.fetchScalar_unmapped hal hw hl), fun hal hl => ?_⟩
  have hfirst : u.FirstWord l := ⟨hal, hw, hl, hw2⟩
  have hone (h1 : extOpcode ((u.codeWord l).extractLsb' 25 7).toNat = false) : u.secondWord (u.codeWord l) = some 0 := by
    rw [State.secondWord, h1]; rfl
  refine ⟨fun htwo hx hj => ?_, fun htwo hx hd => ?_, fun htwo hx hd => ?_, fun htwo hl2 => ?_, fun l2 htwo hl2 => ?_⟩
  · exact faultsAt_of_fetch h (State.fetchScalar_midinsn hfirst (hone htwo) (by rw [hx, hj]; rfl))
  · exact issues_of_fetch h (State.fetchScalar_instr hfirst (hone htwo) hx hd)
  · exact faultsAt_of_fetch h (State.fetchScalar_bad hfirst (hone htwo) hx hd)
  · exact faultsAt_of_fetch h (State.fetchScalar_secondUnmapped hfirst ((if_pos htwo).trans (State.fetchWord_eq_none hl2)))
  · have h2 : u.secondWord (u.codeWord l) = some (u.codeWord l2) := (if_pos htwo).trans (State.fetchWord_of_codeLoc hl2)
    have hx := isExtWord_of_extOpcode htwo
    exact ⟨fun hd => issues_of_fetch h (State.fetchScalar_instr hfirst h2 hx hd),
      fun hd => faultsAt_of_fetch h (State.fetchScalar_bad hfirst h2 hx hd)⟩

/-! The lane stream. -/

/-- The lane turn of a wave whose lane stream may go on, by the head of its queue. -/
theorem laneTurn_cmd {u : State} {a : DWord} {x : Word} {k : Nat} {c : Cmd} {rest : List Entry} (hopen : u.laneOpen = true)
    (hq : u.w.lq = .cmd a x k c :: rest) : laneTurn u = orWait u.laneStall (exec c.event u.unjam) := by
  simp [laneTurn, hopen, hq]

theorem laneTurn_unstarted {u : State} {r : Run} {rest : List Entry} (hopen : u.laneOpen = true) (hq : u.w.lq = .run r :: rest)
    (hr : r.started = false) : laneTurn u = exec .laneRunStart u := by
  simp [laneTurn, hopen, hq, hr]

theorem laneTurn_fault {u : State} {r : Run} {rest : List Entry} {c : Cause} {fva : DWord} (hopen : u.laneOpen = true)
    (hq : u.w.lq = .run r :: rest) (hr : r.started = true) (hf : r.fetch = .fault c fva) :
    laneTurn u = .next (u.raise 1 c fva u.laneTarget u.laneBits) := by
  simp [laneTurn, hopen, hq, hr, hf]

theorem laneTurn_instr {u : State} {r : Run} {rest : List Entry} {i : Instr} {two : Bool} (hopen : u.laneOpen = true)
    (hq : u.w.lq = .run r :: rest) (hr : r.started = true) (hf : r.fetch = .instr i two) :
    laneTurn u = orWait u.laneStall (exec i u.unjam) := by
  simp [laneTurn, hopen, hq, hr, hf]

/-- A started run at the head of the queue, by what its slot gives (R44). -/
theorem step_of_startedRun {s u : State} {r : Run} {rest : List Entry} (h : s.laneNextUp u) (hq : u.w.lq = .run r :: rest)
    (hr : r.started = true) :
    (∀ c fva, r.fetch = .fault c fva → step s = settled (.next (u.raise 1 c fva u.laneTarget u.laneBits))) ∧
      ∀ i two, r.fetch = .instr i two → runs u u.laneHeldUp i (step s) := by
  have hs : step s = settled (laneTurn u) := step_of_laneNextUp h (by simp [hq])
  constructor
  · intro c fva hf
    rw [hs, laneTurn_fault h.2 hq hr hf]
  · intro i two hf
    refine runs_of_orWait ?_
    rw [hs, laneTurn_instr h.2 hq hr hf]
    rfl

theorem stepRunsTheLaneWordOrDeviceStepClaim : StepRunsTheLaneWordOrDeviceStepClaim := by
  refine ⟨fun s u r rest i h hq hr => ?_, fun s u a x k c rest h hq => ?_, fun s u r rest h hq hr => ?_, fun s i rest hag henc hhead => ?_⟩
  · obtain ⟨hfault, hinstr⟩ := step_of_startedRun h hq hr
    exact ⟨fun hb hv hh hd => hinstr i false (by simp [Run.fetch, hb, hv, hh, hd]),
      fun a hb => hfault .fetchFault a (by simp [Run.fetch, hb]),
      fun hb hv => hfault .invslot 0 (by simp [Run.fetch, hb, hv]),
      fun e hb hv hh => hfault (Bad.cause e) 0 (by simp [Run.fetch, hb, hv, hh]),
      fun e hb hv hh hd => hfault (Bad.cause e) 0 (by simp [Run.fetch, hb, hv, hh, hd])⟩
  · refine runs_of_orWait ?_
    rw [step_of_laneNextUp h (by simp [hq]), laneTurn_cmd h.2 hq]
    rfl
  · rw [step_of_laneNextUp h (by simp [hq]), laneTurn_unstarted h.2 hq hr]
  · refine runs_of_orWait ?_
    simp only [step, turn, hag, Turn.act]
    rw [State.focusOn_self { s with agenda := rest }]
    simp only [eventTurn, henc, hhead, Option.isSome_none, Bool.false_eq_true, if_false]

/-- Settles O45: the turn that is due runs what the fetch gives, and R44's order is the order of the fetch's checks. -/
theorem stepRunsTheDecodedInstruction : Obligations.StepRunsTheDecodedInstruction :=
  ⟨stepRunsTheScalarInstructionClaim, stepRunsTheLaneWordOrDeviceStepClaim⟩

/-- Settles O43: the decoder evaluates on each sample word. -/
theorem decodeReadsTheManualsWords : Obligations.DecodeReadsTheManualsWords := by
  refine ⟨?_, ?_, rfl, rfl, rfl⟩
  · simp only [scalarSamples, List.forall_mem_cons]
    exact ⟨rfl, rfl, rfl, rfl, rfl, rfl, rfl, rfl, by simp⟩
  · simp only [laneSamples, List.forall_mem_cons]
    exact ⟨rfl, rfl, rfl, by simp⟩

end Sys2Proof.Machine

/-! SUPPORT. A state that the statement about the system view's registers does not exclude: an unchecked result carries WATCHDOG, which no step gives
one, while a push of the wave waits for room with a register of the system view (R280, R325). -/

namespace Sys2Proof.Machine

open Sys2Proof

/-- A wave in the user view of a context with a handler. Its one unchecked result has returned and carries WATCHDOG; its waiting push has written
t0, which held 1 before. -/
def watchdogResult : State :=
  { ctxs := [(0, { vec := 8 })]
    w := { life := .running
           unch := [{ writes := [], held := false, err := some (.watchdog, 0), returned := true }]
           pushWait := some { d := 64, w := 0, old := 1, q := { kind := .device, addr := 0, stripe := 0, home := 0, rm := false }, record := 0 } } }

/-- An empty lane word with the switch marker (R34, R317). -/
def markedNop : Instr := .lnop ⟨true, 0, 0, .v 0, .v 0, .v 0, .v 0, 0⟩

/-- The marker reports the result's fault (R118), and a WATCHDOG takes the push's register back (R325). -/
theorem exec_markedNop : ∃ t, exec markedNop watchdogResult = .next t ∧ t.w.life = .running ∧ t.w.sVal 64 = 1 :=
  ⟨watchdogResult.laneNext true, rfl, rfl, rfl⟩

/-- Refutes O48: no premise keeps WATCHDOG out of an unchecked result or a waiting push to a register of the user view. From `watchdogResult` the
marker of an empty lane word reports that result, and the trap, which abandons the push, writes t0 of a wave in the user view. -/
theorem not_instructionKeepsSystemRegistersAndOtherWaves : ¬ Obligations.InstructionKeepsSystemRegistersAndOtherWaves := by
  intro h
  obtain ⟨t, hexec, hlife, ht0⟩ := exec_markedNop
  obtain ⟨huser, -⟩ := h watchdogResult t markedNop rfl hexec
  obtain ⟨-, -, -, -, -, -, -, -, -, hregs, -⟩ := huser rfl
  have hkept : t.w.sVal 64 = watchdogResult.w.sVal 64 := hregs (by simp [hlife]) 64 le_rfl (by decide)
  have hbefore : watchdogResult.w.sVal 64 = 0 := rfl
  rw [hbefore, ht0] at hkept
  exact absurd hkept (by decide)

end Sys2Proof.Machine

/-! SUPPORT. How a lane word ends (R26, R34, R118): the slot that is due after it, what a marker clears, and that neither this nor a trap writes a mask
register or lane memory. -/

namespace Sys2Proof.Machine

open Sys2Proof

/-! Masks and lane memory under the end of a word and under traps. -/

/-- The mask registers and the lane memory of a wave. -/
def Wave.masksAndMemory (w : Wave) : Sparse Bool × Sparse Byte := (w.m, w.lm)

@[simp] theorem Wave.kill_masksAndMemory (w : Wave) : w.kill.masksAndMemory = w.masksAndMemory := rfl

@[simp] theorem Wave.clearPending_masksAndMemory (w : Wave) : w.clearPending.masksAndMemory = w.masksAndMemory := rfl

@[simp] theorem Wave.setKey_masksAndMemory (w : Wave) (k : Nat) (v : DWord) : (w.setKey k v).masksAndMemory = w.masksAndMemory := by
  unfold Wave.setKey; split <;> rfl

@[simp] theorem Wave.popDone_masksAndMemory (w : Wave) : w.popDone.masksAndMemory = w.masksAndMemory := by
  unfold Wave.popDone
  split
  · split <;> rfl
  · rfl

@[simp] theorem Wave.applyResets_masksAndMemory (w : Wave) : w.applyResets.masksAndMemory = w.masksAndMemory := by
  unfold Wave.applyResets; split <;> rfl

@[simp] theorem Wave.setRun_masksAndMemory (w : Wave) (r : Run) : (w.setRun r).masksAndMemory = w.masksAndMemory := by
  unfold Wave.setRun; split <;> rfl

@[simp] theorem Wave.dropPush_masksAndMemory (w : Wave) (c : Cause) : (w.dropPush c).masksAndMemory = w.masksAndMemory := by
  unfold Wave.dropPush
  split
  next p _ =>
    show (if c = .watchdog then w.setKey p.d p.old else w).masksAndMemory = _
    split
    · exact w.setKey_masksAndMemory _ _
    · rfl
  · rfl

@[simp] theorem Wave.overrun_masksAndMemory (w : Wave) : w.overrun.masksAndMemory = w.masksAndMemory := by
  unfold Wave.overrun; split <;> rfl

@[simp] theorem Wave.trapQuantum_masksAndMemory (w : Wave) (scalar committing : Bool) :
    (w.trapQuantum scalar committing).masksAndMemory = w.masksAndMemory := by
  unfold Wave.trapQuantum
  extract_lets stays w1 next ends w2 p
  have h1 : w1.masksAndMemory = w.masksAndMemory := by unfold w1; split <;> rfl
  have h2 : w2.masksAndMemory = w1.masksAndMemory := by unfold w2; split <;> rfl
  rw [Wave.overrun_masksAndMemory]
  exact h2.trans h1

/-- The acting wave of `t` holds the masks and the lane memory of that of `s`. -/
def State.SameLanes (s t : State) : Prop := t.w.masksAndMemory = s.w.masksAndMemory

theorem State.SameLanes.trans {s t u : State} (h : s.SameLanes t) (k : t.SameLanes u) : s.SameLanes u := Eq.trans k h

theorem State.SameLanes.killWave (s : State) (n : Nat) : s.SameLanes (s.killWave n) := by
  unfold State.SameLanes State.killWave State.modWave State.setWave State.wave
  dsimp only [State.modCoreAt_w]
  split <;> rfl

theorem State.SameLanes.killCrew (s : State) (id : Nat) (c1 c2 : Cause) (epc elpc : DWord) : s.SameLanes (s.killCrew id c1 c2 epc elpc) := by
  unfold State.killCrew
  split
  · rfl
  · next c _ => exact foldl_inv (P := s.SameLanes) State.killWave c.waves s rfl fun t n ht => ht.trans (.killWave t n)

theorem State.SameLanes.enterTrap (s : State) (kind : Nat) (c : Cause) (fva at' : DWord) (word : BitVec 96) (vec : DWord) :
    s.SameLanes (s.enterTrap kind c fva at' word vec) := by
  have hu : s.SameLanes s.untakeSweep := by
    rw [State.SameLanes, State.untakeSweep_w]
    rfl
  unfold State.enterTrap
  refine hu.trans ?_
  extract_lets u w scalar w0 w1 w2 w3 t
  have hw : w.masksAndMemory = u.w.masksAndMemory := by unfold w; split <;> simp
  have h0 : w0.masksAndMemory = w.masksAndMemory := w.dropPush_masksAndMemory c
  have h2 : w2.masksAndMemory = w0.masksAndMemory := by unfold w2; split <;> rfl
  have ht : u.SameLanes t := h2.trans (h0.trans hw)
  split
  · exact .killCrew ..
  · split
    · exact ht.trans (.killCrew ..)
    · exact ht.trans (Wave.trapQuantum_masksAndMemory _ _ _)

theorem State.SameLanes.raise (s : State) (kind : Nat) (c : Cause) (fva at' : DWord) (word : BitVec 96) :
    s.SameLanes (s.raise kind c fva at' word) := by
  unfold State.raise
  have hw : s.SameLanes (s.endsWalks c fva) := congrArg Wave.masksAndMemory (s.endsWalks_w c fva)
  dsimp only
  split
  · exact hw
  · exact hw.trans (.enterTrap ..)

/-- A swap point changes the head run's trace mark alone. -/
theorem State.swapPoint_w (s : State) : s.swapPoint.w = { s.w with lq := s.swapPoint.w.lq } := by
  have hset (w : Wave) (r : Run) : w.setRun r = { w with lq := (w.setRun r).lq } := by unfold Wave.setRun; split <;> rfl
  unfold State.swapPoint
  split
  · split
    · split
      · rfl
      · exact hset _ _
    · rfl
  · rfl

theorem Wave.popDone_eq (w : Wave) : w.popDone = { w with lq := w.popDone.lq } := by
  unfold Wave.popDone
  split
  · split <;> rfl
  · rfl

theorem State.SameLanes.parkDone (s : State) (target : DWord) (word : BitVec 96) : s.SameLanes (s.parkDone target word) := by
  unfold State.parkDone
  extract_lets e u
  have hu : s.SameLanes u := rfl
  clear_value e u
  split
  · exact hu.trans (.raise ..)
  · split
    · exact hu.trans (u.w.popDone_masksAndMemory)
    · refine hu.trans ?_
      rw [State.SameLanes, State.swapPoint_w]
      rfl

theorem State.SameLanes.laneNext (s : State) (mark : Bool) : s.SameLanes (s.laneNext mark) := by
  unfold State.laneNext
  extract_lets target word u t
  have hu : s.SameLanes u := rfl
  have ht : u.SameLanes t := by
    unfold t
    split
    · split
      · exact .parkDone ..
      · rfl
    · exact u.w.popDone_masksAndMemory
  unfold State.laneStepped
  split
  · exact (hu.trans ht).trans (.raise ..)
  · exact hu.trans ht

/-! The slot that is due. -/

/-- The wave once its lane word has executed, before its marker or its run's end counts (R26). -/
def State.slotDone (s : State) : State :=
  s.modW fun w =>
    { w with wdog := 0, laneBlocked := false, qused := w.qused || s.repro, qlw := w.qlw || s.repro
             lq := match w.lq with
               | .run r :: rest => .run { r with slot := r.slot + 1, ran := true } :: rest
               | l => l }

/-- Outside a single step of the lane stream, nothing follows the word's own end. -/
theorem State.laneStepped_of {s : State} (h : (s.w.stepping && s.w.lstep) = false) : s.laneStepped = s := by
  simp [State.laneStepped, h]

/-- A word without a marker: a run past its last slot leaves the queue. -/
theorem State.laneNext_unmarked {s : State} (h : (s.w.stepping && s.w.lstep) = false) :
    s.laneNext false = s.slotDone.modW Wave.popDone := by
  have hstep : ((s.slotDone.modW Wave.popDone).w.stepping && (s.slotDone.modW Wave.popDone).w.lstep) = false := by
    rw [State.modW_w, Wave.popDone_eq]; exact h
  exact State.laneStepped_of hstep

/-- A marker with results still to return parks the wave. -/
theorem State.laneNext_parks {s : State} (h : (s.w.stepping && s.w.lstep) = false) (hret : s.w.unch.all (·.returned) = false) :
    s.laneNext true = s.slotDone.modW fun w => { w with parked := some (s.laneTarget, s.laneBits) } := by
  have hall : ¬ s.slotDone.w.unch.all (·.returned) = true := by
    show ¬ s.w.unch.all (·.returned) = true
    simp [hret]
  have he : s.laneNext true = (s.slotDone.modW fun w => { w with parked := some (s.laneTarget, s.laneBits) }).laneStepped :=
    congrArg State.laneStepped (if_neg hall)
  rw [he]
  exact State.laneStepped_of h

/-- The wave after a marker's park has ended, before its run's end or the swap point counts. -/
def Wave.unparked (w : Wave) : Wave := { w.clearPending with unch := [], parked := none, laneBlocked := false }

theorem Wave.unparked_stepping (w : Wave) : w.unparked.stepping = w.stepping := rfl

theorem Wave.unparked_lstep (w : Wave) : w.unparked.lstep = w.lstep := rfl

/-- A wave that differs in its queue alone is in the same single step. -/
theorem Wave.stepping_of_lq {w v : Wave} (h : w = { v with lq := w.lq }) : w.stepping = v.stepping ∧ w.lstep = v.lstep := by
  rw [h]
  exact ⟨rfl, rfl⟩

/-- A marker with every result returned and none faulty clears what is pending; beside that only the queue's head changes. -/
theorem State.laneNext_clears {s : State} (h : (s.w.stepping && s.w.lstep) = false) (hret : s.w.unch.all (·.returned) = true)
    (herr : ∀ x ∈ s.w.unch, x.err = none) :
    (s.laneNext true).w = { s.slotDone.w.unparked with lq := (s.laneNext true).w.lq } := by
  have hnone : s.slotDone.w.unch.findSome? (·.err) = none := List.findSome?_eq_none_iff.mpr herr
  have hpark : (s.slotDone.parkDone s.laneTarget s.laneBits).w =
      { s.slotDone.w.unparked with lq := (s.slotDone.parkDone s.laneTarget s.laneBits).w.lq } := by
    unfold State.parkDone
    simp only [hnone]
    split
    · exact Wave.popDone_eq _
    · exact State.swapPoint_w _
  have he : s.laneNext true = (s.slotDone.parkDone s.laneTarget s.laneBits).laneStepped := congrArg State.laneStepped (if_pos hret)
  rw [he]
  generalize s.slotDone.parkDone s.laneTarget s.laneBits = t at hpark
  obtain ⟨hs, hl⟩ := Wave.stepping_of_lq (v := s.slotDone.w.unparked) hpark
  have hstep : (t.w.stepping && t.w.lstep) = false := by
    rw [hs, hl, Wave.unparked_stepping, Wave.unparked_lstep]
    exact h
  rw [State.laneStepped_of hstep]
  exact hpark

/-- Settles O42: the three ways in which a word ends outside a single step, by its marker and the results under way. -/
theorem laneWordEndsAtItsSlot : Obligations.LaneWordEndsAtItsSlot := by
  intro s r rest hq h
  have hdone : s.slotDone.w.lq = .run { r with slot := r.slot + 1, ran := true } :: rest := by
    simp only [State.slotDone, State.modW_w, hq]
  refine ⟨fun hr => ?_, fun hr => ?_, fun hret => ?_, fun hret herr => ?_, fun mark => ?_⟩
  · rw [State.laneNext_unmarked h]
    simp [Wave.popDone, hdone, hr]
  · rw [State.laneNext_unmarked h]
    simp [Wave.popDone, hdone, hr]
  · rw [State.laneNext_parks h hret]
    exact ⟨rfl, rfl⟩
  · rw [State.laneNext_clears h hret herr]
    exact ⟨rfl, rfl, rfl⟩
  · obtain ⟨hm, hlm⟩ := Prod.mk.inj (State.SameLanes.laneNext s mark)
    exact ⟨hm, hlm, (State.SameMem.laneNext s mark).1⟩

end Sys2Proof.Machine

/-! SUPPORT. What the results of a lane word leave of the lane registers and of the queues (R28, R32, R258, R259), and checks over lists. -/

namespace Sys2Proof.Machine

open Sys2Proof

/-! Checks over lists. -/

/-- A check that every element passes is passed by the list. -/
theorem forM_eq_ok {α : Type} {f : α → Res Unit} {l : List α} (h : ∀ x ∈ l, f x = .ok ()) : l.forM f = .ok () := by
  induction l with
  | nil => rfl
  | cons x l ih =>
    show (f x >>= fun _ => l.forM f) = .ok ()
    rw [h x List.mem_cons_self]
    exact ih fun y hy => h y (List.mem_cons_of_mem x hy)

/-- Parts of a meaning that all give their value give the list of the values. -/
theorem mapM_eq_ok {α β : Type} {f : α → Res β} {g : α → β} {l : List α} (h : ∀ x ∈ l, f x = .ok (g x)) : l.mapM f = .ok (l.map g) := by
  induction l with
  | nil => rfl
  | cons x l ih =>
    rw [List.mapM_cons, h x List.mem_cons_self, ih fun y hy => h y (List.mem_cons_of_mem x hy)]
    rfl

/-- A condition that holds is passed. -/
theorem need_bind {α : Type} {b : Bool} {c : Cause} {fva : DWord} {f : Unit → Res α} (h : b = true) : (need b c fva >>= f) = f () := by
  subst h
  rfl

/-! Active lanes (R32). -/

theorem Wave.lanes_le (w : Wave) : w.lanes ≤ 16384 := by
  have hr : bits w.shape 4 3 ≤ 7 := Nat.lt_succ_iff.mp (Nat.mod_lt _ (by decide))
  have hc : bits w.shape 7 3 ≤ 7 := Nat.lt_succ_iff.mp (Nat.mod_lt _ (by decide))
  calc w.lanes ≤ 2 ^ 7 * 2 ^ 7 := Nat.mul_le_mul (Nat.pow_le_pow_right (by decide) hr) (Nat.pow_le_pow_right (by decide) hc)
    _ = 16384 := by norm_num

theorem Wave.lt_of_mem_active {w : Wave} {g : BitVec 4} {L : Nat} (h : L ∈ w.active g) : L < 16384 :=
  lt_of_lt_of_le (List.mem_range.mp (List.mem_of_mem_filter h)) w.lanes_le

theorem Wave.active_nodup (w : Wave) (g : BitVec 4) : (w.active g).Nodup := List.nodup_range.filter _

/-! Lane registers after a write. -/

/-- The key of a register's copy names the register and the lane. -/
theorem vKey_inj {r r' L L' : Nat} (hL : L < 16384) (hL' : L' < 16384) : vKey r L = vKey r' L' ↔ r = r' ∧ L = L' := by
  unfold vKey
  omega

/-- A key that writes name, all with one value, reads that value. -/
theorem look_putAll_mem {α : Type} [DecidableEq α] (d v : α) {es : List (Nat × α)} (m : Sparse α) {k : Nat} (hk : ∃ e ∈ es, e.1 = k)
    (hv : ∀ e ∈ es, e.1 = k → e.2 = v) : look d (putAll d m es) k = v := by
  induction es generalizing m with
  | nil => simp at hk
  | cons e es ih =>
    by_cases hr : ∃ e ∈ es, e.1 = k
    · exact ih (put d m e.1 e.2) hr fun x hx => hv x (List.mem_cons_of_mem e hx)
    · have hek : e.1 = k := by
        obtain ⟨x, hx, hxk⟩ := hk
        rcases List.mem_cons.mp hx with rfl | hx
        · exact hxk
        · exact absurd ⟨x, hx, hxk⟩ hr
      have hlast := look_putAll_not_mem d es (put d m e.1 e.2) k fun x hx hxk => hr ⟨x, hx, hxk⟩
      calc look d (putAll d m (e :: es)) k = look d (put d m e.1 e.2) k := hlast
        _ = e.2 := by rw [← hek]; exact look_put_self d m e.1 e.2
        _ = v := hv e List.mem_cons_self hek

/-- Results to a register of some lanes: those lanes read their results, and nothing else changes (R28, R32). -/
theorem Wave.v32_writeV (w : Wave) (k : Nat) {lanes : List Nat} (val : Nat → Word) (hlanes : ∀ L ∈ lanes, L < 16384) (r : Nat) {L : Nat}
    (hL : L < 16384) :
    (w.writeV k (lanes.map fun L => (L, val L))).v32 r L = if r = k ∧ L ∈ lanes then val L else w.v32 r L := by
  unfold Wave.v32 Wave.writeV
  rw [List.map_map]
  split
  next h =>
    obtain ⟨rfl, hmem⟩ := h
    refine look_putAll_mem 0 (val L) w.v ⟨_, List.mem_map_of_mem hmem, rfl⟩ fun e he hek => ?_
    obtain ⟨L', hL', rfl⟩ := List.mem_map.mp he
    rw [((vKey_inj (hlanes L' hL') hL).mp hek).2]
    rfl
  next h =>
    refine look_putAll_not_mem 0 _ w.v _ fun e he hek => h ?_
    obtain ⟨L', hL', rfl⟩ := List.mem_map.mp he
    obtain ⟨hk, rfl⟩ := (vKey_inj (hlanes L' hL') hL).mp hek
    exact ⟨hk.symm, hL'⟩

/-- Checked results to a destination: a register of the active lanes, or a scatter queue's push, and nothing else (R28, R259). -/
theorem State.writeDst_checked (s : State) (d : Dst) {lanes : List Nat} (val : Nat → Word) (hlanes : ∀ L ∈ lanes, L < 16384) :
    (∀ r L, L < 16384 → (s.writeDst d false (lanes.map fun L => (L, val L))).w.v32 r L = s.w.regsAfter d lanes val r L) ∧
      s.writeDst d false (lanes.map fun L => (L, val L)) =
        { s with w := { s.w with v := (s.writeDst d false (lanes.map fun L => (L, val L))).w.v
                                 q := (s.writeDst d false (lanes.map fun L => (L, val L))).w.q } } := by
  cases d with
  | v k => exact ⟨fun r L hL => s.w.v32_writeV k.toNat val hlanes r hL, rfl⟩
  | m k | q n | a n => exact ⟨fun _ _ _ => rfl, rfl⟩

/-! Queues after pops (R258). -/

/-- Some values of a lane leave a queue. -/
def Stream.taken (x : Stream) (k L : Nat) : Stream :=
  { x with vals := put [] x.vals L ((look [] x.vals L).drop k), used := put 0 x.used L (look 0 x.used L + k) }

theorem Wave.stream_pop_self (w : Wave) (n k L : Nat) : (w.pop n k [L]).stream n = (w.stream n).taken k L :=
  look_put_self _ _ _ _

theorem Wave.stream_pop_ne (w : Wave) {n m : Nat} (k L : Nat) (h : m ≠ n) : (w.pop n k [L]).stream m = w.stream m :=
  look_put_ne _ _ _ h

/-- A pop changes the queues alone. -/
theorem Wave.pop_eq (w : Wave) (n k : Nat) (lanes : List Nat) : w.pop n k lanes = { w with q := (w.pop n k lanes).q } := rfl

/-- The same number of values leaves a queue in each of some lanes. -/
def Wave.popEach (w : Wave) (n k : Nat) (lanes : List Nat) : Wave := lanes.foldl (fun y L => y.pop n k [L]) w

theorem Wave.popEach_eq (w : Wave) (n k : Nat) (lanes : List Nat) : w.popEach n k lanes = { w with q := (w.popEach n k lanes).q } := by
  induction lanes generalizing w with
  | nil => rfl
  | cons K lanes ih => exact ih (w.pop n k [K])

theorem Wave.popEach_lq (w : Wave) (n k : Nat) (lanes : List Nat) : (w.popEach n k lanes).lq = w.lq := by
  rw [Wave.popEach_eq]

theorem Wave.stream_popEach_ne (w : Wave) {n m : Nat} (k : Nat) (lanes : List Nat) (h : m ≠ n) :
    (w.popEach n k lanes).stream m = w.stream m :=
  foldl_inv (P := fun y => y.stream m = w.stream m) _ lanes w rfl fun y L hy => (y.stream_pop_ne k L h).trans hy

/-- Each lane loses its oldest values once. -/
theorem Wave.stream_popEach (w : Wave) (n k : Nat) {lanes : List Nat} (hl : lanes.Nodup) (L : Nat) :
    look [] ((w.popEach n k lanes).stream n).vals L =
        (if L ∈ lanes then (look [] (w.stream n).vals L).drop k else look [] (w.stream n).vals L) ∧
      look 0 ((w.popEach n k lanes).stream n).used L =
        if L ∈ lanes then look 0 (w.stream n).used L + k else look 0 (w.stream n).used L := by
  induction lanes generalizing w with
  | nil => simp [Wave.popEach]
  | cons K lanes ih =>
    obtain ⟨hK, hrest⟩ := List.nodup_cons.mp hl
    have hstep : (w.popEach n k (K :: lanes)) = (w.pop n k [K]).popEach n k lanes := rfl
    rw [hstep, (ih (w.pop n k [K]) hrest).1, (ih (w.pop n k [K]) hrest).2, Wave.stream_pop_self]
    unfold Stream.taken
    simp only [look_put]
    by_cases hLK : L = K
    · subst hLK; simp [hK]
    · simp [hLK]

end Sys2Proof.Machine

/-! SUPPORT. The queue words, the empty word, the breakpoint and the removed opcodes (R262, R317, R318, R331). -/

namespace Sys2Proof.Machine

open Sys2Proof

/-! `qpeek` (R262). -/

/-- Once its checks have passed, `qpeek` writes the heads to its destination. -/
theorem exec_qpeek_ok {s : State} {w : LaneWord} {n : BitVec 2} (ha : w.a = .q n) (hreg : s.regCheck 0x600 w false = .ok ())
    (hpop : popCheck s n.toNat 1 (s.w.active w.guard) = .ok ()) (hdst : dstCheck s w.dst (s.w.active w.guard) = .ok ()) :
    exec (.qpeek w) s =
      finishLane w.mark s (.ok (s.writeDst w.dst false ((s.w.active w.guard).map fun L => (L, s.src 0 (.q n) L)))) := by
  show execQpeek w s = _
  have hq : srcQueue w = n.toNat := by rw [srcQueue, ha]
  simp only [execQpeek, hreg, hq, hpop, hdst, ha]
  rfl

/-! `qskip` (R262). -/

/-- The values of a queue suffice for a skip: none of them carries a fault, and each may be taken (R258, R262). -/
structure Wave.CanSkip (w : Wave) (n k : Nat) (lanes : List Nat) : Prop where
  bound : (w.stream n).bound = true
  own : w.isIndexSource n = false
  count : ∀ L ∈ lanes, look 0 (w.stream n).used L + k ≤ (w.stream n).count
  held : ∀ L ∈ lanes, k ≤ (look [] (w.stream n).vals L).length
  sound : ∀ L ∈ lanes, ∀ v ∈ look [] (w.stream n).vals L, v.err = none ∧ v.retry = false

/-- A head that carries no fault stops no pop, and one whose access is made may be taken. -/
theorem headFault_of_sound (n : Nat) {vs : List QVal} (h : ∀ v ∈ vs, v.err = none ∧ v.retry = false) : headFault n vs = .ok () := by
  cases vs with
  | nil => rfl
  | cons v vs =>
    obtain ⟨val, err, retry⟩ := v
    obtain ⟨rfl, -⟩ := h ⟨val, err, retry⟩ List.mem_cons_self
    rfl

theorem valueReady_of_sound {vs : List QVal} (hne : vs ≠ []) (h : ∀ v ∈ vs, v.err = none ∧ v.retry = false) : valueReady vs = true := by
  cases vs with
  | nil => exact absurd rfl hne
  | cons v vs => simp [valueReady, (h v List.mem_cons_self).2]

/-- Where enough sound values are held, all of a skip is done at once. -/
theorem skipNow_of_sound {vs : List QVal} {k : Nat} (hk : k ≤ vs.length) (h : ∀ v ∈ vs, v.err = none ∧ v.retry = false) :
    skipNow vs k = k := by
  have hall : vs.takeWhile (fun v => v.err.isNone) = vs := List.takeWhile_eq_self_iff.mpr fun v hv => by simp [(h v hv).1]
  rw [skipNow, hall]
  exact min_eq_left hk

/-- What a skip leaves to its slot where none is under way: the whole count in each active lane. -/
theorem skipLeft_of_fresh {s : State} (h : s.run.skip = none) (k : Nat) (lanes : List Nat) :
    (skipLeft s k lanes).filter (fun e => lanes.contains e.1) = lanes.map fun L => (L, k) := by
  rw [skipLeft, h]
  refine List.filter_eq_self.mpr fun e he => ?_
  obtain ⟨L, hL, rfl⟩ := List.mem_map.mp he
  simpa using hL

/-- The head run with the mark of a skip removed that it does not carry. -/
theorem Wave.setRun_run {s : State} (h : s.run.skip = none) (w : Wave) (hq : w.lq = s.w.lq) : w.setRun { s.run with skip := none } = w := by
  have hrun : ({ s.run with skip := none } : Run) = s.run := by rw [← h]
  rw [hrun]
  unfold Wave.setRun
  split
  next r rest hw =>
    have hs : s.run = r := by
      rw [State.run, ← hq, hw]
    rw [hs, ← hw]
  · rfl

/-- The checks of `qskip` for one lane (R258). -/
theorem skipCheck_lane {s : State} {n k L : Nat} (h0 : k ≠ 0) (hheld : k ≤ (look [] (s.w.stream n).vals L).length)
    (hsound : ∀ v ∈ look [] (s.w.stream n).vals L, v.err = none ∧ v.retry = false) :
    (!(k != 0 && (look [] (s.w.stream n).vals L).isEmpty && s.w.starved (s.w.stream n) L (look 0 (s.w.stream n).used L))) = true ∧
      headFault n (look [] (s.w.stream n).vals L) = .ok () ∧ valueReady (look [] (s.w.stream n).vals L) = true := by
  have hne : look [] (s.w.stream n).vals L ≠ [] := List.ne_nil_of_length_pos (by omega)
  exact ⟨by simp [hne], headFault_of_sound n hsound, valueReady_of_sound hne hsound⟩

/-- Once its checks have passed and its values are there, `qskip` discards them in each active lane. -/
theorem exec_qskip_ok {s : State} {w : LaneWord} {n k : Nat} (hn : srcQueue w = n) (hk : ((s.uniform w.b).setWidth 32).toNat = k)
    (hreg : s.regCheck 0x601 w false = .ok ()) (hskip : s.run.skip = none) (h : k ≠ 0 → s.w.CanSkip n k (s.w.active w.guard)) :
    exec (.qskip w) s = finishLane w.mark s (.ok (s.modW fun y => y.popEach n k (s.w.active w.guard))) := by
  subst hn hk
  have hnow : ∀ L ∈ s.w.active w.guard, skipNow (look [] (s.w.stream (srcQueue w)).vals L) ((s.uniform w.b).setWidth 32).toNat =
      ((s.uniform w.b).setWidth 32).toNat := fun L hL => by
    by_cases h0 : ((s.uniform w.b).setWidth 32).toNat = 0
    · rw [h0]; exact Nat.zero_min _
    · exact skipNow_of_sound ((h h0).held L hL) ((h h0).sound L hL)
  show execQskip w s = _
  unfold execQskip
  extract_lets n k lanes left x check take t rest
  have hleft : left = lanes.map fun L => (L, k) := skipLeft_of_fresh hskip k lanes
  have hcheck : check = .ok () := by
    unfold check
    rw [hreg]
    show (if k = 0 then Except.ok () else _) = _
    by_cases h0 : k = 0
    · exact if_pos h0
    have hs : s.w.CanSkip n k lanes := h h0
    have hcount : (left.all fun e => decide (look 0 x.used e.1 + e.2 ≤ x.count)) = true := by
      rw [hleft, List.all_map, List.all_eq_true]
      exact fun L hL => decide_eq_true (hs.count L hL)
    rw [if_neg h0, need_bind hs.bound, need_bind hcount, need_bind (by rw [hs.own]; rfl), hleft]
    refine forM_eq_ok fun e he => ?_
    obtain ⟨L, hL, rfl⟩ := List.mem_map.mp he
    obtain ⟨hneed, hhead, hready⟩ := skipCheck_lane h0 (hs.held L hL) (hs.sound L hL)
    show (need _ _ _ >>= _) = _
    rw [need_bind hneed]
    show (if k = 0 then _ else headFault n (look [] x.vals L) >>= _) = _
    rw [if_neg h0, hhead]
    show (if (decide (k = 0) || valueReady (look [] x.vals L)) = true then Except.ok () else _) = _
    rw [hready, Bool.or_true, if_pos rfl]
  have htake : take = lanes.map fun L => (L, k) := by
    unfold take
    rw [hleft, List.map_map]
    exact List.map_congr_left fun L hL => congrArg (Prod.mk L) (hnow L hL)
  have hrest : (rest.all fun e => e.2 == 0) = true := by
    unfold rest
    rw [hleft, List.map_map, List.all_eq_true]
    intro e he
    obtain ⟨L, hL, rfl⟩ := List.mem_map.mp he
    have hdone : k - skipNow (look [] x.vals L) k = 0 := Nat.sub_eq_zero_of_le (hnow L hL).ge
    exact beq_iff_eq.mpr hdone
  have ht : t = s.modW fun y => y.popEach n k lanes := by
    unfold t
    rw [htake]
    simp only [List.foldl_map]
    rfl
  clear_value check rest
  rw [hcheck]
  dsimp only
  rw [if_pos hrest, ht]
  have hrun : ((s.modW fun y => y.popEach n k lanes).modW fun y => y.setRun { s.run with skip := none }) = s.modW fun y => y.popEach n k lanes :=
    congrArg (fun y => { s with w := y }) (Wave.setRun_run hskip _ (s.w.popEach_lq n k lanes))
  rw [hrun]

/-! The obligation. -/

/-- The queues of the wave after checked results, as a word without sources that pop leaves them (R259). -/
theorem State.writeDst_queues (s : State) (d : Dst) (es : List (Nat × Word)) :
    (s.writeDst d false es).w.q = (match d with | .q k => (s.w.push (4 + k.toNat) es).q | _ => s.w.q) := by
  cases d <;> rfl

/-- Settles O40: each word by its own equation; a skip takes what it discards in one step where the values are there. -/
theorem queueWordsAndEmptyWords : Obligations.QueueWordsAndEmptyWords := by
  intro s w act
  refine ⟨rfl, fun hact => ?_, fun hact => ?_, rfl, rfl, fun n ha hreg hpop hdst => ?_, fun n ha hreg hskip => ?_⟩
  · show execLbrk w s = _
    rw [execLbrk, show (s.w.active w.guard).isEmpty = true from List.isEmpty_iff.mpr hact]
    rfl
  · show execLbrk w s = _
    have hne : (s.w.active w.guard).isEmpty = false := by simpa using hact
    rw [execLbrk, hne]
    rfl
  · obtain ⟨hv, hsame⟩ := s.writeDst_checked w.dst (s.src 0 (.q n)) fun L (hL : L ∈ act) => Wave.lt_of_mem_active hL
    refine ⟨_, exec_qpeek_ok ha hreg hpop hdst, hv, ?_, hsame⟩
    exact s.writeDst_queues w.dst _
  · intro x k hx
    have hn : srcQueue w = n.toNat := by rw [srcQueue, ha]
    have hcan : k ≠ 0 → s.w.CanSkip n.toNat k act := fun h0 => by
      obtain ⟨hbound, hown, hall⟩ := hx h0
      exact ⟨hbound, hown, fun L hL => (hall L hL).1, fun L hL => (hall L hL).2.1, fun L hL => (hall L hL).2.2⟩
    have hpop := fun L => s.w.stream_popEach n.toNat k (s.w.active_nodup w.guard) L
    refine ⟨_, exec_qskip_ok hn rfl hreg hskip hcan, fun L => (hpop L).1, fun L => (hpop L).2, fun m hm => ?_, ?_⟩
    · exact s.w.stream_popEach_ne k act hm
    · show s.modW _ = _
      conv_lhs => rw [State.modW, Wave.popEach_eq]
      rfl

end Sys2Proof.Machine

/-! SUPPORT. Pair words (R37 to R39): both halves compute from the state before the word, what each leaves, and which pairs clash. -/

namespace Sys2Proof.Machine

open Sys2Proof

/-! What a half leaves. -/

/-- A half's elements, from the state before the word (R39). -/
theorem halfElems_eq_ok {s : State} {p : PairOp} {h : Half} {f : Nat → FRes} (hf : halfResults s p h f) :
    halfElems s p h = .ok ((halfLanes s.w h).map fun L => (L, f L)) :=
  mapM_eq_ok fun L hL => by
    show (halfFn p h (s.src (halfInfo p h).2.1 h.a L) (s.src (halfInfo p h).2.1 h.b L)).map (fun r => (L, r)) = _
    rw [hf L hL]
    rfl

theorem halfKinds_eq (s : State) (p : PairOp) (h : Half) (f : Nat → FRes) :
    halfKinds p h ((halfLanes s.w h).map fun L => (L, f L)) = halfCounted s p h f := by
  unfold halfKinds halfCounted
  rw [List.map_map]
  rfl

/-- A half's results, once written, before its counts. -/
def State.halfStored (s : State) (p : PairOp) (h : Half) (lanes : List Nat) (f : Nat → FRes) : State :=
  s.writeDst (.v h.dst) (halfInfo p h).2.2.2 (lanes.map fun L => (L, BitVec.ofNat 32 (f L).bits))

/-- The kinds that a half counts in some lanes. -/
def countedIn (p : PairOp) (h : Half) (lanes : List Nat) (f : Nat → FRes) : List (BitVec 4) :=
  if (halfInfo p h).2.2.1 = 0 then [] else lanes.map fun L => (f L).kinds

/-- The state after a half of a word: its results, and then the kinds that it counts. -/
def State.afterHalf (s : State) (p : PairOp) (h : Half) (lanes : List Nat) (f : Nat → FRes) : State :=
  (s.halfStored p h lanes f).modW fun w => w.halfCount p h (countedIn p h lanes f)

theorem halfWrite_eq (s : State) (p : PairOp) (h : Half) (lanes : List Nat) (f : Nat → FRes) :
    halfWrite p h (lanes.map fun L => (L, f L)) s = s.afterHalf p h lanes f := by
  unfold halfWrite State.afterHalf State.halfStored Wave.halfCount countedIn
  simp only [List.map_map]
  split <;> rfl

/-- Counting kinds changes the wave's counts alone. -/
theorem Wave.halfCount_eq (w : Wave) (p : PairOp) (h : Half) (ks : List (BitVec 4)) :
    w.halfCount p h ks = { w with counts := (w.halfCount p h ks).counts } := by
  unfold Wave.halfCount
  split <;> rfl

/-- What the counts become depends on the counts before and on the wave's counter set. -/
theorem Wave.halfCount_counts {w v : Wave} (p : PairOp) (h : Half) (ks : List (BitVec 4)) (hc : w.counts = v.counts) (hs : w.shape = v.shape) :
    (w.halfCount p h ks).counts = (v.halfCount p h ks).counts := by
  unfold Wave.halfCount Wave.addKinds Wave.cset
  split
  · exact hc
  · simp only [hc, hs]

/-- The result of a special function on its way, where the half is one (R116, R128). -/
def halfResult (p : PairOp) (h : Half) (lanes : List Nat) (f : Nat → FRes) : List Unch :=
  if (halfInfo p h).2.2.2 then
    [{ writes := lanes.map fun L => (h.dst.toNat * 16384 + L, BitVec.ofNat 32 (f L).bits), held := false, err := none, returned := false }]
  else []

/-- The wave `v` is `w` after a half has left its results: in its register, or on their way to a register that is then pending (R116, R117, R128). -/
structure Wave.HalfLeaves (w v : Wave) (p : PairOp) (h : Half) (lanes : List Nat) (f : Nat → FRes) : Prop where
  regs : ∀ r L, L < 16384 → v.v32 r L =
    if (halfInfo p h).2.2.2 = false ∧ r = h.dst.toNat ∧ L ∈ lanes then BitVec.ofNat 32 (f L).bits else w.v32 r L
  pend : ∀ k, k ∈ v.pend ↔ k ∈ w.pend ∨ (halfInfo p h).2.2.2 = true ∧ k = h.dst.toNat
  unch : v.unch = w.unch ++ halfResult p h lanes f

theorem State.halfStored_leaves (s : State) (p : PairOp) (h : Half) {lanes : List Nat} (f : Nat → FRes) (hlanes : ∀ L ∈ lanes, L < 16384) :
    s.w.HalfLeaves (s.halfStored p h lanes f).w p h lanes f := by
  unfold State.halfStored
  cases hu : (halfInfo p h).2.2.2
  · refine ⟨fun r L hL => ?_, fun k => ?_, ?_⟩
    · rw [(s.writeDst_checked (.v h.dst) _ hlanes).1 r L hL]
      simp [Wave.regsAfter, hu]
    · simp [State.writeDst, Wave.writeV, hu]
    · simp [State.writeDst, Wave.writeV, halfResult, hu]
  · refine ⟨fun r L hL => ?_, fun k => ?_, ?_⟩
    · simp [State.writeDst, Wave.issueUnch, Wave.v32, hu]
    · simp only [State.writeDst, State.modW_w, if_true, Wave.issueUnch, List.mem_append, List.mem_singleton, List.mem_filter,
        List.contains_iff_mem, true_and, hu]
      by_cases hk : k = h.dst.toNat <;> simp [hk]
    · simp only [State.writeDst, State.modW_w, if_true, Wave.issueUnch, List.map_map, halfResult, hu]
      rfl

/-- Storing a half's results changes registers, pending marks and results on their way alone. -/
theorem State.halfStored_eq (s : State) (p : PairOp) (h : Half) (lanes : List Nat) (f : Nat → FRes) :
    s.halfStored p h lanes f =
      { s with w := { s.w with v := (s.halfStored p h lanes f).w.v, pend := (s.halfStored p h lanes f).w.pend
                               unch := (s.halfStored p h lanes f).w.unch } } := by
  unfold State.halfStored
  cases (halfInfo p h).2.2.2 <;> rfl

theorem State.afterHalf_leaves (s : State) (p : PairOp) (h : Half) {lanes : List Nat} (f : Nat → FRes) (hlanes : ∀ L ∈ lanes, L < 16384) :
    s.w.HalfLeaves (s.afterHalf p h lanes f).w p h lanes f := by
  obtain ⟨hregs, hpend, hunch⟩ := s.halfStored_leaves p h f hlanes
  rw [State.afterHalf, State.modW_w, Wave.halfCount_eq]
  exact ⟨hregs, hpend, hunch⟩

/-- A half of a word changes registers, pending marks, results on their way and counts alone. -/
theorem State.afterHalf_eq (s : State) (p : PairOp) (h : Half) (lanes : List Nat) (f : Nat → FRes) :
    s.afterHalf p h lanes f =
      { s with w := { s.w with v := (s.afterHalf p h lanes f).w.v, pend := (s.afterHalf p h lanes f).w.pend
                               unch := (s.afterHalf p h lanes f).w.unch, counts := (s.afterHalf p h lanes f).w.counts } } := by
  unfold State.afterHalf
  rw [State.modW, Wave.halfCount_eq, State.halfStored_eq]

theorem State.afterHalf_shape (s : State) (p : PairOp) (h : Half) (lanes : List Nat) (f : Nat → FRes) :
    (s.afterHalf p h lanes f).w.shape = s.w.shape := by
  rw [State.afterHalf_eq]

/-- The counts after a half, by the counts before it. -/
theorem State.afterHalf_counts (s : State) (p : PairOp) (h : Half) (lanes : List Nat) (f : Nat → FRes) {w : Wave}
    (hc : s.w.counts = w.counts) (hs : s.w.shape = w.shape) :
    (s.afterHalf p h lanes f).w.counts = (w.halfCount p h (countedIn p h lanes f)).counts := by
  refine Wave.halfCount_counts p h _ ?_ ?_ <;> rw [State.halfStored_eq]
  · exact hc
  · exact hs

/-! The word. -/

theorem exec_mkPair (mark : Bool) (xop : PairOp) (x : Half) (yop : PairOp) (y : Half) (s : State) :
    exec (mkPair mark xop x yop y) s = pairWord mark xop x yop y s := by
  cases xop <;> rfl

/-- The checks of a pair word (R40, R119) pass, and both halves compute. -/
structure PairComputes (s : State) (xop : PairOp) (x : Half) (yop : PairOp) (y : Half) (fx fy : Nat → FRes) : Prop where
  checkX : halfCheck s xop x = .ok ()
  checkY : halfCheck s yop y = .ok ()
  hazardX : halfHazard s xop x = .ok ()
  hazardY : halfHazard s yop y = .ok ()
  resultsX : halfResults s xop x fx
  resultsY : halfResults s yop y fy

/-- A pair word whose halves compute: an enabled kind of either stops both, else each writes what it computed from the state before (R39, R111). -/
theorem pairWord_eq {s : State} {mark : Bool} {xop yop : PairOp} {x y : Half} {fx fy : Nat → FRes} (h : PairComputes s xop x yop y fx fy) :
    pairWord mark xop x yop y s = finishLane mark s (do
      fptrapCheck s.run.fptrap (halfCounted s xop x fx ++ halfCounted s yop y fy)
      .ok ((s.afterHalf xop x (halfLanes s.w x) fx).afterHalf yop y (halfLanes s.w y) fy)) := by
  have hx := halfElems_eq_ok h.resultsX
  have hy := halfElems_eq_ok h.resultsY
  rw [← halfKinds_eq, ← halfKinds_eq, ← halfWrite_eq, ← halfWrite_eq]
  simp only [pairWord, h.checkX, h.checkY, h.hazardX, h.hazardY, hx, hy]
  rfl

theorem pairWord_traps {s : State} {mark : Bool} {xop yop : PairOp} {x y : Half} {fx fy : Nat → FRes} (h : PairComputes s xop x yop y fx fy)
    (ht : trappedKinds s (halfCounted s xop x fx ++ halfCounted s yop y fy) ≠ 0) :
    pairWord mark xop x yop y s =
      .next (s.raise 1 .fptrap ((trappedKinds s (halfCounted s xop x fx ++ halfCounted s yop y fy)).setWidth 64) s.laneTarget s.laneBits) := by
  have hcheck : fptrapCheck s.run.fptrap (halfCounted s xop x fx ++ halfCounted s yop y fy) =
      trap .fptrap ((trappedKinds s (halfCounted s xop x fx ++ halfCounted s yop y fy)).setWidth 64) := if_neg fun hk => ht (beq_iff_eq.mp hk)
  rw [pairWord_eq h, hcheck]
  rfl

theorem pairWord_writes {s : State} {mark : Bool} {xop yop : PairOp} {x y : Half} {fx fy : Nat → FRes} (h : PairComputes s xop x yop y fx fy)
    (ht : trappedKinds s (halfCounted s xop x fx ++ halfCounted s yop y fy) = 0) :
    pairWord mark xop x yop y s =
      .next (((s.afterHalf xop x (halfLanes s.w x) fx).afterHalf yop y (halfLanes s.w y) fy).laneNext mark) := by
  have hcheck : fptrapCheck s.run.fptrap (halfCounted s xop x fx ++ halfCounted s yop y fy) = .ok () := if_pos (beq_iff_eq.mpr ht)
  rw [pairWord_eq h, hcheck]
  rfl

/-! Clashes (R38). -/

theorem pairRule_iff_pairClash (xop : PairOp) (x : Half) (yop : PairOp) (y : Half) :
    pairRule xop x yop y = true ↔ pairClash xop x yop y := by
  have hbank (xs : List Src) : (List.range 4).any (fun k => decide (3 ≤ bankReads xs k)) = true ↔
      ∃ k < 4, 3 ≤ (xs.filter fun z => match z with | .v r => r.toNat % 4 == k | _ => false).length :=
    have hcount (k : Nat) : bankReads xs k = (xs.filter fun z => match z with | .v r => r.toNat % 4 == k | _ => false).length :=
      List.countP_eq_length_filter
    List.any_eq_true.trans ⟨fun ⟨k, hk, h⟩ => ⟨k, List.mem_range.mp hk, hcount k ▸ of_decide_eq_true h⟩,
      fun ⟨k, hk, h⟩ => ⟨k, List.mem_range.mpr hk, decide_eq_true (hcount k ▸ h)⟩⟩
  have hscalar (xs : List Src) : decide (2 ≤ xs.countP Src.isS) = true ↔
      2 ≤ (xs.filter fun z => match z with | .s _ => true | _ => false).length :=
    have hcount : xs.countP Src.isS = (xs.filter fun z => match z with | .s _ => true | _ => false).length := List.countP_eq_length_filter
    decide_eq_true_iff.trans ⟨fun h => hcount ▸ h, fun h => hcount ▸ h⟩
  have hqueue (xs : List Src) : xs.any Src.isQ = true ↔ ∃ n, Src.q n ∈ xs := by
    rw [List.any_eq_true]
    constructor
    · rintro ⟨z, hz, hq⟩
      cases z with
      | q n => exact ⟨n, hz⟩
      | v | lit | s => cases hq
    · rintro ⟨n, hn⟩
      exact ⟨_, hn, rfl⟩
  have hspecial (p : PairOp) : (p == .rcp || p == .rsqrt || p == .cvt) = true ↔ p ∈ [PairOp.rcp, .rsqrt, .cvt] := by
    cases p <;> decide
  unfold pairRule pairClash
  simp only [Bool.or_eq_true _ (x.dst == y.dst)]
  rw [Bool.or_eq_true, Bool.or_eq_true, Bool.or_eq_true, Bool.and_eq_true]
  refine Iff.trans (or_congr (or_congr (or_congr (or_congr (hbank _) (hscalar _)) (hqueue _))
    (and_congr (hspecial xop) (hspecial yop))) beq_iff_eq) ?_
  exact or_assoc.trans (or_assoc.trans or_assoc)

/-! The obligation. -/

/-- A pair word whose halves pass ILLEGAL's rules, as the decoder takes it (R38). -/
theorem decodeLane_of_halves {w : BitVec 96} {xop yop : PairOp} {x y : Half} (hz : w.getLsbD 94 = true)
    (hx : decodeHalf (w.extractLsb' 47 47) = some (xop, x)) (hy : decodeHalf (w.extractLsb' 0 47) = some (yop, y))
    (hok : pairOk xop x yop y = true) :
    decodeLane w = if pairRule xop x yop y then .error .pairRule else .ok (mkPair (w.getLsbD 95) xop x yop y) := by
  simp only [decodeLane, hz, hx, hy, hok, if_true]

/-- Settles O30: the second half is computed from the state before the word, and leaves its results over those of the first. -/
theorem pairWordReadsBeforeItWrites : Obligations.PairWordReadsBeforeItWrites := by
  refine ⟨fun s mark xop yop x y fx fy hcx hcy hhx hhy hrx hry hdst => ?_, fun w xop yop x y hz hx hy hok => ⟨fun h => ⟨?_, rfl⟩, fun h => ?_⟩⟩
  · have h : PairComputes s xop x yop y fx fy := ⟨hcx, hcy, hhx, hhy, hrx, hry⟩
    refine ⟨fun ht => (exec_mkPair ..).trans (pairWord_traps h ht), fun ht => ?_⟩
    have hlx : ∀ L ∈ halfLanes s.w x, L < 16384 := fun L => Wave.lt_of_mem_active
    have hly : ∀ L ∈ halfLanes s.w y, L < 16384 := fun L => Wave.lt_of_mem_active
    obtain ⟨xregs, xpend, xunch⟩ := s.afterHalf_leaves xop x fx hlx
    obtain ⟨yregs, ypend, yunch⟩ := (s.afterHalf xop x (halfLanes s.w x) fx).afterHalf_leaves yop y fy hly
    refine ⟨_, (exec_mkPair ..).trans (pairWord_writes h ht), fun r L hL => ?_, fun k => ?_, ?_, ?_, ?_⟩
    · rw [yregs r L hL, xregs r L hL]
    · rw [ypend k, xpend k, or_assoc]
    · rw [yunch, xunch]
      rfl
    · refine State.afterHalf_counts _ yop y _ fy (State.afterHalf_counts s xop x _ fx rfl rfl) ?_
      rw [State.afterHalf_shape, Wave.halfCount_eq]
    · rw [State.afterHalf_eq (s.afterHalf xop x (halfLanes s.w x) fx), State.afterHalf_eq s]
  · rw [decodeLane_of_halves hz hx hy hok, if_pos ((pairRule_iff_pairClash xop x yop y).mpr h)]
  · rw [decodeLane_of_halves hz hx hy hok, if_neg fun hr => h ((pairRule_iff_pairClash xop x yop y).mp hr)]

end Sys2Proof.Machine

/-! SUPPORT. The checks of a scalar instruction that trap at issue (R42, R78, R137, R160, R171, R200, R245, R256, R323). -/

namespace Sys2Proof.Machine

open Sys2Proof

/-! A check that fails ends its instruction. -/

/-- A condition that does not hold traps, whatever follows it. -/
theorem need_bind_false {α : Type} {b : Bool} {c : Cause} {fva : DWord} {f : Unit → Res α} (h : b = false) :
    (need b c fva >>= f) = trap c fva := by
  subst h
  rfl

theorem traps_of_trap {i : Instr} {s : State} {len : Nat} {r : Res State} {c : Cause} {fva : DWord} (he : exec i s = finishSeq len s r)
    (hr : r = trap c fva) : Traps i s c fva := by
  subst hr
  exact he

/-- The first condition of an instruction does not hold. -/
theorem traps_of_need {i : Instr} {s : State} {len : Nat} {b : Bool} {c : Cause} {fva : DWord} {f : Unit → Res State}
    (he : exec i s = finishSeq len s (need b c fva >>= f)) (hb : b = false) : Traps i s c fva :=
  traps_of_trap he (need_bind_false hb)

/-- Its first condition holds, and its second does not. -/
theorem traps_of_second_need {i : Instr} {s : State} {len : Nat} {b b' : Bool} {c c' : Cause} {fva fva' : DWord} {f : Unit → Res State}
    (he : exec i s = finishSeq len s (need b c fva >>= fun _ => need b' c' fva' >>= f)) (hb : b = true) (hb' : b' = false) :
    Traps i s c' fva' :=
  traps_of_trap he (by rw [need_bind hb, need_bind_false hb'])

/-! System opcodes (R42). -/

/-- An instruction that runs in the system view only traps PRIV in the user view. -/
theorem traps_priv {i : Instr} {s : State} {len : Nat} {f : Unit → Res State} (hsys : s.w.sys = false)
    (he : exec i s = finishSeq len s (sysOnly s >>= f)) : Traps i s .priv 0 :=
  traps_of_need he hsys

/-- `eret` answers the trap of its first check as any instruction does. -/
theorem eret_traps_priv {s : State} (hsys : s.w.sys = false) : Traps .eret s .priv 0 := by
  show execEret s = _
  have hcheck : sysOnly s = trap .priv 0 := by rw [sysOnly, hsys]; rfl
  unfold execEret
  rw [hcheck]
  rfl

theorem systemOpcodeTrapsPrivInTheUserViewClaim : SystemOpcodeTrapsPrivInTheUserViewClaim := by
  intro s a b hsys
  simp only [systemOpcodes, List.forall_mem_cons]
  refine ⟨eret_traps_priv hsys, traps_priv hsys rfl, traps_priv hsys rfl, traps_priv hsys rfl, traps_priv hsys rfl, traps_of_need rfl ?_,
    traps_of_need rfl ?_, traps_priv hsys rfl, by simp⟩
  · exact hsys
  · exact hsys

/-! Selectors (R78, R137, R323). -/

theorem selectorOutOfRangeTrapsClaim : SelectorOutOfRangeTrapsClaim := fun _ _ _ _ _ _ _ =>
  ⟨fun h => traps_of_need rfl (decide_eq_false h.not_gt), fun h => traps_of_need rfl (decide_eq_false h.not_gt),
    fun h => traps_of_need rfl (decide_eq_false h.not_gt), fun h => traps_of_need rfl (decide_eq_false h.not_gt)⟩

/-! Addresses (R137, R188, R256). -/

/-- The fault of a data access to an address that does not translate (R196). -/
def Acc.fault (a : Acc) : Cause := if a = .load then .loadFault else .storeFault

theorem State.access_unmapped {s : State} {va : DWord} (h : s.unmapped va) (a : Acc) : s.access a va = trap a.fault va := by
  obtain ⟨hwait, hmap⟩ := h
  simp only [State.access, hwait, hmap, Bool.false_eq_true, if_false]
  rfl

theorem State.access_forbidden {s : State} {va : DWord} {e : TlbEntry} (h : s.maps va e) {a : Acc} (hp : e.permits a s.w.sys = false) :
    s.access a va = trap .perm va := by
  obtain ⟨hwait, hmap⟩ := h
  simp only [State.access, hwait, hmap, hp, Bool.false_eq_true, if_false]

/-- An instruction that forms one address of `n` bytes' alignment, and accesses it before it has any effect. -/
def FormsAddress (i : Instr) (s : State) (ea : DWord) (n : Nat) (a : Acc) : Prop :=
  ∃ len f, exec i s = finishSeq len s (need (ea.toNat % n == 0) .align ea >>= fun _ => s.access a ea >>= f)

section

variable {i : Instr} {s : State} {ea : DWord} {n : Nat} {a : Acc} (h : FormsAddress i s ea n a)
include h

theorem FormsAddress.misaligned (hal : ea.toNat % n ≠ 0) : Traps i s .align ea := by
  obtain ⟨len, f, he⟩ := h
  exact traps_of_need he (beq_false_of_ne hal)

/-- Where the address is aligned and its access traps, the instruction does. -/
theorem FormsAddress.traps (hal : ea.toNat % n = 0) {c : Cause} {fva : DWord} (hacc : s.access a ea = trap c fva) : Traps i s c fva := by
  obtain ⟨len, f, he⟩ := h
  refine traps_of_trap he ?_
  rw [need_bind (beq_iff_eq.mpr hal), hacc]
  rfl

end

/-- Each address command forms its address so, with the fault of its kind of access. -/
theorem addressCommands_form (s : State) (n : BitVec 4) (q : BitVec 3) (a : BitVec 6) (i : Imm) (l : Loc) :
    ∀ x ∈ addressCommands s n q a i l, FormsAddress x.1 s (s.getS a + immVal i) x.2.1 x.2.2.1 ∧ x.2.2.2.1 = x.2.2.1.fault := by
  simp only [addressCommands, List.forall_mem_cons]
  exact ⟨⟨⟨_, _, rfl⟩, rfl⟩, ⟨⟨_, _, rfl⟩, rfl⟩, ⟨⟨_, _, rfl⟩, rfl⟩, by simp⟩

/-! Lane commands at issue. -/

theorem laneCommandIssueTrapsClaim : LaneCommandIssueTrapsClaim := by
  intro s a n q p f i l ea
  have hform := addressCommands_form s n q a i l
  refine ⟨fun x hx hal => (hform x hx).1.misaligned hal, fun x hx hal hu => ?_,
    fun e he x hx hal hp => (hform x hx).1.traps hal (State.access_forbidden he hp), fun hf hv => ?_, fun hp => ⟨?_, ?_⟩, fun hp hv => ?_⟩
  · rw [(hform x hx).2]
    exact (hform x hx).1.traps hal (State.access_unmapped hu _)
  · exact traps_of_second_need rfl (decide_eq_true hf) hv
  · exact traps_of_need rfl (decide_eq_false hp.not_gt)
  · exact traps_of_need rfl (decide_eq_false hp.not_gt)
  · have hrange : (decide (-512 ≤ (s.getS a).toInt) && decide ((s.getS a).toInt ≤ 511)) = false := by
      rw [Bool.and_eq_false_iff, decide_eq_false_iff_not, decide_eq_false_iff_not]
      omega
    have hfva : dw (2 * 512 + if p = 1 then 16 else 0) = accFva 0 2 (p == 1) := by
      simp only [accFva, beq_iff_eq]
      split <;> rfl
    rw [hfva]
    exact traps_of_second_need rfl (decide_eq_true hp) hrange

/-- Settles O11: every check stands before the instruction's effect, and its trap is taken on the state before it. -/
theorem instructionTrapsAtIssue : Obligations.InstructionTrapsAtIssue :=
  ⟨systemOpcodeTrapsPrivInTheUserViewClaim, selectorOutOfRangeTrapsClaim, laneCommandIssueTrapsClaim⟩

end Sys2Proof.Machine

/-! SUPPORT. Special registers (R42, R83, R84, R308, R309, R366): which exist and in which view, what each reads, and what a write leaves. -/

namespace Sys2Proof.Machine

open Sys2Proof

/-! Fields of a doubleword. -/

theorem bits_zero (x : DWord) (n : Nat) : bits x 0 n = x.toNat % 2 ^ n := by
  rw [bits, pow_zero, Nat.div_one]

/-- The bits `lo + n - 1 .. lo` of a doubleword as a mask. -/
def fieldMask (lo n : Nat) : DWord := BitVec.ofNat 64 ((2 ^ n - 1) * 2 ^ lo)

theorem getLsbD_fieldMask {lo n i : Nat} (hi : i < 64) : (fieldMask lo n).getLsbD i = (decide (lo ≤ i) && decide (i - lo < n)) := by
  rw [fieldMask, BitVec.getLsbD_ofNat, decide_eq_true hi, Bool.true_and, Nat.mul_comm, Nat.testBit_two_pow_mul, Nat.testBit_two_pow_sub_one]

/-- A field is zero exactly where the value clears its mask. -/
theorem and_fieldMask_eq_zero (v : DWord) {lo n : Nat} (h : lo + n ≤ 64) : v &&& fieldMask lo n = 0 ↔ bits v lo n = 0 := by
  have hbit (j : Nat) : (bits v lo n).testBit j = (decide (j < n) && v.getLsbD (lo + j)) := by
    rw [bits, Nat.testBit_mod_two_pow, Nat.testBit_div_two_pow, Nat.add_comm j lo]
    rfl
  constructor
  · intro hv
    refine Nat.eq_of_testBit_eq fun j => ?_
    rw [hbit, Nat.zero_testBit]
    by_cases hj : j < n
    · have hi := congrArg (fun x => x.getLsbD (lo + j)) hv
      simp only [BitVec.getLsbD_and, getLsbD_fieldMask (show lo + j < 64 by omega)] at hi
      simpa [hj] using hi
    · simp [hj]
  · intro hb
    refine BitVec.eq_of_getLsbD_eq fun i hi => ?_
    rw [BitVec.getLsbD_and, getLsbD_fieldMask hi]
    by_cases hf : lo ≤ i ∧ i - lo < n
    · have hj := hbit (i - lo)
      rw [hb, Nat.zero_testBit, decide_eq_true hf.2, Bool.true_and, Nat.add_sub_cancel' hf.1] at hj
      simp [← hj]
    · have : (decide (lo ≤ i) && decide (i - lo < n)) = false := by
        rw [← Bool.decide_and, decide_eq_false hf]
      simp [this]

/-- Two fields are zero exactly where the value clears both masks. -/
theorem and_or_eq_zero (v a b : DWord) : v &&& (a ||| b) = 0 ↔ v &&& a = 0 ∧ v &&& b = 0 := by
  rw [BitVec.and_or_distrib_left]
  exact BitVec.or_eq_zero_iff

/-- The low bits as a value. -/
theorem dw_bits_zero (v : DWord) (n : Nat) : dw (bits v 0 n) = v &&& dw (2 ^ n - 1) := by
  refine BitVec.eq_of_getLsbD_eq fun i hi => ?_
  rw [dw, dw, BitVec.getLsbD_and, BitVec.getLsbD_ofNat, BitVec.getLsbD_ofNat, bits_zero, Nat.testBit_mod_two_pow, Nat.testBit_two_pow_sub_one,
    decide_eq_true hi, Bool.true_and, Bool.true_and, Bool.and_comm]
  rfl

/-! Which registers there are, and in which view (R42, R84 Table 3, R308 Table 1, R366). -/

/-- The user view's registers, by number. -/
def userCsrNumbers : List Nat :=
  [0x000, 0x001, 0x002, 0x003, 0x004, 0x008, 0x009, 0x010, 0x011, 0x012, 0x013, 0x014, 0x015, 0x016, 0x020, 0x021, 0x030]

/-- The system view's registers that may be read, by number. -/
def systemCsrNumbers : List Nat :=
  [0x801, 0x802, 0x803, 0x840, 0x841, 0x850, 0x852, 0x860, 0x861, 0x870, 0x871, 0x872, 0x873, 0x874, 0x875, 0x876, 0x877, 0x878, 0x879,
   0x880, 0x881] ++ (List.range 16).map (0x810 + ·)

/-- A register's number is one that `csrr` takes. -/
def csrReads (c : Nat) (sys : Bool) : Prop := ∃ m, csrMode c = some m ∧ m ≠ .wo ∧ csrSys c = sys

theorem csrReads_user : ∀ c ∈ userCsrNumbers, csrReads c false := by
  simp only [userCsrNumbers, List.forall_mem_cons]
  refine ⟨?_, ?_, ?_, ?_, ?_, ?_, ?_, ?_, ?_, ?_, ?_, ?_, ?_, ?_, ?_, ?_, ?_, by simp⟩ <;> exact ⟨_, rfl, by decide, rfl⟩

theorem csrReads_system : ∀ c ∈ systemCsrNumbers, csrReads c true := by
  intro c hc
  have hall : systemCsrNumbers.all (fun c => ((csrMode c).map fun m => m != .wo) == some true && csrSys c) = true := by decide
  have h := List.all_eq_true.mp hall c hc
  rw [Bool.and_eq_true, beq_iff_eq, Option.map_eq_some_iff] at h
  obtain ⟨⟨m, hm, hwo⟩, hsys⟩ := h
  exact ⟨m, hm, by simpa using hwo, hsys⟩

/-- Every register that may be read is in one of the lists. -/
theorem mem_csrNumbers {c : Nat} {m : CsrMode} (hm : csrMode c = some m) (hwo : m ≠ .wo) : c ∈ userCsrNumbers ∨ c ∈ systemCsrNumbers := by
  have hrange : 0x810 ≤ c ∧ c ≤ 0x81F → c ∈ (List.range 16).map (0x810 + ·) := fun h =>
    List.mem_map.mpr ⟨c - 0x810, List.mem_range.mpr (by omega), by omega⟩
  by_cases hr : 0x810 ≤ c ∧ c ≤ 0x81F
  · exact .inr (List.mem_append_right _ (hrange hr))
  · simp only [userCsrNumbers, systemCsrNumbers, List.mem_append, List.mem_cons, List.not_mem_nil, or_false]
    unfold csrMode at hm
    split_ifs at hm
    · omega
    · omega
    · omega
    · omega
    · omega
    · exact absurd (Option.some.inj hm).symm hwo
    · omega

/-! The checks of an access (R42, R83). -/

theorem csrCheck_none {s : State} {c : Nat} {write : Bool} (h : csrMode c = none) : csrCheck s c write = trap .illegal 0 := by
  rw [csrCheck, h]

theorem csrCheck_read {s : State} {c : Nat} {sys : Bool} (h : csrReads c sys) (hview : sys = true → s.w.sys = true) :
    csrCheck s c false = .ok () := by
  obtain ⟨m, hm, hwo, rfl⟩ := h
  have hview' : (s.w.sys || !(csrSys c || (false && m == .rs))) = true := by
    cases hs : csrSys c
    · simp
    · simp [hview hs]
  rw [csrCheck, hm]
  show (need _ _ _ >>= fun _ => _) = _
  rw [need_bind (by simpa using hwo), hview']
  rfl

theorem csrCheck_read_priv {s : State} {c : Nat} (h : csrReads c true) (hview : s.w.sys = false) : csrCheck s c false = trap .priv 0 := by
  obtain ⟨m, hm, hwo, hsys⟩ := h
  rw [csrCheck, hm]
  show (need _ _ _ >>= fun _ => _) = _
  rw [need_bind (by simpa using hwo), hview, hsys]
  rfl

theorem csrCheck_read_writeOnly {s : State} {c : Nat} (h : csrMode c = some .wo) : csrCheck s c false = trap .illegal 0 := by
  rw [csrCheck, h]
  rfl

/-- A register's number is one that `csrw` takes; `sys` says whether in the system view alone. -/
def csrWrites (c : Nat) (sys : Bool) : Prop := ∃ m, csrMode c = some m ∧ m ≠ .ro ∧ (csrSys c || m == .rs) = sys

theorem csrCheck_write {s : State} {c : Nat} {sys : Bool} (h : csrWrites c sys) (hview : sys = true → s.w.sys = true) :
    csrCheck s c true = .ok () := by
  obtain ⟨m, hm, hro, rfl⟩ := h
  have hview' : (s.w.sys || !(csrSys c || (true && m == .rs))) = true := by
    rw [Bool.true_and]
    cases hs : csrSys c || m == .rs
    · simp
    · simp [hview hs]
  rw [csrCheck, hm]
  show (need _ _ _ >>= fun _ => _) = _
  rw [need_bind (by simpa using hro), hview']
  rfl

theorem csrCheck_write_priv {s : State} {c : Nat} (h : csrWrites c true) (hview : s.w.sys = false) : csrCheck s c true = trap .priv 0 := by
  obtain ⟨m, hm, hro, hsys⟩ := h
  rw [csrCheck, hm]
  show (need _ _ _ >>= fun _ => _) = _
  rw [need_bind (by simpa using hro), hview, Bool.true_and, hsys]
  rfl

theorem csrCheck_write_readOnly {s : State} {c : Nat} (h : csrMode c = some .ro) : csrCheck s c true = trap .illegal 0 := by
  rw [csrCheck, h]
  rfl

/-- The registers that `csrw` takes are those of the tables that are not read-only. -/
theorem csrWritable_iff (c : BitVec 12) : csrWritable c = true ↔ ∃ m, csrMode c.toNat = some m ∧ m ≠ .ro := by
  unfold csrWritable csrMode
  generalize c.toNat = n
  simp only [Bool.or_eq_true, decide_eq_true_eq, beq_iff_eq]
  split_ifs
  all_goals
    simp
    omega

/-! Reads. -/

theorem csrr_completes {s : State} {d : BitVec 6} {c : BitVec 12} {sys : Bool} {v : DWord} (h : s.noStep) (hc : csrReads c.toNat sys)
    (hview : sys = true → s.w.sys = true) (hv : csrValue s c.toNat = v) : Completes (.csrr d c) s d v 4 := by
  refine completes_of_setS h ?_ hv
  show execCsrr d c s = _
  rw [execCsrr, csrCheck_read hc hview]
  rfl

theorem csrr_traps {s : State} {d : BitVec 6} {c : BitVec 12} {x : Cause} (hc : csrCheck s c.toNat false = trap x 0) :
    Traps (.csrr d c) s x 0 := by
  show execCsrr d c s = _
  rw [execCsrr, hc]
  rfl

/-- The user view's registers are those of its list, as `csrr` reads them. -/
theorem userCsrs_eq (s : State) : userCsrs s = userCsrNumbers.map fun n => (BitVec.ofNat 12 n, csrValue s n) := by
  have hshape : (s.w.shape.setWidth 32).setWidth 64 = dw (bits s.w.shape 0 32) := by
    refine BitVec.eq_of_toNat_eq ?_
    simp [dw, bits_zero]
  unfold userCsrs
  rw [hshape]
  rfl

theorem csrValue_scratch (s : State) {k : Nat} (hk : k < 16) : csrValue s (0x810 + k) = s.w.sVal (48 + k) := by
  interval_cases k <;> rfl

theorem systemCsrs_eq (s : State) : systemCsrs s = systemCsrNumbers.map fun n => (BitVec.ofNat 12 n, csrValue s n) := by
  unfold systemCsrs systemCsrNumbers
  rw [List.map_append, List.map_map]
  refine congrArg₂ _ rfl (List.map_congr_left fun k hk => ?_)
  rw [← csrValue_scratch s (List.mem_range.mp hk)]
  rfl

/-- The number of a register as the instruction's 12 bits hold it. -/
theorem csrNumber_lt : (∀ n ∈ userCsrNumbers, n < 2 ^ 12) ∧ ∀ n ∈ systemCsrNumbers, n < 2 ^ 12 := by
  constructor <;> decide

theorem csrReadGivesTheRegisterClaim : CsrReadGivesTheRegisterClaim := by
  intro s d h
  simp only [userCsrs_eq, systemCsrs_eq, List.forall_mem_map, List.map_map]
  have hu : ∀ n ∈ userCsrNumbers, (BitVec.ofNat 12 n).toNat = n := fun n hn => Nat.mod_eq_of_lt (csrNumber_lt.1 n hn)
  have hs : ∀ n ∈ systemCsrNumbers, (BitVec.ofNat 12 n).toNat = n := fun n hn => Nat.mod_eq_of_lt (csrNumber_lt.2 n hn)
  refine ⟨fun n hn => ?_, fun hsys n hn => ?_, fun hsys n hn => ?_, fun c hcu hcs => ?_⟩
  · exact csrr_completes h ((hu n hn).symm ▸ csrReads_user n hn) (fun h => absurd h (by decide)) (by rw [hu n hn])
  · exact csrr_completes h ((hs n hn).symm ▸ csrReads_system n hn) (fun _ => hsys) (by rw [hs n hn])
  · exact csrr_traps (csrCheck_read_priv ((hs n hn).symm ▸ csrReads_system n hn) hsys)
  · have hc : c = BitVec.ofNat 12 c.toNat := by simp
    have hmem {l : List Nat} (hl : c ∉ l.map (Prod.fst ∘ fun n => (BitVec.ofNat 12 n, csrValue s n))) : c.toNat ∉ l := fun hm =>
      hl (List.mem_map.mpr ⟨c.toNat, hm, hc.symm⟩)
    cases hm : csrMode c.toNat with
    | none => exact csrr_traps (csrCheck_none hm)
    | some m =>
      by_cases hwo : m = .wo
      · subst hwo
        exact csrr_traps (csrCheck_read_writeOnly hm)
      · rcases mem_csrNumbers hm hwo with hin | hin
        · exact absurd hin (hmem hcu)
        · exact absurd hin (hmem hcs)

end Sys2Proof.Machine

/-! SUPPORT. What `csrw` leaves of each special register, and which values trap (R83, R84, R110, R213, R264, R290, R292, R308, R309, R323, R366). -/

namespace Sys2Proof.Machine

open Sys2Proof

/-! How an instruction that writes no scalar register ends. -/

/-- Outside a single step, an instruction whose effects lead to `u` goes on in sequence, where `u` stands at its place with its registers. -/
theorem passes_of_ok {i : Instr} {s u : State} {len : Nat} (he : exec i s = finishSeq len s (.ok u)) (hstep : u.noStep) (hpc : u.w.pc = s.w.pc)
    (hval : u.w.sVal = s.w.sVal) : Passes i s u len := by
  have hr := retires_advance u hstep len u.w.s u.w.sret
  rw [hpc] at hr
  exact ⟨_, he, fun k => (hr.1 k).trans (congrFun hval k), hr.2⟩

/-- The same where its effects leave the wave as it is. -/
theorem passes_of_same {i : Instr} {s u : State} {len : Nat} (he : exec i s = finishSeq len s (.ok u)) (hstep : s.noStep) (hw : u.w = s.w) :
    Passes i s u len := by
  refine passes_of_ok he ?_ ?_ ?_
  · rw [State.noStep, hw]
    exact hstep
  · rw [hw]
  · rw [hw]

/-- Once its checks have passed, `csrw` is the register's own write. -/
theorem exec_csrw {s : State} {a : BitVec 6} {c : BitVec 12} {sys : Bool} (hc : csrWrites c.toNat sys) (hview : sys = true → s.w.sys = true) :
    exec (.csrw a c) s = finishSeq 4 s (csrSet s c.toNat (s.getS a)) := by
  show execCsrw a c s = _
  rw [execCsrw, csrCheck_write hc hview]
  rfl

theorem csrw_traps {s : State} {a : BitVec 6} {c : BitVec 12} {x : Cause} (hc : csrCheck s c.toNat true = trap x 0) :
    Traps (.csrw a c) s x 0 := by
  show execCsrw a c s = _
  rw [execCsrw, hc]
  rfl

/-! The wave's own registers (R84, R111, R129, R308, R315). -/

/-- A write of a wave's own register is one of those that `csrw` takes, and leaves the wave that the statement lists. -/
structure WaveCsrWrite (s : State) (v : DWord) (p : BitVec 12 × Bool × Wave) : Prop where
  taken : csrWrites p.1.toNat p.2.1
  set : csrSet s p.1.toNat v = .ok { s with w := p.2.2 }
  pc : p.2.2.pc = s.w.pc
  regs : p.2.2.sVal = s.w.sVal
  stepping : p.2.2.stepping = s.w.stepping
  lstep : p.1 ≠ 0x801 → p.2.2.lstep = s.w.lstep

/-- The three words of the trapping lane word, each replaced (R311). -/
theorem setEword_zero (w : BitVec 96) (v : DWord) : setEword w 0 v = w.extractLsb' 32 64 ++ v.setWidth 32 := by
  have h : w.extractLsb' 64 32 ++ w.extractLsb' 32 32 = w.extractLsb' 32 64 := BitVec.extractLsb'_append_extractLsb'_eq_extractLsb' rfl
  rw [← h]
  rfl

theorem setEword_one (w : BitVec 96) (v : DWord) : setEword w 1 v = w.extractLsb' 64 32 ++ v.setWidth 32 ++ w.extractLsb' 0 32 := rfl

theorem setEword_two (w : BitVec 96) (v : DWord) : setEword w 2 v = v.setWidth 32 ++ w.extractLsb' 0 64 := by
  have h : w.extractLsb' 32 32 ++ w.extractLsb' 0 32 = w.extractLsb' 0 64 := BitVec.extractLsb'_append_extractLsb'_eq_extractLsb' rfl
  rw [← h]
  exact BitVec.append_assoc ..

theorem waveCsrWrite (s : State) (v : DWord) : ∀ p ∈ waveCsrWrites s.w v, WaveCsrWrite s v p := by
  have hcause : dw (bits v 0 6) = v &&& 0x3F := dw_bits_zero v 6
  simp only [waveCsrWrites, List.forall_mem_cons, ← hcause, ← setEword_zero, ← setEword_one, ← setEword_two]
  refine ⟨?_, ?_, ?_, ?_, ?_, ?_, ?_, ?_, ?_, ?_, ?_, ?_, by simp⟩
  case refine_11 => exact ⟨⟨_, rfl, by decide, rfl⟩, rfl, rfl, rfl, rfl, fun h => absurd rfl h⟩
  all_goals exact ⟨⟨_, rfl, by decide, rfl⟩, rfl, rfl, rfl, rfl, fun _ => rfl⟩

/-! Registers of the context table (R308, R309, R323, R325, R326). -/

/-- A register that `csrw` takes in the system view, with the condition on its value and the state that a write leaves. -/
structure CsrWrite (s : State) (v : DWord) (c : BitVec 12) (ok : Prop) (u : State) : Prop where
  taken : csrWrites c.toNat true
  set : ok → csrSet s c.toNat v = .ok u
  refuse : ¬ ok → csrSet s c.toNat v = trap .illegal 0
  same : u.w = s.w

theorem CsrWrite.passes {s u : State} {a : BitVec 6} {c : BitVec 12} {ok : Prop} (h : CsrWrite s (s.getS a) c ok u) (hsys : s.w.sys = true)
    (hstep : s.noStep) (hok : ok) : Passes (.csrw a c) s u 4 :=
  passes_of_same ((exec_csrw h.taken fun _ => hsys).trans (by rw [h.set hok])) hstep h.same

theorem CsrWrite.traps {s u : State} {a : BitVec 6} {c : BitVec 12} {ok : Prop} (h : CsrWrite s (s.getS a) c ok u) (hsys : s.w.sys = true)
    (hok : ¬ ok) : Traps (.csrw a c) s .illegal 0 :=
  traps_of_trap (exec_csrw h.taken fun _ => hsys) (h.refuse hok)

/-- A write whose rule names a condition on the value. -/
theorem CsrWrite.of_need {s u : State} {v : DWord} {c : BitVec 12} {ok : Prop} {b : Bool} (htaken : csrWrites c.toNat true)
    (hset : csrSet s c.toNat v = (need b .illegal 0 >>= fun _ => .ok u)) (hok : b = true ↔ ok) (hw : u.w = s.w) : CsrWrite s v c ok u where
  taken := htaken
  set h := by rw [hset, need_bind (hok.mpr h)]
  refuse h := by rw [hset, need_bind_false (Bool.eq_false_iff.mpr fun hb => h (hok.mp hb))]
  same := hw

/-- A write that takes every value. -/
theorem CsrWrite.of_ok {s u : State} {v : DWord} {c : BitVec 12} (htaken : csrWrites c.toNat true) (hset : csrSet s c.toNat v = .ok u)
    (hw : u.w = s.w) : CsrWrite s v c True u where
  taken := htaken
  set _ := hset
  refuse h := absurd trivial h
  same := hw

/-- Reserved fields of a value that are clear, as the model and as the rule put it. -/
theorem bits_beq_zero (v : DWord) {lo n : Nat} (h : lo + n ≤ 64) {m : DWord} (hm : m = fieldMask lo n) :
    (bits v lo n == 0) = true ↔ v &&& m = 0 := by
  subst hm
  rw [beq_iff_eq, and_fieldMask_eq_zero v h]

theorem bits_beq_zero₂ (v : DWord) {lo n lo' n' : Nat} (h : lo + n ≤ 64) (h' : lo' + n' ≤ 64) {m : DWord}
    (hm : m = fieldMask lo n ||| fieldMask lo' n') : (bits v lo n == 0 && bits v lo' n' == 0) = true ↔ v &&& m = 0 := by
  subst hm
  rw [Bool.and_eq_true, bits_beq_zero v h rfl, bits_beq_zero v h' rfl, and_or_eq_zero]

theorem rowCsrWrite (s : State) (v : DWord) : ∀ p ∈ rowCsrWrites (s.rowAt s.ctxSel) v,
    CsrWrite s v p.1 (p.2.1 = true) { s with ctxs := put {} s.ctxs s.ctxSel p.2.2 } := by
  simp only [rowCsrWrites, List.forall_mem_cons, beq_iff_eq]
  exact ⟨.of_need ⟨_, rfl, by decide, rfl⟩ rfl (bits_beq_zero₂ v (by decide) (by decide) rfl) rfl,
    .of_need ⟨_, rfl, by decide, rfl⟩ rfl (bits_beq_zero v (by decide) rfl) rfl,
    .of_need ⟨_, rfl, by decide, rfl⟩ rfl (bits_beq_zero v (by decide) rfl) rfl,
    .of_need ⟨_, rfl, by decide, rfl⟩ rfl (bits_beq_zero v (by decide) rfl) rfl, by simp⟩

/-! Registers of device units (R110, R213, R290, R292, R309, R323, R366). -/

/-- The counter that `sys.xsel` selects, by its fields. -/
theorem State.xselKey_eq (s : State) :
    s.xselKey = s.row.xsel.toNat % 2 ^ 4 * 64 + s.row.xsel.toNat / 2 ^ 4 % 2 ^ 4 * 4 + s.row.xsel.toNat / 2 ^ 8 % 2 ^ 2 := by
  rw [State.xselKey, bits_zero]
  rfl

/-- The row that a write of `sys.ctxctl` leaves (R292): the fields of a drained context alone are replaced whole. -/
theorem State.setCtxctl_eq (s : State) (v : DWord) : s.setCtxctl v = s.modRow s.ctxsel.toNat fun r =>
    if s.drained s.ctxsel.toNat
    then { r with weight := bits v 0 8, stop := v.getLsbD 8, repro := v.getLsbD 9, phase := bits v 12 16 }
    else { r with weight := bits v 0 8, stop := v.getLsbD 8 } := by
  rw [State.setCtxctl, State.ctxSel]
  cases h : s.drained s.ctxsel.toNat <;> rfl

theorem fqMask_eq (n : Nat) (v : DWord) : fqMask n v = if n = 0 then v &&& 0xFFFF else if n = 6 then v &&& 0xF else v := by
  rw [fqMask, dw_bits_zero, dw_bits_zero]
  rfl

/-- What `sys.ctxskim` accepts (R309). -/
theorem skimOk_iff (v : DWord) : (bits v 0 7 == 0 && bits v 22 10 == 0 && bits v 55 9 == 0 && decide (bits v 0 22 + bits v 32 23 ≤ 2 ^ 22)) = true ↔
    skimFits v := by
  have hm : (0xFF800000FFC0007F : DWord) = (fieldMask 0 7 ||| fieldMask 22 10) ||| fieldMask 55 9 := rfl
  rw [skimFits, hm, and_or_eq_zero, and_or_eq_zero, Bool.and_eq_true, Bool.and_eq_true, Bool.and_eq_true, decide_eq_true_eq,
    bits_beq_zero v (by decide) rfl, bits_beq_zero v (by decide) rfl, bits_beq_zero v (by decide) rfl, bits_zero v 22]
  rfl

/-- What `sys.apctl` accepts (R366). -/
theorem apctlOk_iff (v : DWord) : apctlOk v = true ↔ apertureFits v := by
  have hm : (0xFC000000000020C0 : DWord) = (fieldMask 6 2 ||| fieldMask 13 1) ||| fieldMask 58 6 := rfl
  have hsize : bits v 0 6 = v.toNat % 2 ^ 6 := bits_zero v 6
  have hcls : bits v 11 2 < 4 := Nat.mod_lt _ (by decide)
  have hfields : v.toNat / 2 ^ 14 % 2 ^ 34 = bits v 14 34 ∧ v.toNat / 2 ^ 48 % 2 ^ 10 = bits v 48 10 ∧ v.toNat / 2 ^ 11 % 4 = bits v 11 2 :=
    ⟨rfl, rfl, rfl⟩
  unfold apctlOk apertureFits
  rw [hm, and_or_eq_zero, and_or_eq_zero, and_fieldMask_eq_zero v (by decide), and_fieldMask_eq_zero v (by decide),
    and_fieldMask_eq_zero v (by decide), hfields.1, hfields.2.1, hfields.2.2, ← hsize]
  generalize bits v 11 2 = cls at hcls
  simp only [Bool.and_eq_true, Bool.or_eq_true, decide_eq_true_eq, beq_iff_eq]
  -- in each class the two differ in the order of their conditions
  interval_cases cls <;> simp <;> tauto

theorem deviceCsrWrite (s : State) (v : DWord) : ∀ p ∈ deviceCsrWrites s v, CsrWrite s v p.1 p.2.1 p.2.2 := by
  have h3 : dw (bits v 0 3) = v &&& 7 := dw_bits_zero v 3
  have h6 : dw (bits v 0 6) = v &&& 0x3F := dw_bits_zero v 6
  have h10 : dw (bits v 0 10) = v &&& 0x3FF := dw_bits_zero v 10
  have h32 : dw (bits v 0 32) = v &&& 0xFFFFFFFF := dw_bits_zero v 32
  simp only [deviceCsrWrites, List.forall_mem_cons, ← h3, ← h6, ← h10, ← h32, ← bits_zero v, ← bits_zero s.fqsel, ← State.xselKey_eq, ← fqMask_eq]
  refine ⟨?_, ?_, ?_, ?_, ?_, ?_, ?_, ?_, ?_, ?_, ?_, by simp⟩
  · exact .of_ok ⟨_, rfl, by decide, rfl⟩ rfl rfl
  · exact .of_need ⟨_, rfl, by decide, rfl⟩ rfl (by rw [Bool.and_eq_true, decide_eq_true_eq, decide_eq_true_eq]; rfl) rfl
  · exact .of_ok ⟨_, rfl, by decide, rfl⟩ rfl rfl
  · exact .of_ok ⟨_, rfl, by decide, rfl⟩ rfl rfl
  · exact .of_ok ⟨_, rfl, by decide, rfl⟩ (congrArg Except.ok (s.setCtxctl_eq v)) rfl
  · exact .of_ok ⟨_, rfl, by decide, rfl⟩ rfl rfl
  · exact .of_ok ⟨_, rfl, by decide, rfl⟩ rfl rfl
  · exact .of_ok ⟨_, rfl, by decide, rfl⟩ rfl rfl
  · exact .of_need ⟨_, rfl, by decide, rfl⟩ rfl (skimOk_iff v) (by split <;> rfl)
  · exact .of_ok ⟨_, rfl, by decide, rfl⟩ rfl rfl
  · exact .of_need ⟨_, rfl, by decide, rfl⟩ rfl (apctlOk_iff v) rfl

/-! The registration of a queue (R264). None of these steps touches the wave that acts. -/

theorem foldl_w {α : Type} {f : State → α → State} (hf : ∀ t a, (f t a).w = t.w) (l : List α) (s : State) : (l.foldl f s).w = s.w :=
  List.foldlRecOn (motive := fun t => t.w = s.w) l f rfl fun t ht a _ => (hf t a).trans ht

theorem State.pass_w (s : State) (cls : MsgClass) (src dst : Nat) : (s.pass cls src dst).w = s.w := by
  unfold State.pass
  split <;> rfl

theorem State.trip_w (s : State) (src dst : Nat) : (s.trip src dst).w = s.w := (State.pass_w ..).trans (State.pass_w ..)

theorem State.walkTrips_w (s : State) (n : Nat) (root : DWord) (va : Nat) : (s.walkTrips n root va).w = s.w := by
  unfold State.walkTrips
  split
  · rfl
  · exact foldl_w (fun t _ => t.trip_w ..) ..

theorem State.endWalk_w (s : State) (core : Nat) (f : Fill) : (s.endWalk core f).w = s.w := by
  unfold State.endWalk
  extract_lets same u
  have hu : u.w = s.w := s.walkTrips_w ..
  split <;> exact hu

theorem State.touchTlb_w (s : State) (code : Bool) (va : Nat) : (s.touchTlb code va).w = s.w := by
  unfold State.touchTlb
  extract_lets u
  have hu : u.w = s.w := by
    unfold u
    split
    · split
      · exact s.endWalk_w ..
      · exact s.walkTrips_w ..
    · rfl
  split <;> exact hu

theorem State.setQreg_w (s : State) (v : DWord) : (s.setQreg v).w = s.w := by
  unfold State.setQreg
  extract_lets cb n place pa t old f t' home q
  have ht : t.w = s.w := s.touchTlb_w ..
  have ht' : t'.w = s.w := by
    unfold t'
    cases place with
    | none => exact ht
    | some e =>
      show (if _ then _ else _ : State).w = _
      split
      · exact (t.trip_w ..).trans ht
      · exact ht
  split
  · exact ht
  · split <;> exact ht'

/-- Registration and unregistration differ in bit 0 alone, which `csrw` passes as it stands (R264). -/
theorem and_not_one_of_not {v : DWord} (h : v.getLsbD 0 = false) : v &&& ~~~(1#64) = v := by
  refine BitVec.eq_of_getLsbD_eq fun i hi => ?_
  rw [BitVec.getLsbD_and, BitVec.getLsbD_not, BitVec.getLsbD_one]
  by_cases h0 : i = 0
  · rw [h0, h, Bool.false_and]
  · simp [h0, hi]

theorem or_one_of {v : DWord} (h : v.getLsbD 0 = true) : v ||| 1#64 = v := by
  refine BitVec.eq_of_getLsbD_eq fun i _ => ?_
  rw [BitVec.getLsbD_or, BitVec.getLsbD_one]
  by_cases h0 : i = 0
  · rw [h0, h, Bool.true_or]
  · simp [h0]

theorem csrSet_qreg {s : State} {v : DWord} (h : s.qregWaits v = false) : csrSet s 0x862 v = .ok (s.setQreg v) := by
  show (ready _ >>= fun _ => _) = _
  rw [h]
  rfl

theorem csrSet_qreg_waits {s : State} {v : DWord} (h : s.qregWaits v = true) : csrSet s 0x862 v = .error .wait := by
  show (ready _ >>= fun _ => _) = _
  rw [h]
  rfl

/-- The queue unit's own step, where it does not wait, is the write of `sys.qreg`. -/
theorem queueStep_of_not_waits {s u : State} {v : DWord} (h : s.qregWaits v = false)
    (hu : exec (if v.getLsbD 0 then .queueUnregister v else .queueRegister v) s = .next u) : s.setQreg v = u := by
  cases hb : v.getLsbD 0
  · rw [hb] at hu
    have hu : execQueueRegister v s = .next u := hu
    rw [execQueueRegister, show v &&& ~~~1 = v from and_not_one_of_not hb, h] at hu
    exact Host.Outcome.next.inj hu
  · rw [hb] at hu
    have hu : execQueueUnregister v s = .next u := hu
    rw [execQueueUnregister, show v ||| 1 = v from or_one_of hb, h] at hu
    exact Host.Outcome.next.inj hu

/-! The system view's scalar registers that `csrw` reaches (R308). -/

theorem csrSet_scratch (s : State) {k : Nat} (hk : k < 16) (v : DWord) : csrSet s (0x810 + k) v = .ok (s.modW fun w => w.setKey (48 + k) v) := by
  interval_cases k <;> rfl

theorem csrWrites_scratch {k : Nat} (hk : k < 16) : csrWrites (BitVec.ofNat 12 (0x810 + k)).toNat true := by
  interval_cases k <;> exact ⟨_, rfl, by decide, rfl⟩

/-- A write of `sys.s48` to `sys.s63` is a write of that scalar register. -/
theorem csrw_scratch {s : State} (h : s.noStep) (hsys : s.w.sys = true) (a : BitVec 6) {k : Nat} (hk : k < 16) :
    ∃ t, exec (.csrw a (BitVec.ofNat 12 (0x810 + k))) s = .next t ∧
      Retires s t (s.w.pc + 4) false fun j => if j = 48 + k then s.getS a else s.w.sVal j := by
  have hn : (BitVec.ofNat 12 (0x810 + k)).toNat = 0x810 + k := Nat.mod_eq_of_lt (by omega)
  have he := exec_csrw (a := a) (csrWrites_scratch hk) (fun _ => hsys)
  rw [hn, csrSet_scratch s hk, State.modW] at he
  have hr := retires_advance s h 4 (s.w.setKey (48 + k) (s.getS a)).s (s.w.setKey (48 + k) (s.getS a)).sret
  rw [← Wave.setKey_eq] at hr
  refine ⟨_, he, fun j => (hr.1 j).trans ?_, hr.2⟩
  rw [Wave.sVal_setKey]
  by_cases hj : j = 48 + k <;> simp [hj]

/-! The registers that are not written. -/

theorem csrWrites_of_writable {c : BitVec 12} (h : csrWritable c = true) (hsys : 0x800 ≤ c.toNat) : csrWrites c.toNat true := by
  obtain ⟨m, hm, hro⟩ := (csrWritable_iff c).mp h
  exact ⟨m, hm, hro, by rw [csrSys, decide_eq_true hsys, Bool.true_or]⟩

theorem csrCheck_not_writable (s : State) {c : BitVec 12} (h : csrWritable c = false) : csrCheck s c.toNat true = trap .illegal 0 := by
  cases hm : csrMode c.toNat with
  | none => exact csrCheck_none hm
  | some m =>
    by_cases hro : m = .ro
    · exact csrCheck_write_readOnly (hro ▸ hm)
    · exact absurd ((csrWritable_iff c).mpr ⟨m, hm, hro⟩) (by rw [h]; decide)

theorem csrWriteSetsTheRegisterClaim : CsrWriteSetsTheRegisterClaim := by
  intro s a h
  have hqreg : csrWrites (0x862 : BitVec 12).toNat true := ⟨_, rfl, by decide, rfl⟩
  refine ⟨fun p hp hne hview => ?_, fun p hp hsys hpriv => ?_, fun hsys hstep => ?_, fun hsys p hp => ?_, fun hsys k hk => ?_, fun hsys p hp => ?_,
    fun hsys hwait u hu => ?_, fun hsys hwait => ?_, fun hsys c hc hnum => ?_, fun c hc => ?_⟩
  · have hw := waveCsrWrite s _ p hp
    refine passes_of_ok ((exec_csrw hw.taken fun hp => hview.resolve_right (by simp [hp])).trans (by rw [hw.set])) ?_ hw.pc hw.regs
    show (p.2.2.stepping && !p.2.2.lstep) = false
    rw [hw.stepping, hw.lstep hne]
    exact h
  · exact csrw_traps (csrCheck_write_priv (hpriv ▸ (waveCsrWrite s _ p hp).taken) hsys)
  · refine passes_of_ok (exec_csrw ⟨_, rfl, by decide, rfl⟩ fun _ => hsys) ?_ rfl rfl
    show (s.w.stepping && _) = false
    rw [hstep, Bool.false_and]
  · have hw := rowCsrWrite s _ p hp
    exact ⟨hw.passes hsys h, fun hbad => hw.traps hsys (by rw [hbad]; decide)⟩
  · exact csrw_scratch h hsys a hk
  · have hw := deviceCsrWrite s _ p hp
    exact ⟨hw.passes hsys h, hw.traps hsys⟩
  · have hset := queueStep_of_not_waits hwait hu
    exact passes_of_same ((exec_csrw hqreg fun _ => hsys).trans (by rw [← hset, ← csrSet_qreg hwait]; rfl)) h (by rw [← hset, State.setQreg_w])
  · exact (exec_csrw hqreg fun _ => hsys).trans (congrArg (finishSeq 4 s) (csrSet_qreg_waits hwait))
  · exact csrw_traps (csrCheck_write_priv (csrWrites_of_writable hc hnum) hsys)
  · exact csrw_traps (csrCheck_not_writable s hc)


/-- Settles O7: every register of the tables is read and written as its row says, and every other number traps. -/
theorem specialRegisterReadAndWrite : Obligations.SpecialRegisterReadAndWrite := ⟨csrReadGivesTheRegisterClaim, csrWriteSetsTheRegisterClaim⟩

end Sys2Proof.Machine

/-! SUPPORT. Divisions, immediates, and transfers of control of the scalar stream (R64 to R69). -/

namespace Sys2Proof.Machine

open Sys2Proof

/-! Divisions (R64). -/

/-- The quotient in the words of the rule; of the least value by -1 it is the least value again. -/
theorem ofInt_tdiv (x y : DWord) : BitVec.ofInt 64 (x.toInt.tdiv y.toInt) = x.sdiv y :=
  BitVec.eq_of_toInt_eq (by rw [BitVec.toInt_ofInt, BitVec.toInt_sdiv])

theorem ofInt_tmod (x y : DWord) : BitVec.ofInt 64 (x.toInt.tmod y.toInt) = x.srem y := by
  rw [← BitVec.toInt_srem, BitVec.ofInt_toInt]

/-- A division by zero traps IDIV0 before its effect; any other writes its value. -/
theorem division_traps_or_completes {i : Instr} {s : State} {d b : BitVec 6} {v v' : DWord}
    (he : exec i s = finishSeq 4 s (need (s.getS b != 0) .idiv0 0 >>= fun _ => .ok (s.setS d v'))) (hv : v' = v) :
    (s.getS b = 0 → Traps i s .idiv0 0) ∧ (s.getS b ≠ 0 → s.noStep → Completes i s d v 4) := by
  refine ⟨fun hb => traps_of_need he (by simp [hb]), fun hb h => completes_of_setS h (he.trans ?_) hv⟩
  rw [need_bind (bne_iff_ne.mpr hb)]

/-- Settles O2: the four divisions are one operation with its own value each. -/
theorem scalarDivisionWritesOrTraps : Obligations.ScalarDivisionWritesOrTraps := by
  intro s d a b
  simp only [divisionOps, List.forall_mem_cons]
  exact ⟨division_traps_or_completes rfl (ofInt_tdiv _ _), division_traps_or_completes rfl rfl, division_traps_or_completes rfl (ofInt_tmod _ _),
    division_traps_or_completes rfl rfl, by simp⟩

/-! Immediates (R20, R21, R65, R66). -/

/-- The value of an immediate that an extension word widens (R21). -/
theorem toInt_immVal_ext (lo : BitVec 13) (p : BitVec 24) : (immVal ⟨lo, some p⟩).toInt = (lo.toNat + p.toInt * 2 ^ 13 : Int) := by
  show ((p ++ lo : BitVec 37).signExtend 64).toInt = _
  rw [BitVec.toInt_signExtend_of_le (by decide), BitVec.toInt_append]
  simp [Int.add_comm, Int.mul_comm]

/-- Settles O3: each operation writes one register and retires, past its extension word where it has one. -/
theorem immediateOperationWritesItsResult : Obligations.ImmediateOperationWritesItsResult := by
  refine ⟨fun _ => rfl, toInt_immVal_ext, fun s d a n i h => ?_⟩
  simp only [immediateOps, constantShifts, List.forall_mem_cons]
  exact ⟨⟨completes_of_setS h rfl rfl, completes_of_setS h rfl rfl, completes_of_setS h rfl rfl, completes_of_setS h rfl rfl,
      completes_of_setS h rfl (by simp [BitVec.slt]), completes_of_setS h rfl (by simp [BitVec.ult]), completes_of_setS h rfl rfl,
      completes_of_setS h rfl rfl, by simp⟩,
    completes_of_setS h rfl rfl, completes_of_setS h rfl rfl, completes_of_setS h rfl rfl, by simp⟩

/-! Transfers of control (R67 to R69). -/

/-- How an instruction that passes control ends, outside a single step, whose effects led to `u` but for what scalar registers hold. -/
theorem retires_jump (u : State) (h : u.noStep) (t : DWord) (f : Sparse DWord) (r : List (Nat × DWord)) :
    Retires u (({ u with w := { u.w with s := f, sret := r } } : State).jump t).retire t true ({ u.w with s := f, sret := r } : Wave).sVal := by
  have he := State.retire_eq (({ u with w := { u.w with s := f, sret := r } } : State).jump t) h
  rw [he]
  exact ⟨fun _ => rfl, rfl⟩

/-- A register write and the place where control goes next, as the instruction leaves them. -/
theorem retires_setS {s : State} (h : s.noStep) (d : BitVec 6) (v : DWord) :
    (∀ t, Retires s ((s.setS d v).jump t).retire t true (s.regSet d v)) ∧
      ∀ len, Retires s ((s.setS d v).advance len).retire (s.w.pc + dw len) false (s.regSet d v) := by
  constructor
  · intro t
    have hr := retires_jump s h t (s.setS d v).w.s (s.setS d v).w.sret
    rw [← State.setS_eq_registers] at hr
    exact ⟨fun k => (hr.1 k).trans (s.setS_sVal d v k), hr.2⟩
  · intro len
    have hr := retires_advance s h len (s.setS d v).w.s (s.setS d v).w.sret
    rw [← State.setS_eq_registers] at hr
    exact ⟨fun k => (hr.1 k).trans (s.setS_sVal d v k), hr.2⟩

theorem branch_passes {i : Instr} {s : State} {c : Bool} {o : Imm} {p : Prop} (h : s.noStep)
    (he : exec i s = finish s (.ok (if c then s.jump (s.w.pc + 4 * immVal o) else s.advance (immLen o)))) (hc : c = true ↔ p) :
    ∃ t, exec i s = .next t ∧ (p → Retires s t (s.w.pc + 4 * immVal o) true s.w.sVal) ∧
      (¬ p → Retires s t (s.w.pc + dw (if o.ext.isSome then 8 else 4)) false s.w.sVal) := by
  refine ⟨_, he, fun hp => ?_, fun hp => ?_⟩
  · rw [if_pos (hc.mpr hp)]
    exact retires_jump s h _ s.w.s s.w.sret
  · rw [if_neg fun hb => hp (hc.mp hb)]
    exact retires_advance s h _ s.w.s s.w.sret

theorem branchPassesControlOnItsConditionClaim : BranchPassesControlOnItsConditionClaim := by
  intro s a b o h
  simp only [branches, List.forall_mem_cons]
  exact ⟨branch_passes h rfl beq_iff_eq, branch_passes h rfl bne_iff_ne, branch_passes h rfl (by simp [BitVec.slt]),
    branch_passes h rfl (by simp [BitVec.slt]), branch_passes h rfl (by simp [BitVec.ult]), branch_passes h rfl (by simp [BitVec.ult]), by simp⟩

theorem jumpCallAndLoopPassControlClaim : JumpCallAndLoopPassControlClaim := by
  intro s d a o i h
  refine ⟨⟨_, rfl, retires_jump s h _ s.w.s s.w.sret⟩, ⟨_, rfl, (retires_setS h 63 _).1 _⟩, ⟨fun hal => ?_, fun hal => ?_⟩, _, rfl, fun hn => ?_,
    fun hn => ?_⟩
  · refine ⟨_, ?_, (retires_setS h d _).1 _⟩
    show finish s (need _ _ _ >>= fun _ => _) = _
    rw [need_bind (beq_iff_eq.mpr hal)]
    rfl
  · show finish s (need _ _ _ >>= fun _ => _) = _
    rw [need_bind_false (beq_false_of_ne hal)]
    rfl
  · rw [if_pos (bne_iff_ne.mpr hn)]
    exact (retires_setS h a _).1 _
  · rw [if_neg fun hb => bne_iff_ne.mp hb hn]
    exact (retires_setS h a _).2 _

/-- Settles O4: every transfer ends in a jump or in sequence, with the registers that a write of its link or count leaves. -/
theorem controlTransferPassesControl : Obligations.ControlTransferPassesControl :=
  ⟨branchPassesControlOnItsConditionClaim, jumpCallAndLoopPassControlClaim⟩

end Sys2Proof.Machine

/-! SUPPORT. The waiting instructions (R76 to R79, R137, R211) and the lane commands at issue (R72, R137, R170, R171, R244, R256, R257). -/

namespace Sys2Proof.Machine

open Sys2Proof

/-! Waits. -/

/-- A wait whose condition does not hold ends its instruction. -/
theorem ready_bind_false {α : Type} {b : Bool} {f : Unit → Res α} (h : b = false) : (ready b >>= f) = .error .wait := by
  subst h
  rfl

theorem ready_bind {α : Type} {b : Bool} {f : Unit → Res α} (h : b = true) : (ready b >>= f) = f () := by
  subst h
  rfl

/-- A part that has ended goes on with what follows it. -/
theorem ok_bind {α β : Type} {r : Res α} {x : α} {f : α → Res β} (h : r = .ok x) : (r >>= f) = f x := by
  subst h
  rfl

theorem error_bind {α β : Type} {r : Res α} {h : Halt} {f : α → Res β} (hr : r = .error h) : (r >>= f) = .error h := by
  subst hr
  rfl

/-- With lane work left, the wait of R76 does not end. -/
theorem State.lanesWait_of_work {s : State} (h : s.w.lanesDone = false) : s.lanesWait = .error .wait :=
  ready_bind_false h

/-- A scalar instruction that waits leaves the mark of its wave alone. -/
theorem exec_waits {i : Instr} {s : State} {len : Nat} {r : Res State} (he : exec i s = finishSeq len s r) (hr : r = .error .wait) :
    exec i s = .next { s with w := { s.w with blocked := true } } := by
  subst hr
  exact he

/-! What lanes hold (R77). -/

/-- m0 is set in every lane, so the mask register alone counts. -/
theorem lanesSet_eq (w : Wave) (k : BitVec 3) : lanesSet w k = (List.range w.lanes).countP fun L => w.mBit k.toNat L := by
  refine List.countP_congr fun L hL => ?_
  have h0 : w.mBit 0 L = true := by simpa [Wave.mBit] using hL
  rw [h0, Bool.true_and]

theorem lanesSet_zero (w : Wave) : lanesSet w 0 = w.lanes := by
  have h0 : ∀ L ∈ List.range w.lanes, w.mBit 0 L = true := fun L hL => by simpa [Wave.mBit] using hL
  rw [lanesSet_eq]
  exact (List.countP_eq_length.mpr h0).trans List.length_range

/-- `lany` counts none exactly where no lane has the bit. -/
theorem lanesSet_eq_zero (w : Wave) (k : BitVec 3) : lanesSet w k = 0 ↔ ¬ someLane w k := by
  rw [lanesSet_eq, List.countP_eq_zero]
  simp [someLane]

/-- `lall` counts as many as there are lanes exactly where each has the bit. -/
theorem lanesSet_eq_all (w : Wave) (k : BitVec 3) : lanesSet w k = lanesSet w 0 ↔ everyLane w k := by
  have hall := List.countP_eq_length (p := fun L => w.mBit k.toNat L) (l := List.range w.lanes)
  rw [List.length_range] at hall
  rw [lanesSet_zero, lanesSet_eq, hall]
  simp [everyLane]

/-- Once the lanes have ended, an instruction that waits for them and writes one register completes. -/
theorem completes_of_lanesWait {i : Instr} {s : State} {d : BitVec 6} {v v' : DWord} {len : Nat} (h : s.noStep) (hw : s.lanesWait = .ok ())
    (he : exec i s = finishSeq len s (s.lanesWait >>= fun _ => .ok (s.setS d v'))) (hv : v' = v) : Completes i s d v len :=
  completes_of_setS h (he.trans (by rw [ok_bind hw])) hv

/-- The same behind a check of the instruction's own. -/
theorem completes_of_need_lanesWait {i : Instr} {s : State} {d : BitVec 6} {v : DWord} {len : Nat} {b : Bool} {c : Cause} (h : s.noStep)
    (hw : s.lanesWait = .ok ()) (he : exec i s = finishSeq len s (need b c 0 >>= fun _ => s.lanesWait >>= fun _ => .ok (s.setS d v)))
    (hb : b = true) : Completes i s d v len :=
  completes_of_lanesWait h hw (he.trans (by rw [need_bind hb])) rfl

/-- Settles O8: each reads the lanes once they have ended, and `lany`, `lall` and `lcount` are counts of one mask. -/
theorem waitingInstructionReadsLaneState : Obligations.WaitingInstructionReadsLaneState := by
  intro s d a k n m f h hw
  refine ⟨fun hs => ?_, fun hs => ?_, fun hs => ?_, fun hs => ?_, ?_, fun hn => ?_, fun hsc => ?_, fun hf => ?_⟩
  · exact completes_of_lanesWait h hw rfl (if_neg fun h0 => (lanesSet_eq_zero s.w k).mp h0 hs)
  · exact completes_of_lanesWait h hw rfl (if_pos ((lanesSet_eq_zero s.w k).mpr hs))
  · exact completes_of_lanesWait h hw rfl (if_pos ((lanesSet_eq_all s.w k).mpr hs))
  · exact completes_of_lanesWait h hw rfl (if_neg fun h0 => hs ((lanesSet_eq_all s.w k).mp h0))
  · exact completes_of_lanesWait h hw rfl (congrArg dw ((lanesSet_eq s.w k).trans List.countP_eq_length_filter))
  · exact completes_of_need_lanesWait h hw rfl (decide_eq_true hn)
  · refine passes_of_same (u := s) ?_ h rfl
    show finishSeq 4 s (s.lanesWait >>= fun _ => scatterWait s >>= fun _ => .ok s) = _
    rw [ok_bind hw, ok_bind hsc]
  · exact completes_of_need_lanesWait h hw rfl (decide_eq_true hf)

/-! Waiting instructions that wait (R76, R211). -/

theorem waitingInstructionWaitsClaim : WaitingInstructionWaitsClaim := by
  intro s d k h
  simp only [List.forall_mem_cons]
  exact ⟨exec_waits rfl (error_bind (State.lanesWait_of_work h)), exec_waits rfl (error_bind (State.lanesWait_of_work h)),
    exec_waits rfl (error_bind (State.lanesWait_of_work h)), exec_waits rfl (error_bind (State.lanesWait_of_work h)), by simp⟩

/-- Once the lanes and the scatter queues have ended, a fence is what stands behind those waits. -/
theorem exec_fence {s : State} (hw : s.lanesWait = .ok ()) (hsc : scatterWait s = .ok ()) (k : BitVec 2) (sc : BitVec 3) :
    exec (.fence k sc) s = finishSeq 4 s ((if k = 1 then .ok () else releaseWait s) >>= fun _ => (if k = 3 then fullWait s else .ok ()) >>= fun _ =>
      let t := if k = 1 then s else s.release sc.toNat
      .ok (if k = 3 then t.freshen else if k = 2 then t else t.acquire sc.toNat)) := by
  show execFence k sc s = _
  rw [execFence, ok_bind hw, ok_bind hsc]
  split_ifs <;> rfl

theorem releaseWaitsForAcknowledgementsClaim : ReleaseWaitsForAcknowledgementsClaim := by
  intro s k sc hw hsc
  refine ⟨fun hk hack => exec_waits (exec_fence hw hsc k sc) ?_, fun hack hfl => exec_waits (exec_fence hw hsc 3 sc) ?_⟩
  · rw [if_neg hk]
    exact ready_bind_false hack
  · rw [if_neg (by decide), if_pos rfl, releaseWait, ready_bind hack]
    exact ready_bind_false (by simpa using hfl)

/-- Settles O17: the wait stands before every effect, and leaves the mark alone. -/
theorem waitingInstructionWaits : Obligations.WaitingInstructionWaits := ⟨waitingInstructionWaitsClaim, releaseWaitsForAcknowledgementsClaim⟩

end Sys2Proof.Machine

/-! SUPPORT. What a translated access leaves (R195, R347, R349), and the lane commands at issue (R72, R137, R170, R171, R244, R256, R257). -/

namespace Sys2Proof.Machine

open Sys2Proof

/-! Cores and sectors after a change of one of them. -/

theorem State.coreAt_modCoreAt_eq (s : State) (n m : Nat) (f : Core → Core) :
    (s.modCoreAt n f).coreAt m = if m = n then f (s.coreAt n) else s.coreAt m := look_put ..

theorem State.sector_modSector_eq (s : State) (n m : Nat) (f : Sector → Sector) :
    (s.modSector n f).sector m = if m = n then f (s.sector n) else s.sector m := look_put ..

/-! A translated access (R195). -/

theorem tlbOnly.refl (s : State) : tlbOnly s s := ⟨rfl, fun _ => rfl, fun _ => rfl⟩

theorem tlbOnly.trans {s t u : State} (h : tlbOnly s t) (k : tlbOnly t u) : tlbOnly s u := by
  obtain ⟨hs, hc, hx⟩ := h
  obtain ⟨ks, kc, kx⟩ := k
  refine ⟨ks.trans ?_, fun n => (kc n).trans ?_, fun n => (kx n).trans ?_⟩
  · rw [hs]
  · rw [hc n]
  · rw [hx n]

/-- A part that ends as it began or as another part does. -/
theorem tlbOnly.foldl {α : Type} {f : State → α → State} (hf : ∀ t a, tlbOnly t (f t a)) (l : List α) (s : State) : tlbOnly s (l.foldl f s) :=
  List.foldlRecOn (motive := tlbOnly s) l f (.refl s) fun _ ht a _ => ht.trans (hf _ a)

/-- The wave that acts has no part in it. -/
theorem tlbOnly.withWave {s u : State} (h : tlbOnly s u) (w : Wave) : tlbOnly { s with w := w } { u with w := w } := by
  obtain ⟨hs, hc, hx⟩ := h
  refine ⟨?_, hc, hx⟩
  conv_lhs => rw [hs]

theorem tlbOnly.of_modCoreAt (s : State) (n : Nat) {f : Core → Core}
    (hf : ∀ c, f c = { c with dtlb := (f c).dtlb, ctlb := (f c).ctlb, fills := (f c).fills }) : tlbOnly s (s.modCoreAt n f) := by
  refine ⟨rfl, fun m => ?_, fun _ => rfl⟩
  rw [State.coreAt_modCoreAt_eq]
  split
  next h => rw [h]; exact hf _
  next => rfl

theorem tlbOnly.of_modSector (s : State) (n : Nat) {f : Sector → Sector} (hf : ∀ x, f x = { x with tlb := (f x).tlb, seen := (f x).seen }) :
    tlbOnly s (s.modSector n f) := by
  refine ⟨rfl, fun _ => rfl, fun m => ?_⟩
  rw [State.sector_modSector_eq]
  split
  next h => rw [h]; exact hf _
  next => rfl

theorem tlbOnly.pass (s : State) (cls : MsgClass) (src dst : Nat) : tlbOnly s (s.pass cls src dst) := by
  unfold State.pass
  split
  · exact ⟨rfl, fun _ => rfl, fun _ => rfl⟩
  · exact ⟨rfl, fun _ => rfl, fun _ => rfl⟩

theorem tlbOnly.trip (s : State) (src dst : Nat) : tlbOnly s (s.trip src dst) := (tlbOnly.pass ..).trans (.pass ..)

theorem tlbOnly.walkTrips (s : State) (n : Nat) (root : DWord) (va : Nat) : tlbOnly s (s.walkTrips n root va) := by
  unfold State.walkTrips
  split
  · exact .refl s
  · exact .foldl (fun t _ => .trip t ..) ..

theorem tlbOnly.fillTlbAt (s : State) (core : Nat) (code : Bool) (e : TlbEntry) : tlbOnly s (s.fillTlbAt core code e) := by
  unfold State.fillTlbAt
  refine ((tlbOnly.of_modCoreAt _ _ fun c => ?_).trans (.of_modSector _ _ fun _ => rfl)).trans (.of_modSector _ _ fun _ => rfl)
  split <;> rfl

theorem tlbOnly.endWalk (s : State) (core : Nat) (f : Fill) : tlbOnly s (s.endWalk core f) := by
  unfold State.endWalk
  extract_lets same t
  have ht : tlbOnly s t := .walkTrips ..
  split
  · exact ht.trans (.of_modCoreAt _ _ fun _ => rfl)
  · exact (ht.trans (.fillTlbAt ..)).trans (.of_modCoreAt _ _ fun _ => rfl)

/-- Using an address changes TLBs, and what a walk leaves. -/
theorem tlbOnly.touchTlb (s : State) (code : Bool) (va : Nat) : tlbOnly s (s.touchTlb code va) := by
  unfold State.touchTlb
  extract_lets walked
  have hw : tlbOnly s walked := by
    unfold walked
    split
    · split
      · exact .endWalk ..
      · exact .walkTrips ..
    · exact .refl s
  split
  · exact hw.trans (.fillTlbAt ..)
  · exact hw

/-- An access that translates and is permitted has its place. -/
theorem State.access_maps {s : State} {va : DWord} {e : TlbEntry} (h : s.maps va e) {a : Acc} (hp : e.permits a s.w.sys = true) :
    s.access a va = .ok (e.at va.toNat) := by
  obtain ⟨hwait, hmap⟩ := h
  simp only [State.access, hwait, hmap, hp, if_true, Bool.false_eq_true, if_false]

/-! Lane commands at issue (R72). -/

/-- With room in the queue, a lane command takes the next entry. -/
theorem State.enqueueCmd_of_room {s : State} (h : s.w.lqCount < 32) (i : Instr) (c : Cmd) :
    s.enqueueCmd i c = .ok { s with w := s.w.queued i c } := ready_bind (decide_eq_true h)

theorem passes_of_enqueueCmd {i : Instr} {s : State} {c : Cmd} {len : Nat} (hstep : s.noStep) (hroom : s.w.lqCount < 32)
    (he : exec i s = finishSeq len s (s.enqueueCmd i c)) : Passes i s { s with w := s.w.queued i c } len :=
  passes_of_ok (he.trans (by rw [State.enqueueCmd_of_room hroom])) hstep rfl rfl

/-- One that forms an address enters the queue with the place it translates to. -/
theorem passes_of_address {i : Instr} {s : State} {ea : DWord} {n len : Nat} {a : Acc} {c : Loc → Cmd} {e : TlbEntry} (hstep : s.noStep)
    (hroom : s.w.lqCount < 32) (he : exec i s = finishSeq len s
      (need (ea.toNat % n == 0) .align ea >>= fun _ => s.access a ea >>= fun l => (s.touchTlb false ea.toNat).enqueueCmd i (c l)))
    (hmap : s.maps ea e) (hal : ea.toNat % n = 0) (hp : e.permits a s.w.sys = true) :
    ∃ u, Passes i s u len ∧ u.w = s.w.queued i (c (e.at ea.toNat)) ∧ tlbOnly { s with w := u.w } u := by
  have hw : (s.touchTlb false ea.toNat).w = s.w := s.touchTlb_w ..
  refine ⟨{ s.touchTlb false ea.toNat with w := s.w.queued i (c (e.at ea.toNat)) }, passes_of_ok (he.trans ?_) hstep rfl rfl, rfl,
    (tlbOnly.touchTlb s false ea.toNat).withWave _⟩
  rw [need_bind (beq_iff_eq.mpr hal), ok_bind (State.access_maps hmap hp), State.enqueueCmd_of_room (by rw [hw]; exact hroom), hw]

theorem addressCommands_pass {s : State} {a : BitVec 6} {i : Imm} {e : TlbEntry} (hstep : s.noStep) (hroom : s.w.lqCount < 32)
    (hmap : s.maps (s.getS a + immVal i) e) (n : BitVec 4) (q : BitVec 3) :
    ∀ x ∈ addressCommands s n q a i (e.at (s.getS a + immVal i).toNat), (s.getS a + immVal i).toNat % x.2.1 = 0 →
      e.permits x.2.2.1 s.w.sys = true → ∃ u, Passes x.1 s u (if i.ext.isSome then 8 else 4) ∧ u.w = s.w.queued x.1 x.2.2.2.2 ∧
        tlbOnly { s with w := u.w } u := by
  simp only [addressCommands, List.forall_mem_cons]
  exact ⟨passes_of_address (c := fun l => .dLd n.toNat _ l) hstep hroom rfl hmap, passes_of_address (c := fun l => .dSt n.toNat l) hstep hroom rfl hmap,
    passes_of_address (c := fun l => .srBind q.toNat _ l s.w.sys) hstep hroom rfl hmap, by simp⟩

/-- How an instruction ends that writes one register and whose other effects have led to `u`, which stands at its place with its registers. -/
theorem completesIn_of_setS {i : Instr} {s u : State} {d : BitVec 6} {v : DWord} {len : Nat}
    (he : exec i s = finishSeq len s (.ok (u.setS d v))) (hstep : u.noStep) (hpc : u.w.pc = s.w.pc) (hsys : u.w.sys = s.w.sys)
    (hval : u.w.sVal = s.w.sVal) : CompletesIn i s u d v len := by
  have hr := (retires_setS hstep d v).2 len
  have hset : u.regSet d v = s.regSet d v := by
    funext k
    rw [State.regSet, State.regSet, hsys, hval]
  rw [hpc, hset] at hr
  exact ⟨_, he, hr⟩

/-- A copy command takes its ticket with its entry (R244). -/
theorem copyIssue_completes {i : Instr} {s : State} {kind : CopyKind} {d a b : BitVec 6} {n : BitVec 4} {c : BitVec 3} (hstep : s.noStep)
    (hroom : s.w.lqCount < 32) (he : exec i s = copyIssue kind i d a b n c s) :
    ∃ u, CompletesIn i s u d (dw s.w.ticket) 4 ∧
      u.w = { s.w.queued i (.copy { kind := kind, ticket := s.w.ticket, base := s.getS a, view := s.getS b, dn := n.toNat, circ := c
                                    sys := s.w.sys }) with
              ticket := s.w.ticket + 1, ops := u.w.ops, s := u.w.s, sret := u.w.sret } ∧
      u = { s with w := u.w } ∧
      ∃ o : CopyOp, u.w.ops = s.w.ops ++ [o] ∧ o.cmd.ticket = s.w.ticket ∧ o.cmd.kind = kind ∧ o.accepted = false ∧ o.done = false := by
  have hx := fun cmd => ok_bind (f := fun u : State => (Except.ok ((u.modW fun w => { w with
      ticket := w.ticket + 1
      ops := w.ops ++ [{ cmd := cmd, desc := 0, accepted := false, todo := [], fault := none, held := none, done := false }] }).setS
      d (dw s.w.ticket)) : Res State)) (State.enqueueCmd_of_room hroom i (.copy cmd))
  rw [copyIssue, hx] at he
  exact ⟨_, completesIn_of_setS he hstep rfl rfl rfl, rfl, rfl, _, rfl, rfl, rfl, rfl, rfl⟩

/-- Settles O10: each enters the queue behind its own checks, and a translated one leaves the TLBs as well. -/
theorem laneCommandTakesAQueueEntry : Obligations.LaneCommandTakesAQueueEntry := by
  intro s d a b n m q c p f i hstep hroom
  refine ⟨?_, fun e hmap => addressCommands_pass hstep hroom hmap n q, fun hf hv => ?_, fun hp => ?_, fun hp hlo hhi => ?_, ?_⟩
  · simp only [plainCommands, List.forall_mem_cons]
    exact ⟨passes_of_enqueueCmd hstep hroom rfl, passes_of_enqueueCmd hstep hroom rfl, by simp⟩
  · refine passes_of_enqueueCmd hstep hroom ?_
    show finishSeq 4 s (need _ _ _ >>= fun _ => need _ _ _ >>= fun _ => _) = _
    rw [need_bind (decide_eq_true hf), need_bind hv]
  · refine passes_of_enqueueCmd hstep hroom ?_
    show finishSeq 4 s (need _ _ _ >>= fun _ => _) = _
    rw [need_bind (decide_eq_true hp)]
  · refine passes_of_enqueueCmd hstep hroom ?_
    have hv : BitVec.ofInt 10 (s.getS a).toInt = (s.getS a).setWidth 10 := BitVec.signExtend_eq_setWidth_of_le _ (by decide)
    rw [← hv]
    show finishSeq 4 s (need _ _ _ >>= fun _ => need _ _ _ >>= fun _ => _) = _
    rw [need_bind (decide_eq_true hp), need_bind (by simp [hlo, hhi])]
  · simp only [copyCommands, List.forall_mem_cons]
    exact ⟨copyIssue_completes hstep hroom rfl, copyIssue_completes hstep hroom rfl, copyIssue_completes hstep hroom rfl,
      copyIssue_completes hstep hroom rfl, copyIssue_completes hstep hroom rfl, by simp⟩

end Sys2Proof.Machine

/-! SUPPORT. Reset (R375), the other scalar instructions that complete in sequence (R82, R98, R100, R107, R108, R300, R303, R323, R324), and the end of a
wave (R81). -/

namespace Sys2Proof.Machine

open Sys2Proof

/-- Settles O46: every map of the reset state is empty, so each value is its default. -/
theorem resetLeavesTheManualsValues : Obligations.ResetLeavesTheManualsValues := by
  have hempty (k : Nat) : look 0 ([] : Sparse Nat) k < 2 ^ 40 := Nat.two_pow_pos 40
  refine ⟨rfl, rfl, rfl, rfl, fun n => ⟨?_, rfl, rfl, rfl, rfl, rfl, rfl, rfl, rfl, rfl, rfl, rfl, rfl, rfl, rfl, rfl⟩,
    ⟨rfl, rfl, rfl, fun e he => absurd he List.not_mem_nil⟩, hempty, hempty⟩
  have hw : State.reset.wave n = {} := ite_self _
  rw [hw]

/-! What a retired instruction leaves. -/

/-- A retired instruction leaves its own effects but for the pc, the scalar registers and the wave's marks and counts. -/
theorem Retires.frame {u t : State} {pc : DWord} {j : Bool} {val : Nat → DWord} (h : Retires u t pc j val) :
    t.w.pc = pc ∧ t.w.qended = u.w.qended ∧ t = { u with w := t.w } ∧ sameWave u.w t.w := by
  obtain ⟨-, ht⟩ := h
  generalize t.w.s = f, t.w.sret = r at ht
  subst ht
  exact ⟨rfl, rfl, rfl, by simp [sameWave, Wave.retired]⟩

theorem sameWave.trans {w t u : Wave} (h : sameWave w t) (k : sameWave t u) : sameWave w u := by
  unfold sameWave at h k ⊢
  simp only [k, h, and_self]

theorem sameWave.refl (w : Wave) : sameWave w w := by simp [sameWave]

theorem sameBytes.refl (s : State) : sameBytes s s := ⟨fun _ => rfl, fun _ => rfl, fun _ => rfl, rfl, rfl⟩

/-- What the statements ask of an instruction that writes no scalar register and keeps the wave and every byte. -/
theorem Passes.frame {i : Instr} {s u : State} {len : Nat} (h : Passes i s u len) (hw : sameWave s.w u.w) (hb : sameBytes s u) :
    ∃ t, exec i s = .next t ∧ t.w.pc = s.w.pc + dw len ∧ t = { u with w := t.w } ∧ sameBytes s t ∧ sameWave s.w t.w ∧
      ∀ j, t.w.sVal j = s.w.sVal j := by
  obtain ⟨t, he, hr⟩ := h
  obtain ⟨hpc, -, ht, hsame⟩ := hr.frame
  refine ⟨t, he, hpc, ht, ?_, hw.trans hsame, hr.1⟩
  rw [ht]
  exact hb

/-! The other scalar instructions (R82, R84, R98, R100, R107, R108, R300, R303, R323, R324). -/

/-- The cycle counter advances, and stays at its largest value (R82). -/
theorem rdcyc_completes {s : State} (d : BitVec 6) (hstep : s.noStep) : ∃ c : DWord, s.core.cycle.toNat ≤ c.toNat ∧
    CompletesIn (.rdcyc d) s { s with free := s.free + 1, cores := put {} s.cores s.w.core { s.core with cycle := c } } d c 4 := by
  have hlt := s.core.cycle.isLt
  refine ⟨dw (min (2 ^ 64 - 1) (s.core.cycle.toNat + Config.stepCycles s.free)), ?_, completesIn_of_setS ?_ hstep rfl rfl rfl⟩
  · rw [dw, BitVec.toNat_ofNat, Nat.mod_eq_of_lt (by omega)]
    omega
  · have hcycle : s.passCycles.2.core.cycle = dw (min (2 ^ 64 - 1) (s.core.cycle.toNat + Config.stepCycles s.free)) :=
      congrArg Core.cycle (State.coreAt_modCoreAt ..)
    show finishSeq 4 s (.ok (s.passCycles.2.setS d s.passCycles.2.core.cycle)) = _
    rw [hcycle]
    rfl

/-- A wave that holds no counts delivers none (R106). -/
theorem State.deliver_of_nil {s : State} (h : s.w.counts = []) : s.deliver = s := by
  have hw : ({ s.w with counts := [] } : Wave) = s.w := by rw [← h]
  rw [State.deliver, h]
  exact congrArg (fun w => { s with w := w }) hw

/-- A task after a change of it, where the change keeps its number. -/
theorem State.taskOf_modTask {s : State} {n : Nat} {x : Task} {f : Task → Task} (h : s.taskOf n = some x) (hf : ∀ t, (f t).id = t.id) :
    (s.modTask n f).taskOf n = some (f x) := by
  have hid : x.id = n := beq_iff_eq.mp (List.find?_some (p := fun t : Task => t.id == n) h)
  have hsame : ((fun t : Task => t.id == n) ∘ fun t => if t.id = n then f t else t) = fun t => t.id == n := by
    funext t
    dsimp only [Function.comp_apply]
    split
    · rw [hf]
    · rfl
  show (s.tasks.map _).find? _ = _
  rw [List.find?_map, hsame]
  show (s.taskOf n).map _ = _
  rw [h, Option.map_some, if_pos hid]

/-- `phase.end` marks the task of the wave's crew (R303). -/
theorem phaseEnd_marks {s : State} (hstep : s.noStep) {c : Crew} {x : Task} (hc : inCrew s c) (hx : s.taskOf c.task = some x) :
    ∃ t, exec .phaseEnd s = .next t ∧ t.w.pc = s.w.pc + 4 ∧ (t.taskOf c.task).map Task.marked = some true ∧ sameBytes s t ∧ t.ctxs = s.ctxs ∧
      sameWave s.w t.w ∧ ∀ j, t.w.sVal j = s.w.sVal j := by
  have he : exec .phaseEnd s = finishSeq 4 s (.ok (s.modTask c.task fun t => { t with marked := true })) := by
    show execPhaseEnd s = _
    rw [execPhaseEnd, hc]
  obtain ⟨t, hexec, hpc, ht, hb, hw, hval⟩ := (passes_of_same he hstep rfl).frame (.refl _) (.refl _)
  refine ⟨t, hexec, hpc, ?_, hb, (congrArg State.ctxs ht :), hw, hval⟩
  rw [ht]
  exact congrArg (Option.map Task.marked) (State.taskOf_modTask (f := fun t => { t with marked := true }) hx fun _ => rfl)

/-- `xcnt` and `xclr` read and clear one counter of the wave's set, once earlier counts have been added (R107, R108). -/
theorem counter_read_and_cleared {s : State} (hstep : s.noStep) (hl : s.lanesWait = .ok ()) (hc : s.w.counts = []) (d : BitVec 6) (f : BitVec 4)
    (k : BitVec 2) :
    Completes (.xcnt d k f) s d (dw (look 0 s.counters (s.w.cset * 64 + f.toNat * 4 + k.toNat))) 4 ∧
      ∃ t, exec (.xclr k f) s = .next t ∧ t.w.pc = s.w.pc + 4 ∧ look 0 t.counters (s.w.cset * 64 + f.toNat * 4 + k.toNat) = 0 ∧
        (∀ j, j ≠ s.w.cset * 64 + f.toNat * 4 + k.toNat → look 0 t.counters j = look 0 s.counters j) ∧ sameBytes s t ∧ sameWave s.w t.w ∧
          ∀ j, t.w.sVal j = s.w.sVal j := by
  have hd := State.deliver_of_nil hc
  constructor
  · refine completes_of_setS hstep ?_ rfl
    show execXcnt d k f s = _
    rw [execXcnt, ok_bind hl, hd]
    rfl
  · have he : exec (.xclr k f) s = finishSeq 4 s (.ok { s with counters := put 0 s.counters (cntKey s.w.cset f.toNat k.toNat) 0 }) := by
      show execXclr k f s = _
      rw [execXclr, ok_bind hl, hd]
    obtain ⟨t, hexec, hpc, ht, hb, hw, hval⟩ := (passes_of_same he hstep rfl).frame (.refl _) (.refl _)
    have hput : t.counters = put 0 s.counters (cntKey s.w.cset f.toNat k.toNat) 0 := (congrArg State.counters ht :)
    refine ⟨t, hexec, hpc, ?_, fun j hj => ?_, hb, hw, hval⟩
    · rw [hput]
      exact look_put_self ..
    · rw [hput]
      exact look_put_ne _ _ _ hj

theorem otherScalarInstructionsCompleteClaim : OtherScalarInstructionsCompleteClaim := by
  intro s d f k i hstep
  refine ⟨rdcyc_completes d hstep, fun hi => ?_, fun hr => ?_, fun hr => ?_, fun c x hc hx => phaseEnd_marks hstep hc hx, fun hsys hst => ?_,
    fun hl hc => counter_read_and_cleared hstep hl hc d f k⟩
  · refine completes_of_setS hstep ?_ rfl
    show finishSeq 4 s (need _ _ _ >>= fun _ => _) = _
    rw [need_bind (decide_eq_true hi)]
  · refine passes_of_same (u := s) ?_ hstep rfl
    show finishSeq 4 s (.ok (if s.repro then s.endQuantum else s)) = _
    rw [hr]
    rfl
  · have he : exec .qnt s = finishSeq 4 s (.ok s.endQuantum) := by
      show finishSeq 4 s (.ok (if s.repro then s.endQuantum else s)) = _
      rw [if_pos hr]
    obtain ⟨t, hexec, hret⟩ := passes_of_ok he (u := s.endQuantum) hstep rfl rfl
    obtain ⟨hpc, hq, ht, -⟩ := hret.frame
    exact ⟨t, hexec, hpc, hq, ht⟩
  · refine passes_of_ok (u := { s with w := { s.w with stepArmed := true } }) ?_ hstep rfl rfl
    show finishSeq 4 s (need _ _ _ >>= fun _ => _) = _
    rw [need_bind hsys]
    rfl

/-- The scale words of 1.0 and of a NaN, with each tag (R98). -/
theorem scaleWord_one_and_nan (t : BitVec 2) : (scaleWord .rne false t.toNat 0x3F800000).bits = 0x3F800000 + t.toNat ∧
    (scaleWord .rne false t.toNat 0x7FC00001).bits = 0x7FC00000 + t.toNat := by
  revert t
  decide

theorem scaleWordOfAScalarClaim : ScaleWordOfAScalarClaim := by
  intro s d a t hstep
  obtain ⟨hone, hnan⟩ := scaleWord_one_and_nan t
  refine ⟨completes_of_setS hstep rfl rfl, fun ha => completes_of_setS hstep rfl ?_, fun ha => completes_of_setS hstep rfl ?_⟩
  · rw [ha]
    exact congrArg dw hone
  · rw [ha]
    exact congrArg dw hnan

/-- Settles O24: each completes in sequence with an effect of its own. -/
theorem otherScalarInstructionsComplete : Obligations.OtherScalarInstructionsComplete :=
  ⟨otherScalarInstructionsCompleteClaim, scaleWordOfAScalarClaim⟩

/-! The end of a wave (R81). -/

theorem State.Delivers.deliverCore (s : State) (core : Nat) : s.Delivers (s.deliverCore core) :=
  foldl_inv (P := s.Delivers) (State.deliverWave core) s.waveIds s ⟨_, _, _, _, rfl⟩ fun t n ht => ht.trans (.deliverWave t core n)

/-- The wave that acts delivers what it holds and is the same otherwise. -/
theorem State.deliverCore_w (s : State) (core : Nat) : (s.deliverCore core).w = s.w.emptied ∨ (s.deliverCore core).w = s.w := by
  obtain ⟨_, _, _, _, hd⟩ := State.Delivers.deliverCore s core
  have hwid : (s.deliverCore core).wid = s.wid := by rw [hd]
  have hw : (s.deliverCore core).wave s.wid = (s.deliverCore core).w := if_pos hwid.symm
  rw [← hw, State.deliverCore_eq, State.wave_deliverWaves, State.wave, if_pos rfl]
  split
  · exact .inl rfl
  · exact .inr rfl

/-- Where every step of R81 has ended, the wave's last check passes. -/
theorem freeCheck_ok {s : State} (hlife : s.w.life = .exiting) (hreset : s.core.inReset = false) (hrepro : s.repro = false)
    (hl : s.lanesWait = .ok ()) (hsc : scatterWait s = .ok ()) (hsb : s.sbView = []) (hsw : s.w.sweeps = []) (hstq : s.w.stq = [])
    (htrap : s.w.trapping = none) (hpush : s.w.pushWait = none) : freeCheck s = .ok () := by
  have hentries : exitEntries s = .ok () := by
    rw [exitEntries, hsb]
    rfl
  have hsweeps : s.sweepWait (fun _ => true) = .ok () := by
    rw [State.sweepWait, hsw]
    rfl
  have hgone : (s.w.life == .exiting && !s.core.inReset) = true := by rw [hlife, hreset]; rfl
  have hquantum : (!s.repro || (s.w.buf.isEmpty && s.w.ret.isNone && !s.w.qused)) = true := by rw [hrepro]; rfl
  rw [freeCheck, ready_bind hgone, ok_bind hl, ok_bind hsc, ready_bind hquantum, ok_bind hentries, ok_bind hsweeps, hstq, htrap, hpush]
  rfl

/-- Settles O25: `exit` changes its wave alone, and a freed wave keeps only what its crew needs. -/
theorem exitEndsTheWave : Obligations.ExitEndsTheWave := by
  intro s
  refine ⟨fun h => ?_, fun hlife hreset hrepro hl hsc hsb hsw hstq htrap hpush => ?_, fun hlife => ?_⟩
  · have hgo : ¬ (s.w.sys && !s.w.lanesDone) = true := by
      rcases h with h | h
      · simp [h]
      · simp [h]
    refine ⟨_, if_neg hgo, rfl, fun hsys => ?_, fun hsys => ?_, fun _ => rfl, rfl, rfl⟩
    · exact if_pos hsys
    · exact if_neg (by simp [hsys])
  · have hfree := freeCheck_ok hlife hreset hrepro hl hsc hsb hsw hstq htrap hpush
    have he : exec .waveFree s = .next ((s.deliverCore s.w.core).modW Wave.freed) := by
      show execWaveFree s = _
      rw [execWaveFree, hfree]
    refine ⟨_, he, rfl, rfl, rfl, rfl, ?_⟩
    rw [State.modW_w]
    have hb := (State.Delivers.deliverCore s s.w.core).sameBytes
    rcases s.deliverCore_w s.w.core with hw | hw
    · rw [hw]
      exact ⟨rfl, rfl, rfl, hb⟩
    · rw [hw]
      exact ⟨rfl, rfl, rfl, hb⟩
  · have hwait : freeCheck s = .error .wait := ready_bind_false (by simp [hlife])
    show execWaveFree s = _
    rw [execWaveFree, hwait]
    simp [hlife]

end Sys2Proof.Machine

/-! SUPPORT. Taking a trap (R310 to R313): what entry leaves of the wave, in the order of its parts, and what the kill of a crew leaves. -/

namespace Sys2Proof.Machine

open Sys2Proof

/-! The parts of trap entry (R310, R311). -/

/-- The lane side once entry has let its results return (R118, R121), freed a run that has executed all its slots, and applied the resets whose
place is reached (R72, R130). -/
def Wave.drained (w : Wave) (kind : Nat) : Wave := (if kind = 1 then w.clearPending else w.clearPending.popDone).applyResets

/-- The wave's waits and its single step end. -/
def Wave.released (w : Wave) (c : Cause) : Wave :=
  let w := { w.dropPush c with parked := none, trapping := none, blocked := false, barWait := none, wdog := 0, sbGrant := 0, issued := false }
  if w.stepping then { w with stepping := false, stepArmed := false, stepWait := false } else w

/-- The wave runs its handler, with the entries of its queue set aside (R310, R312). -/
def Wave.handling (w : Wave) (vec : DWord) : Wave :=
  { w with aside := w.lq.map Entry.untraced, lq := [], sys := true, pc := vec, jumped := true, life := .running }

theorem Wave.applyResets_eq (w : Wave) : w.applyResets = { w with rng := w.applyResets.rng, lq := w.applyResets.lq } := by
  unfold Wave.applyResets
  split <;> rfl

theorem Wave.drained_eq (w : Wave) (kind : Nat) : w.drained kind =
    { w with v := (w.drained kind).v, pend := [], unch := (w.drained kind).unch, rng := (w.drained kind).rng, lq := (w.drained kind).lq } := by
  unfold Wave.drained
  rw [Wave.applyResets_eq]
  split
  · rfl
  · rw [Wave.popDone_eq]
    rfl

/-- The reset has its place at the head exactly where dropping the resets there shortens the queue. -/
theorem applyResets_queue (w : Wave) : w.applyResets.lq = w.lq.dropWhile Entry.isReset ∧
    w.applyResets.rng = if (w.lq.dropWhile Entry.isReset).length < w.lq.length then [] else w.rng := by
  have hle (l : List Entry) : (l.dropWhile Entry.isReset).length ≤ l.length := (List.dropWhile_sublist _).length_le
  unfold Wave.applyResets
  cases hq : w.lq with
  | nil => exact ⟨hq, by simp⟩
  | cons e rest =>
    cases he : e.isReset
    · simp [he, hq]
    · have := hle rest
      simp [he, Nat.lt_succ_of_le this]

/-- A finished run at the head goes, whatever else the wave holds. -/
theorem Wave.popDone_congr {w t : Wave} (h : t.lq = w.lq) : t.popDone.lq = w.popDone.lq ∧ t.popDone.rng = t.rng := by
  unfold Wave.popDone
  rw [h]
  split
  · split
    · exact ⟨rfl, rfl⟩
    · exact ⟨h, rfl⟩
  · exact ⟨h, rfl⟩

theorem Wave.leftAside_congr {w t : Wave} (h : t.lq = w.lq) (kind : Nat) : t.leftAside kind = w.leftAside kind := by
  unfold Wave.leftAside
  rw [h, (Wave.popDone_congr h).1]

/-- What entry leaves in the lane queue, and of the `rng` counters (R72, R130). -/
theorem drained_queue (w : Wave) (kind : Nat) : (w.drained kind).lq = w.leftAside kind ∧
    (w.drained kind).rng = if (w.leftAside kind).length < (if kind = 1 then w.lq else w.popDone.lq).length then [] else w.rng := by
  obtain ⟨hlq, hrng⟩ := Wave.popDone_congr (w := w) (t := w.clearPending) rfl
  have hrng : w.clearPending.popDone.rng = w.rng := hrng
  unfold Wave.drained Wave.leftAside
  by_cases hk : kind = 1
  · simp only [if_pos hk]
    exact applyResets_queue _
  · simp only [if_neg hk]
    rw [← hlq, ← hrng]
    exact applyResets_queue _

theorem Wave.dropPush_eq (w : Wave) (c : Cause) : w.dropPush c = { w with
    s := (w.dropPush c).s, sret := (w.dropPush c).sret, pushWait := none
    pushAt := (w.pushWait.map fun p => { pc := w.pc, push := p, again := c == .watchdog }) <|> w.pushAt } := by
  unfold Wave.dropPush
  cases hp : w.pushWait with
  | none =>
    have hw : ({ w with pushWait := none } : Wave) = w := by rw [← hp]
    exact hw.symm
  | some p =>
    dsimp only
    split
    · rw [Wave.setKey_eq]
      rfl
    · rfl

/-- The scalar registers once a `task.push` is dropped: WATCHDOG alone gives its register back (R280, R325). -/
theorem Wave.dropPush_sVal (w : Wave) (c : Cause) (k : Nat) : (w.dropPush c).sVal k = match w.pushWait with
    | some p => if c = .watchdog ∧ k = p.d ∧ k ≠ 0 then p.old else w.sVal k
    | none => w.sVal k := by
  unfold Wave.dropPush
  cases hp : w.pushWait with
  | none => rfl
  | some p =>
    show (if c = .watchdog then w.setKey p.d p.old else w).sVal k = _
    by_cases hc : c = .watchdog
    · rw [if_pos hc, Wave.sVal_setKey]
      by_cases hk : k = p.d
      · simp [hc, hk]
      · simp [hk]
    · simp [hc]

theorem Wave.released_eq (w : Wave) (c : Cause) : w.released c = { w.dropPush c with
    parked := none, trapping := none, blocked := false, barWait := none, wdog := 0, sbGrant := 0, issued := false, stepping := false
    stepArmed := (w.released c).stepArmed, stepWait := (w.released c).stepWait } := by
  have hkept {t : Wave} (h : ¬ t.stepping = true) : t = { t with stepping := false } := by rw [← Bool.eq_false_iff.mpr h]
  unfold Wave.released
  dsimp only
  split
  next => rfl
  next h => exact hkept h

theorem Wave.overrun_eq (w : Wave) : w.overrun = { w with qexp := w.overrun.qexp, qagain := w.overrun.qagain } := by
  unfold Wave.overrun
  split <;> rfl

/-- `t` is `w` but for the marks of the quantum, and for the counts of the queue's entries (R294, R295). -/
def Wave.Recounted (w t : Wave) : Prop :=
  t = { w with qcount := t.qcount, qlane := t.qlane, qexp := t.qexp, qheld := t.qheld, qagain := t.qagain, qbefore := t.qbefore
               qended := t.qended, qahead := t.qahead, qused := t.qused, lq := t.lq } ∧ t.lq.map Entry.plain = w.lq.map Entry.plain

theorem Wave.Recounted.refl (w : Wave) : w.Recounted w := ⟨rfl, rfl⟩

theorem Wave.Recounted.trans {w t u : Wave} (h : w.Recounted t) (k : t.Recounted u) : w.Recounted u := by
  obtain ⟨ht, hq⟩ := h
  obtain ⟨hu, hq'⟩ := k
  refine ⟨hu.trans ?_, hq'.trans hq⟩
  rw [ht]

theorem map_rebase_plain (n : Nat) (l : List Entry) : (l.map (Entry.rebase n)).map Entry.plain = l.map Entry.plain := by
  rw [List.map_map]
  refine List.map_congr_left fun e _ => ?_
  cases e <;> rfl

theorem map_untraced_plain (l : List Entry) : (l.map Entry.untraced).map Entry.plain = l.map Entry.plain := by
  rw [List.map_map]
  refine List.map_congr_left fun e _ => ?_
  cases e <;> rfl

theorem Entry.untraced_traceless (e : Entry) : e.untraced.traceless := by cases e <;> trivial

theorem Wave.trapQuantum_recounts (w : Wave) (scalar committing : Bool) : w.Recounted (w.trapQuantum scalar committing) := by
  unfold Wave.trapQuantum
  extract_lets stays w1 next ends w2 p
  have h1 : w.Recounted w1 := by
    unfold w1
    split
    · exact ⟨rfl, map_rebase_plain ..⟩
    · exact .refl w
  have h2 : w1.Recounted w2 := by
    unfold w2
    split <;> exact ⟨rfl, rfl⟩
  have hover (t : Wave) : t.Recounted t.overrun := by
    unfold Wave.overrun
    split <;> exact ⟨rfl, rfl⟩
  exact (h1.trans h2).trans (.trans ⟨rfl, map_rebase_plain ..⟩ (hover _))

/-! Entry into the handler (R310 to R312). -/

/-- The wave where a trap of the user view enters, up to the quantum's counts. -/
def Wave.entered (w : Wave) (kind : Nat) (c : Cause) (fva at' : DWord) (word : BitVec 96) : Wave :=
  ((({ w with swTaken := false } : Wave).drained kind).released c).loadTrap kind c fva at' word

theorem State.untakeSweep_eq (s : State) :
    s.untakeSweep = { s with w := { s.w with swTaken := false }, cores := s.untakeSweep.cores } := by
  unfold State.untakeSweep
  split
  · rfl
  next h =>
    have hw : ({ s.w with swTaken := false } : Wave) = s.w := by rw [← Bool.eq_false_iff.mpr h]
    rw [hw]

/-- A trap of the user view with a handler changes its wave, and what cores hold of it. -/
theorem State.enterTrap_user {s : State} (hsys : s.w.sys = false) (kind : Nat) (c : Cause) (fva at' : DWord) (word : BitVec 96) {vec : DWord}
    (hvec : vec ≠ 0) : ∃ w, (s.w.entered kind c fva at' word).Recounted w ∧ (s.enterTrap kind c fva at' word vec).w = w.handling vec ∧
      s.enterTrap kind c fva at' word vec =
        { s with w := (s.enterTrap kind c fva at' word vec).w, cores := (s.enterTrap kind c fva at' word vec).cores } := by
  have hu := s.untakeSweep_eq
  unfold State.enterTrap
  rw [hu]
  dsimp only
  rw [if_neg (by rw [hsys]; decide), if_neg hvec]
  exact ⟨_, Wave.trapQuantum_recounts _ _ _, rfl, rfl⟩

/-- The wave that has entered, but for what the equation below says of each field. -/
theorem Wave.entered_eq (w : Wave) (kind : Nat) (c : Cause) (fva at' : DWord) (word : BitVec 96) : w.entered kind c fva at' word =
    let t := w.entered kind c fva at' word
    { w with
      s := t.s, sret := t.sret, v := t.v, pend := [], unch := t.unch, rng := t.rng, lq := t.lq, parked := none, trapping := none
      blocked := false, barWait := none, wdog := 0, sbGrant := 0, issued := false, swTaken := false, stepping := false
      stepArmed := t.stepArmed, stepWait := t.stepWait, pushWait := none
      pushAt := (w.pushWait.map fun p => { pc := w.pc, push := p, again := c == .watchdog }) <|> w.pushAt
      kind := BitVec.ofNat 2 kind, cause := dw c.code, firstCause := c, fva := fva, epc := if kind = 2 then at' else w.pc
      elpc := t.elpc, eword := if kind = 0 then 0 else word, rpc := w.pc } := by
  unfold Wave.entered
  rw [Wave.released_eq, Wave.dropPush_eq, Wave.drained_eq]
  rfl

/-- The scalar registers are the user's, but for that of a push which WATCHDOG abandons (R280, R325). -/
theorem Wave.entered_sVal (w : Wave) (kind : Nat) (c : Cause) (fva at' : DWord) (word : BitVec 96) (k : Nat) :
    (w.entered kind c fva at' word).sVal k = match w.pushWait with
      | some p => if c = .watchdog ∧ k = p.d ∧ k ≠ 0 then p.old else w.sVal k
      | none => w.sVal k := by
  let u := ({ w with swTaken := false } : Wave).drained kind
  have hrel : (w.entered kind c fva at' word).sVal k = (u.dropPush c).sVal k := by
    unfold Wave.entered
    rw [Wave.released_eq]
    rfl
  have hu : u.pushWait = w.pushWait ∧ u.sVal k = w.sVal k := by
    unfold u
    rw [Wave.drained_eq]
    exact ⟨rfl, rfl⟩
  rw [hrel, Wave.dropPush_sVal, hu.1, hu.2]

/-- The queue that entry sets aside, the counters that it resets, and where the lane stream stood (R72, R130, R311). -/
theorem Wave.entered_lane (w : Wave) (kind : Nat) (c : Cause) (fva at' : DWord) (word : BitVec 96) :
    (w.entered kind c fva at' word).lq = w.leftAside kind ∧
    (w.entered kind c fva at' word).rng =
      (if (w.leftAside kind).length < (if kind = 1 then w.lq else w.popDone.lq).length then [] else w.rng) ∧
    (w.entered kind c fva at' word).elpc =
      if kind = 0 then ({ w with lq := w.leftAside 0 } : Wave).resume else if kind = 1 then at' else 0 := by
  let u := ({ w with swTaken := false } : Wave).drained kind
  obtain ⟨hlq, hrng⟩ := drained_queue { w with swTaken := false } kind
  rw [Wave.leftAside_congr (w := w) (t := { w with swTaken := false }) rfl] at hlq hrng
  rw [(Wave.popDone_congr (w := w) (t := { w with swTaken := false }) rfl).1] at hrng
  have hq : (u.released c).lq = w.leftAside kind ∧ (u.released c).rng = u.rng := by
    rw [Wave.released_eq, Wave.dropPush_eq]
    exact ⟨hlq, rfl⟩
  refine ⟨hq.1, hq.2.trans hrng, ?_⟩
  show (if kind = 0 then (u.released c).resume else _) = _
  split
  next hk =>
    unfold Wave.resume
    rw [hq.1, hk]
  next => rfl

theorem Wave.entered_entersFrom {w t : Wave} {kind : Nat} {c : Cause} {fva at' : DWord} {word : BitVec 96} {vec : DWord}
    (h : (w.entered kind c fva at' word).Recounted t) : entersFrom c w (t.handling vec) := by
  obtain ⟨ht, -⟩ := h
  constructor
  · intro k
    refine Eq.trans ?_ (w.entered_sVal kind c fva at' word k)
    rw [ht]
    rfl
  · rw [ht, Wave.entered_eq]
    rfl

theorem userTrapEntersTheHandlerClaim : UserTrapEntersTheHandlerClaim := by
  intro s kind c fva at' word vec hkind hsys hvec
  refine ⟨fun hbusy => State.raise_eq s kind c fva at' word (by rw [hbusy]; rfl), ?_⟩
  obtain ⟨w, hw, htw, ht⟩ := State.enterTrap_user hsys kind c fva at' word hvec
  have hfrom := Wave.entered_entersFrom (vec := vec) hw
  obtain ⟨hlq, hrng, helpc⟩ := s.w.entered_lane kind c fva at' word
  obtain ⟨hweq, hplain⟩ := hw
  have hregs : w.rpc = s.w.pc ∧ w.kind = BitVec.ofNat 2 kind ∧ w.cause = dw c.code ∧ w.fva = fva ∧ w.pend = [] ∧
      w.epc = (if kind = 2 then at' else s.w.pc) ∧ w.eword = (if kind = 0 then 0 else word) := by
    rw [hweq, Wave.entered_eq]
    exact ⟨rfl, rfl, rfl, rfl, rfl, rfl, rfl⟩
  have hlane : w.rng = (s.w.entered kind c fva at' word).rng ∧ w.elpc = (s.w.entered kind c fva at' word).elpc := by
    rw [hweq]
    exact ⟨rfl, rfl⟩
  obtain ⟨hrpc, hk, hcause, hfva, hpend, hepc, heword⟩ := hregs
  dsimp only
  rw [htw]
  refine ⟨hfrom, rfl, hrpc, ?_, hcause, hfva, ?_, ?_, hlane.1.trans hrng, fun h0 => ?_, fun h1 => ?_, fun h2 => ?_, hpend, htw ▸ ht⟩
  · rw [Wave.handling, hk]
    exact Nat.mod_eq_of_lt (by omega)
  · exact (map_untraced_plain w.lq).trans (hplain.trans (congrArg (List.map Entry.plain) hlq))
  · intro e he
    obtain ⟨x, -, rfl⟩ := List.mem_map.mp he
    exact x.untraced_traceless
  · subst h0
    exact ⟨hepc, hlane.2.trans helpc, heword⟩
  · subst h1
    exact ⟨hepc, hlane.2.trans helpc, heword⟩
  · subst h2
    exact ⟨hepc, hlane.2.trans helpc, heword⟩

/-! The kill of a crew (R279, R313). -/

@[simp] theorem State.killWave_crews (s : State) (n : Nat) : (s.killWave n).crews = s.crews := State.setWave_crews ..
@[simp] theorem State.killWave_events (s : State) (n : Nat) : (s.killWave n).events = s.events := State.setWave_events ..

theorem State.wave_killWave (s : State) (m n : Nat) : (s.killWave m).wave n = if n = m then (s.wave n).kill else s.wave n := by
  refine (State.wave_setWave s m n (s.wave m).kill).trans ?_
  split
  next h => rw [h]
  next => rfl

/-- The waves of a list are killed, and no other. -/
theorem State.wave_killWaves (n : Nat) (l : List Nat) (s : State) :
    (l.foldl State.killWave s).wave n = if n ∈ l then (s.wave n).kill else s.wave n := by
  induction l generalizing s with
  | nil => simp
  | cons m r ih =>
    have hkill (w : Wave) : w.kill.kill = w.kill := rfl
    rw [List.foldl_cons, ih, State.wave_killWave]
    by_cases hm : n = m
    · simp [hm, hkill]
    · simp [hm]

/-- What a kill may change: waves, what cores hold of them, the marks of crews, and records. -/
def State.Kills (s t : State) : Prop :=
  ∃ w others cores crews events, t = { s with w := w, others := others, cores := cores, crews := crews, events := events }

theorem State.Kills.trans {s t u : State} (h : s.Kills t) (k : t.Kills u) : s.Kills u := by
  obtain ⟨_, _, _, _, _, rfl⟩ := h
  obtain ⟨_, _, _, _, _, rfl⟩ := k
  exact ⟨_, _, _, _, _, rfl⟩

theorem State.Kills.killWave (s : State) (n : Nat) : s.Kills (s.killWave n) := by
  unfold State.killWave State.modWave State.setWave
  dsimp only
  split
  · exact ⟨_, _, _, _, _, rfl⟩
  · exact ⟨_, _, _, _, _, rfl⟩

theorem State.Kills.killWaves (s : State) (l : List Nat) : s.Kills (l.foldl State.killWave s) :=
  foldl_inv (P := s.Kills) State.killWave l s ⟨_, _, _, _, _, rfl⟩ fun t n ht => ht.trans (.killWave t n)

theorem State.Kills.killCrew (s : State) (id : Nat) (c1 c2 : Cause) (epc elpc : DWord) : s.Kills (s.killCrew id c1 c2 epc elpc) := by
  unfold State.killCrew
  split
  · exact ⟨_, _, _, _, _, rfl⟩
  next c _ => exact (State.Kills.killWaves s c.waves).trans ⟨_, _, _, _, _, rfl⟩

/-- The crews after one of them has been marked. -/
theorem crewOf_map_killed {s u : State} {id : Nat} {k : Crew} (h : s.crewOf id = some k)
    (hu : u.crews = s.crews.map fun x => if x.id = id then { x with killed := true } else x) : u.crewOf id = some { k with killed := true } := by
  have hid : k.id = id := beq_iff_eq.mp (List.find?_some (p := fun c : Crew => c.id == id) h)
  have hsame : ((fun c : Crew => c.id == id) ∘ fun x => if x.id = id then { x with killed := true } else x) = fun c => c.id == id := by
    funext c
    dsimp only [Function.comp_apply]
    split <;> rfl
  rw [State.crewOf, hu, List.find?_map, hsame]
  show (s.crewOf id).map _ = _
  rw [h, Option.map_some, if_pos hid]

/-- A crew that is there: its waves are killed, it is marked, and its sector reports it. -/
theorem State.killCrew_of_crew {s : State} {id : Nat} {k : Crew} (h : s.crewOf id = some k) (c1 c2 : Cause) (epc elpc : DWord) :
    (∀ n, (s.killCrew id c1 c2 epc elpc).wave n = if n ∈ k.waves then (s.wave n).kill else s.wave n) ∧
      (s.killCrew id c1 c2 epc elpc).crewOf id = some { k with killed := true } ∧ oneRecord s (s.killCrew id c1 c2 epc elpc) 1 k.sector := by
  have hcrews : (k.waves.foldl State.killWave s).crews = s.crews :=
    foldl_inv (P := fun t => t.crews = s.crews) State.killWave k.waves s rfl fun t n ht => (t.killWave_crews n).trans ht
  have hevents : (k.waves.foldl State.killWave s).events = s.events :=
    foldl_inv (P := fun t => t.events = s.events) State.killWave k.waves s rfl fun t n ht => (t.killWave_events n).trans ht
  unfold State.killCrew
  rw [h]
  refine ⟨fun n => State.wave_killWaves n k.waves s, crewOf_map_killed h ?_, oneRecord_emit ?_ ..⟩
  · exact congrArg (List.map _) hcrews
  · exact hevents

/-- A trap that nothing can handle kills its crew, from a state that differs in the wave and in what cores hold of it (R313). -/
theorem State.raise_kills {s : State} (kind : Nat) (c : Cause) (fva at' : DWord) (word : BitVec 96)
    (h : s.w.sys = true ∨ (s.w.trapBusy = false ∧ s.row.vec = 0)) :
    ∃ (u : State) (c1 c2 : Cause) (epc elpc : DWord), u = { s with w := u.w, cores := u.cores } ∧
      s.raise kind c fva at' word = u.killCrew s.w.crew c1 c2 epc elpc := by
  have hnow : (s.w.trapBusy && !s.w.sys) = false := by
    rcases h with h | ⟨h, -⟩
    · rw [h, Bool.not_true, Bool.and_false]
    · rw [h, Bool.false_and]
  have hends : s.endsWalks c fva = { s with cores := (s.endsWalks c fva).cores } := by
    unfold State.endsWalks
    split <;> rfl
  rw [State.raise_eq s kind c fva at' word hnow, hends]
  cases hsys : s.w.sys
  · have hvec : s.row.vec = 0 := by
      rcases h with h | ⟨-, h⟩
      · rw [hsys] at h
        exact absurd h (by decide)
      · exact h
    unfold State.enterTrap
    rw [State.untakeSweep_eq]
    dsimp only
    rw [if_neg (by rw [hsys]; decide), if_pos hvec]
    have hcrew : ((({ s.w with swTaken := false } : Wave).drained kind).released c).crew = s.w.crew := by
      rw [Wave.released_eq, Wave.dropPush_eq, Wave.drained_eq]
    exact ⟨_, _, _, _, _, rfl, congrArg (fun n => State.killCrew _ n _ _ _ _) hcrew⟩
  · rw [State.enterTrap_sys { s with cores := (s.endsWalks c fva).cores } kind c fva at' word _ hsys, State.untakeSweep_eq]
    exact ⟨_, _, _, _, _, rfl, rfl⟩

theorem unhandledTrapKillsTheCrewClaim : UnhandledTrapKillsTheCrewClaim := by
  intro s kind c fva at' word k hk h
  obtain ⟨u, c1, c2, epc, elpc, hu, ht⟩ := State.raise_kills kind c fva at' word h
  have huk : u.crewOf s.w.crew = some k := by
    rw [hu]
    exact hk
  obtain ⟨hwaves, hcrew, hrecord⟩ := State.killCrew_of_crew huk c1 c2 epc elpc
  have hframe : s.Kills (u.killCrew s.w.crew c1 c2 epc elpc) :=
    State.Kills.trans ⟨_, _, _, _, _, hu⟩ (.killCrew ..)
  dsimp only
  rw [ht]
  refine ⟨fun n hn => ?_, ?_, ?_, ?_, ?_, ?_, ?_, ?_⟩
  · rw [hwaves, if_pos hn]
    exact ⟨rfl, rfl, rfl⟩
  case refine_7 => rw [hcrew]; rfl
  case refine_8 =>
    rw [oneRecord, hu] at hrecord
    rw [hu]
    exact hrecord
  all_goals
    obtain ⟨_, _, _, _, _, hframe⟩ := hframe
    rw [hframe]

/-! A trap that waits (R184, R310). -/

theorem trapWaitsForSweepsClaim : TrapWaitsForSweepsClaim := by
  intro s x hsys
  refine ⟨fun hbusy hvec => ?_, fun htrap hbusy => ?_, fun htrap hbusy => ?_⟩
  · have hw := s.endsWalks_w x.cause x.fva
    have hrow : (s.endsWalks x.cause x.fva).row = s.row := by
      unfold State.endsWalks
      split <;> rfl
    have hheld : ((s.endsWalks x.cause x.fva).w.trapBusy && !(s.endsWalks x.cause x.fva).w.sys) = true := by rw [hw, hbusy, hsys]; rfl
    unfold State.raise
    dsimp only
    rw [if_pos hheld, hrow, ← hvec, State.modW, hw]
  · show execTrapEntry s = _
    rw [execTrapEntry, htrap]
    dsimp only
    rw [if_pos hbusy]
  · show execTrapEntry s = _
    rw [execTrapEntry, htrap]
    dsimp only
    rw [if_neg (by rw [hbusy]; decide)]

/-- Settles O5: the parts of entry, the kill of a crew, and the wait, each from its own equations. -/
theorem trapEntryFollowsItsSteps : Obligations.TrapEntryFollowsItsSteps :=
  ⟨userTrapEntersTheHandlerClaim, unhandledTrapKillsTheCrewClaim, trapWaitsForSweepsClaim⟩

end Sys2Proof.Machine

/-! SUPPORT. Scalar loads (R62, R188, R193, R197, R224): the bytes that a load takes, what it leaves of the caches, and its result on its way. -/

namespace Sys2Proof.Machine

open Sys2Proof

/-! Accesses that fill caches. -/

theorem cachesOnly.refl (s : State) : cachesOnly s s := ⟨rfl, fun _ => rfl, fun _ => rfl⟩

theorem cachesOnly.trans {s t u : State} (h : cachesOnly s t) (k : cachesOnly t u) : cachesOnly s u := by
  obtain ⟨hs, hc, hx⟩ := h
  obtain ⟨ks, kc, kx⟩ := k
  refine ⟨ks.trans ?_, fun n => (kc n).trans ?_, fun n => (kx n).trans ?_⟩
  · rw [hs]
  · rw [hc n]
  · rw [hx n]

theorem tlbOnly.cachesOnly {s u : State} (h : tlbOnly s u) : cachesOnly s u := by
  obtain ⟨hs, hc, hx⟩ := h
  refine ⟨?_, fun n => ?_, hx⟩
  · rw [hs]
  · rw [hc n]

theorem cachesOnly.withWave {s u : State} (h : cachesOnly s u) (w : Wave) : cachesOnly { s with w := w } { u with w := w } := by
  obtain ⟨hs, hc, hx⟩ := h
  refine ⟨?_, hc, hx⟩
  conv_lhs => rw [hs]

/-- The wave that acts has no part in it. -/
theorem cachesOnly.w {s u : State} (h : cachesOnly s u) : u.w = s.w := by
  obtain ⟨hs, -⟩ := h
  rw [hs]

theorem cachesOnly.of_modCoreAt (s : State) (n : Nat) {f : Core → Core}
    (hf : ∀ c, f c = { c with dtlb := (f c).dtlb, ctlb := (f c).ctlb, l1 := (f c).l1, ro := (f c).ro, fills := (f c).fills }) :
    cachesOnly s (s.modCoreAt n f) := by
  refine ⟨rfl, fun m => ?_, fun _ => rfl⟩
  rw [State.coreAt_modCoreAt_eq]
  split
  next h => rw [h]; exact hf _
  next => rfl

theorem cachesOnly.trip (s : State) (src dst : Nat) : cachesOnly s (s.trip src dst) := (tlbOnly.trip ..).cachesOnly

theorem cachesOnly.exchange (s : State) (write : Bool) (src dst : Nat) : cachesOnly s (s.exchange write src dst) := by
  unfold State.exchange
  split
  · exact ((tlbOnly.pass ..).trans (.pass ..)).cachesOnly
  · exact .trip ..

theorem cachesOnly.atomTrip (s : State) (core : Nat) (l : Loc) : cachesOnly s (s.atomTrip core l) := by
  unfold State.atomTrip State.exchangeAt
  split
  · exact .exchange ..
  · exact .exchange ..
  · exact .refl s

theorem cachesOnly.l1Room (s : State) (core k : Nat) : cachesOnly s (s.l1Room core k) := by
  unfold State.l1Room
  extract_lets c ws
  split
  · exact .refl s
  split
  · exact .refl s
  have ht : cachesOnly s (s.pick ws.length).2 := ⟨rfl, fun _ => rfl, fun _ => rfl⟩
  show cachesOnly s (match ws[(s.pick ws.length).1]? with
    | some (true, x) => (s.pick ws.length).2.modCoreAt core fun c => { c with ro := c.ro.filter fun y => y != x }
    | some (false, x) => (s.pick ws.length).2.modCoreAt core fun c => { c with l1 := drop c.l1 x }
    | none => (s.pick ws.length).2)
  split
  · exact ht.trans (.of_modCoreAt _ _ fun _ => rfl)
  · exact ht.trans (.of_modCoreAt _ _ fun _ => rfl)
  · exact ht

theorem cachesOnly.sendCopy (s : State) (core : Nat) (l : Loc) : cachesOnly s (s.sendCopy core l) := by
  unfold State.sendCopy
  extract_lets line slice near
  split
  · exact .refl s
  split
  · exact ⟨rfl, fun _ => rfl, fun _ => rfl⟩
  · exact .refl s

theorem cachesOnly.fillL1 (s : State) (l : Loc) : cachesOnly s (s.fillL1 l) := by
  unfold State.fillL1
  split
  · exact (((cachesOnly.trip ..).trans (.l1Room ..)).trans (.of_modCoreAt _ _ fun _ => rfl)).trans (.sendCopy ..)
  · exact .refl s

/-- A load from a device or a host place gives the bytes of the load-store path, and leaves caches (R193, R197). -/
theorem State.load_of_near {s : State} {l : Loc} {n : Nat} (hkind : l.kind ≠ .peer) (hopen : (s.fromHome l n && !s.missOpen s.w.core l) = false)
    (hpoison : s.poisoned l n = false) (va : DWord) : ∃ t, s.load va l n = .ok (s.lsLe l l.addr n, t) ∧ cachesOnly s t := by
  unfold State.load
  split
  next h => exact absurd h hkind
  rw [hopen, hpoison]
  refine ⟨_, rfl, ?_⟩
  have ht : cachesOnly s (s.touchTlb false va.toNat) := (tlbOnly.touchTlb ..).cachesOnly
  split
  · exact ht.trans (.fillL1 ..)
  split
  · exact ht.trans (.atomTrip ..)
  · exact ht

/-! A result on its way (R62). -/

/-- A register whose result is on its way reads as that result, and no other changes. -/
theorem State.sendS_sVal (s : State) (d : BitVec 6) (v : DWord) (k : Nat) : (s.sendS d v).w.sVal k = s.regSet d v k := by
  unfold State.sendS State.regSet
  dsimp only [State.modW_w]
  by_cases hd : sKey s.w.sys d = 0
  · rw [if_pos hd, if_neg]
    rintro ⟨hk, h0⟩
    exact h0 (hk.trans hd)
  · rw [if_neg hd]
    unfold Wave.sVal
    by_cases h0 : k = 0
    · simp [h0]
    · by_cases hk : k = sKey s.w.sys d
      · subst hk
        simp [h0]
      · simp [h0, hk, Ne.symm hk, find?_filter_ne _ _ _ hk]

theorem State.sendS_w (s : State) (d : BitVec 6) (v : DWord) : (s.sendS d v).w = { s.w with sret := (s.sendS d v).w.sret } := by
  unfold State.sendS
  dsimp only [State.modW_w]
  split <;> rfl

/-- How an instruction ends that sends its result on its way and whose other effects have led to `u`. -/
theorem completesIn_of_sendS {i : Instr} {s t : State} {d : BitVec 6} {v : DWord} {len : Nat} (he : exec i s = finishSeq len s (.ok (t.sendS d v)))
    (hstep : s.noStep) (hw : t.w = s.w) : CompletesIn i s (t.sendS d v) d v len := by
  have hsend := t.sendS_w d v
  have hnext : (t.sendS d v).noStep ∧ (t.sendS d v).w.pc = s.w.pc := by
    rw [State.noStep, hsend, hw]
    exact ⟨hstep, rfl⟩
  have hset : (t.sendS d v).w.sVal = s.regSet d v := by
    funext k
    rw [State.sendS_sVal, State.regSet, State.regSet, hw]
  have hr := retires_advance (t.sendS d v) hnext.1 len (t.sendS d v).w.s (t.sendS d v).w.sret
  rw [hnext.2] at hr
  exact ⟨_, he, fun k => (hr.1 k).trans (congrFun hset k), hr.2⟩

/-- Each scalar load, by its bytes and its extension. -/
theorem scalarLoad_completes {i : Instr} {s : State} {d a : BitVec 6} {im : Imm} {e : TlbEntry} {n : Nat} {signed : Bool} {v : DWord}
    (hi : exec i s = scalarLoad n signed d a im s) (hstep : s.noStep) (hrepro : reproWait s = .ok ()) (hmap : s.maps (s.getS a + immVal im) e)
    (hperm : e.permits .load s.w.sys = true) (hkind : (e.at (s.getS a + immVal im).toNat).kind ≠ .peer) (hal : (s.getS a + immVal im).toNat % n = 0)
    (hopen : (s.fromHome (e.at (s.getS a + immVal im).toNat) n && !s.missOpen s.w.core (e.at (s.getS a + immVal im).toNat)) = false)
    (hpoison : s.poisoned (e.at (s.getS a + immVal im).toNat) n = false)
    (hv : extend n signed (s.lsLe (e.at (s.getS a + immVal im).toNat) (e.at (s.getS a + immVal im).toNat).addr n) = v) :
    ∃ u, CompletesIn i s u d v (if im.ext.isSome then 8 else 4) ∧ cachesOnly { s with w := u.w } u ∧ u.w = { s.w with sret := u.w.sret } := by
  obtain ⟨t, hload, ht⟩ := State.load_of_near hkind hopen hpoison (s.getS a + immVal im)
  have he : exec i s = finishSeq (immLen im) s (.ok (t.sendS d v)) := by
    rw [hi, scalarLoad, ok_bind hrepro]
    show finishSeq _ s (need ((s.getS a + immVal im).toNat % n == 0) .align (s.getS a + immVal im) >>= fun _ =>
      s.access .load (s.getS a + immVal im) >>= fun l => s.load (s.getS a + immVal im) l n >>= fun r => .ok (r.2.sendS d (extend n signed r.1))) = _
    rw [need_bind (beq_iff_eq.mpr hal), ok_bind (State.access_maps hmap hperm), ok_bind hload, ← hv]
  refine ⟨_, completesIn_of_sendS he hstep ht.w, ht.withWave _, ?_⟩
  rw [State.sendS_w, ht.w]

theorem scalarLoadSendsTheBytesClaim : ScalarLoadSendsTheBytesClaim := by
  intro s d a i e hstep hrepro ea l hmap hperm hkind
  simp only [scalarLoads, List.forall_mem_cons]
  exact ⟨fun ha ho hp => scalarLoad_completes rfl hstep hrepro hmap hperm hkind ha ho hp rfl,
    fun ha ho hp => scalarLoad_completes rfl hstep hrepro hmap hperm hkind ha ho hp rfl,
    fun ha ho hp => scalarLoad_completes rfl hstep hrepro hmap hperm hkind ha ho hp rfl,
    fun ha ho hp => scalarLoad_completes rfl hstep hrepro hmap hperm hkind ha ho hp rfl,
    fun ha ho hp => scalarLoad_completes rfl hstep hrepro hmap hperm hkind ha ho hp rfl,
    fun ha ho hp => scalarLoad_completes rfl hstep hrepro hmap hperm hkind ha ho hp rfl,
    fun ha ho hp => scalarLoad_completes rfl hstep hrepro hmap hperm hkind ha ho hp rfl, by simp⟩

/-! The youngest byte (R197, R224). -/

/-- What a list of stores adds to a byte that is known so far. -/
def laterByte (l : Loc) (a : Nat) (acc : Option Byte) (e : StoreEntry) : Option Byte :=
  if e.loc.sameSpace l then ((e.cells.find? fun c => c.1 == a).map Prod.snd).or acc else acc

theorem youngest_eq (es : List StoreEntry) (l : Loc) (a : Nat) : youngest es l a = es.foldl (laterByte l a) none := by
  unfold youngest
  congr 1
  funext acc e
  unfold laterByte
  split
  · cases e.cells.find? fun c => c.1 == a <;> rfl
  · rfl

/-- Stores that do not hold the byte add nothing. -/
theorem foldl_laterByte_of_holdsNot {es : List StoreEntry} {l : Loc} {a : Nat} (h : holdsNot es l a) (acc : Option Byte) :
    es.foldl (laterByte l a) acc = acc := by
  induction es generalizing acc with
  | nil => rfl
  | cons e r ih =>
    have he : laterByte l a acc e = acc := by
      unfold laterByte
      split
      next hs =>
        have hnone : (e.cells.find? fun c => c.1 == a) = none :=
          List.find?_eq_none.mpr fun c hc => by simpa using h e List.mem_cons_self hs c hc
        rw [hnone]
        rfl
      next => rfl
    rw [List.foldl_cons, he]
    exact ih (fun x hx => h x (List.mem_cons_of_mem _ hx)) acc

theorem youngest_of_holdsNot {es : List StoreEntry} {l : Loc} {a : Nat} (h : holdsNot es l a) : youngest es l a = none :=
  (youngest_eq ..).trans (foldl_laterByte_of_holdsNot h none)

/-- A store that holds the byte gives it, where no younger one does. -/
theorem youngest_of_split {older younger : List StoreEntry} {e : StoreEntry} {l : Loc} {a : Nat} {b : Byte} (hs : e.loc.sameSpace l = true)
    (hc : (e.cells.find? fun c => c.1 == a) = some (a, b)) (hy : holdsNot younger l a) : youngest (older ++ e :: younger) l a = some b := by
  rw [youngest_eq, List.foldl_append, List.foldl_cons, foldl_laterByte_of_holdsNot hy, laterByte, if_pos hs, hc]
  rfl

/-- A wave with an empty commit buffer takes a byte from its store queue, else from its core's stores under way, else from the path below. -/
theorem State.lsByte_eq {s : State} (hbuf : s.w.buf = []) (l : Loc) (a : Nat) :
    s.lsByte l a = ((youngest s.w.stq l a).or (youngest s.core.inflight l a)).getD (s.pathByte l a) := by
  unfold State.lsByte State.forwarded
  rw [hbuf]
  cases youngest s.w.stq l a <;> rfl

theorem loadForwardsTheYoungestStoreClaim : LoadForwardsTheYoungestStoreClaim := by
  intro s l a hbuf
  rw [State.lsByte_eq hbuf]
  refine ⟨fun older e younger b hq hs hc hy => ?_, fun older e younger b hq hf hs hc hy => ?_, fun hq hf => ?_⟩
  · rw [hq, youngest_of_split hs hc hy]
    rfl
  · rw [youngest_of_holdsNot hq, hf, youngest_of_split hs hc hy]
    rfl
  · rw [youngest_of_holdsNot hq, youngest_of_holdsNot hf]
    show (∀ m, _ → _ → s.pathByte l a = _) ∧ (_ → _ → s.pathByte l a = _) ∧ (_ → s.pathByte l a = _)
    unfold State.pathByte
    refine ⟨fun m hk hm => ?_, fun hk hm => ?_, fun hk => ?_⟩
    · rw [hk, hm]
    · rw [hk, hm]
    · split
      next h => exact absurd h hk
      next => rfl

/-- Settles O12: a load's value is that of the load-store path, which the youngest store of the wave and the core stands before. -/
theorem scalarLoadSendsTheBytes : Obligations.ScalarLoadSendsTheBytes := ⟨scalarLoadSendsTheBytesClaim, loadForwardsTheYoungestStoreClaim⟩

end Sys2Proof.Machine

/-! SUPPORT. What the units of a wave do between its instructions: results that return (R62, R118, R120), runs and commands at the head of the
lane queue (R73, R130, R137, R343), and the counts of the quantum and the watchdog (R295, R325). -/

namespace Sys2Proof.Machine

open Sys2Proof

/-! An element of a list, by its place. -/

/-- A list around the element at a place: what leaving that element out and writing another there give. -/
theorem split_of_getElem? {α : Type} {l : List α} {k : Nat} {x : α} (h : l[k]? = some x) :
    l = l.take k ++ x :: l.drop (k + 1) ∧ l.eraseIdx k = l.take k ++ l.drop (k + 1) ∧ ∀ y, l.set k y = l.take k ++ y :: l.drop (k + 1) := by
  obtain ⟨hk, hx⟩ := List.getElem?_eq_some_iff.mp h
  have hset (y : α) : l.set k y = l.take k ++ y :: l.drop (k + 1) := List.set_eq_take_append_cons_drop.trans (if_pos hk)
  refine ⟨?_, List.eraseIdx_eq_take_drop_succ .., hset⟩
  rw [← hset x, ← hx, List.set_getElem_self]

/-- Leaving out an element that a test rejects does not change what the test finds. -/
theorem find?_eraseIdx {α : Type} {l : List α} {k : Nat} {x : α} {p : α → Bool} (h : l[k]? = some x) (hp : p x = false) :
    (l.eraseIdx k).find? p = l.find? p := by
  obtain ⟨hl, he, -⟩ := split_of_getElem? h
  conv_rhs => rw [hl]
  rw [he, List.find?_append, List.find?_append, List.find?_cons_of_neg (by simp [hp])]

/-- The one element that a test accepts is the one found. -/
theorem find?_of_eraseIdx {α : Type} {l : List α} {k : Nat} {x : α} {p : α → Bool} (h : l[k]? = some x) (hp : p x = true)
    (hrest : ∀ y ∈ l.eraseIdx k, p y = false) : l.find? p = some x := by
  obtain ⟨hl, he, -⟩ := split_of_getElem? h
  rw [he] at hrest
  have hnone : (l.take k).find? p = none := List.find?_eq_none.mpr fun y hy => by simp [hrest y (List.mem_append_left _ hy)]
  rw [hl, List.find?_append, hnone, List.find?_cons_of_pos hp]
  rfl

/-! Results that return. -/

/-- The wave once result `k` on its way has reached its register (R62). -/
def Wave.received (w : Wave) (k key : Nat) (v : DWord) : Wave := { w with s := put 0 w.s key v, sret := w.sret.eraseIdx k }

theorem exec_scalarLoadReturn {s : State} {k key : Nat} {v : DWord} (h : s.w.sret[k]? = some (key, v)) :
    exec (.scalarLoadReturn k) s = .next (s.modW fun w => w.received k key v) := by
  show execScalarLoadReturn k s = _
  rw [execScalarLoadReturn, h]
  rfl

/-- The return of the one result for its register changes no register's value: its reader had it already. -/
theorem Wave.received_sVal {w : Wave} {k key : Nat} {v : DWord} (h : w.sret[k]? = some (key, v)) (hone : ∀ e ∈ w.sret.eraseIdx k, e.1 ≠ key)
    (j : Nat) : (w.received k key v).sVal j = w.sVal j := by
  unfold Wave.sVal Wave.received
  dsimp only
  by_cases h0 : j = 0
  · rw [if_pos h0, if_pos h0]
  rw [if_neg h0, if_neg h0]
  by_cases hj : j = key
  · subst hj
    have hnone : (w.sret.eraseIdx k).find? (fun e => e.1 == j) = none := List.find?_eq_none.mpr fun e he => by simpa using hone e he
    rw [hnone, find?_of_eraseIdx h (beq_self_eq_true j) fun e he => by simpa using hone e he]
    exact look_put_self ..
  · rw [find?_eraseIdx h (by simpa using Ne.symm hj), look_put_ne _ _ _ hj]

/-- The wave once unchecked result `k` has returned its values `es` (R120). -/
def Wave.returned (w : Wave) (k : Nat) (u : Unch) (es : List (Nat × Word)) : Wave :=
  { w with v := putAll 0 w.v es, unch := w.unch.set k { u with returned := true }, laneBlocked := false, blocked := false }

/-- An unchecked result that waits for nothing returns its values, where every younger one is still under way. -/
theorem exec_uncheckedResultReturn {s : State} {k : Nat} {u : Unch} (h : s.w.unch[k]? = some u) (hret : u.returned = false)
    (hheld : u.held = false) (hlate : u.late = []) (hyounger : ∀ x ∈ s.w.unch.drop (k + 1), x.returned = false) :
    let t := s.modW fun w => w.returned k u u.writes
    exec (.uncheckedResultReturn k) s =
      .next (s.w.parked.elim t fun p => if t.w.unch.all (·.returned) then (t.parkDone p.1 p.2).laneStepped else t) := by
  have hnone : (s.w.unch.drop (k + 1)).filter (·.returned) = [] := List.filter_eq_nil_iff.mpr fun x hx => by simp [hyounger x hx]
  show execUncheckedResultReturn k s = _
  rw [execUncheckedResultReturn, h]
  dsimp only
  rw [if_neg (by simp [hret, hheld, hlate]), hnone]
  have hall : (u.writes.filter fun e => !(([] : List Unch).flatMap fun x => x.writes.map (·.1)).contains e.1) = u.writes :=
    List.filter_eq_self.mpr fun _ _ => rfl
  rw [hall]
  split
  next target word hp =>
    have hp : s.w.parked = some (target, word) := hp
    rw [hp]
    rfl
  next hp =>
    have hp : s.w.parked = none := hp
    rw [hp]
    rfl

/-! The end of a park. -/

/-- The wave waits at no marker, and has no result under way and no register pending. -/
def Wave.Unparked (w : Wave) : Prop := w.parked = none ∧ w.pend = [] ∧ w.unch = []

theorem State.killWave_unparked {s : State} (h : s.w.Unparked) (n : Nat) : (s.killWave n).w.Unparked := by
  obtain ⟨hp, hpend, hu⟩ := h
  unfold State.killWave State.modWave State.setWave State.wave
  dsimp only [State.modCoreAt_w]
  split
  · exact ⟨rfl, hpend, rfl⟩
  · exact ⟨hp, hpend, hu⟩

theorem State.killCrew_unparked {s : State} (h : s.w.Unparked) (id : Nat) (c1 c2 : Cause) (epc elpc : DWord) :
    (s.killCrew id c1 c2 epc elpc).w.Unparked := by
  unfold State.killCrew
  split
  · obtain ⟨-, hpend, -⟩ := h
    exact ⟨rfl, hpend, rfl⟩
  · next c _ => exact foldl_inv (P := fun t => t.w.Unparked) State.killWave c.waves s h fun t n ht => State.killWave_unparked ht n

/-- Trap entry keeps the lane side of a wave that has nothing under way. -/
theorem Wave.entered_unparked {w : Wave} (h : w.Unparked) (kind : Nat) (c : Cause) (fva at' : DWord) (word : BitVec 96) :
    (w.entered kind c fva at' word).Unparked := by
  obtain ⟨-, -, hu⟩ := h
  have hdrained : (({ w with swTaken := false } : Wave).drained kind).unch = [] := by
    have hclear : ({ w with swTaken := false } : Wave).clearPending.unch = [] := by rw [Wave.clearPending, hu]; rfl
    unfold Wave.drained
    rw [Wave.applyResets_eq]
    split
    · exact hclear
    · rw [Wave.popDone_eq]
      exact hclear
  have hentered : (w.entered kind c fva at' word).unch = (({ w with swTaken := false } : Wave).drained kind).unch := by
    unfold Wave.entered
    rw [Wave.released_eq, Wave.dropPush_eq]
    rfl
  refine ⟨?_, ?_, hentered.trans hdrained⟩ <;> rw [Wave.entered_eq]

theorem State.enterTrap_unparked {s : State} (h : s.w.Unparked) (kind : Nat) (c : Cause) (fva at' : DWord) (word : BitVec 96) (vec : DWord) :
    (s.enterTrap kind c fva at' word vec).w.Unparked := by
  cases hsys : s.w.sys
  · by_cases hvec : vec = 0
    · unfold State.enterTrap
      rw [State.untakeSweep_eq]
      dsimp only
      rw [if_neg (by rw [hsys]; decide), if_pos hvec]
      exact State.killCrew_unparked (Wave.entered_unparked h kind c fva at' word) ..
    · obtain ⟨w, ⟨hw, -⟩, ht, -⟩ := State.enterTrap_user hsys kind c fva at' word hvec
      obtain ⟨hp, hpend, hu⟩ := Wave.entered_unparked h kind c fva at' word
      rw [ht, hw]
      exact ⟨hp, hpend, hu⟩
  · rw [State.enterTrap_sys s kind c fva at' word vec hsys, State.untakeSweep_eq]
    exact State.killCrew_unparked (s := { s with w := { s.w with swTaken := false }, cores := _ }) h ..

theorem State.raise_unparked {s : State} (h : s.w.Unparked) (kind : Nat) (c : Cause) (fva at' : DWord) (word : BitVec 96) :
    (s.raise kind c fva at' word).w.Unparked := by
  have hw : (s.endsWalks c fva).w.Unparked := by rw [s.endsWalks_w]; exact h
  unfold State.raise
  dsimp only
  split
  · exact hw
  · exact State.enterTrap_unparked hw ..

theorem State.laneStepped_unparked {s : State} (h : s.w.Unparked) : s.laneStepped.w.Unparked := by
  unfold State.laneStepped
  split
  · exact State.raise_unparked h ..
  · exact h

theorem State.SameLanes.laneStepped (s : State) : s.SameLanes s.laneStepped := by
  unfold State.laneStepped
  split
  · exact .raise ..
  · rfl

/-- Where no result carries a fault, the wave goes on after its marker (R118). -/
theorem State.parkDone_unparked {s : State} (herr : ∀ x ∈ s.w.unch, x.err = none) (target : DWord) (word : BitVec 96) :
    (s.parkDone target word).w.Unparked := by
  have hnone : s.w.unch.findSome? (·.err) = none := List.findSome?_eq_none_iff.mpr herr
  unfold State.parkDone
  rw [hnone]
  dsimp only
  split
  · rw [State.modW_w, Wave.popDone_eq]
    exact ⟨rfl, rfl, rfl⟩
  · rw [State.swapPoint_w]
    exact ⟨rfl, rfl, rfl⟩

/-- The last result that a park waits for ends it. -/
theorem uncheckedResultReturn_endsPark {s : State} {k : Nat} {u : Unch} {p : DWord × BitVec 96} (h : s.w.unch[k]? = some u)
    (hret : u.returned = false) (hheld : u.held = false) (hlate : u.late = []) (hyounger : ∀ x ∈ s.w.unch.drop (k + 1), x.returned = false)
    (hp : s.w.parked = some p) (hrest : ∀ x ∈ s.w.unch.eraseIdx k, x.returned = true) (herr : ∀ x ∈ s.w.unch, x.err = none) :
    StepsTo (.uncheckedResultReturn k) s fun t => t.w.parked = none ∧ t.w.pend = [] ∧ t.w.unch = [] ∧ t.w.m = s.w.m := by
  have he := exec_uncheckedResultReturn h hret hheld hlate hyounger
  let t := s.modW fun w => w.returned k u u.writes
  obtain ⟨hl, her, hset⟩ := split_of_getElem? h
  have hunch : t.w.unch = s.w.unch.take k ++ { u with returned := true } :: s.w.unch.drop (k + 1) := hset _
  rw [her] at hrest
  have hall : t.w.unch.all (·.returned) = true := by
    rw [hunch, List.all_append, List.all_cons]
    rw [List.forall_mem_append] at hrest
    simp [List.all_eq_true.mpr hrest.1, List.all_eq_true.mpr hrest.2]
  have hfree : ∀ x ∈ t.w.unch, x.err = none := by
    rw [hl] at herr
    rw [hunch]
    simp only [List.forall_mem_append, List.forall_mem_cons] at herr ⊢
    exact herr
  rw [hp] at he
  refine ⟨_, he.trans (congrArg _ (if_pos hall)), ?_⟩
  have hend := State.laneStepped_unparked (State.parkDone_unparked hfree p.1 p.2)
  have hlanes : s.SameLanes (t.parkDone p.1 p.2).laneStepped :=
    State.SameLanes.trans (t := t) rfl ((State.SameLanes.parkDone t p.1 p.2).trans (.laneStepped _))
  obtain ⟨hparked, hpend, hu⟩ := hend
  exact ⟨hparked, hpend, hu, congrArg Prod.fst hlanes⟩

/-! The head of the lane queue. -/

theorem Wave.setRun_eq {w : Wave} {r : Run} {rest : List Entry} (h : w.lq = .run r :: rest) (x : Run) :
    w.setRun x = { w with lq := .run x :: rest } := by
  unfold Wave.setRun
  rw [h]

/-- What a swap point leaves: the head run's trace mark, and the core's traces in another order (R343). -/
theorem State.swapPoint_run {s : State} {r : Run} {rest : List Entry} (h : s.w.lq = .run r :: rest) :
    (∃ traced, s.swapPoint.w = { s.w with lq := .run { r with traced := traced } :: rest }) ∧
      s.swapPoint = { s with w := s.swapPoint.w, cores := s.swapPoint.cores } := by
  have hsame : s.w = { s.w with lq := .run { r with traced := r.traced } :: rest } := by rw [← h]
  unfold State.swapPoint
  rw [h]
  dsimp only
  split
  · split
    · exact ⟨⟨_, hsame⟩, rfl⟩
    · refine ⟨⟨true, ?_⟩, rfl⟩
      exact Wave.setRun_eq h _
  · exact ⟨⟨_, hsame⟩, rfl⟩

theorem State.trowelRequest_eq (s : State) (a : Nat) (image : BitVec 1024) (cls : Nat) : s.trowelRequest a image cls =
    { s with cores := (s.trowelRequest a image cls).cores, sectors := (s.trowelRequest a image cls).sectors } := by
  unfold State.trowelRequest
  split
  · rfl
  split
  · rfl
  · rfl

/-- The wave once the grid has taken the run at the head of its queue. -/
def Wave.runStarted (w : Wave) (r : Run) (rest : List Entry) : Wave :=
  { w with lq := .run { r with started := true } :: rest, laneBlocked := false }

theorem next_swapPoint_or (c : Prop) [Decidable c] (u : State) :
    (.next (if c then u.swapPoint else u) : Host.Outcome State Fault Refusal) = .next u ∨
      (.next (if c then u.swapPoint else u) : Host.Outcome State Fault Refusal) = .next u.swapPoint := by
  split
  · exact .inr rfl
  · exact .inl rfl

/-- The start of a run changes its mark, what the core and its sector hold of its block, and then may enter a trace (R341, R343). -/
theorem exec_laneRunStart {s : State} {r : Run} {rest : List Entry} (h : s.w.lq = .run r :: rest) (hs : r.started = false) :
    ∃ u : State, u = { s with w := s.w.runStarted r rest, cores := u.cores, sectors := u.sectors } ∧
      (exec .laneRunStart s = .next u ∨ exec .laneRunStart s = .next u.swapPoint) := by
  have hw : { s.w.setRun { r with started := true } with laneBlocked := false } = s.w.runStarted r rest := by
    rw [Wave.setRun_eq h]
    rfl
  have he : exec .laneRunStart s = execLaneRunStart s := rfl
  rw [he]
  unfold execLaneRunStart
  rw [h]
  dsimp only
  rw [if_neg (by simp [hs]), State.modW, hw]
  split
  · refine ⟨_, ?_, next_swapPoint_or _ _⟩
    split
    · rw [State.trowelRequest_eq]
      rfl
    · rfl
  · exact ⟨_, rfl, .inl rfl⟩

theorem laneRunStart_starts {s : State} {r : Run} {rest : List Entry} (h : s.w.lq = .run r :: rest) (hs : r.started = false) :
    StepsTo .laneRunStart s fun t =>
      (∃ traced, t.w = { s.w with lq := .run { r with started := true, traced := traced } :: rest, laneBlocked := false }) ∧
        t = { s with w := t.w, cores := t.cores, sectors := t.sectors } := by
  obtain ⟨u, hu, he⟩ := exec_laneRunStart h hs
  have hq : u.w = s.w.runStarted r rest := by rw [hu]
  rcases he with he | he
  · exact ⟨u, he, ⟨r.traced, hq⟩, by rw [hu]⟩
  · obtain ⟨⟨traced, hw⟩, ht⟩ := u.swapPoint_run (r := { r with started := true }) (rest := rest) (by rw [hq]; rfl)
    refine ⟨_, he, ⟨traced, ?_⟩, ?_⟩
    · rw [hw, hq]
      rfl
    · rw [ht, hu]

/-- A command that is accepted leaves the queue, and nothing else of its end shows outside a single step (R245). -/
theorem finishCmd_accepts {s t : State} {c : Cmd} {rest : List Entry} {r : Res State} (h : s.headCmd c rest) (hr : r = .ok t)
    (hw : t.w = { s.w with d := t.w.d, stq := t.w.stq }) :
    finishCmd s r = .next (t.modW fun w =>
      { w with lq := rest, laneBlocked := false, blocked := false, qused := w.qused || s.repro, qlw := w.qlw || s.repro }) := by
  obtain ⟨⟨a, x, k, hq⟩, hstep⟩ := h
  have htail : t.w.lq.tail = rest := by rw [hw]; exact congrArg List.tail hq
  have hst : (t.w.stepping && t.w.lstep) = false := by rw [hw]; exact hstep
  subst hr
  unfold finishCmd
  rw [hq]
  dsimp only [State.modW]
  rw [htail]
  exact congrArg Host.Outcome.next (if_neg (by rw [hst]; decide))

/-- The descriptor commands, by what the command does at the head of the queue (R137). -/
theorem descriptorCommandApply_accepts {s t : State} {c : Cmd} {rest : List Entry} (h : s.headCmd c rest)
    (hc : exec .descriptorCommandApply s = finishCmd s (descWork s c)) (hr : descWork s c = .ok t)
    (hw : t.w = { s.w with d := t.w.d, stq := t.w.stq }) :
    ∃ u, exec .descriptorCommandApply s = .next u ∧ u = { t with w := u.w } ∧ u.w.lq = rest ∧ u.w.d = t.w.d ∧ u.w.stq = t.w.stq :=
  ⟨_, hc.trans (finishCmd_accepts h hr hw), rfl, rfl, rfl, rfl⟩

/-! The fields of a descriptor (R136, R137). -/

theorem dReg_setD (w : Wave) (n k : Nat) (v : BitVec 128) : (w.setD n v).dReg k = if k = n then v else w.dReg k := look_put ..

theorem dReg_of_setD {u w : Wave} {n : Nat} {x : BitVec 128} (h : u.d = (w.setD n x).d) (k : Nat) :
    u.dReg k = if k = n then x else w.dReg k := by
  rw [← dReg_setD, Wave.dReg, h]
  rfl

/-- A field of a number, bit by bit. -/
theorem testBit_field (x lo n i : Nat) : (x / 2 ^ lo % 2 ^ n).testBit i = (decide (i < n) && x.testBit (lo + i)) := by
  rw [Nat.testBit_mod_two_pow, Nat.testBit_div_two_pow, Nat.add_comm]

/-- A value's field placed at bit `lo`, bit by bit. -/
theorem getLsbD_placed (u lo n i : Nat) (hi : i < 128) :
    (BitVec.ofNat 128 (u % 2 ^ n * 2 ^ lo)).getLsbD i = (decide (lo ≤ i) && (decide (i - lo < n) && u.testBit (i - lo))) := by
  rw [BitVec.getLsbD_ofNat, Nat.testBit_mul_two_pow, Nat.testBit_mod_two_pow]
  simp [hi]

/-- A field written is read as written; bits outside it stay. -/
theorem testBit_setField (x : BitVec 128) (f : Nat) (v : DWord) {i : Nat} (hi : i < 128) :
    (setField x f v).toNat.testBit i =
      if (descField f).1 ≤ i ∧ i < (descField f).1 + (descField f).2.1 then (v.toNat - (descField f).2.2).testBit (i - (descField f).1)
      else x.toNat.testBit i := by
  rcases hf : descField f with ⟨lo, n, k⟩
  have hmask := getLsbD_placed (2 ^ n - 1) lo n i hi
  rw [Nat.mod_eq_of_lt (Nat.sub_one_lt (Nat.two_pow_pos n).ne'), Nat.testBit_two_pow_sub_one] at hmask
  have hset : setField x f v = (x &&& ~~~BitVec.ofNat 128 ((2 ^ n - 1) * 2 ^ lo)) ||| BitVec.ofNat 128 ((v.toNat - k) % 2 ^ n * 2 ^ lo) := by
    rw [setField, hf]
  rw [hset, BitVec.testBit_toNat, BitVec.getLsbD_or, BitVec.getLsbD_and, BitVec.getLsbD_not, hmask, getLsbD_placed _ _ _ _ hi, BitVec.testBit_toNat]
  dsimp only
  by_cases h : lo ≤ i ∧ i < lo + n
  · have hn : i - lo < n := by omega
    simp [h, hn, hi]
  · rw [if_neg h]
    by_cases hlo : lo ≤ i
    · have hn : ¬ i - lo < n := by omega
      simp [hlo, hn, hi]
    · simp [hlo, hi]

/-- The fields of Table 1 of R137 lie in the descriptor. -/
theorem descField_le : ∀ f < 9, (descField f).1 + (descField f).2.1 ≤ 128 := by decide

/-- No two of them share a bit. -/
theorem descField_apart : ∀ f < 9, ∀ g < 9, g ≠ f →
    (descField g).1 + (descField g).2.1 ≤ (descField f).1 ∨ (descField f).1 + (descField f).2.1 ≤ (descField g).1 := by decide

/-- A value that `d.set` accepts fits its field. -/
theorem fieldOk_fits {f : Nat} {v : DWord} (hf : f < 9) (h : fieldOk f v = true) :
    (descField f).2.2 ≤ v.toNat ∧ v.toNat - (descField f).2.2 < 2 ^ (descField f).2.1 := by
  interval_cases f
  all_goals
    simp [fieldOk] at h
    simp [descField]
    omega

theorem getField_setField_self {x : BitVec 128} {f : Nat} {v : DWord} (hf : f < 9) (h : fieldOk f v = true) :
    getField (setField x f v) f = v := by
  obtain ⟨hk, hlt⟩ := fieldOk_fits hf h
  have hle := descField_le f hf
  have hfield : (setField x f v).toNat / 2 ^ (descField f).1 % 2 ^ (descField f).2.1 = v.toNat - (descField f).2.2 := by
    refine Nat.eq_of_testBit_eq fun i => ?_
    rw [testBit_field]
    by_cases hi : i < (descField f).2.1
    · rw [testBit_setField _ _ _ (by omega), if_pos (by omega)]
      simp [hi]
    · rw [Nat.testBit_lt_two_pow (hlt.trans_le (Nat.pow_le_pow_right (by decide) (by omega)))]
      simp [hi]
  show dw ((setField x f v).toNat / 2 ^ (descField f).1 % 2 ^ (descField f).2.1 + (descField f).2.2) = v
  rw [hfield, Nat.sub_add_cancel hk, dw, BitVec.ofNat_toNat, BitVec.setWidth_eq]

theorem getField_setField_ne {x : BitVec 128} {f g : Nat} {v : DWord} (hf : f < 9) (hg : g < 9) (hne : g ≠ f) :
    getField (setField x f v) g = getField x g := by
  have hle := descField_le g hg
  have hapart := descField_apart f hf g hg hne
  have hfield : (setField x f v).toNat / 2 ^ (descField g).1 % 2 ^ (descField g).2.1 =
      x.toNat / 2 ^ (descField g).1 % 2 ^ (descField g).2.1 := by
    refine Nat.eq_of_testBit_eq fun i => ?_
    rw [testBit_field, testBit_field]
    by_cases hi : i < (descField g).2.1
    · rw [testBit_setField _ _ _ (by omega), if_neg (by omega)]
    · simp [hi]
  exact congrArg (fun y => dw (y + (descField g).2.2)) hfield

/-! The descriptor commands (R137). -/

/-- A command that writes a descriptor register alone. -/
theorem descriptorWrite_steps {s : State} {c : Cmd} {n : Nat} {x : BitVec 128} {rest : List Entry} (h : s.headCmd c rest)
    (hc : exec .descriptorCommandApply s = finishCmd s (descWork s c)) (hr : descWork s c = .ok (s.modW fun w => w.setD n x)) :
    StepsTo .descriptorCommandApply s fun t =>
      t.w.lq = rest ∧ t.w.dReg n = x ∧ (∀ k, k ≠ n → t.w.dReg k = s.w.dReg k) ∧ t = { s with w := t.w } := by
  obtain ⟨u, he, hu, hlq, hd, -⟩ := descriptorCommandApply_accepts h hc hr rfl
  have hreg := dReg_of_setD hd
  exact ⟨u, he, hlq, by rw [hreg, if_pos rfl], fun k hk => by rw [hreg, if_neg hk], hu⟩

/-- The commands that `DESCRIPTOR_COMMAND_APPLY` takes from the queue. -/
def Cmd.isDescriptor : Cmd → Prop
  | .dLd .. | .dSt .. | .dMov .. | .dSet .. => True
  | _ => False

theorem exec_descriptorCommandApply {s : State} {c : Cmd} {rest : List Entry} (h : s.headCmd c rest) (hc : c.isDescriptor) :
    exec .descriptorCommandApply s = finishCmd s (descWork s c) := by
  obtain ⟨⟨a, x, k, hq⟩, -⟩ := h
  show execDescriptorCommandApply s = _
  unfold execDescriptorCommandApply
  rw [hq]
  cases c
  case dLd => rfl
  case dSt => rfl
  case dMov => rfl
  case dSet => rfl
  all_goals exact False.elim hc

theorem setD_frame {w t : Wave} (h : t = w) (n : Nat) (x : BitVec 128) :
    t.setD n x = { w with d := (t.setD n x).d, stq := (t.setD n x).stq } := by
  subst h
  rfl

theorem dLd_steps {s : State} {n : Nat} {va : DWord} {l : Loc} {rest : List Entry} (h : s.headCmd (.dLd n va l) rest) (hkind : l.kind ≠ .peer)
    (hopen : (s.fromHome l 16 && !s.missOpen s.w.core l) = false) (hpoison : s.poisoned l 16 = false) :
    StepsTo .descriptorCommandApply s fun t =>
      t.w.lq = rest ∧ t.w.dReg n = BitVec.ofNat 128 (s.lsLe l l.addr 16) ∧ (∀ k, k ≠ n → t.w.dReg k = s.w.dReg k) ∧
        cachesOnly { s with w := t.w } t := by
  obtain ⟨t, hload, ht⟩ := State.load_of_near hkind hopen hpoison va
  have hr : descWork s (.dLd n va l) = .ok (t.modW fun w => w.setD n (BitVec.ofNat 128 (s.lsLe l l.addr 16))) := by
    show (s.load va l 16 >>= fun r => .ok (r.2.modW fun w => w.setD n (BitVec.ofNat 128 r.1))) = _
    rw [ok_bind hload]
  generalize BitVec.ofNat 128 (s.lsLe l l.addr 16) = x at hr ⊢
  have hc := exec_descriptorCommandApply h trivial
  obtain ⟨u, he, hu, hlq, hd, -⟩ := descriptorCommandApply_accepts h hc hr (setD_frame ht.w ..)
  have hreg := dReg_of_setD (w := t.w) hd
  rw [ht.w] at hreg
  refine ⟨u, he, hlq, by rw [hreg, if_pos rfl], fun k hk => by rw [hreg, if_neg hk], ?_⟩
  rw [hu]
  exact ht.withWave u.w

theorem dSt_steps {s : State} {n : Nat} {l : Loc} {rest : List Entry} (h : s.headCmd (.dSt n l) rest) (hrepro : s.repro = false)
    (hroom : s.w.stq.length < 64) : StepsTo .descriptorCommandApply s fun t =>
      t.w.lq = rest ∧ t.w.stq = s.w.stq ++ [{ id := s.nextId, wave := s.wid, loc := l, cells := leCells l.addr 16 (s.w.dReg n).toNat }] ∧
        t.w.d = s.w.d ∧ t = { s with w := t.w, nextId := s.nextId + 1 } := by
  have hr : descWork s (.dSt n l) = .ok (s.enqueue l (leCells l.addr 16 (s.w.dReg n).toNat)) := by
    show (if s.repro then _ else ready (s.w.stqRoom 1) >>= fun _ => .ok (s.enqueue l (leCells l.addr 16 (s.w.dReg n).toNat))) = _
    have hfree : s.w.stqRoom 1 = true := decide_eq_true hroom
    rw [if_neg (by rw [hrepro]; decide), ready_bind hfree]
  have hc := exec_descriptorCommandApply h trivial
  obtain ⟨u, he, hu, hlq, hd, hstq⟩ := descriptorCommandApply_accepts h hc hr rfl
  exact ⟨u, he, hlq, hstq, hd, hu⟩

/-! The watchdog (R325). -/

/-- In the user view the cycles that pass count, under the limit of the context's row. -/
theorem State.passTime_user {s : State} (hsys : s.w.sys = false) :
    let n := Config.stepCycles s.free
    let later : State := { s with free := s.free + 1 }.modCore fun c => { c with cycle := dw (min (2 ^ 64 - 1) (c.cycle.toNat + n)) }
    let limit := if s.w.wdog = 0 then s.row.wdog.toNat % 2 ^ 32 else s.w.wdogLim
    s.passTime = if limit = 0 then later else later.modW fun w => { w with wdog := w.wdog + n, wdogLim := limit } := by
  intro n later limit
  have he : s.passTime = if (true && (if s.w.wdog = 0 then bits s.row.wdog 0 32 else s.w.wdogLim) != 0) = true then
      later.modW fun w => { w with wdog := w.wdog + n, wdogLim := if s.w.wdog = 0 then bits s.row.wdog 0 32 else s.w.wdogLim } else later := by
    unfold State.passTime
    have hsys' : s.passCycles.2.w.sys = false := hsys
    dsimp only
    rw [hsys']
    rfl
  rw [he, bits_zero]
  show (if (true && limit != 0) = true then later.modW fun w => { w with wdog := w.wdog + n, wdogLim := limit } else later) = _
  by_cases h : limit = 0
  · rw [if_pos h, if_neg (by simp [h])]
  · rw [if_neg h, if_pos (by simp [h])]

theorem exec_watchdog (s : State) : exec .watchdog s =
    .next (if s.passTime.watchdogDue then s.passTime.raise 0 .watchdog (dw s.passTime.w.wdogLim) 0 0 else s.passTime) := rfl

/-- The count of a running wave that no trap waits for is due at its limit. -/
theorem State.watchdogDue_iff {s : State} (hlife : s.w.life = .running) (htrap : s.w.trapping = none) :
    s.watchdogDue = true ↔ 0 < s.w.wdog ∧ s.w.wdogLim * 4096 ≤ s.w.wdog := by
  simp [State.watchdogDue, hlife, htrap]

/-- Settles O50: each unit's step from the equation of its instruction. -/
theorem waveUnitStepTakesEffect : Obligations.WaveUnitStepTakesEffect := by
  intro s
  refine ⟨fun k key v h => ?_, fun k u h hret hheld hlate hyounger => ⟨fun hp => ?_, fun p hp hrest herr => ?_⟩,
    fun r rest h hs => laneRunStart_starts h hs, fun rest a x k h => ?_, fun n m rest h => ?_, fun n f v rest h hf hok => ?_,
    fun n va l rest h hkind hopen hpoison => dLd_steps h hkind hopen hpoison, fun n l rest h hrepro hroom => dSt_steps h hrepro hroom,
    rfl, fun hrepro hended hq => ?_, fun hq => ?_, ?_⟩
  · exact ⟨_, exec_scalarLoadReturn h, rfl, look_put_self .., fun j hj => look_put_ne _ _ _ hj, fun hone j => Wave.received_sVal h hone j, rfl⟩
  · rw [exec_uncheckedResultReturn h hret hheld hlate hyounger, hp]
    rfl
  · exact uncheckedResultReturn_endsPark h hret hheld hlate hyounger hp hrest herr
  · show execRngCounterReset s = _
    rw [execRngCounterReset, h]
    rfl
  · exact descriptorWrite_steps h (exec_descriptorCommandApply h trivial) rfl
  · obtain ⟨t, he, hlq, hd, hother, ht⟩ :=
      descriptorWrite_steps h (exec_descriptorCommandApply h trivial) rfl
    refine ⟨t, he, hlq, ?_, fun g hg hne => ?_, hother, ht⟩
    · rw [hd, getField_setField_self hf hok]
    · rw [hd, getField_setField_ne hf hg hne]
  · have hdue : s.countExpired = true := by simp [State.countExpired, hrepro, hended, hq]
    exact congrArg Host.Outcome.next (if_pos hdue)
  · have hdue : ¬ s.countExpired = true := by simp [State.countExpired, Nat.not_le.mpr hq]
    exact congrArg Host.Outcome.next (if_neg hdue)
  · intro n later limit u hsys hlife htrap
    have hu : s.passTime = u := State.passTime_user hsys
    have hkept : u.w.life = .running ∧ u.w.trapping = none := by
      unfold u
      split
      · exact ⟨hlife, htrap⟩
      · exact ⟨hlife, htrap⟩
    have hdue := State.watchdogDue_iff hkept.1 hkept.2
    rw [exec_watchdog, hu]
    refine ⟨fun h0 hlim => ?_, fun h => ?_⟩
    · rw [if_pos (hdue.mpr ⟨h0, hlim⟩)]
    · rw [if_neg (fun h' => by have := hdue.mp h'; omega)]

end Sys2Proof.Machine

/-! SUPPORT. Resets (R372, R375): what a cluster's reset kills and clears, what its sweep and a switch of a sector's image leave, and what the
device keeps when it starts again. -/

namespace Sys2Proof.Machine

open Sys2Proof

/-! Steps over several cores. -/

/-- A function of the entries of a sparse map that leaves the default alone acts on what the map holds. -/
theorem look_mapValues {α : Type} {d : α} {f : Nat → α → α} (k : Nat) (hf : f k d = d) (m : Sparse α) :
    look d (m.map fun e => (e.1, f e.1 e.2)) k = f k (look d m k) := by
  induction m with
  | nil => exact hf.symm
  | cons e r ih =>
    simp only [List.map_cons, look]
    split
    next h => rw [h]
    next => exact ih

theorem coreAt_of_cores {s t : State} (h : t.cores = s.cores) (n : Nat) : t.coreAt n = s.coreAt n := congrArg (fun m : Sparse Core => look ({} : Core) m n) h

/-- Steps that change cores alone do so together. -/
theorem foldl_coresOnly {α : Type} {f : State → α → State} (hf : ∀ s a, f s a = { s with cores := (f s a).cores }) (l : List α) (s : State) :
    l.foldl f s = { s with cores := (l.foldl f s).cores } :=
  foldl_inv (P := fun t => t = { s with cores := t.cores }) f l s rfl fun t a ht => (hf t a).trans (by rw [ht])

/-- One change that has nothing to do a second time, made to the cores of a list. -/
theorem coreAt_foldl_modCoreAt {f : Core → Core} (hf : ∀ c, f (f c) = f c) (n : Nat) (l : List Nat) (s : State) :
    (l.foldl (fun s m => s.modCoreAt m f) s).coreAt n = if n ∈ l then f (s.coreAt n) else s.coreAt n := by
  induction l generalizing s with
  | nil => simp
  | cons m r ih =>
    rw [List.foldl_cons, ih, State.coreAt_modCoreAt_eq]
    by_cases hm : n = m
    · subst hm
      simp [hf]
    · simp [hm]

/-- A core whose retirement was requested leaves service once it is not busy (R380). -/
def Core.leave (busy : Bool) (c : Core) : Core := if c.retiring && !busy then { c with retired := true, retiring := false } else c

theorem Core.leave_eq (busy : Bool) (c : Core) :
    c.leave busy = { c with retired := (c.leave busy).retired, retiring := (c.leave busy).retiring } := by
  unfold Core.leave
  split <;> rfl

/-- A core's retirement changes no more than its own marks (R380). -/
theorem State.coreAt_retireCores (s : State) (n : Nat) : ∃ busy, s.retireCores.coreAt n = (s.coreAt n).leave busy := by
  unfold State.retireCores
  extract_lets busy
  exact ⟨busy n, look_mapValues (d := ({} : Core)) (f := fun n c => c.leave (busy n)) n rfl s.cores⟩

/-! The kill of the crews of a cluster (R372). -/

/-- Each wave is as before or killed, the crews keep their waves, and no core enters or leaves a reset. -/
def State.OnlyKills (s t : State) : Prop :=
  (∀ n, t.wave n = s.wave n ∨ t.wave n = (s.wave n).kill) ∧
    (∀ id, (t.crewOf id).map Crew.waves = (s.crewOf id).map Crew.waves) ∧ ∀ n, (t.coreAt n).inReset = (s.coreAt n).inReset

theorem State.OnlyKills.refl (s : State) : s.OnlyKills s := ⟨fun _ => .inl rfl, fun _ => rfl, fun _ => rfl⟩

theorem State.OnlyKills.trans {s t u : State} (h : s.OnlyKills t) (k : t.OnlyKills u) : s.OnlyKills u := by
  obtain ⟨hw, hc, hr⟩ := h
  obtain ⟨kw, kc, kr⟩ := k
  have hkill (w : Wave) : w.kill.kill = w.kill := rfl
  refine ⟨fun n => ?_, fun id => (kc id).trans (hc id), fun n => (kr n).trans (hr n)⟩
  rcases hw n with hw | hw <;> rcases kw n with kw | kw <;> simp [hw, kw, hkill]

theorem State.OnlyKills.killWave (s : State) (m : Nat) : s.OnlyKills (s.killWave m) := by
  refine ⟨fun n => ?_, fun id => ?_, fun n => ?_⟩
  · rw [State.wave_killWave]
    split
    · exact .inr rfl
    · exact .inl rfl
  · rw [State.crewOf, State.killWave_crews]
    rfl
  · unfold State.killWave
    rw [State.coreAt_modCoreAt_eq]
    have hcores (k : Nat) : (s.modWave m Wave.kill).coreAt k = s.coreAt k := by
      unfold State.modWave State.setWave
      split <;> rfl
    split
    next h => rw [h, hcores]
    next => rw [hcores]

theorem State.OnlyKills.retireCores (s : State) : s.OnlyKills s.retireCores := by
  refine ⟨fun _ => .inl rfl, fun _ => rfl, fun n => ?_⟩
  obtain ⟨busy, h⟩ := s.coreAt_retireCores n
  rw [h, Core.leave_eq]

theorem State.OnlyKills.markCrew (s : State) (id : Nat) :
    s.OnlyKills { s with crews := s.crews.map fun (x : Crew) => if x.id = id then { x with killed := true } else x } := by
  refine ⟨fun _ => .inl rfl, fun j => ?_, fun _ => rfl⟩
  have hid : ((fun c : Crew => c.id == j) ∘ fun x => if x.id = id then { x with killed := true } else x) = fun c => c.id == j := by
    funext c
    dsimp only [Function.comp_apply]
    split <;> rfl
  have hwaves : (Crew.waves ∘ fun x : Crew => if x.id = id then { x with killed := true } else x) = Crew.waves := by
    funext c
    dsimp only [Function.comp_apply]
    split <;> rfl
  rw [State.crewOf, List.find?_map, hid, Option.map_map, hwaves]
  rfl

theorem State.OnlyKills.killCrew (s : State) (id : Nat) (c1 c2 : Cause) (epc elpc : DWord) : s.OnlyKills (s.killCrew id c1 c2 epc elpc) := by
  unfold State.killCrew
  split
  · refine State.OnlyKills.trans (t := s.modW Wave.kill) ⟨fun n => ?_, fun _ => rfl, fun _ => rfl⟩ (.retireCores _)
    by_cases hn : n = s.wid
    · have hself (t : State) : t.wave t.wid = t.w := if_pos rfl
      subst hn
      exact .inr ((hself (s.modW Wave.kill)).trans (congrArg Wave.kill (hself s).symm))
    · exact .inl ((if_neg hn).trans (if_neg hn).symm)
  next c _ =>
    have hwaves : s.OnlyKills (c.waves.foldl State.killWave s) :=
      foldl_inv (P := s.OnlyKills) State.killWave c.waves s (.refl s) fun t n ht => ht.trans (.killWave t n)
    exact ((hwaves.trans (.markCrew _ id)).trans (.retireCores _)).trans ⟨fun _ => .inl rfl, fun _ => rfl, fun _ => rfl⟩

theorem State.OnlyKills.containWave (s : State) (n : Nat) : s.OnlyKills (s.containWave n) := by
  unfold State.containWave
  dsimp only
  split
  · exact .killCrew ..
  · exact .refl s

theorem State.OnlyKills.containWaves (s : State) (l : List Nat) : s.OnlyKills (l.foldl State.containWave s) :=
  foldl_inv (P := s.OnlyKills) State.containWave l s (.refl s) fun t n ht => ht.trans (.containWave t n)

theorem State.OnlyKills.killed {s t : State} {n : Nat} (h : s.OnlyKills t) (hk : (s.wave n).life = .killed) : (t.wave n).life = .killed := by
  obtain ⟨hw, -⟩ := h
  rcases hw n with hw | hw
  · rw [hw, hk]
  · rw [hw]
    rfl

/-- Once its turn has come, a wave of a recorded crew is dead, by its own turn or by an earlier one. -/
theorem State.containWave_killed {s t : State} {n : Nat} {c : Crew} (h : s.OnlyKills t) (hres : (s.wave n).resident = true)
    (hcrew : s.crewOf (s.wave n).crew = some c) (hn : n ∈ c.waves) : ((t.containWave n).wave n).life = .killed := by
  obtain ⟨hw, hc, -⟩ := h
  rcases hw n with hw | hw
  · have hwaves := hc (s.wave n).crew
    rw [hcrew] at hwaves
    obtain ⟨c', hc', hsame⟩ := Option.map_eq_some_iff.mp hwaves
    obtain ⟨hkill, -⟩ := State.killCrew_of_crew hc' .contain .none (s.wave n).pc (s.wave n).resume
    unfold State.containWave
    dsimp only
    rw [hw, if_pos hres, hkill, if_pos (hsame ▸ hn)]
    rfl
  · have hdead : ¬ (t.wave n).resident = true := by
      rw [hw]
      exact (by decide : ¬ false = true)
    unfold State.containWave
    dsimp only
    rw [if_neg hdead, hw]
    rfl

theorem State.containWaves_killed {s : State} {n : Nat} {c : Crew} {l : List Nat} (hl : n ∈ l) (hres : (s.wave n).resident = true)
    (hcrew : s.crewOf (s.wave n).crew = some c) (hn : n ∈ c.waves) : ((l.foldl State.containWave s).wave n).life = .killed := by
  obtain ⟨a, b, rfl⟩ := List.append_of_mem hl
  rw [List.foldl_append, List.foldl_cons]
  exact (State.OnlyKills.containWaves _ b).killed (State.containWave_killed (.containWaves s a) hres hcrew hn)

theorem State.Kills.containWaves (s : State) (l : List Nat) : s.Kills (l.foldl State.containWave s) := by
  refine foldl_inv (P := s.Kills) State.containWave l s ⟨_, _, _, _, _, rfl⟩ fun t n ht => ht.trans ?_
  unfold State.containWave
  dsimp only
  split
  · exact .killCrew ..
  · exact ⟨_, _, _, _, _, rfl⟩

/-! The reset of a cluster (R372). -/

/-- A core of a cluster whose reset has begun. -/
def Core.stopped (c : Core) : Core := { c with inReset := true }

/-- A core of such a cluster with its stores, answers, entries and fills gone. -/
def Core.emptied (c : Core) : Core := { c with inflight := [], acks := [], sb := [], sbWait := [], probes := [], fills := [] }

/-- The cores of a list stop. -/
def State.stopCores (s : State) (l : List Nat) : State := l.foldl (fun s n => s.modCoreAt n Core.stopped) s

def State.emptyCores (s : State) (l : List Nat) : State := l.foldl (fun s n => s.modCoreAt n Core.emptied) s

theorem State.stopCores_eq (s : State) (l : List Nat) : s.stopCores l = { s with cores := (s.stopCores l).cores } :=
  foldl_coresOnly (f := fun s n => s.modCoreAt n Core.stopped) (fun _ _ => rfl) l s

theorem State.emptyCores_eq (s : State) (l : List Nat) : s.emptyCores l = { s with cores := (s.emptyCores l).cores } :=
  foldl_coresOnly (f := fun s n => s.modCoreAt n Core.emptied) (fun _ _ => rfl) l s

theorem State.coreAt_stopCores (s : State) (l : List Nat) (n : Nat) :
    (s.stopCores l).coreAt n = if n ∈ l then (s.coreAt n).stopped else s.coreAt n :=
  coreAt_foldl_modCoreAt (f := Core.stopped) (fun _ => rfl) n l s

theorem State.coreAt_emptyCores (s : State) (l : List Nat) (n : Nat) :
    (s.emptyCores l).coreAt n = if n ∈ l then (s.coreAt n).emptied else s.coreAt n :=
  coreAt_foldl_modCoreAt (f := Core.emptied) (fun _ => rfl) n l s

/-- The waves that stand on cores of a list. -/
def State.wavesOn (s : State) (l : List Nat) : List Nat := s.waveIds.filter fun n => l.contains (s.wave n).core

theorem State.stopCores_wave (s : State) (l : List Nat) (n : Nat) : (s.stopCores l).wave n = s.wave n := by
  rw [State.stopCores_eq]
  rfl

theorem State.emptyCores_wave (s : State) (l : List Nat) (n : Nat) : (s.emptyCores l).wave n = s.wave n := by
  rw [State.emptyCores_eq]
  rfl

theorem State.wavesOn_stopCores (s : State) (l k : List Nat) : (s.stopCores l).wavesOn k = s.wavesOn k := by
  rw [State.stopCores_eq]
  rfl

/-- Steps 1 and 2 of R372: the cores stop, and the crews with a wave on them are killed. -/
def State.contained (s : State) (cluster : Nat) : State :=
  (s.wavesOn (clusterCores cluster)).foldl State.containWave (s.stopCores (clusterCores cluster))

/-- Steps 1 to 3 of R372 in their order. -/
theorem State.resetCluster_eq (s : State) (cluster trigger : Nat) : s.resetCluster cluster trigger =
    ((s.contained cluster).emptyCores (clusterCores cluster)).emitSector (cluster / 12) 0x0009 [dw cluster, dw trigger] := by
  rw [State.contained, ← State.wavesOn_stopCores s (clusterCores cluster)]
  rfl

theorem State.emitSector_coreAt (s : State) (k code : Nat) (p : List DWord) (n : Nat) : (s.emitSector k code p).coreAt n = s.coreAt n := rfl

theorem State.emitSector_wave (s : State) (k code : Nat) (p : List DWord) (n : Nat) : (s.emitSector k code p).wave n = s.wave n := rfl

theorem State.Kills.contained (s : State) (cluster : Nat) : s.Kills (s.contained cluster) :=
  State.Kills.trans ⟨_, _, _, _, _, State.stopCores_eq ..⟩ (.containWaves ..)

/-- The frame of a cluster's reset: what a kill may change. -/
theorem State.Kills.resetCluster (s : State) (cluster trigger : Nat) : s.Kills (s.resetCluster cluster trigger) := by
  rw [State.resetCluster_eq]
  refine State.Kills.trans (State.Kills.contained s cluster) ?_
  generalize s.contained cluster = u
  rw [State.emptyCores_eq]
  exact ⟨_, _, _, _, _, rfl⟩

/-- The cores of the cluster have stopped, with nothing under way. -/
theorem State.coreAt_resetCluster (s : State) {cluster n : Nat} (trigger : Nat) (hn : n ∈ clusterCores cluster) :
    ∃ c : Core, (s.resetCluster cluster trigger).coreAt n = c.emptied ∧ c.inReset = true := by
  refine ⟨(s.contained cluster).coreAt n, ?_, ?_⟩
  · rw [State.resetCluster_eq, State.emitSector_coreAt, State.coreAt_emptyCores, if_pos hn]
  · obtain ⟨-, -, hreset⟩ := State.OnlyKills.containWaves (s.stopCores (clusterCores cluster)) (s.wavesOn (clusterCores cluster))
    rw [State.contained, hreset, State.coreAt_stopCores, if_pos hn]
    rfl

/-- The waves of the cluster's crews are dead. -/
theorem State.resetCluster_killed {s : State} {cluster n : Nat} {c : Crew} (trigger : Nat) (hid : n ∈ s.waveIds)
    (hcore : (s.wave n).core ∈ clusterCores cluster) (hres : (s.wave n).resident = true) (hcrew : s.crewOf (s.wave n).crew = some c)
    (hn : n ∈ c.waves) : ((s.resetCluster cluster trigger).wave n).life = .killed := by
  have hon : n ∈ s.wavesOn (clusterCores cluster) := List.mem_filter.mpr ⟨hid, List.contains_iff_mem.mpr hcore⟩
  have hkilled : ((s.contained cluster).wave n).life = .killed := by
    refine State.containWaves_killed (c := c) hon ?_ ?_ hn
    · rw [State.stopCores_wave]
      exact hres
    · rw [State.stopCores_wave, State.stopCores_eq]
      exact hcrew
  rw [State.resetCluster_eq, State.emitSector_wave, State.emptyCores_wave]
  exact hkilled

theorem State.stopCores_fw (s : State) (l : List Nat) : (s.stopCores l).fw = s.fw := by rw [State.stopCores_eq]

theorem clusterReset_works {s : State} {cluster : Nat} (hlt : cluster < 144) (hrec : s.fw.recovery = false) :
    ¬ (144 ≤ cluster ∨ s.fw.recovery = true) := by
  rw [hrec]
  simpa using hlt

/-- A sector controller that works contains the fault at once. -/
theorem exec_clusterReset_now {s : State} {cluster : Nat} (trigger : Nat) (hlt : cluster < 144) (hctl : s.controls (cluster / 12) = true) :
    exec (.clusterReset cluster trigger) s = .next (s.resetCluster cluster trigger) := by
  have hrec : s.fw.recovery = false := by
    rw [State.controls, Bool.and_eq_true, Bool.not_eq_true'] at hctl
    exact hctl.1
  exact (if_neg (clusterReset_works hlt hrec)).trans (if_pos hctl)

/-- While the sector switches its image only the cores stop, and the reset waits (R383). -/
theorem exec_clusterReset_waits {s : State} {cluster : Nat} (trigger : Nat) (hlt : cluster < 144) (hrec : s.fw.recovery = false)
    (hctl : s.controls (cluster / 12) = false) : exec (.clusterReset cluster trigger) s =
      .next { s.stopCores (clusterCores cluster) with fw := { s.fw with resets := s.fw.resets ++ [(cluster, trigger)] } } := by
  rw [← State.stopCores_fw s (clusterCores cluster)]
  exact (if_neg (clusterReset_works hlt hrec)).trans (if_neg (by rw [hctl]; decide))

/-! The end of a reset's sweep (R372 steps 4 and 5). -/

/-- A core that is in reset goes back into service. -/
def State.serviced (s : State) (n : Nat) : State :=
  if (s.coreAt n).inReset then s.modCoreAt n fun c => c.afterReset (s.trowelOf n) else s

theorem State.serviced_eq (s : State) (n : Nat) : s.serviced n = { s with cores := (s.serviced n).cores } := by
  unfold State.serviced
  split <;> rfl

theorem State.trowelOf_serviced (s : State) (m n : Nat) : (s.serviced m).trowelOf n = s.trowelOf n := by
  rw [State.serviced_eq]
  rfl

theorem State.coreAt_serviced (s : State) (m n : Nat) : (s.serviced m).coreAt n =
    if n = m ∧ (s.coreAt n).inReset = true then (s.coreAt n).afterReset (s.trowelOf n) else s.coreAt n := by
  unfold State.serviced
  by_cases hm : n = m
  · subst hm
    by_cases hr : (s.coreAt n).inReset = true
    · rw [if_pos hr, if_pos ⟨rfl, hr⟩, State.coreAt_modCoreAt_eq, if_pos rfl]
    · rw [if_neg hr, if_neg fun h => hr h.2]
  · refine Eq.trans ?_ (if_neg fun h => hm h.1).symm
    split
    · rw [State.coreAt_modCoreAt_eq, if_neg hm]
    · rfl

/-- Each core of a list that is in reset goes back into service once. -/
theorem State.coreAt_foldl_serviced (n : Nat) (l : List Nat) (s : State) : (l.foldl State.serviced s).coreAt n =
    if n ∈ l ∧ (s.coreAt n).inReset = true then (s.coreAt n).afterReset (s.trowelOf n) else s.coreAt n := by
  induction l generalizing s with
  | nil => simp
  | cons m r ih =>
    have hdone (q : List (Nat × Nat)) : ((s.coreAt n).afterReset q).inReset = false := rfl
    rw [List.foldl_cons, ih, State.coreAt_serviced, State.trowelOf_serviced]
    by_cases hm : n = m ∧ (s.coreAt n).inReset = true
    · obtain ⟨rfl, hr⟩ := hm
      simp [hr, hdone]
    · rw [if_neg hm]
      by_cases hr : (s.coreAt n).inReset = true
      · have hne : n ≠ m := fun h => hm ⟨h, hr⟩
        simp [hne, hr]
      · simp [hr]

/-- The state once the answers to a cluster that is in reset are discarded (R372 steps 3 and 4). -/
def State.sweptFlows (s : State) (cluster : Nat) : State :=
  if (clusterCores cluster).any fun n => (s.coreAt n).inReset then { s with flows := s.flows.map (Flow.sweepAcks cluster) } else s

theorem State.sweptFlows_eq (s : State) (cluster : Nat) : s.sweptFlows cluster = { s with flows := (s.sweptFlows cluster).flows } := by
  unfold State.sweptFlows
  split <;> rfl

theorem exec_resetSweepEnd {s : State} {cluster : Nat} (h : ∀ r ∈ s.fw.resets, r.1 ≠ cluster) :
    exec (.resetSweepEnd cluster) s = .next ((clusterCores cluster).foldl State.serviced (s.sweptFlows cluster)).retireCores := by
  have hno : ¬ (s.fw.resets.any fun r => r.1 == cluster) = true := by simpa using fun x hr => h (cluster, x) hr rfl
  have hfold : (clusterCores cluster).foldl (fun t n => if (t.coreAt n).inReset then t.modCoreAt n fun c => c.afterReset (t.trowelOf n) else t)
      (s.sweptFlows cluster) = (clusterCores cluster).foldl State.serviced (s.sweptFlows cluster) := rfl
  show execResetSweepEnd cluster s = _
  rw [execResetSweepEnd, if_neg hno, ← hfold]
  rfl

/-- The frame of a sweep's end: flows and cores. -/
theorem resetSweepEnd_eq (s : State) (cluster : Nat) : ((clusterCores cluster).foldl State.serviced (s.sweptFlows cluster)).retireCores =
    { s with flows := (s.sweptFlows cluster).flows
             cores := ((clusterCores cluster).foldl State.serviced (s.sweptFlows cluster)).retireCores.cores } := by
  have hfold := foldl_coresOnly State.serviced_eq (clusterCores cluster) (s.sweptFlows cluster)
  have hretire (t : State) : t.retireCores = { t with cores := t.retireCores.cores } := rfl
  rw [hretire, hfold, State.sweptFlows_eq]

/-- A core of the cluster is as after its reset, but for its retirement. -/
theorem coreAt_resetSweepEnd {s : State} {cluster n : Nat} (hn : n ∈ clusterCores cluster) (hr : (s.coreAt n).inReset = true) :
    ∃ busy, ((clusterCores cluster).foldl State.serviced (s.sweptFlows cluster)).retireCores.coreAt n =
      ((s.coreAt n).afterReset (s.trowelOf n)).leave busy := by
  obtain ⟨busy, h⟩ := State.coreAt_retireCores ((clusterCores cluster).foldl State.serviced (s.sweptFlows cluster)) n
  have hflows : (s.sweptFlows cluster).coreAt n = s.coreAt n ∧ (s.sweptFlows cluster).trowelOf n = s.trowelOf n := by
    rw [State.sweptFlows_eq]
    exact ⟨rfl, rfl⟩
  obtain ⟨hcore, htrowel⟩ := hflows
  refine ⟨busy, h.trans ?_⟩
  rw [State.coreAt_foldl_serviced, hcore, htrowel, if_pos ⟨hn, hr⟩]

/-! The reset of the device (R375). -/

/-- Dirty sectors that are lost change memory alone, beside the free choices. -/
theorem State.loseDirty_eq (s : State) : s.loseDirty = { s with mem := s.loseDirty.mem, free := s.loseDirty.free } := by
  unfold State.loseDirty
  refine foldl_inv (P := fun t => t = { s with mem := t.mem, free := t.free }) _ s.dirty s rfl fun t e ht => ?_
  dsimp only [State.choose]
  split
  · rw [ht]
  · rw [ht]

theorem State.loseDirty_of_clean {s : State} (h : s.dirty = []) : s.loseDirty = s := by
  rw [State.loseDirty, h]
  rfl

/-- What a device reset leaves of crews and waves, and what it keeps (R375). -/
theorem restart_keeps (s : State) : s.restart.crews = [] ∧ s.restart.tasks = [] ∧
    (∀ n, (s.restart.wave n).life = .free ∧ look 0 s.restart.counters n = 0) ∧
    s.restart.skim = s.skim ∧ s.restart.hostMem = s.hostMem ∧ s.restart.fw.store = s.fw.store ∧ s.restart.fw.rollback = s.fw.rollback ∧
    (s.dirty = [] → s.restart.mem = s.mem) ∧ s.restart.fw.recovery = (s.fw.boot != 0) ∧ s.restart.flows = [] ∧
    ∃ n, s.restart.allowances = putAll 0 [] (Config.allowances n) := by
  have hkept : s.loseDirty.skim = s.skim ∧ s.loseDirty.hostMem = s.hostMem ∧ s.loseDirty.fw = s.fw := by
    rw [State.loseDirty_eq]
    exact ⟨rfl, rfl, rfl⟩
  obtain ⟨hskim, hhost, hfw⟩ := hkept
  have hstore : s.restart.fw.store = s.loseDirty.fw.store := rfl
  have hrollback : s.restart.fw.rollback = s.loseDirty.fw.rollback := rfl
  have hrecovery : s.restart.fw.recovery = (s.loseDirty.fw.boot != 0) := rfl
  refine ⟨rfl, rfl, fun n => ⟨?_, rfl⟩, hskim, hhost, ?_, ?_, fun h => ?_, ?_, rfl, _, rfl⟩
  · unfold State.wave
    split <;> rfl
  · rw [hstore, hfw]
  · rw [hrollback, hfw]
  · show s.loseDirty.mem = s.mem
    rw [State.loseDirty_of_clean h]
  · rw [hrecovery, hfw]

/-! The switch of a sector's image (R378). -/

theorem State.dropTrowel_eq (s : State) (sector : Nat) : s.dropTrowel sector =
    { s with cores := (s.dropTrowel sector).cores, sectors := (s.dropTrowel sector).sectors } := by
  unfold State.dropTrowel
  extract_lets t
  have ht : t = { s with cores := t.cores } := foldl_coresOnly (fun _ _ => rfl) _ s
  rw [State.modSector, ht]

theorem State.dropTrowel_sector (s : State) (sector : Nat) : ((s.dropTrowel sector).sector sector).trowel = [] := by
  unfold State.dropTrowel
  dsimp only
  rw [State.sector_modSector_eq, if_pos rfl]

/-- The state once the sector whose turn it is runs the image in the store, before the command that asked for it ends (R378). -/
def State.switched (s : State) (sector : Nat) (rest : List Nat) : State :=
  let t := (s.dropTrowel sector).modSector sector fun y => { y with image := (s.fw.digest ^^^ Config.deliveredDigest).toNat }
  { t with fw := { t.fw with switching := rest, resets := t.fw.resets.filter fun r => r.1 / 12 != sector } }

/-- With no cluster reset that waits, a switch ends the activation where it is the last. -/
theorem exec_sectorFirmwareSwitch {s : State} {sector : Nat} {rest : List Nat} (h : s.fw.switching = sector :: rest) (hresets : s.fw.resets = []) :
    exec (.sectorFirmwareSwitch sector) s = .next (if rest.isEmpty && s.mg.runs 2 then (s.switched sector rest).mgDone 0 else s.switched sector rest) := by
  have hmg : (s.switched sector rest).mg = s.mg := by
    show (s.dropTrowel sector).mg = s.mg
    rw [State.dropTrowel_eq]
  show execSectorFirmwareSwitch sector s = _
  unfold execSectorFirmwareSwitch
  rw [h]
  dsimp only
  rw [if_neg (not_not.mpr rfl), hresets, ← hmg]
  rfl

theorem sectorFirmwareSwitch_steps {s : State} {sector : Nat} {rest : List Nat} (h : s.fw.switching = sector :: rest) (hresets : s.fw.resets = []) :
    StepsTo (.sectorFirmwareSwitch sector) s fun t => t.fw.switching = rest ∧ (t.sector sector).trowel = [] ∧
      BitVec.ofNat 512 (t.sector sector).image = s.fw.digest ^^^ Config.deliveredDigest ∧
      (rest = [] → s.commanded 2 → ended t 0) ∧ (rest ≠ [] → t.mg = s.mg) ∧ t.mem = s.mem := by
  let u := s.switched sector rest
  have hsector : u.sector sector = { (s.dropTrowel sector).sector sector with image := (s.fw.digest ^^^ Config.deliveredDigest).toNat } :=
    (State.sector_modSector_eq (s.dropTrowel sector) sector sector
      fun y => { y with image := (s.fw.digest ^^^ Config.deliveredDigest).toNat }).trans (if_pos rfl)
  have hframe : u.mg = s.mg ∧ u.mem = s.mem := by
    show (s.dropTrowel sector).mg = s.mg ∧ (s.dropTrowel sector).mem = s.mem
    rw [State.dropTrowel_eq]
    exact ⟨rfl, rfl⟩
  obtain ⟨hmg, hmem⟩ := hframe
  have htrowel : (u.sector sector).trowel = [] := by
    rw [hsector]
    exact s.dropTrowel_sector sector
  have himage : BitVec.ofNat 512 (u.sector sector).image = s.fw.digest ^^^ Config.deliveredDigest := by
    rw [hsector]
    exact BitVec.ofNat_toNat ..
  refine ⟨_, exec_sectorFirmwareSwitch h hresets, ?_⟩
  by_cases hlast : (rest.isEmpty && s.mg.runs 2) = true
  · rw [if_pos hlast]
    rw [Bool.and_eq_true, List.isEmpty_iff] at hlast
    exact ⟨rfl, htrowel, himage, fun _ _ => ⟨rfl, rfl⟩, fun hr => absurd hlast.1 hr, hmem⟩
  · rw [if_neg hlast]
    refine ⟨rfl, htrowel, himage, fun hr ⟨hbusy, hcmd⟩ => absurd ?_ hlast, fun _ => hmg, hmem⟩
    rw [hr, Mg.runs, hbusy, hcmd]
    rfl

/-! The management registers (R382, R383). -/

theorem mgWrite_of_closed {s : State} (h : s.mgOpen = false) (size : Bool) (reg : Nat) (v : DWord) :
    exec (.eventRingConfig size v) s = .next s ∧ exec (.mgRegisterWrite reg v) s = .next s := by
  refine ⟨congrArg Host.Outcome.next (if_neg ?_), congrArg Host.Outcome.next (if_pos ?_)⟩
  · rw [h]
    decide
  · rw [h]
    rfl

theorem exec_eventRingConfig {s : State} (h : s.mgOpen = true) (size : Bool) (v : DWord) : exec (.eventRingConfig size v) s =
    .next { s with mg := if size then { s.mg with evsize := dw (bits v 0 5), evhead := 0, evtail := 0 }
                         else { s.mg with evbase := v &&& ~~~0xFFF, evhead := 0, evtail := 0 } } :=
  congrArg Host.Outcome.next (if_pos h)

/-- What a write that reaches the window does, by its register. -/
theorem exec_mgRegisterWrite {s : State} (h : s.mgOpen = true) (reg : Nat) (v : DWord) : exec (.mgRegisterWrite reg v) s = .next (
    if reg = 0x008 then
      if s.mg.busy then s
      else
        let t := { s with mg := { s.mg with cmd := bits v 0 8, busy := true } }
        if s.mgCodeOk (bits v 0 8) then t else t.mgDone 1
    else if reg = 0x010 ∨ reg = 0x018 ∨ reg = 0x020 ∨ reg = 0x028 then
      { s with mg := { s.mg with arg := put 0 s.mg.arg ((reg - 0x010) / 8) v } }
    else if reg = 0x058 then { s with mg := { s.mg with evtail := v } }
    else s) :=
  congrArg Host.Outcome.next (if_neg (by rw [h]; decide))

/-- A command that no other stands before starts, or ends at once where no command has its code. -/
theorem mgCommand_steps {s : State} (h : s.mgOpen = true) (hbusy : s.mg.busy = false) (v : DWord) :
    StepsTo (.mgRegisterWrite 0x008 v) s fun t => t.mg.cmd = v.toNat % 2 ^ 8 ∧ t = { s with mg := t.mg } ∧
      (1 ≤ v.toNat % 2 ^ 8 → v.toNat % 2 ^ 8 ≤ (if s.fw.recovery then 2 else 9) → t.mg.busy = true) ∧
      ((v.toNat % 2 ^ 8 = 0 ∨ (if s.fw.recovery then 2 else 9) < v.toNat % 2 ^ 8) → ended t 1) := by
  refine ⟨_, exec_mgRegisterWrite h 0x008 v, ?_⟩
  rw [if_pos rfl, hbusy, if_neg Bool.false_ne_true, bits_zero]
  generalize v.toNat % 2 ^ 8 = code
  generalize hmax : (if s.fw.recovery then 2 else 9) = most
  have hok : s.mgCodeOk code = true ↔ 1 ≤ code ∧ code ≤ most := by rw [State.mgCodeOk, hmax, Bool.and_eq_true, decide_eq_true_eq, decide_eq_true_eq]
  dsimp only
  split
  next h =>
    have := hok.mp h
    exact ⟨rfl, rfl, fun _ _ => rfl, fun hbad => by omega⟩
  next h => exact ⟨rfl, rfl, fun h1 h2 => absurd (hok.mpr ⟨h1, h2⟩) h, fun _ => ⟨rfl, rfl⟩⟩

/-- The four argument registers by their number. -/
theorem argReg_iff {k : Nat} (hk : k < 4) : (0x010 + 8 * k = 0x010 ∨ 0x010 + 8 * k = 0x018 ∨ 0x010 + 8 * k = 0x020 ∨ 0x010 + 8 * k = 0x028) ∧
    0x010 + 8 * k ≠ 0x000 ∧ 0x010 + 8 * k ≠ 0x008 ∧ (0x010 + 8 * k - 0x010) / 8 = k := by omega

theorem mgArgument_steps {s : State} (h : s.mgOpen = true) {k : Nat} (hk : k < 4) (v : DWord) :
    StepsTo (.mgRegisterWrite (0x010 + 8 * k) v) s fun t =>
      look 0 t.mg.arg k = v ∧ (∀ j, j ≠ k → look 0 t.mg.arg j = look 0 s.mg.arg j) ∧ t = { s with mg := { s.mg with arg := t.mg.arg } } := by
  obtain ⟨hreg, -, h8, hidx⟩ := argReg_iff hk
  refine ⟨_, exec_mgRegisterWrite h (0x010 + 8 * k) v, ?_⟩
  rw [if_neg h8, if_pos hreg, hidx]
  exact ⟨look_put_self .., fun j hj => look_put_ne _ _ _ hj, rfl⟩

theorem mgRead_arg (s : State) {k : Nat} (hk : k < 4) : s.mgRead (0x010 + 8 * k) = look 0 s.mg.arg k := by
  obtain ⟨hreg, h0, h8, hidx⟩ := argReg_iff hk
  rw [State.mgRead, if_neg h0, if_neg h8, if_pos hreg, hidx]

/-- `mg.cmd` with its status and busy bits, as a number. -/
theorem mgRead_cmd {s : State} (hcmd : s.mg.cmd < 2 ^ 8) (hstatus : s.mg.status < 2 ^ 8) :
    (s.mgRead 0x008).toNat = s.mg.cmd + s.mg.status * 2 ^ 8 + (if s.mg.busy then 1 else 0) * 2 ^ 16 := by
  have hread : s.mgRead 0x008 = dw (s.mg.cmd % 2 ^ 8 + s.mg.status % 2 ^ 8 * 2 ^ 8 + (if s.mg.busy then 2 ^ 16 else 0)) := rfl
  rw [hread, Nat.mod_eq_of_lt hcmd, Nat.mod_eq_of_lt hstatus, dw, BitVec.toNat_ofNat]
  cases s.mg.busy
  · simp only [Bool.false_eq_true, if_false]
    omega
  · simp only [if_true]
    omega

/-- Settles O58: the resets by what they kill, clear and keep, and the window's registers one by one. -/
theorem resetAndManagementRegistersTakeEffect : Obligations.ResetAndManagementRegistersTakeEffect := by
  intro s
  refine ⟨fun cluster trigger hlt hctl => ?_, fun cluster trigger hlt hrec hctl => ?_, fun cluster hno hreset => ?_, fun cluster n hn hreset hno => ?_,
    ⟨_, rfl, restart_keeps s⟩, fun sector rest h hresets => sectorFirmwareSwitch_steps h hresets,
    fun hclosed size reg v => mgWrite_of_closed hclosed size reg v, fun hopen => ⟨fun v => ?_, fun v => ?_, fun v hbusy => ?_,
      fun v hbusy => mgCommand_steps hopen hbusy v, fun k v hk => mgArgument_steps hopen hk v, fun v => exec_mgRegisterWrite hopen 0x058 v⟩,
    (by decide : mgId = 0x02A10576), fun hcmd hstatus => mgRead_cmd hcmd hstatus, rfl, rfl, rfl, rfl, fun k hk => mgRead_arg s hk⟩
  · obtain ⟨_, _, _, _, _, hframe⟩ := State.Kills.resetCluster s cluster trigger
    refine ⟨_, exec_clusterReset_now trigger hlt hctl, fun n hn => ?_,
      fun n hid hcore hres ⟨c, hcrew, hn⟩ => State.resetCluster_killed trigger hid hcore hres hcrew hn, ?_, ?_⟩
    · obtain ⟨c, hc, hr⟩ := s.coreAt_resetCluster trigger hn
      rw [hc]
      exact ⟨hr, rfl, rfl, rfl, rfl, rfl⟩
    · rw [hframe]
    · rw [hframe]
  · refine ⟨_, exec_clusterReset_waits trigger hlt hrec hctl, fun n hn => ?_, rfl, ?_⟩
    · have hcores := coreAt_of_cores (s := s.stopCores (clusterCores cluster))
        (t := { s.stopCores (clusterCores cluster) with fw := { s.fw with resets := s.fw.resets ++ [(cluster, trigger)] } }) rfl n
      rw [State.coreAt_stopCores, if_pos hn] at hcores
      exact hcores
    · rw [State.stopCores_eq]
  · refine ⟨_, exec_resetSweepEnd hno, (congrArg State.mem (resetSweepEnd_eq s cluster) :), fun n hn => ?_⟩
    · obtain ⟨busy, hc⟩ := coreAt_resetSweepEnd hn (hreset n hn)
      rw [hc, Core.leave_eq]
      refine ⟨rfl, rfl, rfl, rfl, rfl, rfl, fun x hx => ?_⟩
      obtain ⟨hx, hq⟩ := List.mem_filter.mp hx
      exact ⟨hx, List.contains_iff_mem.mp hq⟩
  · have hany : ((clusterCores cluster).any fun n => (s.coreAt n).inReset) = true := List.any_eq_true.mpr ⟨n, hn, hreset⟩
    exact ⟨_, exec_resetSweepEnd hno, ((congrArg State.flows (resetSweepEnd_eq s cluster) :)).trans (congrArg State.flows (if_pos hany))⟩
  · rw [exec_eventRingConfig hopen, bits_zero]
    rfl
  · rw [exec_eventRingConfig hopen]
    rfl
  · rw [exec_mgRegisterWrite hopen, hbusy]
    rfl

end Sys2Proof.Machine

/-! SUPPORT. Writes of the registers of device units as steps of their own (R110, R264, R292, R309, R323, R366). -/

namespace Sys2Proof.Machine

open Sys2Proof

/-! Checked writes. -/

/-- A write whose check passes takes effect as a step of its own. -/
theorem event_need {s t : State} {b : Bool} {c : Cause} {fva : DWord} (h : b = true) : event s (need b c fva >>= fun _ => .ok t) = .next t := by
  rw [need_bind h]
  rfl

/-- One whose check fails is ignored. -/
theorem event_need_false {s t : State} {b : Bool} {c : Cause} {fva : DWord} (h : b = false) :
    event s (need b c fva >>= fun _ => .ok t) = .next s := by
  rw [need_bind_false h]
  rfl

/-- The check of `sys.ctxskim`, in the fields that the statement names (R309). -/
theorem skimCheck_iff (v : DWord) :
    (bits v 0 7 == 0 && bits v 22 10 == 0 && bits v 55 9 == 0 && decide (bits v 0 22 + bits v 32 23 ≤ 2 ^ 22)) = true ↔
      bits v 0 7 = 0 ∧ bits v 22 10 = 0 ∧ bits v 55 9 = 0 ∧ bits v 0 22 + bits v 32 23 ≤ 2 ^ 22 := by
  simp only [Bool.and_eq_true, beq_iff_eq, decide_eq_true_eq, and_assoc]

/-- `sys.ctxskim` takes a value in range where the context is drained, and ignores any other write (R309). -/
theorem exec_ctxskimWrite_takes {s : State} {v : DWord}
    (h : bits v 0 7 = 0 ∧ bits v 22 10 = 0 ∧ bits v 55 9 = 0 ∧ bits v 0 22 + bits v 32 23 ≤ 2 ^ 22) (hd : s.drained s.ctxsel.toNat = true) :
    exec (.ctxskimWrite v) s = .next (s.modRow s.ctxsel.toNat fun r => { r with skim := v }) :=
  (event_need ((skimCheck_iff v).mpr h)).trans (congrArg Host.Outcome.next (if_pos hd))

theorem exec_ctxskimWrite_ignores {s : State} {v : DWord}
    (h : ¬ (bits v 0 7 = 0 ∧ bits v 22 10 = 0 ∧ bits v 55 9 = 0 ∧ bits v 0 22 + bits v 32 23 ≤ 2 ^ 22) ∨ s.drained s.ctxsel.toNat = false) :
    exec (.ctxskimWrite v) s = .next s := by
  cases hb : (bits v 0 7 == 0 && bits v 22 10 == 0 && bits v 55 9 == 0 && decide (bits v 0 22 + bits v 32 23 ≤ 2 ^ 22))
  · exact event_need_false hb
  · have hd : s.drained s.ctxSel = false := h.resolve_left fun hbad => hbad ((skimCheck_iff v).mp hb)
    exact (event_need hb).trans (congrArg Host.Outcome.next (if_neg (by rw [hd]; decide)))

/-- The leaves of every context after a write of `sys.fqval` (R323). -/
theorem State.leaf_setFqval (s : State) (v : DWord) (x n : Nat) :
    ((s.setFqval v).rowAt x).leaf n =
      if x = s.ctxsel.toNat ∧ n = bits s.fqsel 0 3 ∧ (s.rowAt s.ctxsel.toNat).locked = false then fqMask n v else (s.rowAt x).leaf n := by
  have hrow : (s.setFqval v).rowAt x = if x = s.ctxsel.toNat then
      (if (s.rowAt s.ctxsel.toNat).locked then s.rowAt s.ctxsel.toNat else
        { s.rowAt s.ctxsel.toNat with
          fq := put 0 (s.rowAt s.ctxsel.toNat).fq (bits s.fqsel 0 3) (fqMask (bits s.fqsel 0 3) v ^^^ fqReset (bits s.fqsel 0 3)) })
      else s.rowAt x := look_put ..
  rw [hrow]
  by_cases hx : x = s.ctxsel.toNat
  · subst hx
    cases hl : (s.rowAt s.ctxsel.toNat).locked
    · by_cases hn : n = bits s.fqsel 0 3
      · subst hn
        simp only [if_true, Bool.false_eq_true, if_false, and_self, CtxRow.leaf, look_put_self, BitVec.xor_assoc, BitVec.xor_self, BitVec.xor_zero]
      · simp only [if_true, Bool.false_eq_true, if_false, hn, false_and, and_false, CtxRow.leaf, look_put_ne _ _ _ hn]
    · simp
  · simp only [hx, if_false, false_and]

/-! The registration of a queue (R264). -/

/-- Bit 0 of a value has no part in its higher fields. -/
theorem bits_of_div_two {a b : DWord} (h : a.toNat / 2 = b.toNat / 2) (lo n : Nat) : bits a (lo + 1) n = bits b (lo + 1) n := by
  rw [bits, bits, pow_succ', ← Nat.div_div_eq_div_mul, ← Nat.div_div_eq_div_mul, h]

theorem bits_or_one (v : DWord) (lo n : Nat) : bits (v ||| 1) (lo + 1) n = bits v (lo + 1) n := by
  refine bits_of_div_two ?_ lo n
  rw [BitVec.toNat_or, Nat.or_div_two]
  exact Nat.or_zero _

theorem bits_and_not_one (v : DWord) (lo n : Nat) : bits (v &&& ~~~1) (lo + 1) n = bits v (lo + 1) n := by
  refine bits_of_div_two ?_ lo n
  rw [BitVec.toNat_and, Nat.and_div_two]
  exact (Nat.and_two_pow_sub_one_eq_mod _ 63).trans (Nat.mod_eq_of_lt (by have := v.isLt; omega))

theorem getLsbD_or_one (v : DWord) : (v ||| 1).getLsbD 0 = true := by simp

theorem getLsbD_and_not_one (v : DWord) : (v &&& ~~~1).getLsbD 0 = false := by simp

/-- Where the control block at a virtual address stands, if the address translates. -/
def State.blockPa (s : State) (cb : Nat) : Nat := ((s.translate false cb).map fun e => (e.at cb).addr).getD (2 ^ 64)

/-- The sector of the wave takes the queue of a control block: on a device page, its fields in range, and with room for it (R263, R264). -/
def State.takesQueue (s : State) (cb : Nat) : Prop :=
  ((s.translate false cb).map fun e => e.loc.kind) = some .device ∧ cbOk (s.cbFields (s.blockPa cb)) = true ∧
    ((s.sector (sectorOf s.w.core)).queues.filter fun q => q.pa != s.blockPa cb).length < 64

/-- The sector's queues with that of a control block registered, as it is known already or anew (R264). -/
def State.registered (s : State) (cb : Nat) (qs : List Queue) : List Queue :=
  let pa := s.blockPa cb
  let home := ((s.translate false cb).map fun e => (e.at cb).slice).getD 0
  let owner := (s.cbFields pa).2.2
  match (s.sector (sectorOf s.w.core)).queues.find? fun q => q.pa == pa with
  | some q => qs.map fun y => if y.pa = pa then { q with cb := cb, slice := home, reg := s.w.ctx, ctx := owner, notified := true } else y
  | none =>
    qs ++ [{ cb := cb, pa := pa, slice := home, reg := s.w.ctx, ctx := owner, cand := none, age := 0, stamp := 0, bad := none, notified := true }]

theorem State.registered_known {s : State} {cb : Nat} {qs : List Queue} {q : Queue}
    (h : ((s.sector (sectorOf s.w.core)).queues.find? fun q => q.pa == s.blockPa cb) = some q) :
    s.registered cb qs = qs.map fun y => if y.pa = s.blockPa cb
      then { q with cb := cb, slice := ((s.translate false cb).map fun e => (e.at cb).slice).getD 0, reg := s.w.ctx
                    ctx := (s.cbFields (s.blockPa cb)).2.2, notified := true } else y := by
  rw [State.registered, h]

theorem State.registered_new {s : State} {cb : Nat} {qs : List Queue} (h : ∀ q ∈ (s.sector (sectorOf s.w.core)).queues, q.pa ≠ s.blockPa cb) :
    s.registered cb qs = qs ++ [{ cb := cb, pa := s.blockPa cb, slice := ((s.translate false cb).map fun e => (e.at cb).slice).getD 0
                                  reg := s.w.ctx, ctx := (s.cbFields (s.blockPa cb)).2.2, cand := none, age := 0, stamp := 0, bad := none
                                  notified := true }] := by
  have hnone : ((s.sector (sectorOf s.w.core)).queues.find? fun q => q.pa == s.blockPa cb) = none :=
    List.find?_eq_none.mpr fun q hq heq => h q hq (beq_iff_eq.mp heq)
  rw [State.registered, hnone]

/-- A registration looks its address up and reads the block at its home, and then takes the queue or refuses it with a record. -/
theorem State.setQreg_register {s : State} {v : DWord} (h : v.getLsbD 0 = false) :
    ∃ u, tlbOnly s u ∧
      (s.takesQueue (bits v 10 42 * 2 ^ 10) → s.setQreg v =
        u.modSector (sectorOf s.w.core) fun x => { x with queues := s.registered (bits v 10 42 * 2 ^ 10) x.queues }) ∧
      (¬ s.takesQueue (bits v 10 42 * 2 ^ 10) → s.setQreg v = u.emitSector (sectorOf s.w.core) 0x0003 [dw (bits v 10 42 * 2 ^ 10)]) := by
  unfold State.setQreg
  extract_lets cb n place pa t old f t' home q
  have ht : tlbOnly s t := .touchTlb ..
  have ht' : tlbOnly s t' := by
    unfold t'
    cases place with
    | none => exact ht
    | some e =>
      show tlbOnly s (if _ then _ else _)
      split
      · exact ht.trans (.trip ..)
      · exact ht
  refine ⟨t', ht', fun hok => ?_, fun hbad => ?_⟩
  · rw [h, if_neg Bool.false_ne_true]
    refine (if_pos hok).trans (congrArg (State.modSector t' n) (funext fun x => ?_))
    show ({ x with queues := _ } : Sector) = _
    congr 1
    unfold State.registered
    show (if old.isSome = true then _ else _) = match old with | some q => _ | none => _
    unfold q
    cases old <;> rfl
  · rw [h, if_neg Bool.false_ne_true]
    exact if_neg hbad

/-- A look-up of an address leaves the queues of each sector. -/
theorem tlbOnly.queues {s u : State} (h : tlbOnly s u) (n : Nat) : (u.sector n).queues = (s.sector n).queues := by
  obtain ⟨-, -, hsector⟩ := h
  rw [hsector n]

/-- A change of a sector's queues reads the queues as they were before the address was looked up. -/
theorem tlbOnly.modQueues {s u : State} (h : tlbOnly s u) (n : Nat) (f : List Queue → List Queue) :
    (u.modSector n fun x => { x with queues := f x.queues }) = u.modSector n fun x => { x with queues := f (s.sector n).queues } := by
  rw [State.modSector, h.queues n]
  rfl

theorem cbOk_iff (s : State) (pa : Nat) : cbOk (s.cbFields pa) = true ↔
    readLe s.mem (pa + 0x208) 8 % 512 = 0 ∧ 4 ≤ readLe s.mem (pa + 0x210) 8 % 32 ∧ readLe s.mem (pa + 0x210) 8 % 32 ≤ 20 := by
  have hbase : readLe s.mem (pa + 0x208) 8 % 2 ^ 52 % 512 = readLe s.mem (pa + 0x208) 8 % 512 := Nat.mod_mod_of_dvd _ (by decide)
  rw [cbOk, Bool.and_eq_true, Bool.and_eq_true, beq_iff_eq, decide_eq_true_iff, decide_eq_true_iff, and_assoc, ← hbase]
  rfl

/-- The write of `sys.ctxctl` (R292), whole where the context is drained. -/
theorem exec_ctxctlWrite (s : State) (v : DWord) : exec (.ctxctlWrite v) s = .next (s.modRow s.ctxsel.toNat fun r =>
    if s.drained s.ctxsel.toNat
    then { r with weight := v.toNat % 2 ^ 8, stop := v.getLsbD 8, repro := v.getLsbD 9, phase := v.toNat / 2 ^ 12 % 2 ^ 16 }
    else { r with weight := v.toNat % 2 ^ 8, stop := v.getLsbD 8 }) := by
  rw [← bits_zero v 8]
  exact congrArg Host.Outcome.next (s.setCtxctl_eq v)

/-- The write of `sys.xthr` (R110), where the selected format counts. -/
theorem exec_xthrWrite {s : State} (v : DWord) (hlo : 1 ≤ bits s.row.xsel 4 4) (hhi : bits s.row.xsel 4 4 ≤ 9) :
    exec (.xthrWrite v) s = .next { s with thresholds := put 0 s.thresholds s.xselKey (v.toNat % 2 ^ 40) } := by
  rw [← bits_zero v 40]
  exact event_need (by simp [hlo, hhi])

/-- The steps of `sys.qreg` wait as `csrw` does (R264, R347). -/
theorem exec_queueUnregister {s : State} {v : DWord} (hw : s.qregWaits (v ||| 1) = false) :
    exec (.queueUnregister v) s = .next (s.setQreg (v ||| 1)) := congrArg Host.Outcome.next (if_neg (by rw [hw]; decide))

theorem exec_queueRegister {s : State} {v : DWord} (hw : s.qregWaits (v &&& ~~~1) = false) :
    exec (.queueRegister v) s = .next (s.setQreg (v &&& ~~~1)) := congrArg Host.Outcome.next (if_neg (by rw [hw]; decide))

/-- Unregistration removes the queue of the block, and that of the wave's context at the same virtual address. -/
theorem State.setQreg_unregister {s : State} {v : DWord} (h : v.getLsbD 0 = true) :
    s.setQreg v = (s.touchTlb false (bits v 10 42 * 2 ^ 10)).modSector (sectorOf s.w.core) fun x =>
      { x with queues := x.queues.filter fun q =>
          !(q.pa == s.blockPa (bits v 10 42 * 2 ^ 10) || (q.reg == s.w.ctx && q.cb == bits v 10 42 * 2 ^ 10)) } :=
  if_pos h

/-- Settles O49: each register by the equation of its own write; one of `sys.qreg` is a look-up of its address followed by one change of the
sector. -/
theorem deviceRegisterWriteTakesEffect : Obligations.DeviceRegisterWriteTakesEffect := by
  intro s v c r
  refine ⟨exec_xthrWrite v, ?_, fun hd => (exec_ctxctlWrite s v).trans ?_, fun hd => (exec_ctxctlWrite s v).trans ?_,
    ⟨exec_ctxskimWrite_takes, exec_ctxskimWrite_ignores⟩, ⟨_, rfl, rfl, fun x n => ?_⟩, event_need, event_need_false⟩
  · intro cb n old pa valid owner home
    have hunreg : bits (v ||| 1) 10 42 * 2 ^ 10 = cb := congrArg (· * 2 ^ 10) (bits_or_one v 9 42)
    have hreg : bits (v &&& ~~~1) 10 42 * 2 ^ 10 = cb := congrArg (· * 2 ^ 10) (bits_and_not_one v 9 42)
    obtain ⟨u, hu, htakes, hrefuses⟩ := s.setQreg_register (getLsbD_and_not_one v)
    rw [hreg] at htakes hrefuses
    have htake : s.takesQueue cb ↔ valid ∧ (old.filter fun q => q.pa != pa).length < 64 := by
      unfold State.takesQueue
      rw [cbOk_iff]
      exact and_assoc.symm
    refine ⟨fun hw => congrArg Host.Outcome.next (if_pos hw), fun hw => congrArg Host.Outcome.next (if_pos hw), fun hw => ?_, fun hw hbad => ?_,
      fun hw hvalid hroom => ?_⟩
    · have ht := tlbOnly.touchTlb s false cb
      rw [exec_queueUnregister hw, State.setQreg_unregister (getLsbD_or_one v), hunreg]
      exact ⟨_, ht, congrArg Host.Outcome.next (ht.modQueues n _)⟩
    · refine ⟨u, hu, (exec_queueRegister hw).trans (congrArg Host.Outcome.next (hrefuses fun ht => ?_))⟩
      obtain ⟨hvalid, hroom⟩ := htake.mp ht
      exact hbad.elim (fun hn => hn hvalid) fun hfull => absurd hroom (Nat.not_lt.mpr hfull)
    · have he := (exec_queueRegister hw).trans (congrArg Host.Outcome.next ((htakes (htake.mpr ⟨hvalid, hroom⟩)).trans (hu.modQueues n _)))
      refine ⟨fun q hq => ⟨u, hu, he.trans ?_⟩, fun hnew => ⟨u, hu, he.trans ?_⟩⟩
      · rw [State.registered_known hq]
        rfl
      · rw [State.registered_new hnew]
        rfl
  · rw [hd]
    rfl
  · rw [hd]
    rfl
  · exact (s.leaf_setFqval v x n).trans (by rw [fqMask_eq])

end Sys2Proof.Machine

/-! SUPPORT. Where the cells of a plane lie (R136, R138, R139), and the additions of redundant accumulators (R90, R161, R162, R165). -/

namespace Sys2Proof.Machine

open Sys2Proof

/-! Cells of a footprint (R136, R138, R139). -/

/-- The fold of an axis: an index within the cells of all lanes gives a lane of the grid and one of its cells. -/
theorem foldMap_lt (crinkled : Bool) {g c i : Nat} (hg : 0 < g) (hi : i < c * g) : (foldMap crinkled g c i).1 < g ∧ (foldMap crinkled g c i).2 < c := by
  have hc : 0 < c := Nat.pos_of_mul_pos_right (Nat.zero_lt_of_lt hi)
  cases crinkled
  · exact ⟨Nat.mod_lt _ hg, Nat.div_lt_of_lt_mul (Nat.mul_comm c g ▸ hi)⟩
  · exact ⟨Nat.div_lt_of_lt_mul hi, Nat.mod_lt _ hc⟩

/-- An index is known by its lane and its cell. -/
theorem foldMap_injective (crinkled : Bool) (g c : Nat) : Function.Injective (foldMap crinkled g c) := by
  intro i j h
  cases crinkled
  · obtain ⟨hmod, hdiv⟩ := Prod.mk.inj h
    rw [← Nat.div_add_mod i g, ← Nat.div_add_mod j g, hdiv, hmod]
  · obtain ⟨hdiv, hmod⟩ := Prod.mk.inj h
    rw [← Nat.div_add_mod i c, ← Nat.div_add_mod j c, hdiv, hmod]

/-- A pair of coordinates is known by its place in row-major order. -/
theorem rowMajor_inj {n a b a' b' : Nat} (hb : b < n) (hb' : b' < n) (h : a * n + b = a' * n + b') : a = a' ∧ b = b' := by
  have hn : 0 < n := Nat.zero_lt_of_lt hb
  have ha : a = a' := by
    have := congrArg (· / n) h
    simpa [Nat.add_comm (_ * n), Nat.add_mul_div_right _ _ hn, Nat.div_eq_of_lt hb, Nat.div_eq_of_lt hb'] using this
  exact ⟨ha, by subst ha; omega⟩

theorem rowMajor_lt {m n a b : Nat} (ha : a < m) (hb : b < n) : a * n + b < m * n := by
  calc a * n + b < (a + 1) * n := by rw [Nat.succ_mul]; omega
    _ ≤ m * n := Nat.mul_le_mul_right n ha

theorem mem_cellsOf {w : Wave} {d : Desc} {c : Nat × Nat × Nat} :
    c ∈ w.cellsOf d ↔ c.1 < d.n ∧ c.2.1 < w.cells d false * w.rows ∧ c.2.2 < w.cells d true * w.cols := by
  obtain ⟨o, i, j⟩ := c
  simp [Wave.cellsOf]

/-- The place of a cell within its plane in its lane, in elements. -/
def Wave.cellIndex (w : Wave) (d : Desc) (c : Nat × Nat × Nat) : Nat :=
  (foldMap d.rfold w.rows (w.cells d false) c.2.1).2 * w.cells d true + (foldMap d.cfold w.cols (w.cells d true) c.2.2).2

theorem Wave.rows_pos (w : Wave) : 0 < w.rows := Nat.two_pow_pos _

theorem Wave.cols_pos (w : Wave) : 0 < w.cols := Nat.two_pow_pos _

theorem Wave.cellIndex_lt {w : Wave} {d : Desc} {c : Nat × Nat × Nat} (h : c ∈ w.cellsOf d) :
    w.cellIndex d c < w.cells d false * w.cells d true := by
  obtain ⟨-, hi, hj⟩ := mem_cellsOf.mp h
  exact rowMajor_lt (foldMap_lt _ w.rows_pos hi).2 (foldMap_lt _ w.cols_pos hj).2

/-- Two cells of one plane in one lane are one cell where their places are one. -/
theorem Wave.cell_eq {w : Wave} {d : Desc} {c e : Nat × Nat × Nat} (hc : c ∈ w.cellsOf d) (he : e ∈ w.cellsOf d) (ho : c.1 = e.1)
    (hlane : (w.place d c.1 c.2.1 c.2.2).1 = (w.place d e.1 e.2.1 e.2.2).1) (hcell : w.cellIndex d c = w.cellIndex d e) : c = e := by
  obtain ⟨-, hci, hcj⟩ := mem_cellsOf.mp hc
  obtain ⟨-, hei, hej⟩ := mem_cellsOf.mp he
  obtain ⟨hcx, hcb⟩ := foldMap_lt d.cfold w.cols_pos hcj
  obtain ⟨hex, heb⟩ := foldMap_lt d.cfold w.cols_pos hej
  obtain ⟨hy, hx⟩ := rowMajor_inj hcx hex hlane
  obtain ⟨ha, hb⟩ := rowMajor_inj hcb heb hcell
  have hi : c.2.1 = e.2.1 := foldMap_injective _ _ _ (Prod.ext hy ha)
  have hj : c.2.2 = e.2.2 := foldMap_injective _ _ _ (Prod.ext hx hb)
  exact Prod.ext ho (Prod.ext hi hj)

/-- Elements at two different indices lie apart. -/
theorem apart_of_index_lt {x k m n : Nat} (h : k < m) : x + k * n + n ≤ x + m * n := by
  have := Nat.mul_le_mul_right n h
  rw [Nat.succ_mul] at this
  omega

/-- A cell lies within its plane, and the planes of a footprint lie apart (R136, R139). -/
theorem apart_of_plane_lt {w : Wave} {d : Desc} (hd : d.n = 1 ∨ (w.planeBytes d + 15) / 16 * 16 ≤ 128 * d.stride) {c e : Nat × Nat × Nat}
    (hc : c ∈ w.cellsOf d) (he : e ∈ w.cellsOf d) (ho : c.1 < e.1) :
    (w.place d c.1 c.2.1 c.2.2).2 + nibs d.fmt ≤ (w.place d e.1 e.2.1 e.2.2).2 := by
  have hn : d.n ≠ 1 := by
    have := (mem_cellsOf.mp he).1
    omega
  have hbytes : (w.planeBytes d + 15) / 16 * 16 ≤ d.step := (hd.resolve_left hn).trans_eq (if_neg hn).symm
  have hplane : w.cells d false * w.cells d true * nibs d.fmt ≤ 2 * d.step := by
    have : (w.cells d false * w.cells d true * nibs d.fmt + 1) / 2 = w.planeBytes d := rfl
    omega
  have hcell : w.cellIndex d c * nibs d.fmt + nibs d.fmt ≤ w.cells d false * w.cells d true * nibs d.fmt := by
    rw [← Nat.succ_mul]
    exact Nat.mul_le_mul_right _ (Wave.cellIndex_lt hc)
  have hstep : d.step * c.1 + d.step ≤ d.step * e.1 := by
    rw [← Nat.mul_succ]
    exact Nat.mul_le_mul_left _ ho
  have hp : (w.place d c.1 c.2.1 c.2.2).2 = 2 * (d.base + d.step * c.1) + w.cellIndex d c * nibs d.fmt := rfl
  have hq : (w.place d e.1 e.2.1 e.2.2).2 = 2 * (d.base + d.step * e.1) + w.cellIndex d e * nibs d.fmt := rfl
  rw [hp, hq]
  omega

theorem planeCellsDoNotOverlapClaim : PlaneCellsDoNotOverlapClaim := by
  intro w d _ _ hd c hc e he hne p q
  by_cases hlane : p.1 = q.1
  · right
    rcases Nat.lt_trichotomy c.1 e.1 with ho | ho | ho
    · exact .inl (apart_of_plane_lt hd hc he ho)
    · have hp : p.2 = 2 * (d.base + d.step * c.1) + w.cellIndex d c * nibs d.fmt := rfl
      have hq : q.2 = 2 * (d.base + d.step * e.1) + w.cellIndex d e * nibs d.fmt := rfl
      rw [hp, hq, ho]
      rcases Nat.lt_trichotomy (w.cellIndex d c) (w.cellIndex d e) with hk | hk | hk
      · exact .inl (apart_of_index_lt hk)
      · exact absurd (Wave.cell_eq hc he ho hlane hk) hne
      · exact .inr (apart_of_index_lt hk)
    · exact .inr (apart_of_plane_lt hd he hc ho)
  · exact .inl hlane

/-! Additions of accumulators (R90, R161, R162, R165). -/

/-- A full adder of one bit. -/
theorem bit_xor_add_two_mul_majority :
    ∀ x y z : Bool, ((x != y) != z).toNat + 2 * (x && y || x && z || y && z).toNat = x.toNat + y.toNat + z.toNat := by decide

/-- A full adder over the bits of three numbers: their sum is the sum bits and twice the carries. -/
theorem xor_add_two_mul_majority (n : Nat) : ∀ a b c : Nat, a < 2 ^ n → b < 2 ^ n → c < 2 ^ n →
    (a ^^^ b ^^^ c) + 2 * (a &&& b ||| a &&& c ||| b &&& c) = a + b + c := by
  induction n with
  | zero =>
    intro a b c ha hb hc
    obtain ⟨rfl, rfl, rfl⟩ : a = 0 ∧ b = 0 ∧ c = 0 := by omega
    rfl
  | succ n ih =>
    intro a b c ha hb hc
    induction a using Nat.bitCasesOn with | _ x a
    induction b using Nat.bitCasesOn with | _ y b
    induction c using Nat.bitCasesOn with | _ z c
    rw [Nat.bit_lt_two_pow_succ_iff] at ha hb hc
    have hbit := bit_xor_add_two_mul_majority x y z
    have hrest := ih a b c ha hb hc
    rw [Nat.xor_bit, Nat.xor_bit, Nat.land_bit, Nat.land_bit, Nat.land_bit, Nat.lor_bit, Nat.lor_bit]
    simp only [Nat.bit_val]
    omega

/-- The sum bits of the carry-save step (R162). -/
def AccEntry.sum (e : AccEntry) (x : BitVec 64) : BitVec 64 := e.s ^^^ e.c ^^^ x

/-- The bits that it carries, each to the place above its own. -/
def AccEntry.carry (e : AccEntry) (x : BitVec 64) : BitVec 64 := (e.s &&& e.c) ||| (e.s &&& x) ||| (e.c &&& x)

theorem AccEntry.sum_add_carry (e : AccEntry) (x : BitVec 64) :
    (e.sum x).toNat + 2 * (e.carry x).toNat = e.s.toNat + e.c.toNat + x.toNat := by
  simp only [AccEntry.sum, AccEntry.carry, BitVec.toNat_xor, BitVec.toNat_or, BitVec.toNat_and]
  exact xor_add_two_mul_majority 64 _ _ _ e.s.isLt e.c.isLt x.isLt

/-- The value of an entry is the sum of its three parts, modulo 2^70. -/
theorem AccEntry.value_modEq (e : AccEntry) : e.value ≡ e.s.toNat + e.c.toNat + e.t.toInt * 2 ^ 64 [ZMOD 2 ^ 70] := by
  have h : e.value % 2 ^ 70 = ((e.s.toNat + e.c.toNat + e.t.toNat * 2 ^ 64 : Nat) : Int) % 2 ^ 70 := by
    rw [AccEntry.value, BitVec.toInt_ofNat']
    exact Int.bmod_emod
  have ht : e.t.toInt = e.t.toNat ∨ e.t.toInt = e.t.toNat - 64 := by
    rw [BitVec.toInt_eq_toNat_cond]
    split
    · exact .inl rfl
    · exact .inr rfl
  rw [Int.ModEq, h]
  omega

/-- The top field keeps its sum modulo 2^6, so that the value keeps it modulo 2^70. -/
theorem top_modEq (n : Int) : (BitVec.ofInt 6 n).toInt * 2 ^ 64 ≡ n * 2 ^ 64 [ZMOD 2 ^ 70] := by
  have h : (BitVec.ofInt 6 n).toInt ≡ n [ZMOD 2 ^ 6] := by
    rw [BitVec.toInt_ofInt]
    exact Int.bmod_emod
  exact h.mul_right'

/-- A shift loses the highest bit alone. -/
theorem toNat_shiftLeft_one (m : BitVec 64) : ((m <<< 1).toNat : Int) = 2 * m.toNat - 2 ^ 64 * if m.getLsbD 63 then 1 else 0 := by
  rw [BitVec.toNat_shiftLeft, ← show m.msb = m.getLsbD 63 from BitVec.msb_eq_getLsbD_last m, BitVec.msb_eq_decide]
  have := m.isLt
  by_cases h : 2 ^ 63 ≤ m.toNat
  · simp only [decide_eq_true h, if_true, Nat.shiftLeft_eq]
    omega
  · simp only [decide_eq_false h, Bool.false_eq_true, if_false, Nat.shiftLeft_eq]
    omega

/-- An addend as the carry-save step takes it. -/
def addend (x : BitVec 64) (signed : Bool) : Int := if signed then x.toInt else x.toNat

theorem addend_eq (x : BitVec 64) (signed : Bool) :
    addend x signed = x.toNat - 2 ^ 64 * if (signed && x.getLsbD 63) = true then 1 else 0 := by
  rw [addend, BitVec.toInt_eq_msb_cond, show x.msb = x.getLsbD 63 from BitVec.msb_eq_getLsbD_last x]
  cases signed <;> cases x.getLsbD 63 <;> simp

/-- The carry-save step is the one that R162 spells out. -/
theorem AccEntry.step_eq_stepOf (e : AccEntry) (x : BitVec 64) (signed : Bool) : e.step x signed = stepOf e x signed := by
  have hm (m : BitVec 64) : m.msb = m.getLsbD 63 := BitVec.msb_eq_getLsbD_last m
  simp only [AccEntry.step, topAdd, stepOf, hm, Bool.decide_or, Int.add_sub_assoc]

/-- A carry-save step adds its addend: what the shift loses the top field takes in, and what it reads of a signed addend it takes off. -/
theorem stepOf_value_modEq (e : AccEntry) (x : BitVec 64) (signed : Bool) :
    (stepOf e x signed).value ≡ e.value + addend x signed [ZMOD 2 ^ 70] := by
  have hsum : ((e.sum x).toNat : Int) + 2 * (e.carry x).toNat = e.s.toNat + e.c.toNat + x.toNat := by exact_mod_cast e.sum_add_carry x
  have hshift := toNat_shiftLeft_one (e.carry x)
  have haddend := addend_eq x signed
  set lost : Int := if (e.carry x).getLsbD 63 then 1 else 0
  set sign : Int := if (signed && x.getLsbD 63) = true then 1 else 0
  calc (stepOf e x signed).value
    _ ≡ (e.sum x).toNat + (e.carry x <<< 1).toNat + (BitVec.ofInt 6 (e.t.toInt + lost - sign)).toInt * 2 ^ 64 [ZMOD 2 ^ 70] :=
      AccEntry.value_modEq _
    _ ≡ (e.sum x).toNat + (e.carry x <<< 1).toNat + (e.t.toInt + lost - sign) * 2 ^ 64 [ZMOD 2 ^ 70] := (top_modEq _).add_left _
    _ = e.s.toNat + e.c.toNat + e.t.toInt * 2 ^ 64 + addend x signed := by rw [hshift, haddend]; linear_combination hsum
    _ ≡ e.value + addend x signed [ZMOD 2 ^ 70] := e.value_modEq.symm.add_right _

/-- The two carry-save steps that a raw addition makes before it adds the top fields (R165). -/
def AccEntry.rawSteps (e i : AccEntry) : AccEntry := stepOf (stepOf e i.s false) i.c false

theorem AccEntry.rawAdd_eq (e i : AccEntry) : e.rawAdd i =
    { e.rawSteps i with
      t := BitVec.ofInt 6 ((e.rawSteps i).t.toInt + i.t.toInt)
      w := (e.rawSteps i).w || decide ((e.rawSteps i).t.toInt + i.t.toInt < -32 ∨ 31 < (e.rawSteps i).t.toInt + i.t.toInt) || i.w
      n := e.n || i.n, p := e.p || i.p, m := e.m || i.m } := by
  rw [Bool.decide_or, AccEntry.rawSteps, ← AccEntry.step_eq_stepOf, ← AccEntry.step_eq_stepOf]
  rfl

theorem AccEntry.rawSteps_value_modEq (e i : AccEntry) : (e.rawSteps i).value ≡ e.value + i.s.toNat + i.c.toNat [ZMOD 2 ^ 70] :=
  (stepOf_value_modEq _ i.c false).trans ((stepOf_value_modEq e i.s false).add_right _)

theorem AccEntry.rawAdd_value_modEq (e i : AccEntry) : (e.rawAdd i).value ≡ e.value + i.value [ZMOD 2 ^ 70] := by
  set y := e.rawSteps i
  calc (e.rawAdd i).value
    _ ≡ y.s.toNat + y.c.toNat + (BitVec.ofInt 6 (y.t.toInt + i.t.toInt)).toInt * 2 ^ 64 [ZMOD 2 ^ 70] := by
      rw [AccEntry.rawAdd_eq]
      exact AccEntry.value_modEq _
    _ ≡ y.s.toNat + y.c.toNat + (y.t.toInt + i.t.toInt) * 2 ^ 64 [ZMOD 2 ^ 70] := (top_modEq _).add_left _
    _ = y.s.toNat + y.c.toNat + y.t.toInt * 2 ^ 64 + i.t.toInt * 2 ^ 64 := by ring
    _ ≡ y.value + i.t.toInt * 2 ^ 64 [ZMOD 2 ^ 70] := y.value_modEq.symm.add_right _
    _ ≡ e.value + i.s.toNat + i.c.toNat + i.t.toInt * 2 ^ 64 [ZMOD 2 ^ 70] := (e.rawSteps_value_modEq i).add_right _
    _ = e.value + (i.s.toNat + i.c.toNat + i.t.toInt * 2 ^ 64) := by ring
    _ ≡ e.value + i.value [ZMOD 2 ^ 70] := i.value_modEq.symm.add_left _

/-- W after a raw addition: set by a step, by the image, or where the top field leaves its range (R165). -/
theorem AccEntry.rawAdd_w_iff (e i : AccEntry) : (e.rawAdd i).w = true ↔ (e.rawSteps i).w = true ∨ i.w = true ∨
    (e.rawSteps i).t.toInt + i.t.toInt < -32 ∨ 31 < (e.rawSteps i).t.toInt + i.t.toInt := by
  rw [AccEntry.rawAdd_eq]
  simp only [Bool.or_eq_true, decide_eq_true_eq]
  tauto

/-! Raw images (R90, R182). -/

/-- The lowest field of what stands above bit `i`, and what stands above that field. -/
theorem field_of_eq {x lo hi i k j : Nat} (hx : x / 2 ^ i = lo + hi * 2 ^ k) (hlo : lo < 2 ^ k) (hj : i + k = j) :
    x / 2 ^ i % 2 ^ k = lo ∧ x / 2 ^ j = hi := by
  subst hj
  rw [pow_add, ← Nat.div_div_eq_div_mul, hx, Nat.add_mul_mod_self_right, Nat.mod_eq_of_lt hlo, Nat.add_mul_div_right _ _ (Nat.two_pow_pos k),
    Nat.div_eq_of_lt hlo, Nat.zero_add]
  exact ⟨rfl, rfl⟩

/-- The image of an entry, field above field; bits 134 and 135 and bits 140 to 143 are clear. -/
theorem AccEntry.image_eq (e : AccEntry) (a : BitVec 10) : e.image a / 2 ^ 0 =
    e.s.toNat + (e.c.toNat + (e.t.toNat + (0 + (e.w.toNat + (e.n.toNat + (e.p.toNat + (e.m.toNat + (0 + (a.toNat + 0 * 2 ^ 10)
      * 2 ^ 4) * 2 ^ 1) * 2 ^ 1) * 2 ^ 1) * 2 ^ 1) * 2 ^ 2) * 2 ^ 6) * 2 ^ 64) * 2 ^ 64 := by
  have hmark : ∀ x : Bool, (if x then 1 else 0) = x.toNat := by decide
  simp only [AccEntry.image, hmark, pow_zero, Nat.div_one]
  ring

/-- An entry and its anchor are read back from their image. -/
theorem imageEntry_image (e : AccEntry) (a : BitVec 10) : imageEntry (e.image a) = (e, a) := by
  have hmark : ∀ x : Bool, (x.toNat == 1) = x := by decide
  obtain ⟨hs, h⟩ := field_of_eq (e.image_eq a) e.s.isLt rfl
  obtain ⟨hc, h⟩ := field_of_eq h e.c.isLt rfl
  obtain ⟨ht, h⟩ := field_of_eq h e.t.isLt rfl
  obtain ⟨-, h⟩ := field_of_eq h (by decide) rfl
  obtain ⟨hw, h⟩ := field_of_eq h e.w.toNat_lt rfl
  obtain ⟨hn, h⟩ := field_of_eq h e.n.toNat_lt rfl
  obtain ⟨hp, h⟩ := field_of_eq h e.p.toNat_lt rfl
  obtain ⟨hm, h⟩ := field_of_eq h e.m.toNat_lt rfl
  obtain ⟨-, h⟩ := field_of_eq h (by decide) rfl
  obtain ⟨ha, -⟩ := field_of_eq h a.isLt rfl
  simp only [imageEntry, hs, hc, ht, hw, hn, hp, hm, ha, hmark, BitVec.ofNat_toNat, BitVec.setWidth_eq]

theorem accumulatorAdditionIsExactClaim : AccumulatorAdditionIsExactClaim := by
  refine ⟨fun e x signed => ⟨e.step_eq_stepOf x signed, ?_⟩, fun e i => ?_, imageEntry_image⟩
  · rw [e.step_eq_stepOf x signed]
    exact Int.emod_eq_emod_iff_emod_sub_eq_zero.mp (stepOf_value_modEq e x signed)
  · have h := e.rawAdd_eq i
    exact ⟨Int.emod_eq_emod_iff_emod_sub_eq_zero.mp (e.rawAdd_value_modEq i),
      ⟨e.rawAdd_w_iff i, (congrArg AccEntry.t h :), (congrArg AccEntry.s h :), (congrArg AccEntry.c h :)⟩,
      congrArg AccEntry.n h, congrArg AccEntry.p h, congrArg AccEntry.m h⟩

/-- Settles O33: a cell is known by its lane and its place there; each addition is a full adder whose lost bits the top field takes in. -/
theorem planeAndAccumulatorArithmetic : Obligations.PlaneAndAccumulatorArithmetic :=
  ⟨planeCellsDoNotOverlapClaim, accumulatorAdditionIsExactClaim⟩

end Sys2Proof.Machine

/-! SUPPORT. Words that round, packs and unpacks (R96 to R98, R105, R111, R127): how a word ends that counts kinds, and what an unpack writes. -/

namespace Sys2Proof.Machine

open Sys2Proof

/-! How a word ends that writes results and counts their kinds (R105, R111). -/

/-- The check of FPTRAP passes where no enabled kind occurred, and traps with the enabled kinds where one did (R111). -/
theorem fptrapCheck_ok {s : State} {ks : List (BitVec 4)} (h : trappedKinds s ks = 0) : fptrapCheck s.run.fptrap ks = .ok () :=
  if_pos (beq_iff_eq.mpr h)

theorem fptrapCheck_traps {s : State} {ks : List (BitVec 4)} (h : trappedKinds s ks ≠ 0) :
    fptrapCheck s.run.fptrap ks = trap .fptrap ((trappedKinds s ks).setWidth 64) :=
  if_neg fun hk => h (beq_iff_eq.mp hk)

/-- Pops of several queues change the queues alone. -/
theorem Wave.pops_eq (w : Wave) (ns : List Nat) (lanes : List Nat) :
    ns.foldl (fun x n => x.pop n 1 lanes) w = { w with q := (ns.foldl (fun x n => x.pop n 1 lanes) w).q } := by
  induction ns generalizing w with
  | nil => rfl
  | cons n ns ih => exact ih (w.pop n 1 lanes)

theorem State.popSources_eq (s : State) (op : Nat) (w : LaneWord) (lanes : List Nat) :
    s.popSources op w lanes = { s with w := { s.w with q := (s.popSources op w lanes).w.q } } :=
  congrArg (fun x => ({ s with w := x } : State)) (s.w.pops_eq ..)

/-- The state after a word's results, before its counts: its source queues popped, its destination written. -/
def State.withResults (s : State) (op : Nat) (w : LaneWord) (val : Nat → Word) : State :=
  (s.popSources op w (s.w.active w.guard)).writeDst w.dst false ((s.w.active w.guard).map fun L => (L, val L))

theorem State.withResults_v32 (s : State) (op : Nat) (w : LaneWord) (val : Nat → Word) (r : Nat) {L : Nat} (hL : L < 16384) :
    (s.withResults op w val).w.v32 r L = s.w.regsAfter w.dst (s.w.active w.guard) val r L := by
  refine (State.writeDst_checked _ w.dst val (lanes := s.w.active w.guard) fun _ => Wave.lt_of_mem_active).1 r L hL |>.trans ?_
  rw [State.popSources_eq]
  cases w.dst <;> rfl

theorem State.withResults_q (s : State) (op : Nat) (w : LaneWord) (val : Nat → Word) :
    (s.withResults op w val).w.q = (s.w.traffic op w ((s.w.active w.guard).map fun L => (L, val L))).q := by
  rw [State.withResults, State.writeDst_queues, Wave.traffic]
  cases w.dst <;> rfl

/-- Pops and then results change registers and queues alone. -/
theorem registersAndQueues_trans {s t u : State} (h : t = { s with w := { s.w with q := t.w.q } })
    (k : u = { t with w := { t.w with v := u.w.v, q := u.w.q } }) : u = { s with w := { s.w with v := u.w.v, q := u.w.q } } :=
  k.trans (by rw [h])

theorem State.withResults_eq (s : State) (op : Nat) (w : LaneWord) (val : Nat → Word) :
    s.withResults op w val = { s with w := { s.w with v := (s.withResults op w val).w.v, q := (s.withResults op w val).w.q } } :=
  registersAndQueues_trans (s.popSources_eq op w _) (State.writeDst_checked _ w.dst val fun _ => Wave.lt_of_mem_active).2

/-- A word whose checks have passed and whose results are there: an enabled kind stops it before any effect, else it writes and counts. -/
theorem counts_or_traps {i : Instr} {s : State} {op : Nat} {w : LaneWord} {val : Nat → Word} {fmt : Nat} {ks : List (BitVec 4)}
    (he : exec i s = finishLane w.mark s (fptrapCheck s.run.fptrap ks >>= fun _ => .ok ((s.withResults op w val).modW (·.addKinds fmt ks)))) :
    (trappedKinds s ks = 0 → LaneWrites i s op w val (s.w.addKinds fmt ks).counts) ∧
      (trappedKinds s ks ≠ 0 → LaneTraps i s .fptrap ((trappedKinds s ks).setWidth 64)) := by
  refine ⟨fun h => ?_, fun h => ?_⟩
  · rw [fptrapCheck_ok h] at he
    refine ⟨_, he, fun r L hL => s.withResults_v32 op w val r hL, s.withResults_q op w val, ?_⟩
    conv_lhs => rw [s.withResults_eq]
    rfl
  · rw [fptrapCheck_traps h] at he
    exact he

/-! Words of one element per lane (R96, R98, R127). -/

/-- Once its checks have passed, a checked word that counts in a format. -/
theorem elementwise_eq {s : State} {w : LaneWord} {op tyA fmt : Nat} {f : Word → Word → Word → Res FRes} {r : Nat → FRes}
    (hready : s.laneReady op w false)
    (hf : ∀ L ∈ s.w.active w.guard, f (s.src tyA w.a L) (s.src tyA w.b L) (s.src tyA w.c L) = .ok (r L)) (hfmt : 0 < fmt) :
    elementwise op w tyA fmt false f s = finishLane w.mark s (fptrapCheck s.run.fptrap ((s.w.active w.guard).map fun L => (r L).kinds) >>=
      fun _ => .ok ((s.withResults op w fun L => BitVec.ofNat 32 (r L).bits).modW
        (·.addKinds fmt ((s.w.active w.guard).map fun L => (r L).kinds)))) := by
  obtain ⟨hreg, hpop, hdst⟩ := hready
  have hes : (s.w.active w.guard).mapM (fun L => (f (s.src tyA w.a L) (s.src tyA w.b L) (s.src tyA w.c L)).map fun r => (L, r)) =
      .ok ((s.w.active w.guard).map fun L => (L, r L)) := mapM_eq_ok fun L hL => by rw [hf L hL]; rfl
  have hks : ((s.w.active w.guard).map fun L => (L, r L)).map (·.2.kinds) = (s.w.active w.guard).map fun L => (r L).kinds := List.map_map
  have hws : ((s.w.active w.guard).map fun L => (L, r L)).map (fun e => (e.1, BitVec.ofNat 32 e.2.bits)) =
      (s.w.active w.guard).map fun L => (L, BitVec.ofNat 32 (r L).bits) := List.map_map
  rw [elementwise, ok_bind hreg, ok_bind (forM_eq_ok hpop), ok_bind hdst, ok_bind hes, hks, hws]
  simp only [if_neg hfmt.ne']
  rfl

/-- Each word that rounds is a word of one element per lane. -/
theorem exec_roundedOps (s : State) (w : LaneWord) : ∀ x ∈ roundedOps w,
    exec x.1 s = elementwise x.2.1 w x.2.2.1 x.2.2.2.1 false x.2.2.2.2 s := by
  simp only [roundedOps, List.forall_mem_cons]
  exact ⟨rfl, rfl, rfl, rfl, rfl, rfl, rfl, rfl, rfl, rfl, rfl, by simp⟩

theorem roundedWordWritesAndCountsClaim : RoundedWordWritesAndCountsClaim := fun s w _ x hx hready hr hfmt =>
  counts_or_traps ((exec_roundedOps s w x hx).trans (elementwise_eq hready hr hfmt))

/-! Packs (R97). -/

/-- A list of results is what a part of a meaning gives over a run of registers. -/
theorem mapM_run_eq_ok {f : Nat → Res FRes} {base : Nat} {l : List FRes} (h : ∀ j x, l[j]? = some x → f (base + j) = .ok x) :
    ((List.range l.length).map (base + ·)).mapM f = .ok l := by
  have hl : ((List.range l.length).map (base + ·)).map (fun k => l.getD (k - base) ⟨0, 0⟩) = l :=
    List.ext_getElem (by simp) fun j _ hj => by simp [hj]
  refine (mapM_eq_ok (g := fun k => l.getD (k - base) ⟨0, 0⟩) fun k hk => ?_).trans (congrArg Except.ok hl)
  obtain ⟨j, hj, rfl⟩ := List.mem_map.mp hk
  have hj := List.mem_range.mp hj
  exact h j _ (by simp [hj])

/-- The results of a pack, once its checks have passed. -/
def packed (n : Nat) (es : Nat → List FRes) (L : Nat) : Word := BitVec.ofNat 32 (concatBits (32 / n) ((es L).map (·.bits)))

theorem exec_pack_eq {s : State} {w : LaneWord} {es : Nat → List FRes} {r : BitVec 9} (ha : w.a = .v r)
    (hreg : s.regCheck 0x201 w false = .ok ()) (hdst : dstCheck s w.dst (s.w.active w.guard) = .ok ())
    (hes : ∀ L ∈ s.w.active w.guard, (es L).length = packN w.ty ∧ ∀ j x, (es L)[j]? = some x →
      cvtFn w.ty (if w.ty = 9 then 1 else 3) (rndOf w) .rne (satOf w) (s.w.v32 (r.toNat + j) L) = .ok x) :
    exec (.pack w) s =
      finishLane w.mark s (fptrapCheck s.run.fptrap ((s.w.active w.guard).flatMap fun L => (es L).map (·.kinds)) >>= fun _ =>
        .ok ((s.withResults 0x201 w (packed (packN w.ty) es)).modW
          (·.addKinds w.ty ((s.w.active w.guard).flatMap fun L => (es L).map (·.kinds))))) := by
  have hpops : s.popSources 0x201 w (s.w.active w.guard) = s := by
    have hq : queuesOf (wordSources 0x201 w) = [] := by
      show queuesOf [w.a] = []
      rw [ha]
      rfl
    rw [State.popSources, hq]
    rfl
  have hres : (s.w.active w.guard).mapM (fun L => ((regsOf w.a (packN w.ty)).mapM fun r =>
      cvtFn w.ty (if w.ty = 9 then 1 else 3) (rndOf w) .rne (satOf w) (s.w.v32 r L)).map fun es => (L, es)) =
      .ok ((s.w.active w.guard).map fun L => (L, es L)) := mapM_eq_ok fun L hL => by
    obtain ⟨hlen, hcvt⟩ := hes L hL
    rw [ha, ← hlen, regsOf, mapM_run_eq_ok hcvt]
    rfl
  have hks : ((s.w.active w.guard).map fun L => (L, es L)).flatMap (fun e => e.2.map (·.kinds)) =
      (s.w.active w.guard).flatMap fun L => (es L).map (·.kinds) := List.flatMap_map ..
  have hws : ((s.w.active w.guard).map fun L => (L, es L)).map (fun e => (e.1, BitVec.ofNat 32 (concatBits (32 / packN w.ty) (e.2.map (·.bits))))) =
      (s.w.active w.guard).map fun L => (L, packed (packN w.ty) es L) := List.map_map
  show execPack w s = _
  rw [execPack, ok_bind hreg, ok_bind hdst, ok_bind hres, hks, hws, State.withResults, hpops]

/-! Unpacks (R97). -/

/-- The registers that an unpack writes, each with its element. -/
def unpacked (s : State) (w : LaneWord) (base : Nat) : List (Nat × Word) :=
  (s.w.active w.guard).flatMap fun L => (List.range (packN w.ty)).map fun j =>
    (vKey (base + j) L, unpackElem w.ty ((s.src 0 w.a L).toNat / 2 ^ (32 / packN w.ty * j) % 2 ^ (32 / packN w.ty)))

theorem exec_unpack_eq {s : State} {w : LaneWord} {d : BitVec 9} (hd : w.dst = .v d) (hreg : s.regCheck 0x202 w false = .ok ())
    (hpop : ∀ m ∈ queuesOf [w.a], popCheck s m 1 (s.w.active w.guard) = .ok ()) :
    exec (.unpack w) s = .next (((s.popSources 0x202 w (s.w.active w.guard)).modW fun x =>
      { x with v := putAll 0 s.w.v (unpacked s w d.toNat) }).laneNext w.mark) := by
  show execUnpack w s = _
  rw [execUnpack, ok_bind hreg, ok_bind (forM_eq_ok hpop), hd]
  have hv := congrArg (fun t : State => t.w.v) (s.popSources_eq 0x202 w (s.w.active w.guard))
  rw [← show (s.popSources 0x202 w (s.w.active w.guard)).w.v = s.w.v from hv]
  rfl

/-- Each active lane's registers of the group read the elements, and nothing else changes. -/
theorem look_unpacked (s : State) (w : LaneWord) (base k : Nat) {L : Nat} (hL : L < 16384) :
    look 0 (putAll 0 s.w.v (unpacked s w base)) (vKey k L) = if L ∈ s.w.active w.guard ∧ base ≤ k ∧ k < base + packN w.ty then
      unpackElem w.ty ((s.src 0 w.a L).toNat / 2 ^ (32 / packN w.ty * (k - base)) % 2 ^ (32 / packN w.ty)) else s.w.v32 k L := by
  have hmem : ∀ e ∈ unpacked s w base, ∃ K ∈ s.w.active w.guard, ∃ j < packN w.ty,
      e = (vKey (base + j) K, unpackElem w.ty ((s.src 0 w.a K).toNat / 2 ^ (32 / packN w.ty * j) % 2 ^ (32 / packN w.ty))) := fun e he => by
    obtain ⟨K, hK, he⟩ := List.mem_flatMap.mp he
    obtain ⟨j, hj, rfl⟩ := List.mem_map.mp he
    exact ⟨K, hK, j, List.mem_range.mp hj, rfl⟩
  split
  next h =>
    obtain ⟨hact, hlo, hhi⟩ := h
    refine look_putAll_mem 0 _ s.w.v ⟨_, List.mem_flatMap.mpr ⟨L, hact, List.mem_map.mpr ⟨k - base, List.mem_range.mpr (by omega), rfl⟩⟩, ?_⟩
      fun e he hek => ?_
    · rw [Nat.add_sub_cancel' hlo]
    · obtain ⟨K, hK, j, -, rfl⟩ := hmem e he
      obtain ⟨rfl, rfl⟩ := (vKey_inj (Wave.lt_of_mem_active hK) hL).mp hek
      rw [Nat.add_sub_cancel_left]
  next h =>
    refine look_putAll_not_mem 0 _ s.w.v _ fun e he hek => h ?_
    obtain ⟨K, hK, j, hj, rfl⟩ := hmem e he
    obtain ⟨rfl, rfl⟩ := (vKey_inj (Wave.lt_of_mem_active hK) hL).mp hek
    exact ⟨hK, by omega, by omega⟩

theorem packAndUnpackClaim : PackAndUnpackClaim := by
  intro s w act n
  refine ⟨fun es r ha hreg hdst hes => counts_or_traps (exec_pack_eq ha hreg hdst hes), fun d hd hreg hpop => ?_⟩
  refine ⟨_, exec_unpack_eq hd hreg hpop, fun k L hL => look_unpacked s w d.toNat k hL, ?_, ?_⟩
  · rw [Wave.traffic, hd]
    rfl
  · conv_lhs => rw [State.popSources_eq]
    rfl

/-- Settles O41: a word's results and kinds are given, so what remains is how it ends; an unpack writes its elements register by register. -/
theorem roundedWordWritesAndCounts : Obligations.RoundedWordWritesAndCounts := ⟨roundedWordWritesAndCountsClaim, packAndUnpackClaim⟩

end Sys2Proof.Machine

/-! SUPPORT. Integer words and divisions of the lane grid (R122 to R124, R29, R32): how a word of one element per lane ends, and what each integer word
computes of its operands. -/

namespace Sys2Proof.Machine

open Sys2Proof

/-! How a word of one element per lane ends. -/

/-- The state after a word's results, checked or on their way, before its counts: its source queues popped, its destination written or pending. -/
def State.withElements (s : State) (op : Nat) (w : LaneWord) (unchecked : Bool) (val : Nat → Word) : State :=
  (s.popSources op w (s.w.active w.guard)).writeDst w.dst unchecked ((s.w.active w.guard).map fun L => (L, val L))

/-- Once its checks have passed and its elements are there, a word of one element per lane meets FPTRAP or leaves them, and counts in its format. -/
theorem elementwise_leaves {s : State} {w : LaneWord} {op tyA fmt : Nat} {unchecked : Bool} {f : Word → Word → Word → Res FRes} {r : Nat → FRes}
    (hready : s.laneReady op w unchecked)
    (hf : ∀ L ∈ s.w.active w.guard, f (s.src tyA w.a L) (s.src tyA w.b L) (s.src tyA w.c L) = .ok (r L)) :
    elementwise op w tyA fmt unchecked f s = finishLane w.mark s
      (fptrapCheck (if fmt = 0 then 0 else s.run.fptrap) ((s.w.active w.guard).map fun L => (r L).kinds) >>= fun _ =>
        .ok (if fmt = 0 then s.withElements op w unchecked fun L => BitVec.ofNat 32 (r L).bits
          else (s.withElements op w unchecked fun L => BitVec.ofNat 32 (r L).bits).modW
            (·.addKinds fmt ((s.w.active w.guard).map fun L => (r L).kinds)))) := by
  obtain ⟨hreg, hpop, hdst⟩ := hready
  have hes : (s.w.active w.guard).mapM (fun L => (f (s.src tyA w.a L) (s.src tyA w.b L) (s.src tyA w.c L)).map fun r => (L, r)) =
      .ok ((s.w.active w.guard).map fun L => (L, r L)) := mapM_eq_ok fun L hL => by rw [hf L hL]; rfl
  have hks : ((s.w.active w.guard).map fun L => (L, r L)).map (·.2.kinds) = (s.w.active w.guard).map fun L => (r L).kinds := List.map_map
  have hws : ((s.w.active w.guard).map fun L => (L, r L)).map (fun e => (e.1, BitVec.ofNat 32 e.2.bits)) =
      (s.w.active w.guard).map fun L => (L, BitVec.ofNat 32 (r L).bits) := List.map_map
  rw [elementwise, ok_bind hreg, ok_bind (forM_eq_ok hpop), ok_bind hdst, ok_bind hes, hks, hws]
  rfl

/-- A word that counts nothing enables no trap. -/
theorem fptrapCheck_none (ks : List (BitVec 4)) : fptrapCheck 0 ks = .ok () := if_pos (by simp)

/-- A word that has written its results and counts nothing. -/
theorem laneWrites_of_results {i : Instr} {s : State} {op : Nat} {w : LaneWord} {val : Nat → Word}
    (he : exec i s = finishLane w.mark s (.ok (s.withResults op w val))) : LaneWrites i s op w val s.w.counts :=
  ⟨_, he, fun r _ hL => s.withResults_v32 op w val r hL, s.withResults_q op w val, s.withResults_eq op w val⟩

/-- A word whose elements are plain words writes them. -/
theorem laneWrites_of_plain {i : Instr} {s : State} {op tyA : Nat} {w : LaneWord} {f : Word → Word → Word → Res FRes} {val : Nat → Word}
    (he : exec i s = elementwise op w tyA 0 false f s) (hready : s.laneReady op w false)
    (hf : ∀ L ∈ s.w.active w.guard, f (s.src tyA w.a L) (s.src tyA w.b L) (s.src tyA w.c L) = plain (val L)) :
    LaneWrites i s op w val s.w.counts := by
  have hrun := elementwise_leaves (fmt := 0) (r := fun L => ⟨(val L).toNat, 0⟩) hready hf
  simp only [if_true, fptrapCheck_none, BitVec.ofNat_toNat, BitVec.setWidth_eq] at hrun
  exact laneWrites_of_results (he.trans hrun)

/-! Integer words (R122, R123, R99). -/

/-- The type in which a word reads its literals, from the types that it has; 0 where it has none. -/
def literalType (w : LaneWord) (ts : List Nat) : Nat := if ts = [0] then 0 else w.ty

theorem literalType_self (w : LaneWord) : w.ty = literalType w [w.ty] := by
  unfold literalType
  split
  next h => exact List.singleton_inj.mp h
  next => rfl

/-- The instruction is a checked word that counts nothing and computes `g` of its operands, with literals of the types given. -/
def ComputesWord (i : Instr) (s : State) (op : Nat) (w : LaneWord) (ts : List Nat) (g : Word → Word → Word → Word) : Prop :=
  ∃ f, exec i s = elementwise op w (literalType w ts) 0 false f s ∧ ∀ x y z, f x y z = plain (g x y z)

theorem ComputesWord.any_type {i : Instr} {s : State} {op : Nat} {w : LaneWord} {g : Word → Word → Word → Word}
    (f : Word → Word → Word → Res FRes) (he : exec i s = elementwise op w w.ty 0 false f s) (hf : ∀ x y z, f x y z = plain (g x y z)) :
    ComputesWord i s op w [w.ty] g := ⟨f, literalType_self w ▸ he, hf⟩

theorem ComputesWord.laneWrites {i : Instr} {s : State} {op : Nat} {w : LaneWord} {ts : List Nat} {g : Word → Word → Word → Word}
    (h : ComputesWord i s op w ts g) (hready : s.laneReady op w false) :
    LaneWrites i s op w (fun L =>
      g (s.src (literalType w ts) w.a L) (s.src (literalType w ts) w.b L) (s.src (literalType w ts) w.c L)) s.w.counts := by
  obtain ⟨f, he, hf⟩ := h
  exact laneWrites_of_plain he hready fun L _ => hf ..

/-- The clamp of a range that holds 2³² values, in the words of the rule. -/
theorem ofInt_clamp (lo hi x : Int) (h : lo ≤ hi) :
    BitVec.ofInt 32 (max lo (min hi x)) = if x < lo then BitVec.ofInt 32 lo else if hi < x then BitVec.ofInt 32 hi else BitVec.ofInt 32 x := by
  split
  · congr 1; omega
  split
  · congr 1; omega
  · congr 1; omega

/-- An exact integer in 32 bits (R122). -/
theorem intResult_eq_toWord {w : LaneWord} (ht : w.ty ∈ [1, 2]) (x : Int) : intResult w.ty (satOf w) x = toWord w x := by
  unfold intResult toWord
  rcases satOf w
  · rfl
  · rcases List.mem_cons.mp ht with h | h
    · rw [h]
      refine (ofInt_clamp _ _ x (by decide)).trans ?_
      simp only [Int.sub_one_lt_iff]
      rfl
    · rw [List.mem_singleton.mp h]
      refine (ofInt_clamp _ _ x (by decide)).trans ?_
      simp only [Int.sub_one_lt_iff]
      rfl

theorem natAbs_eq_ite (x : Int) : (x.natAbs : Int) = if x < 0 then -x else x := by
  split <;> omega

theorem absFn_eq {w : LaneWord} (ht : w.ty = 1) (x : Word) :
    absFn (satOf w) x = plain (toWord w (if x.toInt < 0 then -x.toInt else x.toInt)) := by
  rw [← natAbs_eq_ite, ← intResult_eq_toWord (by simp [ht]), ht]
  rfl

theorem negFn_eq {w : LaneWord} (ht : w.ty = 1) (x : Word) : negFn (satOf w) x = plain (toWord w (-x.toInt)) := by
  rw [← intResult_eq_toWord (by simp [ht]), ht]
  rfl

/-- A distance of 32 or more shifts every bit out (R122). -/
theorem shiftLeft_eq_ite (x : Word) (n : Nat) : x <<< n = if 32 ≤ n then 0 else x <<< n := by
  split
  next h => exact BitVec.shiftLeft_eq_zero h
  next => rfl

theorem ushiftRight_eq_ite (x : Word) (n : Nat) : x >>> n = if 32 ≤ n then 0 else x >>> n := by
  split
  next h => exact BitVec.ushiftRight_eq_zero h
  next => rfl

/-- From 31 on, every bit of an arithmetic shift is the sign. -/
theorem sshiftRight_eq_min (x : Word) (n : Nat) : x.sshiftRight n = x.sshiftRight (min 31 n) := by
  ext i hi
  simp only [BitVec.getElem_sshiftRight]
  by_cases h : n ≤ 31
  · rw [min_eq_right h]
  · rw [min_eq_left (by omega)]
    by_cases h0 : i = 0
    · subst h0
      simp [BitVec.msb_eq_getLsbD_last, show ¬ n < 32 by omega]
    · simp [show ¬ n + i < 32 by omega, show ¬ 31 + i < 32 by omega]

/-- How many naturals from 0 up a test takes before it refuses one. -/
theorem length_takeWhile_range {p : Nat → Bool} {n k : Nat} (hk : k ≤ n) (hp : ∀ i < k, p i = true) (hend : k < n → p k = false) :
    ((List.range n).takeWhile p).length = k := by
  obtain ⟨m, rfl⟩ := Nat.exists_eq_add_of_le hk
  rw [List.range_add, List.takeWhile_append_of_pos fun i hi => hp i (List.mem_range.mp hi), List.length_append, List.length_range]
  cases m with
  | zero => rfl
  | succ m =>
    simp [List.range_succ_eq_map, hend (by omega)]

/-- The count of leading zeros (R122). -/
theorem clzFn_eq (x : Word) :
    clzFn x = plain (BitVec.ofNat 32 ((List.range 32).takeWhile fun i => !x.getLsbD (31 - i)).length) := by
  unfold clzFn
  congr 1
  split
  next h =>
    subst h
    rw [length_takeWhile_range (k := 32) le_rfl (fun _ _ => by simp) fun h => absurd h (lt_irrefl _)]
    rfl
  next h =>
    have h0 : x.toNat ≠ 0 := fun h' => h (BitVec.eq_of_toNat_eq h')
    have hlog : x.toNat.log2 < 32 := (Nat.log2_lt h0).mpr x.isLt
    rw [length_takeWhile_range (k := 31 - x.toNat.log2) (by omega) (fun i hi => ?_) fun _ => ?_]
    · have hclear : x.getLsbD (31 - i) = false :=
        Nat.testBit_lt_two_pow (lt_of_lt_of_le Nat.lt_log2_self (Nat.pow_le_pow_right (by decide) (by omega)))
      rw [hclear]
      rfl
    · rw [show 31 - (31 - x.toNat.log2) = x.toNat.log2 by omega]
      exact congrArg not (Nat.testBit_log2 h0)

theorem popFn_eq (x : Word) : popFn x = plain (BitVec.ofNat 32 ((List.range 32).filter fun i => x.getLsbD i).length) :=
  congrArg (fun n => plain (BitVec.ofNat 32 n)) List.countP_eq_length_filter

/-! Bit fields (R123). -/

theorem fieldSpec_eq (y : Word) : fieldSpec y = (specPos y, specWidth y) := by
  unfold fieldSpec specPos specWidth
  have hwidth (p n : Nat) : min (p + n) 32 - p = min n (32 - p) := by omega
  dsimp only
  rw [hwidth]
  rfl

/-- An unsigned field (R123). -/
theorem bfxFn_unsigned {t : Nat} (ht : t = 2) (x y : Word) :
    bfxFn t x y = plain ((x.extractLsb' (specPos y) (specWidth y)).setWidth 32) := by
  subst ht
  unfold bfxFn
  rw [fieldSpec_eq]
  refine congrArg plain (BitVec.eq_of_toNat_eq ?_)
  simp only [show ¬ (2 : Nat) = 1 by decide, false_and, if_false, BitVec.ofInt_natCast, BitVec.toNat_ofNat, BitVec.toNat_setWidth,
    BitVec.extractLsb'_toNat, Nat.shiftRight_eq_div_pow]

/-- A signed field: its top bit fills the bits above it (R123). -/
theorem bfxFn_signed {t : Nat} (ht : t = 1) (x y : Word) :
    bfxFn t x y = plain ((x.extractLsb' (specPos y) (specWidth y)).signExtend 32) := by
  subst ht
  unfold bfxFn
  rw [fieldSpec_eq]
  refine congrArg plain ?_
  have hnat : (x.extractLsb' (specPos y) (specWidth y)).toNat = x.toNat / 2 ^ specPos y % 2 ^ specWidth y := by
    rw [BitVec.extractLsb'_toNat, Nat.shiftRight_eq_div_pow]
  rw [BitVec.signExtend, BitVec.toInt_eq_toNat_cond, ← hnat]
  refine congrArg (BitVec.ofInt 32) ?_
  generalize x.extractLsb' (specPos y) (specWidth y) = u
  revert u
  cases specWidth y with
  | zero => intro u; simp [BitVec.eq_nil u]
  | succ n =>
    intro u
    rw [Nat.add_sub_cancel, Nat.pow_succ]
    have hu := u.isLt
    split <;> split <;> push_cast <;> omega

/-- A field inserted (R123). -/
theorem bfiFn_eq (x y z : Word) : bfiFn x y z =
    plain ((x &&& ~~~((BitVec.allOnes (specWidth z)).setWidth 32 <<< specPos z)) |||
      ((y <<< specPos z) &&& ((BitVec.allOnes (specWidth z)).setWidth 32 <<< specPos z))) := by
  have hmask : BitVec.ofNat 32 ((2 ^ specWidth z - 1) * 2 ^ specPos z) = (BitVec.allOnes (specWidth z)).setWidth 32 <<< specPos z := by
    apply BitVec.eq_of_toNat_eq
    simp only [BitVec.toNat_ofNat, BitVec.toNat_shiftLeft, BitVec.toNat_setWidth, BitVec.toNat_allOnes, Nat.shiftLeft_eq,
      Nat.mod_mul_mod]
  unfold bfiFn
  rw [fieldSpec_eq]
  simp only [hmask]

/-- Each integer word computes what the rules say. -/
theorem computesWord_integerOps (s : State) (w : LaneWord) : ∀ x ∈ integerOps w, (w.ty ∈ x.2.2.1 ∨ x.2.2.1 = [0]) →
    ComputesWord x.1 s x.2.1 w x.2.2.1 x.2.2.2 := by
  have hexact {ts : List Nat} (ht : w.ty ∈ ts ∨ ts = [0]) (h : ts ≠ [0]) (h' : ts ⊆ [1, 2]) (x : Int) :
      plain (intResult w.ty (satOf w) x) = plain (toWord w x) := congrArg plain (intResult_eq_toWord (h' (ht.resolve_right h)) x)
  have hsigned (ht : w.ty ∈ [1] ∨ [1] = [0]) : w.ty = 1 := List.mem_singleton.mp (ht.resolve_right (by decide))
  simp only [integerOps, List.forall_mem_cons]
  refine ⟨fun _ => .any_type (fun x _ _ => plain x) rfl fun _ _ _ => rfl,
    fun ht => ⟨fun x y _ => addFn w.ty (satOf w) x y, rfl, fun _ _ _ => hexact ht (by decide) (by decide) _⟩,
    fun ht => ⟨fun x y _ => subFn w.ty (satOf w) x y, rfl, fun _ _ _ => hexact ht (by decide) (by decide) _⟩,
    fun ht => ⟨fun x y _ => mulFn w.ty (satOf w) x y, rfl, fun _ _ _ => hexact ht (by decide) (by decide) _⟩,
    fun _ => ⟨fun x y _ => mulhFn w.ty x y, rfl, fun _ _ _ => rfl⟩,
    fun ht => ⟨fun x y z => madFn w.ty (satOf w) x y z, rfl, fun _ _ _ => hexact ht (by decide) (by decide) _⟩,
    fun _ => .any_type (fun x y _ => plain (x &&& y)) rfl fun _ _ _ => rfl,
    fun _ => .any_type (fun x y _ => plain (x ||| y)) rfl fun _ _ _ => rfl,
    fun _ => .any_type (fun x y _ => plain (x ^^^ y)) rfl fun _ _ _ => rfl,
    fun _ => .any_type (fun x y _ => plain (x &&& ~~~y)) rfl fun _ _ _ => rfl,
    fun _ => .any_type (fun x y _ => shlFn x y) rfl fun _ _ _ => congrArg plain (shiftLeft_eq_ite _ _),
    fun _ => .any_type (fun x y _ => shrFn x y) rfl fun _ _ _ => congrArg plain (ushiftRight_eq_ite _ _),
    fun _ => .any_type (fun x y _ => sraFn x y) rfl fun _ _ _ => congrArg plain (sshiftRight_eq_min _ _),
    fun _ => ⟨fun x y _ => minFn w.ty x y, rfl, fun _ _ _ => rfl⟩,
    fun _ => ⟨fun x y _ => maxFn w.ty x y, rfl, fun _ _ _ => rfl⟩,
    fun ht => ⟨fun x _ _ => absFn (satOf w) x, rfl, fun x _ _ => absFn_eq (hsigned ht) x⟩,
    fun ht => ⟨fun x _ _ => negFn (satOf w) x, rfl, fun x _ _ => negFn_eq (hsigned ht) x⟩,
    fun _ => .any_type (fun x _ _ => clzFn x) rfl fun _ _ _ => clzFn_eq _,
    fun _ => .any_type (fun x _ _ => popFn x) rfl fun _ _ _ => popFn_eq _,
    fun ht => ⟨fun x y _ => bfxFn w.ty x y, rfl, fun x y _ => bfxFn_signed (hsigned ht) x y⟩,
    fun ht => ⟨fun x y _ => bfxFn w.ty x y, rfl, fun x y _ => 
      bfxFn_unsigned (List.mem_singleton.mp (ht.resolve_right (by decide))) x y⟩,
    fun _ => .any_type (fun x y z => bfiFn x y z) rfl fun _ _ _ => bfiFn_eq _ _ _,
    fun _ => ⟨fun x _ _ => plain (x &&& 0xFFFFFFFC), rfl, fun _ _ _ => rfl⟩, by simp⟩

theorem integerWordWritesActiveLanesClaim : IntegerWordWritesActiveLanesClaim := fun s w x hx ht hready =>
  (computesWord_integerOps s w x hx ht).laneWrites hready

/-! Divisions (R124). -/

/-- Parts of a meaning that each pass or trap in one way: where one of them traps, all of them do. -/
theorem mapM_eq_error {α β : Type} {f : α → Res β} {e : Halt} {l : List α} (h : ∀ x ∈ l, f x = .error e ∨ ∃ y, f x = .ok y)
    (hx : ∃ x ∈ l, f x = .error e) : l.mapM f = .error e := by
  induction l with
  | nil => simp at hx
  | cons x l ih =>
    rw [List.mapM_cons]
    rcases h x List.mem_cons_self with hf | ⟨y, hf⟩
    · rw [hf]
      rfl
    · have hrest : ∃ z ∈ l, f z = .error e := by
        obtain ⟨z, hz, hfz⟩ := hx
        rcases List.mem_cons.mp hz with rfl | hz
        · rw [hf] at hfz
          cases hfz
        · exact ⟨z, hz, hfz⟩
      rw [hf, ih (fun z hz => h z (List.mem_cons_of_mem x hz)) hrest]
      rfl

/-- A word with an element that traps, where every other element passes or traps in the same way, traps before any effect. -/
theorem elementwise_traps {s : State} {w : LaneWord} {op tyA fmt : Nat} {unchecked : Bool} {f : Word → Word → Word → Res FRes} {c : Cause}
    {fva : DWord} (hready : s.laneReady op w unchecked)
    (hf : ∀ x y z, f x y z = trap c fva ∨ ∃ r, f x y z = .ok r)
    (hx : ∃ L ∈ s.w.active w.guard, f (s.src tyA w.a L) (s.src tyA w.b L) (s.src tyA w.c L) = trap c fva) :
    elementwise op w tyA fmt unchecked f s = .next (s.raise 1 c fva s.laneTarget s.laneBits) := by
  obtain ⟨hreg, hpop, hdst⟩ := hready
  have hes : (s.w.active w.guard).mapM (fun L => (f (s.src tyA w.a L) (s.src tyA w.b L) (s.src tyA w.c L)).map fun r => (L, r)) =
      .error (.trap c fva) := by
    refine mapM_eq_error (fun L _ => ?_) ?_
    · rcases hf (s.src tyA w.a L) (s.src tyA w.b L) (s.src tyA w.c L) with h | ⟨r, h⟩
      · exact .inl (by rw [h]; rfl)
      · exact .inr ⟨(L, r), by rw [h]; rfl⟩
    · obtain ⟨L, hL, h⟩ := hx
      exact ⟨L, hL, by rw [h]; rfl⟩
  rw [elementwise, ok_bind hreg, ok_bind (forM_eq_ok hpop), ok_bind hdst, hes]
  rfl

/-- A division whose quotient or remainder is `g` where the divisor is not zero. -/
theorem division_traps_or_writes {i : Instr} {s : State} {op : Nat} {w : LaneWord} {g : Word → Word → Word} (h : Word → Word → Word)
    (he : exec i s = elementwise op w w.ty 0 false (fun x y _ => need (y != 0) .idiv0 0 >>= fun _ => plain (h x y)) s)
    (hg : ∀ x y, h x y = g x y) (hready : s.laneReady op w false) :
    ((∃ L ∈ s.w.active w.guard, s.src w.ty w.b L = 0) → LaneTraps i s .idiv0 0) ∧
      ((∀ L ∈ s.w.active w.guard, s.src w.ty w.b L ≠ 0) →
        LaneWrites i s op w (fun L => g (s.src w.ty w.a L) (s.src w.ty w.b L)) s.w.counts) := by
  have hzero (x : Word) {y : Word} (hy : y = 0) : (need (y != 0) .idiv0 0 >>= fun _ => plain (h x y)) = trap .idiv0 0 := by
    subst hy
    rfl
  have hpass (x : Word) {y : Word} (hy : y ≠ 0) : (need (y != 0) .idiv0 0 >>= fun _ => plain (h x y)) = plain (g x y) := by
    rw [need_bind (bne_iff_ne.mpr hy), hg]
  refine ⟨fun hb => he.trans (elementwise_traps hready (fun x y _ => ?_) ?_), fun hb => laneWrites_of_plain he hready fun L hL => hpass _ (hb L hL)⟩
  · by_cases hy : y = 0
    · exact .inl (hzero x hy)
    · exact .inr ⟨_, hpass x hy⟩
  · obtain ⟨L, hL, hy⟩ := hb
    exact ⟨L, hL, hzero _ hy⟩

/-- What `div` writes where the divisor is not zero (R122). -/
def quotientWord (t : Nat) (x y : Word) : Word := BitVec.ofInt 32 ((intOf t x).tdiv (intOf t y))

/-- What `rem` writes there. -/
def remainderWord (t : Nat) (x y : Word) : Word := BitVec.ofInt 32 ((intOf t x).tmod (intOf t y))

/-- Of signed words; the quotient of the least value by -1 is the least value again. -/
theorem quotientWord_signed {t : Nat} (ht : t = 1) (x y : Word) : quotientWord t x y = x.sdiv y := by
  subst ht
  exact BitVec.eq_of_toInt_eq ((BitVec.toInt_ofInt _).trans (BitVec.toInt_sdiv x y).symm)

theorem remainderWord_signed {t : Nat} (ht : t = 1) (x y : Word) : remainderWord t x y = x.srem y := by
  subst ht
  exact (congrArg (BitVec.ofInt 32) (BitVec.toInt_srem x y).symm).trans BitVec.ofInt_toInt

/-- Of unsigned words. -/
theorem quotientWord_unsigned {t : Nat} (ht : t = 2) (x y : Word) : quotientWord t x y = x / y := by
  subst ht
  show BitVec.ofInt 32 ((x.toNat : Int).tdiv y.toNat) = _
  rw [← Int.ofNat_tdiv, BitVec.ofInt_natCast, ← BitVec.toNat_udiv, BitVec.ofNat_toNat, BitVec.setWidth_eq]

theorem remainderWord_unsigned {t : Nat} (ht : t = 2) (x y : Word) : remainderWord t x y = x % y := by
  subst ht
  show BitVec.ofInt 32 ((x.toNat : Int).tmod y.toNat) = _
  rw [← Int.ofNat_tmod, BitVec.ofInt_natCast, ← BitVec.toNat_umod, BitVec.ofNat_toNat, BitVec.setWidth_eq]

theorem laneDivisionWritesOrTrapsClaim : LaneDivisionWritesOrTrapsClaim := by
  intro s w
  simp only [laneDivisions, List.forall_mem_cons]
  exact ⟨fun ht => division_traps_or_writes (quotientWord w.ty) rfl (quotientWord_signed ht),
    fun ht => division_traps_or_writes (quotientWord w.ty) rfl (quotientWord_unsigned ht),
    fun ht => division_traps_or_writes (remainderWord w.ty) rfl (remainderWord_signed ht),
    fun ht => division_traps_or_writes (remainderWord w.ty) rfl (remainderWord_unsigned ht), by simp⟩

/-- Settles O28: each word is of one element per lane, and computes by its function what its rule says; a division meets a zero divisor as it
computes, before it writes. -/
theorem integerWordWritesActiveLanes : Obligations.IntegerWordWritesActiveLanes :=
  ⟨integerWordWritesActiveLanesClaim, laneDivisionWritesOrTrapsClaim⟩

end Sys2Proof.Machine

/-! SUPPORT. Special functions (R116, R117, R128): results on their way, and the registers that wait for them. -/

namespace Sys2Proof.Machine

open Sys2Proof

/-- Each special function is an unchecked word of one element per lane, which counts in FP32. -/
theorem exec_specialOps (s : State) (w : LaneWord) : ∀ x ∈ specialOps w,
    exec x.1 s = elementwise x.2.1 w w.ty 3 true (fun a _ _ => specialFn x.2.2 (rndOf w) a) s := by
  simp only [specialOps, List.forall_mem_cons]
  exact ⟨rfl, rfl, rfl, rfl, rfl, rfl, rfl, rfl, by simp⟩

/-- Results on their way to a register: it is pending, and they stand behind those issued before; beside the queues nothing else changes
(R116, R117). -/
theorem State.withElements_issued (s : State) (op : Nat) (w : LaneWord) (val : Nat → Word) {d : BitVec 9} (hd : w.dst = .v d) :
    s.withElements op w true val = { s with w := { s.w.issueUnch [d.toNat]
        { writes := (s.w.active w.guard).map fun L => (d.toNat * 16384 + L, val L), held := false, err := none, returned := false } with
      q := (s.w.traffic op w []).q } } := by
  unfold State.withElements Wave.traffic
  rw [hd, State.popSources_eq]
  simp only [State.writeDst, if_true, List.map_map]
  rfl

/-- A register whose result is issued is pending, and the mark of no other changes (R117). -/
theorem mem_pend_issued (pend : List Nat) (d k : Nat) : k ∈ [d] ++ pend.filter (fun r => !([d].contains r)) ↔ k = d ∨ k ∈ pend := by
  by_cases hk : k = d <;> simp [hk]

/-- Counting kinds changes the wave's counts alone. -/
theorem State.addKinds_eq (s : State) (fmt : Nat) (ks : List (BitVec 4)) :
    s.modW (·.addKinds fmt ks) = { s with w := { s.w with counts := (s.w.addKinds fmt ks).counts } } := rfl

/-- Settles O29: a special function is a word of one element per lane whose results are given; what remains is FPTRAP and where they go. -/
theorem specialFunctionIssuesAnUncheckedResult : Obligations.SpecialFunctionIssuesAnUncheckedResult := by
  intro s w r x hx hready act hr ks
  have he : exec x.1 s = finishLane w.mark s (fptrapCheck s.run.fptrap ks >>= fun _ =>
      .ok ((s.withElements x.2.1 w true fun L => BitVec.ofNat 32 (r L).bits).modW (·.addKinds 3 ks))) :=
    (exec_specialOps s w x hx).trans (elementwise_leaves hready hr)
  refine ⟨fun hk => ?_, fun hk => ⟨fun n hn => ?_, fun d hd => ?_⟩⟩
  · rw [fptrapCheck_traps hk] at he
    exact he
  · have hq : (s.withElements x.2.1 w true fun L => BitVec.ofNat 32 (r L).bits) = s.withResults x.2.1 w fun L => BitVec.ofNat 32 (r L).bits := by
      rw [State.withElements, State.withResults, hn]
      rfl
    rw [hq] at he
    exact (counts_or_traps he).1 hk
  · rw [fptrapCheck_ok hk, s.withElements_issued x.2.1 w _ hd, State.addKinds_eq] at he
    refine ⟨_, he, (mem_pend_issued s.w.pend d.toNat d.toNat).mpr (.inl rfl), fun k hne => ?_, rfl, rfl, rfl, rfl⟩
    exact (mem_pend_issued s.w.pend d.toNat k).trans (or_iff_right hne)

end Sys2Proof.Machine

/-! SUPPORT. Masks, lane identity, random numbers and indirect moves (R125, R126, R129 to R132). -/

namespace Sys2Proof.Machine

open Sys2Proof

/-! Writes of one value per lane. -/

/-- Writes under a key of each lane: a lane's key reads its value. -/
theorem look_putAll_lanes_mem {α : Type} [DecidableEq α] (d : α) (m : Sparse α) {lanes : List Nat} (key : Nat → Nat) (val : Nat → α) {L : Nat}
    (hL : L ∈ lanes) (hinj : ∀ K ∈ lanes, key K = key L → K = L) :
    look d (putAll d m (lanes.map fun L => (key L, val L))) (key L) = val L :=
  look_putAll_mem d (val L) m ⟨_, List.mem_map_of_mem hL, rfl⟩ fun e he hek => by
    obtain ⟨K, hK, rfl⟩ := List.mem_map.mp he
    exact congrArg val (hinj K hK hek)

/-- And no other key changes. -/
theorem look_putAll_lanes_not_mem {α : Type} [DecidableEq α] (d : α) (m : Sparse α) {lanes : List Nat} (key : Nat → Nat) (val : Nat → α) {k : Nat}
    (h : ∀ L ∈ lanes, key L ≠ k) : look d (putAll d m (lanes.map fun L => (key L, val L))) k = look d m k :=
  look_putAll_not_mem d _ m k fun e he => by
    obtain ⟨K, hK, rfl⟩ := List.mem_map.mp he
    exact h K hK

/-- One value to a register of each lane, which may differ from lane to lane. -/
theorem look_putAll_registers {α : Type} [DecidableEq α] (d : α) (m : Sparse α) {lanes : List Nat} (hlanes : ∀ L ∈ lanes, L < 16384)
    (reg : Nat → Nat) (val : Nat → α) (r : Nat) {L : Nat} (hL : L < 16384) :
    look d (putAll d m (lanes.map fun L => (vKey (reg L) L, val L))) (vKey r L) = if L ∈ lanes ∧ r = reg L then val L else look d m (vKey r L) := by
  split
  next h =>
    obtain ⟨hmem, rfl⟩ := h
    exact look_putAll_lanes_mem d m (fun L => vKey (reg L) L) val hmem fun K hK hkey => ((vKey_inj (hlanes K hK) hL).mp hkey).2
  next h =>
    refine look_putAll_lanes_not_mem d m (fun L => vKey (reg L) L) val fun K hK hkey => h ?_
    obtain ⟨hreg, rfl⟩ := (vKey_inj (hlanes K hK) hL).mp hkey
    exact ⟨hK, hreg.symm⟩

/-! Words that write a mask register (R125, R126). -/

/-- Bits to a mask register of some lanes; m0 is no register that a word writes. -/
theorem Wave.mBit_writeM (w : Wave) {k : Nat} (hk : k ≠ 0) {lanes : List Nat} (hlanes : ∀ L ∈ lanes, L < 16384) (val : Nat → Bool) (j : Nat)
    {L : Nat} (hL : L < 16384) :
    (w.writeM k (lanes.map fun L => (L, val L))).mBit j L = if j = k ∧ L ∈ lanes then val L else w.mBit j L := by
  unfold Wave.mBit Wave.writeM
  rw [List.map_map]
  by_cases hj : j = 0
  · subst hj
    simp only [if_true, hk.symm, false_and, if_false]
    rfl
  · rw [if_neg hj, if_neg hj]
    refine (look_putAll_registers false w.m hlanes (fun _ => k) val j hL).trans ?_
    simp only [and_comm]

/-- Once its checks have passed, a word pops its queues and writes a mask register. -/
theorem maskWord_writes {i : Instr} {s : State} {op : Nat} {w : LaneWord} {f : State → Nat → Bool} (val : Nat → Bool) {k : BitVec 3}
    (he : exec i s = maskWord op w f s) (hf : ∀ L, f s L = val L) (hd : w.dst = .m k) (hk : k ≠ 0) (hready : s.laneReady op w false) :
    ∃ u : State, exec i s = .next (u.laneNext w.mark) ∧
      (∀ j L, L < 16384 → u.w.mBit j L = if j = k.toNat ∧ L ∈ s.w.active w.guard then val L else s.w.mBit j L) ∧
      u.w.q = (s.w.traffic op w []).q ∧ u = { s with w := { s.w with m := u.w.m, q := u.w.q } } := by
  obtain ⟨hreg, hpop, -⟩ := hready
  have hrun : exec i s = finishLane w.mark s (.ok ((s.popSources op w (s.w.active w.guard)).modW fun x =>
      x.writeM k.toNat ((s.w.active w.guard).map fun L => (L, val L)))) := by
    rw [he, maskWord, ok_bind hreg, ok_bind (forM_eq_ok hpop), hd, ← funext hf]
    rfl
  have hk0 : k.toNat ≠ 0 := fun h => hk (BitVec.eq_of_toNat_eq h)
  refine ⟨_, hrun, fun j L hL => ?_, ?_, ?_⟩
  · refine (Wave.mBit_writeM _ hk0 (fun _ => Wave.lt_of_mem_active) val j hL).trans ?_
    rw [State.popSources_eq]
    rfl
  · rw [Wave.traffic, hd]
    rfl
  · rw [State.popSources_eq]
    rfl

/-- The order of two integers, as a compare's conditions read it. -/
theorem ordInt_eq_zero (a b : Int) : (some (ordInt a b) == some 0) = (a == b) := by
  unfold ordInt
  rcases lt_trichotomy a b with h | h | h
  · simp [h, h.ne]
  · simp [h]
  · simp [h.not_gt, h.ne']

theorem ordInt_eq_neg_one (a b : Int) : (some (ordInt a b) == some (-1)) = decide (a < b) := by
  unfold ordInt
  rcases lt_trichotomy a b with h | h | h
  · simp [h]
  · simp [h]
  · simp [h.not_gt, h.ne']

theorem ordInt_eq_one (a b : Int) : (some (ordInt a b) == some 1) = decide (b < a) := by
  unfold ordInt
  rcases lt_trichotomy a b with h | h | h
  · simp [h, h.not_gt]
  · simp [h]
  · simp [h.not_gt, h, h.ne']

theorem ordInt_le (a b : Int) : (some (ordInt a b) == some (-1) || some (ordInt a b) == some 0) = decide (a ≤ b) := by
  rw [ordInt_eq_neg_one, ordInt_eq_zero, Bool.eq_iff_iff, Bool.or_eq_true, decide_eq_true_iff, decide_eq_true_iff, beq_iff_eq]
  exact le_iff_lt_or_eq.symm

theorem ordInt_ge (a b : Int) : (some (ordInt a b) == some 1 || some (ordInt a b) == some 0) = decide (b ≤ a) := by
  rw [ordInt_eq_one, ordInt_eq_zero, Bool.eq_iff_iff, Bool.or_eq_true, decide_eq_true_iff, decide_eq_true_iff, beq_iff_eq, @eq_comm _ a]
  exact le_iff_lt_or_eq.symm

/-- The conditions of a compare of integers (R125, Table 3). -/
theorem condHolds_ordInt (cc : Nat) (a b : Int) : condHolds cc (some (ordInt a b)) =
    match cc with
    | 0 => a == b
    | 1 => a != b
    | 2 => decide (a < b)
    | 3 => decide (a ≤ b)
    | 4 => decide (b < a)
    | 5 => decide (b ≤ a)
    | 6 => false
    | _ => true := by
  match cc with
  | 0 => exact ordInt_eq_zero a b
  | 1 => exact congrArg not (ordInt_eq_zero a b)
  | 2 => exact ordInt_eq_neg_one a b
  | 3 => exact ordInt_le a b
  | 4 => exact ordInt_eq_one a b
  | 5 => exact ordInt_ge a b
  | 6 => rfl
  | _ + 7 => rfl

/-- The conditions of a compare of floating values. -/
theorem condHolds_unordered (o : Option Int) : (∀ n, condHolds (n + 7) o = (o != none)) ∧ condHolds 6 o = (o == none) := by
  cases o <;> exact ⟨fun _ => rfl, rfl⟩

/-- Each word writes the bit that its rule gives a lane. -/
theorem exec_maskOps (s : State) (w : LaneWord) : ∀ x ∈ maskOps s w, ∃ f : State → Nat → Bool,
    exec x.1 s = maskWord x.2.1 w f s ∧ ∀ L, f s L = x.2.2 L := by
  simp only [maskOps, List.forall_mem_cons]
  refine ⟨⟨fun s L => condHolds (w.fld 24 3).toNat (some (ordInt (intOf w.ty (s.src w.ty w.a L)) (intOf w.ty (s.src w.ty w.b L)))), rfl,
      fun L => condHolds_ordInt _ _ _⟩,
    ⟨fun s L => condHolds (w.fld 24 3).toNat (cmpV (fval w.ty (s.src w.ty w.a L)) (fval w.ty (s.src w.ty w.b L))), rfl, fun L => ?_⟩,
    ⟨fun s L => s.w.mBit (maskX w) L && s.w.mBit (maskY w) L, rfl, fun _ => rfl⟩,
    ⟨fun s L => s.w.mBit (maskX w) L || s.w.mBit (maskY w) L, rfl, fun _ => rfl⟩,
    ⟨fun s L => s.w.mBit (maskX w) L != s.w.mBit (maskY w) L, rfl, fun _ => rfl⟩,
    ⟨fun s L => !s.w.mBit (maskX w) L, rfl, fun _ => rfl⟩, ⟨fun s L => s.src 0 w.a L != 0, rfl, fun _ => rfl⟩, by simp⟩
  dsimp only
  generalize (w.fld 24 3).toNat = cc
  match cc with
  | 0 | 1 | 2 | 3 | 4 | 5 => rfl
  | 6 => exact (condHolds_unordered _).2
  | n + 7 => exact (condHolds_unordered _).1 n

/-! The fraction of a draw (R129). -/

/-- A smaller number of smaller units is the smaller value. -/
theorem geScaled_of_lt {mant n : Nat} {exp k : Int} (hexp : exp < k) (hmant : mant < n) : geScaled mant exp n k = false := by
  unfold geScaled
  rw [if_neg (by omega)]
  exact decide_eq_false (not_le.mpr (hmant.trans_le (Nat.le_mul_of_pos_right _ (Nat.two_pow_pos _))))

/-- A fraction of `m` units of 2⁻²⁴, brought to 24 significant bits, lies in one binade. -/
theorem binade_bounds {m : Nat} (h0 : m ≠ 0) (hm : m < 2 ^ 24) :
    Nat.log2 m ≤ 23 ∧ 2 ^ 23 ≤ m * 2 ^ (23 - Nat.log2 m) ∧ m * 2 ^ (23 - Nat.log2 m) < 2 ^ 24 := by
  have hlog : Nat.log2 m < 24 := (Nat.log2_lt h0).mpr hm
  have hlo : 2 ^ Nat.log2 m ≤ m := Nat.log2_self_le h0
  have hhi : m < 2 ^ (Nat.log2 m + 1) := Nat.lt_log2_self
  have hpow : 2 ^ Nat.log2 m * 2 ^ (23 - Nat.log2 m) = 2 ^ 23 := by rw [← pow_add]; congr 1; omega
  refine ⟨by omega, ?_, ?_⟩
  · rw [← hpow]
    exact Nat.mul_le_mul_right _ hlo
  · calc m * 2 ^ (23 - Nat.log2 m) < 2 ^ (Nat.log2 m + 1) * 2 ^ (23 - Nat.log2 m) := Nat.mul_lt_mul_of_pos_right hhi (Nat.two_pow_pos _)
      _ = 2 * (2 ^ Nat.log2 m * 2 ^ (23 - Nat.log2 m)) := by ring
      _ = 2 ^ 24 := by rw [hpow]; norm_num

/-- The largest significand of FP32, and the last place that it has. -/
theorem fp32_maxMant : (fmtOf 3).maxMant = 16777215 := by simp only [fmtOf]

theorem fp32_place : (fmtOf 3).emax - ((fmtOf 3).fb : Int) = 104 := by norm_num [fmtOf, Fmt.emax]

/-- The last place of the fraction's binade, in FP32. -/
theorem fraction_place {m : Nat} (h0 : m ≠ 0) : max ((-24 : Int) + bitLen m - 1) (fmtOf 3).emin - (fmtOf 3).fb = (Nat.log2 m : Int) - 47 := by
  have hemin : (fmtOf 3).emin = -126 := rfl
  have hfb : ((fmtOf 3).fb : Int) = 23 := rfl
  have hlen : (bitLen m : Int) = Nat.log2 m + 1 := by simp [bitLen, h0]
  rw [hemin, hfb, hlen]
  omega

/-- To 24 significant bits the fraction is exact. -/
theorem roundAt_fraction {m : Nat} (hlog : Nat.log2 m ≤ 23) :
    roundAt .rne false m (-24) false ((Nat.log2 m : Int) - 47) = (m * 2 ^ (23 - Nat.log2 m), false) := by
  unfold roundAt
  rw [if_pos (by omega), show ((-24 : Int) - ((Nat.log2 m : Int) - 47)).toNat = 23 - Nat.log2 m by omega]

/-- Rounding is exact on a fraction below 1 of 24 bits (R129). -/
theorem roundFin_fraction {m : Nat} (hm : m < 2 ^ 24) : BitVec.ofNat 32 (roundFin 3 .rne false false m (-24) false).bits = unitFraction m := by
  unfold unitFraction
  by_cases h0 : m = 0
  · subst h0
    rfl
  obtain ⟨hlog, hlo, hhi⟩ := binade_bounds h0 hm
  have hover : overflows 3 .rne false m (-24) false = false := by
    unfold overflows
    simp only [fp32_maxMant, fp32_place]
    exact geScaled_of_lt (by omega) (by omega)
  have htop : geScaled (m * 2 ^ (23 - Nat.log2 m)) ((Nat.log2 m : Int) - 47) ((fmtOf 3).maxMant + 1) ((fmtOf 3).emax - (fmtOf 3).fb) = false := by
    rw [fp32_maxMant, fp32_place]
    exact geScaled_of_lt (by omega) (by omega)
  have hfield : ((Nat.log2 m : Int) - 47 + (fmtOf 3).fb + (fmtOf 3).bias).toNat = 103 + Nat.log2 m := by
    rw [show ((fmtOf 3).fb : Int) = 23 from rfl, show (fmtOf 3).bias = 127 from rfl]
    omega
  have hlow : ¬ m * 2 ^ (23 - Nat.log2 m) < 2 ^ (fmtOf 3).fb := not_lt.mpr hlo
  rw [if_neg h0, roundFin]
  simp only [h0, false_and, if_false, hover, Bool.false_eq_true, fraction_place h0, roundAt_fraction hlog, htop, hfield, hlow, decide_false]
  rw [show (fmtOf 3).fb = 23 from rfl, show signBit 3 false = 0 from rfl]
  refine congrArg (BitVec.ofNat 32) ?_
  omega

/-! Words without sources that queues feed (R126, R131). -/

/-- A word that names no queue as a source pops none. -/
theorem State.popSources_none {s : State} {op : Nat} {w : LaneWord} (h : wordSources op w = []) (lanes : List Nat) : s.popSources op w lanes = s := by
  rw [State.popSources, h]
  rfl

/-- Once its checks have passed, a word without sources writes one value per active lane. -/
theorem identWord_eq {s : State} {op : Nat} {w : LaneWord} (f : State → Nat → Word) (hsrc : wordSources op w = [])
    (hreg : s.regCheck op w false = .ok ()) (hdst : dstCheck s w.dst (s.w.active w.guard) = .ok ()) :
    identWord op w f s = finishLane w.mark s (.ok (s.withResults op w (f s))) := by
  rw [identWord, ok_bind hreg, ok_bind hdst, State.withResults, State.popSources_none hsrc]

theorem exec_identityOps (s : State) (w : LaneWord) : ∀ x ∈ identityOps s w, ∃ f : State → Nat → Word,
    exec x.1 s = identWord x.2.1 w f s ∧ f s = x.2.2 ∧ wordSources x.2.1 w = [] := by
  simp only [identityOps, List.forall_mem_cons]
  refine ⟨⟨fun s L => if s.w.mBit (maskX w) L then 1 else 0, rfl, rfl, rfl⟩, ⟨fun s L => BitVec.ofNat 32 (match (w.fld 24 3).toNat with
      | 0 => L / s.w.cols
      | 1 => L % s.w.cols
      | 2 => L
      | 3 => s.w.widx
      | _ => s.w.crewIdx), rfl, rfl, rfl⟩, by simp⟩

theorem maskAndIdentityWordsClaim : MaskAndIdentityWordsClaim := by
  intro s w
  refine ⟨fun k hd hk x hx hready => ?_, fun x hx hreg hdst => ?_⟩
  · obtain ⟨f, he, hf⟩ := exec_maskOps s w x hx
    exact maskWord_writes x.2.2 he hf hd hk hready
  · obtain ⟨f, he, hf, hsrc⟩ := exec_identityOps s w x hx
    rw [identWord_eq f hsrc hreg hdst, hf] at he
    exact laneWrites_of_results he

/-! Random numbers (R129, R130). -/

/-- The value that `rng` writes in a lane: the low bits of the draw, or 24 of them as a fraction. -/
def State.rngWord (s : State) (w : LaneWord) (L : Nat) : Word :=
  if w.ty = 2 then (s.rngOut L).setWidth 32 else BitVec.ofNat 32 (roundFin 3 .rne false false (bits (s.rngOut L) 8 24) (-24) false).bits

theorem State.rngWord_bits (s : State) {w : LaneWord} (h : w.ty = 2) : s.rngWord w = fun L => (s.rngOut L).setWidth 32 :=
  funext fun _ => if_pos h

theorem State.rngWord_fraction (s : State) {w : LaneWord} (h : w.ty = 3) :
    s.rngWord w = fun L => unitFraction ((s.rngOut L >>> 8).toNat % 2 ^ 24) := funext fun L => by
  have hbits : bits (s.rngOut L) 8 24 = (s.rngOut L >>> 8).toNat % 2 ^ 24 := by
    rw [bits, BitVec.toNat_ushiftRight, Nat.shiftRight_eq_div_pow]
  rw [State.rngWord, if_neg (by rw [h]; decide), hbits, roundFin_fraction (Nat.mod_lt _ (Nat.two_pow_pos _))]

/-- The counters after a draw in some lanes. -/
def Wave.rngAfter (w : Wave) (lanes : List Nat) : Sparse DWord := putAll 0 w.rng (lanes.map fun L => (L, look 0 w.rng L + 1))

theorem Wave.look_rngAfter (w : Wave) (lanes : List Nat) (L : Nat) :
    look 0 (w.rngAfter lanes) L = if L ∈ lanes then look 0 w.rng L + 1 else look 0 w.rng L := by
  unfold Wave.rngAfter
  split
  next h => exact look_putAll_lanes_mem 0 w.rng id (fun L => look 0 w.rng L + 1) h fun K _ hK => hK
  next h => exact look_putAll_lanes_not_mem 0 w.rng id (fun L => look 0 w.rng L + 1) fun K hK hKL => h (hKL ▸ hK)

/-- The state after a draw, before its results are written. -/
def State.drawn (s : State) (w : LaneWord) : State := s.modW fun x => { x with rng := x.rngAfter (s.w.active w.guard) }

/-- RNGWRAP does not stop a draw in some lanes: no counter of theirs is at its end, or the run lets counters wrap (R129, R130). -/
def State.rngOpen (s : State) (lanes : List Nat) : Bool := s.run.wrapOk || lanes.all fun L => look 0 s.w.rng L != BitVec.allOnes 64

theorem State.rngOpen_iff (s : State) (lanes : List Nat) :
    s.rngOpen lanes = true ↔ (∀ L ∈ lanes, look 0 s.w.rng L ≠ BitVec.allOnes 64) ∨ s.run.wrapOk = true := by
  rw [State.rngOpen, Bool.or_eq_true, List.all_eq_true, or_comm]
  exact or_congr_left (forall₂_congr fun _ _ => bne_iff_ne)

/-- Once its checks have passed, `rng` traps RNGWRAP or draws in each active lane. -/
theorem exec_rng_eq {s : State} {w : LaneWord} (hreg : s.regCheck 0x01E w false = .ok ()) (hdst : dstCheck s w.dst (s.w.active w.guard) = .ok ()) :
    exec (.rng w) s = finishLane w.mark s (need (s.rngOpen (s.w.active w.guard)) .rngwrap 0 >>= fun _ =>
      .ok ((s.drawn w).writeDst w.dst false ((s.w.active w.guard).map fun L => (L, s.rngWord w L)))) := by
  show execRng w s = _
  rw [execRng, ok_bind hreg, ok_bind hdst]
  rfl

theorem rng_traps {s : State} {w : LaneWord} (hreg : s.regCheck 0x01E w false = .ok ()) (hdst : dstCheck s w.dst (s.w.active w.guard) = .ok ())
    (hend : ∃ L ∈ s.w.active w.guard, look 0 s.w.rng L = BitVec.allOnes 64) (hwrap : s.run.wrapOk = false) : LaneTraps (.rng w) s .rngwrap 0 := by
  have hclosed : s.rngOpen (s.w.active w.guard) = false := by
    obtain ⟨L, hL, hlast⟩ := hend
    rw [Bool.eq_false_iff, ne_eq, State.rngOpen_iff]
    rintro (h | h)
    · exact h L hL hlast
    · rw [hwrap] at h
      cases h
  have he := exec_rng_eq hreg hdst
  rw [need_bind_false hclosed] at he
  exact he

theorem rng_draws {s : State} {w : LaneWord} (hreg : s.regCheck 0x01E w false = .ok ()) (hdst : dstCheck s w.dst (s.w.active w.guard) = .ok ())
    (hroom : (∀ L ∈ s.w.active w.guard, look 0 s.w.rng L ≠ BitVec.allOnes 64) ∨ s.run.wrapOk = true) :
    exec (.rng w) s = .next (((s.drawn w).writeDst w.dst false ((s.w.active w.guard).map fun L => (L, s.rngWord w L))).laneNext w.mark) := by
  have he := exec_rng_eq hreg hdst
  rw [need_bind ((s.rngOpen_iff _).mpr hroom)] at he
  exact he

/-- What a draw leaves: each active lane's counter advanced, and the results in the destination. -/
theorem rng_leaves {s : State} {w : LaneWord} (hreg : s.regCheck 0x01E w false = .ok ()) (hdst : dstCheck s w.dst (s.w.active w.guard) = .ok ())
    (hroom : (∀ L ∈ s.w.active w.guard, look 0 s.w.rng L ≠ BitVec.allOnes 64) ∨ s.run.wrapOk = true) :
    ∃ u : State, exec (.rng w) s = .next (u.laneNext w.mark) ∧
      (∀ L, look 0 u.w.rng L = if L ∈ s.w.active w.guard then look 0 s.w.rng L + 1 else look 0 s.w.rng L) ∧
      (∀ r L, L < 16384 → u.w.v32 r L = s.w.regsAfter w.dst (s.w.active w.guard) (s.rngWord w) r L) ∧
      u.w.q = (s.w.traffic 0x01E w ((s.w.active w.guard).map fun L => (L, s.rngWord w L))).q ∧
      u = { s with w := { s.w with v := u.w.v, q := u.w.q, rng := u.w.rng } } := by
  obtain ⟨hv, hu⟩ := (s.drawn w).writeDst_checked w.dst (lanes := s.w.active w.guard) (s.rngWord w) fun _ => Wave.lt_of_mem_active
  refine ⟨_, rng_draws hreg hdst hroom, fun L => ?_, fun r L hL => (hv r L hL).trans ?_, ?_, ?_⟩
  · rw [hu]
    exact s.w.look_rngAfter _ L
  · cases w.dst <;> rfl
  · rw [State.writeDst_queues, Wave.traffic]
    cases w.dst <;> rfl
  · rw [hu]
    rfl

/-! Indirect moves (R132). -/

/-- The checks of an index in each active lane: a register of the allocation, and not pending (R119, R132). -/
def indexCheck (s : State) (lanes : List Nat) (idx : Nat → Nat) : Res Unit := do
  need ((lanes.map fun L => (L, idx L)).all fun e => decide (e.2 < s.w.regs)) .regrange 0
  need ((lanes.map fun L => (L, idx L)).all fun e => !s.w.pend.contains e.2) .hazard 0

theorem indexCheck_ok {s : State} {lanes : List Nat} {idx : Nat → Nat} (h : ∀ L ∈ lanes, idx L < s.w.regs ∧ idx L ∉ s.w.pend) :
    indexCheck s lanes idx = .ok () := by
  have hrange : ((lanes.map fun L => (L, idx L)).all fun e => decide (e.2 < s.w.regs)) = true := by
    rw [List.all_map, List.all_eq_true]
    exact fun L hL => decide_eq_true (h L hL).1
  have hfree : ((lanes.map fun L => (L, idx L)).all fun e => !s.w.pend.contains e.2) = true := by
    rw [List.all_map, List.all_eq_true]
    exact fun L hL => by simpa using (h L hL).2
  rw [indexCheck, need_bind hrange, hfree]
  rfl

theorem indexCheck_traps {s : State} {lanes : List Nat} {idx : Nat → Nat} (h : ∃ L ∈ lanes, s.w.regs ≤ idx L) :
    indexCheck s lanes idx = trap .regrange 0 := by
  have hrange : ((lanes.map fun L => (L, idx L)).all fun e => decide (e.2 < s.w.regs)) = false := by
    obtain ⟨L, hL, hle⟩ := h
    rw [List.all_map, List.all_eq_false]
    exact ⟨L, hL, by simpa using hle⟩
  rw [indexCheck, need_bind_false hrange]

/-- An indirect move whose own checks have passed, by the check of its indexes. -/
theorem laneTraps_of_indexCheck {i : Instr} {s t : State} {w : LaneWord} {idx : Nat → Nat}
    (he : exec i s = finishLane w.mark s (indexCheck s (s.w.active w.guard) idx >>= fun _ => .ok t))
    (h : ∃ L ∈ s.w.active w.guard, s.w.regs ≤ idx L) : LaneTraps i s .regrange 0 := by
  rw [indexCheck_traps h] at he
  exact he

/-- The register that `rdx` reads in a lane. -/
def State.rdxIndex (s : State) (w : LaneWord) (L : Nat) : Nat := (w.fld 18 9).toNat + (s.src 0 w.a L).toNat

theorem exec_rdx_eq {s : State} {w : LaneWord} (hready : s.laneReady 0x020 w false) :
    exec (.rdx w) s = finishLane w.mark s (indexCheck s (s.w.active w.guard) (s.rdxIndex w) >>= fun _ =>
      .ok (s.withResults 0x020 w fun L => s.w.v32 (s.rdxIndex w L) L)) := by
  obtain ⟨hreg, hpop, hdst⟩ := hready
  rw [show wordSources 0x020 w = [w.a] from rfl] at hpop
  have hres : ((s.w.active w.guard).map fun L => (L, s.rdxIndex w L)).map (fun e => (e.1, s.w.v32 e.2 e.1)) =
      (s.w.active w.guard).map fun L => (L, s.w.v32 (s.rdxIndex w L) L) := List.map_map
  show execRdx w s = _
  rw [execRdx, ok_bind hreg, ok_bind (forM_eq_ok hpop), ok_bind hdst, State.withResults, ← hres, indexCheck, bind_assoc]
  rfl

theorem rdx_writes {s : State} {w : LaneWord} (hready : s.laneReady 0x020 w false)
    (hidx : ∀ L ∈ s.w.active w.guard, s.rdxIndex w L < s.w.regs ∧ s.rdxIndex w L ∉ s.w.pend) :
    LaneWrites (.rdx w) s 0x020 w (fun L => s.w.v32 (s.rdxIndex w L) L) s.w.counts := by
  have he := exec_rdx_eq hready
  rw [indexCheck_ok hidx] at he
  exact laneWrites_of_results he

/-- A base that is not allocated fails the check of the word's registers (R40, R132). -/
theorem rdx_base_traps {s : State} {w : LaneWord} (h : s.w.regs ≤ (w.fld 18 9).toNat) : LaneTraps (.rdx w) s .regrange 0 := by
  have hlast : (w.fld 18 9).toNat ≤ laneLast 0x020 w := le_max_right _ _
  have hcheck : s.regCheck 0x020 w false = trap .regrange 0 := need_bind_false (decide_eq_false (not_lt.mpr (h.trans hlast)))
  show execRdx w s = _
  rw [execRdx, hcheck]
  rfl

/-- The register that `wrx` writes in a lane. -/
def State.wrxIndex (s : State) (w : LaneWord) (d : BitVec 9) (L : Nat) : Nat := d.toNat + (s.src 0 w.a L).toNat

/-- The lane registers after `wrx`. -/
def State.wrxAfter (s : State) (w : LaneWord) (d : BitVec 9) : Sparse Word :=
  putAll 0 s.w.v ((s.w.active w.guard).map fun L => (vKey (s.wrxIndex w d L) L, s.src 0 w.b L))

theorem exec_wrx_eq {s : State} {w : LaneWord} {d : BitVec 9} (hd : w.dst = .v d) (hready : s.laneReady 0x021 w true) :
    exec (.wrx w) s = finishLane w.mark s (indexCheck s (s.w.active w.guard) (s.wrxIndex w d) >>= fun _ =>
      .ok { s with w := { s.w with v := s.wrxAfter w d, q := (s.w.traffic 0x021 w []).q } }) := by
  obtain ⟨hreg, hpop, -⟩ := hready
  rw [show wordSources 0x021 w = [w.a, w.b] from rfl] at hpop
  have hpops := s.popSources_eq 0x021 w (s.w.active w.guard)
  have hres : ((s.w.active w.guard).map fun L => (L, s.wrxIndex w d L)).map (fun e => (vKey e.2 e.1, s.src 0 w.b e.1)) =
      (s.w.active w.guard).map fun L => (vKey (s.wrxIndex w d L) L, s.src 0 w.b L) := List.map_map
  have hend (es : List (Nat × Word)) (h : es = (s.w.active w.guard).map fun L => (vKey (s.wrxIndex w d L) L, s.src 0 w.b L)) :
      (s.popSources 0x021 w (s.w.active w.guard)).modW (fun x => { x with v := putAll 0 x.v es }) =
      { s with w := { s.w with v := s.wrxAfter w d, q := (s.w.traffic 0x021 w []).q } } := by
    rw [h, hpops, Wave.traffic, hd]
    rfl
  show execWrx w s = _
  rw [execWrx, ok_bind hreg, ok_bind (forM_eq_ok hpop), hd, ← hend _ hres, indexCheck, bind_assoc]
  rfl

theorem wrx_writes {s : State} {w : LaneWord} {d : BitVec 9} (hd : w.dst = .v d) (hready : s.laneReady 0x021 w true)
    (hidx : ∀ L ∈ s.w.active w.guard, s.wrxIndex w d L < s.w.regs ∧ s.wrxIndex w d L ∉ s.w.pend) :
    ∃ u : State, exec (.wrx w) s = .next (u.laneNext w.mark) ∧
      (∀ r L, L < 16384 → u.w.v32 r L = if L ∈ s.w.active w.guard ∧ r = s.wrxIndex w d L then s.src 0 w.b L else s.w.v32 r L) ∧
      u.w.q = (s.w.traffic 0x021 w []).q ∧ u = { s with w := { s.w with v := u.w.v, q := u.w.q } } := by
  have he := exec_wrx_eq hd hready
  rw [indexCheck_ok hidx] at he
  exact ⟨_, he, fun r L hL => look_putAll_registers 0 s.w.v (fun _ => Wave.lt_of_mem_active) (s.wrxIndex w d) (s.src 0 w.b) r hL, rfl, rfl⟩

theorem randomNumbersAndIndirectMovesClaim : RandomNumbersAndIndirectMovesClaim := by
  intro s w act
  refine ⟨fun hreg hdst => ⟨fun hroom => ?_, rng_traps hreg hdst⟩, fun hready => ⟨rdx_writes hready, ?_⟩, rdx_base_traps, fun d hd hready => ⟨?_, ?_⟩⟩
  · obtain ⟨u, he, hrng, hv, hq, hu⟩ := rng_leaves hreg hdst hroom
    refine ⟨u, he, hrng, fun val hval => ?_, hu⟩
    have hword : s.rngWord w = val := by
      rcases hval with ⟨ht, rfl⟩ | ⟨ht, rfl⟩
      · exact s.rngWord_bits ht
      · exact s.rngWord_fraction ht
    exact hword ▸ ⟨hv, hq⟩
  · exact laneTraps_of_indexCheck (exec_rdx_eq hready)
  · exact wrx_writes hd hready
  · exact laneTraps_of_indexCheck (exec_wrx_eq hd hready)

/-- Settles O31: each word by its own equation, from what a write of one value per lane leaves; the fraction of a draw is exact. -/
theorem maskIdentityRandomAndIndirectWords : Obligations.MaskIdentityRandomAndIndirectWords :=
  ⟨maskAndIdentityWordsClaim, randomNumbersAndIndirectMovesClaim⟩

end Sys2Proof.Machine

/-! SUPPORT. Global lane loads and stores (R116, R197, R202, R203, R224, R225, R297, R361): what an unchecked load and the entries of a store leave. -/

namespace Sys2Proof.Machine

open Sys2Proof

/-! What reading leaves (R193, R195, R225, R361). -/

theorem sameBytes.trans {s t u : State} (h : sameBytes s t) (k : sameBytes t u) : sameBytes s u := by
  obtain ⟨hm, hh, hk, hs, hp⟩ := h
  obtain ⟨km, kh, kk, ks, kp⟩ := k
  exact ⟨fun a => (km a).trans (hm a), fun a => (kh a).trans (hh a), fun a => (kk a).trans (hk a), ks.trans hs, kp.trans hp⟩

/-- What a word that reads memory may leave beside its results: of its wave, the queues that it pops and the counts that a release delivers;
no byte of memory; and every probe under way. -/
structure State.ReadsOnly (s t : State) : Prop where
  wave : t.w = { s.w with q := t.w.q, counts := t.w.counts }
  wid : t.wid = s.wid
  bytes : sameBytes s t
  probes : ∀ n, ∀ p ∈ (s.coreAt n).probes, p ∈ (t.coreAt n).probes

theorem State.ReadsOnly.refl (s : State) : s.ReadsOnly s := ⟨rfl, rfl, .refl s, fun _ _ h => h⟩

theorem State.ReadsOnly.trans {s t u : State} (h : s.ReadsOnly t) (k : t.ReadsOnly u) : s.ReadsOnly u :=
  ⟨k.wave.trans (by rw [h.wave]), k.wid.trans h.wid, h.bytes.trans k.bytes, fun n p hp => k.probes n p (h.probes n p hp)⟩

/-- The acting core's probes. -/
theorem State.ReadsOnly.core_probes {s t : State} (h : s.ReadsOnly t) {p : Loc × Bool × Bool} (hp : p ∈ s.core.probes) : p ∈ t.core.probes := by
  have hcore : t.w.core = s.w.core := by rw [h.wave]
  rw [State.core, hcore]
  exact h.probes _ p hp

theorem cachesOnly.readsOnly {s t : State} (h : cachesOnly s t) : s.ReadsOnly t := by
  have hw := h.w
  obtain ⟨hs, hc, -⟩ := h
  refine ⟨by rw [hw], by rw [hs], by rw [hs]; exact ⟨fun _ => rfl, fun _ => rfl, fun _ => rfl, rfl, rfl⟩, fun n p hp => ?_⟩
  rw [hc n]
  exact hp

theorem State.ReadsOnly.of_modCoreAt (s : State) (n : Nat) {f : Core → Core} (hf : ∀ c, ∀ p ∈ c.probes, p ∈ (f c).probes) :
    s.ReadsOnly (s.modCoreAt n f) := by
  refine ⟨rfl, rfl, .refl s, fun m p hp => ?_⟩
  rw [State.coreAt_modCoreAt_eq]
  split
  next h => rw [h] at hp; exact hf _ p hp
  next => exact hp

theorem State.ReadsOnly.modSector (s : State) (n : Nat) (f : Sector → Sector) : s.ReadsOnly (s.modSector n f) :=
  ⟨rfl, rfl, .refl s, fun _ _ h => h⟩

theorem State.ReadsOnly.setVec (s : State) (home line sector : Nat) : s.ReadsOnly (s.setVec home line sector) :=
  ⟨rfl, rfl, .refl s, fun _ _ h => h⟩

/-- A line taken into the read-only path comes from its home (R361). -/
theorem State.ReadsOnly.roTake (s : State) (core : Nat) (l : Loc) (u : Nat) : s.ReadsOnly (s.roTake core l u) := by
  unfold State.roTake
  extract_lets sec last peer t v
  have ht : s.ReadsOnly t := (cachesOnly.trip ..).readsOnly
  have hv : t.ReadsOnly v := by
    refine .trans ?_ (.of_modCoreAt _ _ fun _ _ h => h)
    split
    · exact .refl t
    · exact (cachesOnly.l1Room ..).readsOnly
  exact (((ht.trans hv).trans (.modSector ..)).trans (.setVec ..)).trans (cachesOnly.sendCopy ..).readsOnly

/-- A touch of the read-only path sends a probe or takes the line from its home (R361). -/
theorem State.ReadsOnly.roTouch (s : State) (l : Loc) : s.ReadsOnly (s.roTouch l) := by
  unfold State.roTouch
  dsimp only
  split
  · exact .refl s
  · split
    · exact .of_modCoreAt _ _ fun _ _ h => List.mem_append_left _ h
    · exact .roTake ..

theorem State.ReadsOnly.touchAll (s : State) (xs : List Access) : s.ReadsOnly (s.touchAll xs) :=
  foldl_inv (P := s.ReadsOnly) _ xs s (.refl s) fun _ _ h => h.trans (tlbOnly.touchTlb ..).cachesOnly.readsOnly

theorem State.ReadsOnly.popSources (s : State) (op : Nat) (w : LaneWord) (lanes : List Nat) : s.ReadsOnly (s.popSources op w lanes) := by
  rw [State.popSources_eq]
  exact ⟨rfl, rfl, .refl s, fun _ _ h => h⟩

/-- The ordering acts of a word: a release delivers counts, an acquire and a full fence drop what the core holds (R225, R235). -/
theorem State.ReadsOnly.release (s : State) (scope : Nat) : s.ReadsOnly (s.release scope) := by
  unfold State.release
  split
  · have hw := s.deliverCore_w s.w.core
    obtain ⟨_, _, _, _, hs⟩ := State.Delivers.deliverCore s s.w.core
    rw [hs] at hw ⊢
    refine ⟨?_, rfl, .refl s, fun _ _ h => h⟩
    rcases hw with hw | hw <;> exact hw ▸ rfl
  · exact .refl s

theorem State.ReadsOnly.acquire (s : State) (scope : Nat) : s.ReadsOnly (s.acquire scope) := by
  unfold State.acquire
  split
  · exact .of_modCoreAt _ _ fun _ _ h => h
  · exact .refl s

theorem State.ReadsOnly.freshen (s : State) : s.ReadsOnly s.freshen :=
  .of_modCoreAt s s.w.core (f := fun c => { c with l1 := [], skimBuf := [] }) fun _ _ h => h

theorem State.ReadsOnly.ordered (s : State) (w : LaneWord) : s.ReadsOnly (s.ordered w) := by
  unfold State.ordered
  extract_lets t u
  have ht : s.ReadsOnly t := by
    unfold t
    split
    · exact .release ..
    · exact .refl s
  have hu : t.ReadsOnly u := by
    unfold u
    split
    · exact .acquire ..
    · exact .refl t
  split
  · exact (ht.trans hu).trans (.freshen u)
  · exact ht.trans hu

/-! The elements of a global load (R202, R203, R361). -/

/-- A state whose load-store path holds nothing over the homes: neither the wave nor its core has stores or lines that stand before memory, and no
sector is poisoned. -/
structure State.Quiet (s : State) : Prop where
  poison : s.poison = []
  buf : s.w.buf = []
  stq : s.w.stq = []
  inflight : s.core.inflight = []
  l1 : s.core.l1 = []

/-- There a byte of a device place is memory's. -/
theorem State.Quiet.lsByte {s : State} (h : s.Quiet) {l : Loc} (hl : l.kind = .device) (a : Nat) : s.lsByte l a = readByte s.mem a := by
  rw [State.lsByte_eq h.buf, h.stq, h.inflight]
  show s.pathByte l a = _
  rw [State.pathByte, hl, h.l1]
  rfl

theorem State.Quiet.lsLe {s : State} (h : s.Quiet) {l : Loc} (hl : l.kind = .device) (a n : Nat) : s.lsLe l a n = readLe s.mem a n := by
  induction n generalizing a with
  | zero => rfl
  | succ n ih => rw [State.lsLe, readLe, h.lsByte hl, ih]

/-- An element's bytes are there, or come with a probe of its line that the read-only path has sent (R361). -/
def ElementLoaded (s0 t : State) (ro : Bool) (b : Nat) (e : Access × Loaded) : Prop :=
  e.2 = .value (readLe s0.mem e.1.loc.addr b) ∨
    (e.2 = .late ∧ ro = true ∧ ∃ q ∈ t.core.probes, q.1.addr / 128 = e.1.loc.addr / 128)

theorem ElementLoaded.later {s0 t u : State} {ro : Bool} {b : Nat} {e : Access × Loaded} (h : ElementLoaded s0 t ro b e) (k : t.ReadsOnly u) :
    ElementLoaded s0 u ro b e := by
  rcases h with h | ⟨hv, hro, q, hq, haddr⟩
  · exact .inl h
  · exact .inr ⟨hv, hro, q, k.core_probes hq, haddr⟩

/-- An element on the load-store path takes memory's bytes, and may fill the L1 (R193). -/
theorem loadElem_loadStore {s0 : State} (h0 : s0.Quiet) (s : State) (b : Nat) {x : Access} (hx : x.loc.kind = .device) :
    s.ReadsOnly (loadElem s0 s false b x).1 ∧ ElementLoaded s0 (loadElem s0 s false b x).1 false b (x, (loadElem s0 s false b x).2) := by
  have hpoison : s0.poisoned x.loc b = false := by
    rw [State.poisoned, h0.poison]
    exact Bool.and_false _
  unfold loadElem
  simp only [hx, Bool.false_eq_true, if_false, hpoison, h0.lsLe hx]
  refine ⟨?_, .inl rfl⟩
  split
  · exact (cachesOnly.fillL1 ..).readsOnly
  · exact .refl s

/-- An element on the read-only path takes memory's bytes, or waits for a probe of its line (R361). -/
theorem loadElem_readOnly {s0 : State} (h0 : s0.Quiet) (s : State) (b : Nat) {x : Access} (hx : x.loc.kind = .device) :
    s.ReadsOnly (loadElem s0 s true b x).1 ∧ ElementLoaded s0 (loadElem s0 s true b x).1 true b (x, (loadElem s0 s true b x).2) := by
  unfold loadElem
  simp only [hx, if_true, h0.poison]
  split
  · exact ⟨.refl s, .inl rfl⟩
  have ht : s.ReadsOnly (if s.passed (x.loc.addr / 128) then s.roTake s.w.core x.loc (x.loc.addr / 128) else s.roTouch x.loc) := by
    split
    · exact .roTake ..
    · exact .roTouch ..
  generalize (if s.passed (x.loc.addr / 128) then s.roTake s.w.core x.loc (x.loc.addr / 128) else s.roTouch x.loc) = t at ht
  split
  next hprobe =>
    obtain ⟨q, hq, hline⟩ := List.any_eq_true.mp hprobe
    exact ⟨ht, .inr ⟨rfl, rfl, q, hq, beq_iff_eq.mp (Bool.and_eq_true_iff.mp hline).1⟩⟩
  next => exact ⟨ht, .inl rfl⟩

theorem loadElem_loads {s0 : State} (h0 : s0.Quiet) (s : State) (ro : Bool) (b : Nat) {x : Access} (hx : x.loc.kind = .device) :
    s.ReadsOnly (loadElem s0 s ro b x).1 ∧ ElementLoaded s0 (loadElem s0 s ro b x).1 ro b (x, (loadElem s0 s ro b x).2) := by
  cases ro
  · exact loadElem_loadStore h0 s b hx
  · exact loadElem_readOnly h0 s b hx

/-- The elements of a load, in order: each is loaded, from the state before the word. -/
theorem loadElems_loads {s0 : State} (h0 : s0.Quiet) (ro : Bool) (b : Nat) (xs : List Access) (hxs : ∀ x ∈ xs, x.loc.kind = .device) (s : State) :
    s.ReadsOnly (loadElems s0 s ro b xs).1 ∧ (loadElems s0 s ro b xs).2.map Prod.fst = xs ∧
      ∀ e ∈ (loadElems s0 s ro b xs).2, ElementLoaded s0 (loadElems s0 s ro b xs).1 ro b e := by
  induction xs generalizing s with
  | nil => exact ⟨.refl s, rfl, fun _ h => absurd h List.not_mem_nil⟩
  | cons x xs ih =>
    obtain ⟨hstep, hx⟩ := loadElem_loads h0 s ro b (hxs x List.mem_cons_self)
    obtain ⟨hrest, hfst, hall⟩ := ih (fun y hy => hxs y (List.mem_cons_of_mem x hy)) (loadElem s0 s ro b x).1
    refine ⟨hstep.trans hrest, congrArg (x :: ·) hfst, fun e he => ?_⟩
    rcases List.mem_cons.mp he with rfl | he
    · exact hx.later hrest
    · exact hall e he

/-! The result of a global load on its way (R116, R203). -/

/-- A choice over pairs, by a test of their first parts. -/
theorem filterMap_eq_map_filter {α β γ : Type} {g : α × β → Option γ} {p : α → Bool} {f : α → γ} {l : List (α × β)}
    (h : ∀ e ∈ l, g e = if p e.1 then some (f e.1) else none) : l.filterMap g = ((l.map Prod.fst).filter p).map f := by
  induction l with
  | nil => rfl
  | cons e l ih =>
    have he := h e List.mem_cons_self
    have hl := ih fun x hx => h x (List.mem_cons_of_mem e hx)
    rw [List.filterMap_cons, List.map_cons, List.filter_cons, he, hl]
    cases p e.1 <;> rfl

/-- The elements of a load that wait for a probe. -/
def probedIn (vs : List (Access × Loaded)) (x : Access) : Bool := vs.contains (x, .late)

/-- Where each element has one result, it waits for a probe just where it is among those. -/
theorem probedIn_iff {vs : List (Access × Loaded)} (hnodup : (vs.map Prod.fst).Nodup) {e : Access × Loaded} (he : e ∈ vs) :
    probedIn vs e.1 = true ↔ e.2 = .late := by
  rw [probedIn, List.contains_iff_mem]
  constructor
  · intro h
    have := List.inj_on_of_nodup_map hnodup h he rfl
    rw [← this]
  · rintro h
    rw [← h]
    exact he

/-- What a load of device memory puts on its way: no fault; the bytes that are there, and the places of those that come with a probe. -/
theorem loadResult_of_loaded {s0 t : State} {ro : Bool} {b d ty acq : Nat} {xs : List Access} {vs : List (Access × Loaded)} (hfst : vs.map Prod.fst = xs)
    (hnodup : xs.Nodup) (hvs : ∀ e ∈ vs, ElementLoaded s0 t ro b e) :
    (loadResult d ty acq vs).err = none ∧
      (loadResult d ty acq vs).writes = (xs.filter fun y => !probedIn vs y).map (fun y =>
        ((d + y.reg) * 16384 + y.lane, elemImage ty (readLe s0.mem y.loc.addr b))) ∧
      (loadResult d ty acq vs).late = (xs.filter (probedIn vs)).map fun y => ((d + y.reg) * 16384 + y.lane, y.loc, y.va, ty) := by
  subst hfst
  have herr : (loadResult d ty acq vs).err = none := List.findSome?_eq_none_iff.mpr fun e he => by
    rcases hvs e he with h | ⟨h, -⟩ <;> rw [h]
  have hlate (e : Access × Loaded) (he : e ∈ vs) : probedIn vs e.1 = decide (e.2 = .late) := by
    rw [Bool.eq_iff_iff, probedIn_iff hnodup he, decide_eq_true_iff]
  refine ⟨herr, ?_, ?_⟩
  · show (if (loadResult d ty acq vs).err.isSome = true then [] else _) = _
    rw [herr]
    refine filterMap_eq_map_filter fun e he => ?_
    rw [hlate e he]
    rcases hvs e he with h | ⟨h, -⟩ <;> rw [h] <;> rfl
  · show (if (loadResult d ty acq vs).err.isSome = true then [] else _) = _
    rw [herr]
    refine filterMap_eq_map_filter fun e he => ?_
    rw [hlate e he]
    rcases hvs e he with h | ⟨h, -⟩ <;> rw [h] <;> rfl

/-! The accesses of a global word are apart by lane and register (R199, R202). -/

/-- A part of a meaning that gives a value has passed its first part. -/
theorem ok_of_bind {α β : Type} {r : Res α} {f : α → Res β} {y : β} (h : (r >>= f) = .ok y) : ∃ x, r = .ok x ∧ f x = .ok y := by
  cases r with
  | ok x => exact ⟨x, rfl, h⟩
  | error e => cases h

/-- What each part keeps of its input, the list of the values keeps of the list. -/
theorem map_of_mapM_ok {α β γ : Type} {f : α → Res β} {g : α → γ} {k : β → γ} {l : List α} {ys : List β} (h : l.mapM f = .ok ys)
    (hk : ∀ x y, f x = .ok y → k y = g x) : ys.map k = l.map g := by
  induction l generalizing ys with
  | nil =>
    cases h
    rfl
  | cons x l ih =>
    rw [List.mapM_cons] at h
    obtain ⟨y, hy, h⟩ := ok_of_bind h
    obtain ⟨zs, hzs, h⟩ := ok_of_bind h
    cases h
    rw [List.map_cons, List.map_cons, hk x y hy, ih hzs]

/-- The elements of a word by lane and register: each register of the group in each lane. -/
theorem map_elements (lanes : List Nat) (ea : Nat → DWord) (n b : Nat) :
    (elements (lanes.map fun L => (L, ea L)) n b).map (fun e => (e.1, e.2.1)) = lanes ×ˢ List.range n := by
  unfold elements
  rw [List.flatMap_map, List.map_flatMap]
  refine List.flatMap_congr fun L _ => ?_
  rw [List.map_map]
  rfl

/-- No two accesses of a word are of one lane and one register. -/
theorem nodup_of_globalCheck {s : State} {acc : Acc} {w : LaneWord} {align n b : Nat} {devOnly : Bool} {lanes : List Nat} {ea : Nat → DWord}
    {xs : List Access} (hl : lanes.Nodup) (h : globalCheck s acc w align devOnly (lanes.map fun L => (L, ea L)) n b = .ok xs) : xs.Nodup := by
  obtain ⟨_, -, h⟩ := ok_of_bind h
  obtain ⟨_, -, h⟩ := ok_of_bind h
  have hkeys : xs.map (fun y => (y.lane, y.reg)) = lanes ×ˢ List.range n := by
    rw [← map_elements lanes ea n b]
    refine map_of_mapM_ok h fun e y hy => ?_
    obtain ⟨L, j, va⟩ := e
    dsimp only at hy
    cases hacc : s.access acc va with
    | error e =>
      rw [hacc] at hy
      cases hy
    | ok l =>
      rw [hacc] at hy
      cases hy
      rfl
  exact .of_map (fun y => (y.lane, y.reg)) (hkeys ▸ hl.product List.nodup_range)

/-! Global loads. -/

/-- The state after a global load's elements, before its ordering acts: its queues popped, its registers pending, its result on its way. -/
def State.loadIssued (t : State) (op : Nat) (w : LaneWord) (lanes : List Nat) (d : Nat) (vs : List (Access × Loaded)) : State :=
  (t.popSources op w lanes).modW fun x => x.issueUnch ((List.range (lCount w)).map (d + ·)) (loadResult d w.tyM (lAcq w) vs)

/-- The state after a global load's elements, and what each gave. -/
def State.loaded (s : State) (ro : Bool) (w : LaneWord) (xs : List Access) : State × List (Access × Loaded) :=
  loadElems s (s.touchAll xs) ro (elemSize w.tyM) xs

/-- Of device places of a quiet state each element is loaded, and the word has only read. -/
theorem State.Quiet.loaded {s : State} (h : s.Quiet) (ro : Bool) (w : LaneWord) {xs : List Access} (hxs : ∀ x ∈ xs, x.loc.kind = .device) :
    s.ReadsOnly (s.loaded ro w xs).1 ∧ (s.loaded ro w xs).2.map Prod.fst = xs ∧
      ∀ e ∈ (s.loaded ro w xs).2, ElementLoaded s (s.loaded ro w xs).1 ro (elemSize w.tyM) e := by
  obtain ⟨hread, hrest⟩ := loadElems_loads h ro (elemSize w.tyM) xs hxs (s.touchAll xs)
  exact ⟨(State.ReadsOnly.touchAll s xs).trans hread, hrest⟩

/-- Once its checks have passed, a global load issues what its elements gave. -/
theorem laneLoad_eq {s : State} {op : Nat} {ro : Bool} {w : LaneWord} {xs : List Access} (hreg : s.regCheck op w true = .ok ())
    (hready : globalReady s op .load w (elemSize w.tyM) (lCount w) (elemSize w.tyM) false xs)
    (hline : ∀ y ∈ xs, lineWait s ro (elemSize w.tyM) y = false) :
    laneLoad op ro w s = .next ((((s.loaded ro w xs).1.loadIssued op w (s.w.active w.guard) (dstReg w.dst) (s.loaded ro w xs).2).ordered w).laneNext
      w.mark) := by
  obtain ⟨hpop, hcheck, horder⟩ := hready
  have hopen : (xs.all fun x => !lineWait s ro (elemSize w.tyM) x) = true :=
    List.all_eq_true.mpr fun x hx => by rw [hline x hx]; rfl
  unfold laneLoad
  dsimp only
  rw [ok_bind hreg, ok_bind hpop, ok_bind hcheck, ok_bind horder, ready_bind hopen]
  rfl

/-- The state after a global load's ordering acts: its result stands behind those issued before and its registers are pending; beside that the word
has only read. -/
theorem State.ReadsOnly.loadIssued {s t : State} (h : s.ReadsOnly t) (op : Nat) (w : LaneWord) (lanes : List Nat) (d : Nat)
    (vs : List (Access × Loaded)) :
    ((t.loadIssued op w lanes d vs).ordered w).w =
        { s.w.issueUnch ((List.range (lCount w)).map (d + ·)) (loadResult d w.tyM (lAcq w) vs) with
          q := ((t.loadIssued op w lanes d vs).ordered w).w.q, counts := ((t.loadIssued op w lanes d vs).ordered w).w.counts } ∧
      sameBytes s ((t.loadIssued op w lanes d vs).ordered w) ∧
      ∀ p ∈ t.core.probes, p ∈ ((t.loadIssued op w lanes d vs).ordered w).core.probes := by
  have hpop : t.ReadsOnly (t.popSources op w lanes) := .popSources ..
  have hord : (t.loadIssued op w lanes d vs).ReadsOnly ((t.loadIssued op w lanes d vs).ordered w) := .ordered ..
  refine ⟨hord.wave.trans ?_, (h.trans hpop).bytes.trans hord.bytes, fun p hp => hord.core_probes (hpop.core_probes hp)⟩
  show ({ (t.popSources op w lanes).w.issueUnch _ _ with q := _, counts := _ } : Wave) = _
  rw [(h.trans hpop).wave]
  rfl

/-- What a global load leaves where its elements are loaded as they are. -/
theorem laneLoad_issues {s : State} {i : Instr} {op : Nat} {ro : Bool} {w : LaneWord} {xs : List Access} {d : BitVec 9}
    (he : exec i s = laneLoad op ro w s) (hd : w.dst = .v d) (hreg : s.regCheck op w true = .ok ())
    (hready : globalReady s op .load w (elemSize w.tyM) (lCount w) (elemSize w.tyM) false xs)
    (hline : ∀ y ∈ xs, lineWait s ro (elemSize w.tyM) y = false) (hdev : ∀ y ∈ xs, y.loc.kind = .device) (hquiet : s.Quiet) :
    ∃ u : State, exec i s = .next (u.laneNext w.mark) ∧
      (∃ v probed, u.w.unch = s.w.unch ++ [v] ∧ v.err = none ∧ v.returned = false ∧ v.held = false ∧
        (∀ y ∈ xs, probed y = true → ro = true ∧ ∃ q ∈ u.core.probes, q.1.addr / 128 = y.loc.addr / 128) ∧
        v.writes = (xs.filter fun y => !probed y).map (fun y =>
          ((d.toNat + y.reg) * 16384 + y.lane, elemImage w.tyM (readLe s.mem y.loc.addr (elemSize w.tyM)))) ∧
        v.late = (xs.filter probed).map fun y => ((d.toNat + y.reg) * 16384 + y.lane, y.loc, y.va, w.tyM)) ∧
      (∀ j < lCount w, d.toNat + j ∈ u.w.pend) ∧ u.w.v = s.w.v ∧ u.w.m = s.w.m ∧ u.w.lm = s.w.lm ∧ u.w.acc = s.w.acc ∧ u.w.s = s.w.s ∧
      sameBytes s u := by
  have he := he.trans (laneLoad_eq hreg hready hline)
  rw [show dstReg w.dst = d.toNat by rw [hd]; rfl] at he
  obtain ⟨hread, hfst, hvs⟩ := hquiet.loaded ro w hdev
  generalize s.loaded ro w xs = l at he hread hfst hvs
  obtain ⟨t, vs⟩ := l
  obtain ⟨herr, hwrites, hlate⟩ := loadResult_of_loaded (d := d.toNat) (ty := w.tyM) (acq := lAcq w) hfst
    (nodup_of_globalCheck (s.w.active_nodup w.guard) hready.2.1) hvs
  obtain ⟨hw, hbytes, hprobes⟩ := hread.loadIssued op w (s.w.active w.guard) d.toNat vs
  refine ⟨_, he, ⟨loadResult d.toNat w.tyM (lAcq w) vs, probedIn vs, by rw [hw]; rfl, herr, rfl, rfl, fun y _ hp => ?_, hwrites, hlate⟩, fun j hj => ?_,
    by rw [hw]; rfl, by rw [hw]; rfl, by rw [hw]; rfl, by rw [hw]; rfl, by rw [hw]; rfl, hbytes⟩
  · rcases hvs _ (List.contains_iff_mem.mp hp) with h | ⟨-, hro, q, hq, hline⟩
    · cases h
    · exact ⟨hro, q, hprobes q hq, hline⟩
  · rw [hw]
    exact List.mem_append_left _ (List.mem_map_of_mem (List.mem_range.mpr hj))

theorem globalLoadIssuesItsBytesClaim : GlobalLoadIssuesItsBytesClaim := by
  intro s w d xs hd x hx hreg b hready hline hdev hpoison hbuf hstq hcore
  have hquiet : s.Quiet := ⟨hpoison, hbuf, hstq, hcore.1, hcore.2⟩
  have he : exec x.1 s = laneLoad x.2.1 x.2.2 w s := by
    revert x
    simp only [List.forall_mem_cons]
    exact ⟨fun _ _ _ => rfl, fun _ _ _ => rfl, by simp⟩
  exact laneLoad_issues he hd hreg hready hline hdev hquiet

/-! The store queue (R197, R297). -/

/-- Stores that enter the store queue one after another stand behind those in it, as the wave's; nothing else changes but the numbers given out. -/
theorem State.enqueueAll_eq (es : List (Loc × List Host.Cell)) (s : State) : ∃ n q,
    es.foldl (fun s e => s.enqueue e.1 e.2) s = { s with nextId := n, w := { s.w with stq := s.w.stq ++ q } } ∧
      q.map (fun e => (e.loc, e.cells)) = es ∧ ∀ e ∈ q, e.wave = s.wid := by
  induction es generalizing s with
  | nil => exact ⟨s.nextId, [], by rw [List.append_nil]; rfl, rfl, fun _ h => absurd h List.not_mem_nil⟩
  | cons e es ih =>
    obtain ⟨n, q, hs, hq, hw⟩ := ih (s.enqueue e.1 e.2)
    refine ⟨n, { id := s.nextId, wave := s.wid, loc := e.1, cells := e.2 } :: q, ?_, congrArg (e :: ·) hq, List.forall_mem_cons.mpr ⟨rfl, hw⟩⟩
    rw [List.foldl_cons, hs]
    show ({ s with nextId := n, w := { s.w with stq := s.w.stq ++ [_] ++ q } } : State) = _
    rw [List.append_assoc]
    rfl

/-- The state after stores have entered the queue. -/
def State.enqueueAll (s : State) (es : List (Loc × List Host.Cell)) : State := es.foldl (fun s e => s.enqueue e.1 e.2) s

/-- In `u` line entries stand behind the store queue of `s`, as the wave's; its lanes and every byte of memory are as before. -/
structure State.Stores (s u : State) (es : List (Loc × List Host.Cell)) : Prop where
  stq : u.w.stq.map (fun e => (e.loc, e.cells)) = s.w.stq.map (fun e => (e.loc, e.cells)) ++ es
  own : ∀ e ∈ u.w.stq.drop s.w.stq.length, e.wave = s.wid
  lanes : u.w.v = s.w.v ∧ u.w.m = s.w.m ∧ u.w.lm = s.w.lm ∧ u.w.acc = s.w.acc
  bytes : sameBytes s u

/-- Entries go into the queue of a state that has only read since. -/
theorem State.ReadsOnly.enqueueAll {s t : State} (h : s.ReadsOnly t) (es : List (Loc × List Host.Cell)) : s.Stores (t.enqueueAll es) es := by
  obtain ⟨n, q, ht, hq, hown⟩ := State.enqueueAll_eq es t
  have hstq : t.w.stq = s.w.stq := by rw [h.wave]
  rw [State.enqueueAll, ht]
  refine ⟨?_, ?_, ?_, h.bytes⟩
  · show (t.w.stq ++ q).map _ = _
    rw [List.map_append, hq, hstq]
  · show ∀ e ∈ (t.w.stq ++ q).drop _, _
    rw [hstq, List.drop_left]
    exact fun e he => (hown e he).trans h.wid
  · show t.w.v = s.w.v ∧ t.w.m = s.w.m ∧ t.w.lm = s.w.lm ∧ t.w.acc = s.w.acc
    rw [h.wave]
    exact ⟨rfl, rfl, rfl, rfl⟩

/-- And a word may read after its entries have entered. -/
theorem State.Stores.reads {s t u : State} {es : List (Loc × List Host.Cell)} (h : s.Stores t es) (k : t.ReadsOnly u) : s.Stores u es := by
  have hstq : u.w.stq = t.w.stq := by rw [k.wave]
  refine ⟨by rw [hstq]; exact h.stq, by rw [hstq]; exact h.own, ?_, h.bytes.trans k.bytes⟩
  rw [k.wave]
  exact h.lanes

/-- What a store word does in some lanes after its entries: its addresses used, its queues popped, its ordering acts. -/
def State.storeDone (s : State) (w : LaneWord) (lanes : List Nat) (xs : List Access) : State :=
  ((s.touchAll xs).popSources 0x503 w lanes).ordered w

theorem State.ReadsOnly.storeDone (s : State) (w : LaneWord) (lanes : List Nat) (xs : List Access) : s.ReadsOnly (s.storeDone w lanes xs) :=
  ((State.ReadsOnly.touchAll s xs).trans (.popSources ..)).trans (.ordered ..)

/-! Global stores. -/

/-- The line entries of a store word's accesses (R202). -/
def storeEntries (s : State) (w : LaneWord) (xs : List Access) : List (Loc × List Host.Cell) :=
  lineEntries (xs.map fun x => (x.loc, leCells x.loc.addr (elemSize w.tyM) (elemData w.tyM (dataReg s w.tyM w.c x.lane x.reg))))

/-- A store word that starts outside a reproducible context, with its checks passed. -/
structure StoreStarts (s : State) (w : LaneWord) (xs : List Access) : Prop where
  registers : s.regCheck 0x503 w false = .ok ()
  ready : globalReady s 0x503 .store w (elemSize w.tyM) (lCount w) (elemSize w.tyM) false xs
  repro : s.repro = false
  fresh : s.w.stgAt = none

/-- A word whose entries the queue has room for enters them all (R197, R202). -/
theorem exec_stG_fits {s : State} {w : LaneWord} {xs : List Access} (h : StoreStarts s w xs)
    (hroom : s.w.stq.length + (storeEntries s w xs).length ≤ 64) :
    exec (.stG w) s = .next (((s.enqueueAll (storeEntries s w xs)).storeDone w (s.w.active w.guard) xs).laneNext w.mark) := by
  obtain ⟨hreg, ⟨hpop, hcheck, horder⟩, hrepro, hfresh⟩ := h
  have hopen : s.w.stqRoom (storeEntries s w xs).length = true := decide_eq_true hroom
  show execStG w s = _
  unfold execStG
  dsimp only
  rw [hfresh, ok_bind hreg, ok_bind hpop, ok_bind hcheck, ok_bind horder, if_neg (Bool.eq_false_iff.mp hrepro),
    ← storeEntries, if_neg (by omega), ready_bind hopen]
  rfl

/-- Of more entries than the queue can hold at all, those enter that fit, and the word keeps the rest (R197, R202). -/
theorem exec_stG_exceeds {s : State} {w : LaneWord} {xs : List Access} (h : StoreStarts s w xs) (hmany : 64 < (storeEntries s w xs).length) :
    exec (.stG w) s = storeOn w (s.storeDone w (s.w.active w.guard) xs) (storeEntries s w xs) := by
  obtain ⟨hreg, ⟨hpop, hcheck, horder⟩, hrepro, hfresh⟩ := h
  show execStG w s = _
  unfold execStG
  dsimp only
  rw [hfresh, ok_bind hreg, ok_bind hpop, ok_bind hcheck, ok_bind horder, if_neg (Bool.eq_false_iff.mp hrepro),
    ← storeEntries, if_pos hmany]
  obtain ⟨e, es, h⟩ : ∃ e es, storeEntries s w xs = e :: es := List.exists_cons_of_length_pos (by omega)
  rw [h]
  rfl

/-- Entries that a word still has to enter, where the queue has room for them all: they enter, and the word ends. -/
theorem storeOn_fits {s : State} {w : LaneWord} {es : List (Loc × List Host.Cell)} (h : es.length ≤ 64 - s.w.stq.length) :
    storeOn w s es = .next (((s.enqueueAll es).modW fun x => { x with stgAt := none }).laneNext w.mark) := by
  unfold storeOn
  dsimp only
  rw [if_pos h, List.take_of_length_le h]
  rfl

/-- Where it has not, those enter that fit, and the word is to go on with the rest. -/
theorem storeOn_exceeds {s : State} {w : LaneWord} {es : List (Loc × List Host.Cell)} (h : 64 - s.w.stq.length < es.length) :
    storeOn w s es = .next ((s.enqueueAll (es.take (64 - s.w.stq.length))).modW fun x =>
      { x with stgAt := some (s.laneTarget, es.drop (64 - s.w.stq.length)), laneBlocked := true }) := by
  unfold storeOn
  dsimp only
  rw [if_neg (by omega)]
  rfl

/-- The slot that executes is the lane queue's. -/
theorem State.laneTarget_of_lq {s t : State} (h : t.w.lq = s.w.lq) : t.laneTarget = s.laneTarget := by
  unfold State.laneTarget State.run
  rw [h]
  split <;> rfl

theorem globalStoreEntersTheStoreQueueClaim : GlobalStoreEntersTheStoreQueueClaim := by
  intro s w xs hreg b hready hrepro hfresh es same
  have hstart : StoreStarts s w xs := ⟨hreg, hready, hrepro, hfresh⟩
  have hsame (u : State) (fs : List (Loc × List Host.Cell)) (h : s.Stores u fs) : same u :=
    ⟨h.own, h.lanes.1, h.lanes.2.1, h.lanes.2.2.1, h.lanes.2.2.2, h.bytes⟩
  refine ⟨fun hroom => ?_, fun hmany => ?_, fun z at' hz hroom => ?_⟩
  · have h : s.Stores _ es := ((State.ReadsOnly.refl s).enqueueAll es).reads (.storeDone _ w (s.w.active w.guard) xs)
    exact ⟨_, exec_stG_fits hstart hroom, hsame _ es h, h.stq⟩
  · have hdone : s.ReadsOnly (s.storeDone w (s.w.active w.guard) xs) := .storeDone ..
    have hstq : (s.storeDone w (s.w.active w.guard) xs).w.stq = s.w.stq := by rw [hdone.wave]
    have htarget : (s.storeDone w (s.w.active w.guard) xs).laneTarget = s.laneTarget := State.laneTarget_of_lq (by rw [hdone.wave])
    have h := hdone.enqueueAll (es.take (64 - s.w.stq.length))
    have he := (exec_stG_exceeds hstart hmany).trans (storeOn_exceeds ((Nat.sub_le ..).trans_lt hmany))
    rw [hstq, htarget] at he
    exact ⟨_, he, hsame _ _ ⟨h.stq, h.own, h.lanes, h.bytes⟩, rfl, h.stq, rfl⟩
  · subst hz
    have h := (State.ReadsOnly.refl { s with w := { s.w with stgAt := some (at', es) } }).enqueueAll es
    exact ⟨_, storeOn_fits hroom, rfl, h.stq⟩

/-- Settles O37: the elements of a load are loaded from the state before the word, and no two are of one lane and register; the entries of a store
enter the queue one after another, and beside them each word only reads. -/
theorem globalLoadAndStoreUseTheirQueues : Obligations.GlobalLoadAndStoreUseTheirQueues :=
  ⟨globalLoadIssuesItsBytesClaim, globalStoreEntersTheStoreQueueClaim⟩

end Sys2Proof.Machine

/-! SUPPORT. DRAM channels and regions, allowances, and uncorrectable errors (R194, R203, R205, R289, R380, R381): what each step of the platform leaves. -/

namespace Sys2Proof.Machine

open Sys2Proof

/-! DRAM channels and regions (R194, R380). -/

/-- A channel's retraining ends, and with it the command that asked for it, if that is still the one that runs (R380). -/
theorem dramRetrainEnd_ends {s : State} {n : Nat} (h : s.retraining = some n) : StepsTo (.dramRetrainEnd n) s fun t =>
    t.retraining = none ∧ t.mem = s.mem ∧ (s.commanded 4 → ended t 0) ∧ (¬ s.commanded 4 → t.mg = s.mg) := by
  have hexec : exec (.dramRetrainEnd n) s =
      .next (if s.mg.runs 4 then ({ s with retraining := none } : State).mgDone 0 else { s with retraining := none }) := if_pos h
  have hruns : s.mg.runs 4 = true ↔ s.commanded 4 := by simp [Mg.runs, State.commanded]
  refine ⟨_, hexec, ?_⟩
  by_cases hc : s.commanded 4
  · rw [if_pos (hruns.mpr hc)]
    exact ⟨rfl, rfl, fun _ => ⟨rfl, rfl⟩, fun hn => absurd hc hn⟩
  · rw [if_neg (mt hruns.mp hc)]
    exact ⟨rfl, rfl, fun hn => absurd hn hc, fun _ => rfl⟩

theorem exec_refreshWindow {s : State} {n : Nat} (hn : n < 576) (h : n ∉ s.inRefresh) :
    exec (.refreshWindow n) s = .next { s with inRefresh := s.inRefresh ++ [n] } :=
  congrArg Host.Outcome.next (if_neg (by simp [hn, h]))

/-- Above 85 °C a region's refresh is doubled, with a record (R194). -/
theorem refreshStateChange_doubles {s : State} {n : Nat} {c : Int} (hr : s.fw.recovery = false) (hn : n < 144) (hc : 85 < c)
    (hd : n ∉ s.doubled) : StepsTo (.refreshStateChange n c) s fun t => n ∈ t.doubled ∧ oneRecord s t 1 (n / 12) ∧ t.mem = s.mem := by
  have hexec : exec (.refreshStateChange n c) s =
      .next (({ s with doubled := s.doubled ++ [n] } : State).emitSector (n / 12) 0x0002 [dw n, 1]) :=
    (if_neg (by simp [hr, hn])).trans (if_pos (by simp [hc, hd]))
  exact ⟨_, hexec, List.mem_append_right _ List.mem_cons_self, oneRecord_emit rfl .., rfl⟩

/-- Below 82 °C it is normal again, with a record (R194). -/
theorem refreshStateChange_ends {s : State} {n : Nat} {c : Int} (hr : s.fw.recovery = false) (hn : n < 144) (hc : c < 82)
    (hd : n ∈ s.doubled) : StepsTo (.refreshStateChange n c) s fun t => n ∉ t.doubled ∧ oneRecord s t 1 (n / 12) ∧ t.mem = s.mem := by
  have hexec : exec (.refreshStateChange n c) s =
      .next (({ s with doubled := s.doubled.filter fun r => r != n } : State).emitSector (n / 12) 0x0002 [dw n, 0]) :=
    (if_neg (by simp [hr, hn])).trans ((if_neg (by simp [hd])).trans (if_pos (by simp [hc, hd])))
  exact ⟨_, hexec, by simp [State.emitSector], oneRecord_emit rfl .., rfl⟩

/-- Between the two temperatures a region keeps its state, and in the recovery state nothing judges it (R194, R375). -/
theorem refreshStateChange_stays {s : State} {n : Nat} {c : Int} (h : s.fw.recovery = true ∨ (82 ≤ c ∧ c ≤ 85)) :
    exec (.refreshStateChange n c) s = .next s := by
  show execRefreshStateChange n c s = _
  unfold execRefreshStateChange
  rcases h with hr | ⟨hlo, hhi⟩
  · rw [if_pos (.inr hr)]
  · rw [if_neg (c := 85 < c ∧ _) (by omega), if_neg (c := c < 82 ∧ _) (by omega), ite_self]

/-! Allowances (R289, R381). -/

/-- A sector controller outside the recovery state judges a unit that exists. -/
theorem outOfRange_or_recovery {b : Bool} {n m : Nat} (hr : b = false) (hn : n < m) : (decide (m ≤ n) || b) = false := by
  simp [hr, hn]

theorem exec_logicAllowanceSet {s : State} {n : Nat} (c : Int) (hr : s.fw.recovery = false) (hn : n < 144) :
    exec (.logicAllowanceSet n c) s = .next { s with logicCut := put 0 s.logicCut n (min 255 (16 * (c - 90).toNat)) } :=
  congrArg Host.Outcome.next (if_neg (by simp [outOfRange_or_recovery hr hn]))

/-- What a region's sensor makes of the regions at their rating (R381). -/
theorem exec_dramRegionAtRating {s : State} {n : Nat} (c : Int) (hr : s.fw.recovery = false) (hn : n < 144) :
    exec (.dramRegionAtRating n c) s = .next (
      if 95 ≤ c then { s with atRating := if s.atRating.contains n then s.atRating else s.atRating ++ [n] }
      else if c < 92 then { s with atRating := s.atRating.filter fun x => x != n } else s) :=
  congrArg Host.Outcome.next (if_neg (by simp [outOfRange_or_recovery hr hn]))

theorem mem_addedOnce (l : List Nat) (n : Nat) : n ∈ if l.contains n then l else l ++ [n] := by
  split
  next h => exact List.contains_iff_mem.mp h
  next => exact List.mem_append_right _ List.mem_cons_self

/-- A core's allowance takes the lower of its two parts, and no other core changes (R289, R381). -/
theorem thermalAllowanceUpdate_sets {s : State} {n : Nat} (hr : s.fw.recovery = false) (hn : n < 576) :
    StepsTo (.thermalAllowanceUpdate n) s fun t =>
      (t.coreAt n).allowance = min (if clusterOf n ∈ s.atRating then 0 else 255 - look 0 s.logicCut (clusterOf n) - 16 * s.powerSteps)
        (if clusterOf n ∈ s.doubled then 96 else 255) ∧ t = { s with cores := t.cores } ∧ ∀ k, k ≠ n → t.coreAt k = s.coreAt k := by
  have hexec : exec (.thermalAllowanceUpdate n) s =
      .next (s.modCoreAt n fun c => { c with allowance := min (s.aLogic n) (s.aDram n) }) :=
    congrArg Host.Outcome.next (if_neg (by simp [outOfRange_or_recovery hr hn]))
  refine ⟨_, hexec, ?_, rfl, fun k hk => ?_⟩
  · rw [State.coreAt_modCoreAt]
    simp [State.aLogic, State.aDram]
  · rw [State.coreAt_modCoreAt_eq, if_neg hk]

/-- The steps by which a_logic is lowered after a reading of the power (R381). -/
theorem exec_powerAllowanceStep {s : State} (n : Nat) (hr : s.fw.recovery = false) : exec (.powerAllowanceStep n) s =
    .next { s with powerSteps := if 2200 < n then min 16 (s.powerSteps + 1) else if n < 2100 then s.powerSteps - 1 else s.powerSteps } :=
  congrArg (fun k => Host.Outcome.next ({ s with powerSteps := k } : State)) (if_neg (by simp [hr]))

/-- Between the two powers, and in the recovery state, the steps stay (R375, R381). -/
theorem powerAllowanceStep_stays {s : State} {n : Nat} (h : s.fw.recovery = true ∨ (2100 ≤ n ∧ n ≤ 2200)) :
    exec (.powerAllowanceStep n) s = .next s := by
  have hsteps : (if s.fw.recovery then s.powerSteps else if 2200 < n then min 16 (s.powerSteps + 1)
      else if n < 2100 then s.powerSteps - 1 else s.powerSteps) = s.powerSteps := by
    rcases h with hr | ⟨hlo, hhi⟩
    · exact if_pos hr
    · rw [if_neg (c := 2200 < n) (by omega), if_neg (c := n < 2100) (by omega), ite_self]
  exact congrArg (fun k => Host.Outcome.next ({ s with powerSteps := k } : State)) hsteps

/-- No sector controller works in the recovery state (R375). -/
theorem recovery_stays {s : State} (n : Nat) (c : Int) (hr : s.fw.recovery = true) :
    exec (.refreshStateChange n c) s = .next s ∧ exec (.logicAllowanceSet n c) s = .next s ∧ exec (.dramRegionAtRating n c) s = .next s ∧
      exec (.thermalAllowanceUpdate n) s = .next s ∧ exec (.powerAllowanceStep n) s = .next s :=
  ⟨refreshStateChange_stays (.inl hr), congrArg Host.Outcome.next (if_pos (by simp [hr])), congrArg Host.Outcome.next (if_pos (by simp [hr])),
    congrArg Host.Outcome.next (if_pos (by simp [hr])), powerAllowanceStep_stays (.inl hr)⟩

/-! Uncorrectable errors (R146, R203, R205). -/

/-- An error in a sector of device memory poisons that sector alone (R203). -/
theorem uncorrectableErrorPoison_memory {s : State} {n : Nat} (num : Nat) (hn : n < 2 ^ 48) : StepsTo (.uncorrectableErrorPoison 0 num n) s fun t =>
    n / 128 ∈ t.poison ∧ (∀ k, k ≠ n / 128 → (k ∈ t.poison ↔ k ∈ s.poison)) ∧ t = { s with poison := t.poison } := by
  have hexec : exec (.uncorrectableErrorPoison 0 num n) s =
      .next (if 2 ^ 48 ≤ n ∨ s.poison.contains (n / 128) then s else { s with poison := n / 128 :: s.poison }) := rfl
  refine ⟨_, hexec, ?_⟩
  by_cases h : n / 128 ∈ s.poison
  · rw [if_pos (.inr (List.contains_iff_mem.mpr h))]
    exact ⟨h, fun _ _ => .rfl, rfl⟩
  · rw [if_neg (by simpa [h] using hn)]
    exact ⟨List.mem_cons_self, fun k hk => by simp [hk], rfl⟩

/-- An error in a skim block (R205). -/
theorem uncorrectableErrorPoison_skim {s : State} {num n : Nat} (hnum : num < 288) (hn : n < 2 ^ 22) :
    StepsTo (.uncorrectableErrorPoison 1 num n) s fun t => (num * 2 ^ 22 + n) / 128 ∈ t.skimBad ∧ t = { s with skimBad := t.skimBad } := by
  have hexec : exec (.uncorrectableErrorPoison 1 num n) s =
      .next (if 288 ≤ num ∨ 2 ^ 22 ≤ n ∨ s.skimBad.contains ((num * 2 ^ 22 + n) / 128) then s
        else { s with skimBad := (num * 2 ^ 22 + n) / 128 :: s.skimBad }) := rfl
  refine ⟨_, hexec, ?_⟩
  by_cases h : (num * 2 ^ 22 + n) / 128 ∈ s.skimBad
  · rw [if_pos (.inr (.inr (List.contains_iff_mem.mpr h)))]
    exact ⟨h, rfl⟩
  · rw [if_neg (fun hb => hb.elim hnum.not_ge fun hb => hb.elim hn.not_ge fun hb => h (List.contains_iff_mem.mp hb))]
    exact ⟨List.mem_cons_self, rfl⟩

/-- A wave's lane memory with a cell in error, where the wave is resident. -/
def Wave.withError (w : Wave) (k : Nat) : Wave := if w.resident && !w.lmBad.contains k then { w with lmBad := k :: w.lmBad } else w

theorem Wave.withError_eq (w : Wave) (k : Nat) : w.withError k = { w with lmBad := (w.withError k).lmBad } := by
  unfold Wave.withError
  split <;> rfl

theorem Wave.mem_withError {w : Wave} (h : w.resident = true) (k : Nat) : k ∈ (w.withError k).lmBad := by
  unfold Wave.withError
  split
  next => exact List.mem_cons_self
  next hb => simpa [h] using hb

/-- An error in a cell of a resident wave's lane memory (R146). -/
theorem uncorrectableErrorPoison_lane {s : State} {num : Nat} (n : Nat) (h : (s.wave num).resident = true) :
    StepsTo (.uncorrectableErrorPoison 2 num n) s fun t =>
      n ∈ (t.wave num).lmBad ∧ t.mem = s.mem ∧ (t.wave num).lm = (s.wave num).lm := by
  have hexec : exec (.uncorrectableErrorPoison 2 num n) s = .next (s.setWave num ((s.wave num).withError n)) := rfl
  have hwave : (s.setWave num ((s.wave num).withError n)).wave num = (s.wave num).withError n := by rw [State.wave_setWave, if_pos rfl]
  exact ⟨_, hexec, by rw [hwave]; exact Wave.mem_withError h n, s.setWave_mem .., by rw [hwave, Wave.withError_eq]⟩

/-- Settles O57: each clause is what one step of the platform leaves. -/
theorem platformEventTakesEffect : Obligations.PlatformEventTakesEffect := by
  intro s n c
  refine ⟨dramRetrainEnd_ends, exec_refreshWindow, rfl, fun hr hn => ?_, thermalAllowanceUpdate_sets, fun hr hn => ?_, fun hr hn => ?_,
    fun hlo hhi => powerAllowanceStep_stays (.inr ⟨hlo, hhi⟩), recovery_stays n c, uncorrectableErrorPoison_memory,
    fun _ => uncorrectableErrorPoison_skim, fun _ => uncorrectableErrorPoison_lane n⟩
  · have hrating := exec_dramRegionAtRating c hr hn
    refine ⟨refreshStateChange_doubles hr hn, refreshStateChange_ends hr hn, fun hlo hhi => refreshStateChange_stays (.inr ⟨hlo, hhi⟩),
      exec_logicAllowanceSet c hr hn, fun hc => ?_, fun hlo hhi => ?_, fun hc => ?_⟩
    · rw [if_pos hc] at hrating
      exact ⟨_, hrating, mem_addedOnce .., rfl⟩
    · rwa [if_neg (by omega), if_neg (by omega)] at hrating
    · rwa [if_neg (by omega), if_pos hc] at hrating
  · rw [exec_powerAllowanceStep n hr, if_pos hn]
  · rw [exec_powerAllowanceStep n hr, if_neg (by omega), if_pos hn]

end Sys2Proof.Machine

/-! SUPPORT. Plane words (R136, R140, R145 to R158, R384): the steps of R146 and what each leaves of lane memory and of the counts, and the words that
follow those steps. -/

namespace Sys2Proof.Machine

open Sys2Proof

/-! The cells that a plane word writes (R138, R139, R146). -/

theorem Wave.writeLm_lm (w : Wave) (cs : List Host.Cell) : (w.writeLm cs).lm = writeCells w.lm cs := by
  induction cs generalizing w with
  | nil => rfl
  | cons c cs ih => exact ih _

theorem Wave.writeLm_eq (w : Wave) (cs : List Host.Cell) : w.writeLm cs = { w with lm := (w.writeLm cs).lm, lmBad := (w.writeLm cs).lmBad } := by
  induction cs generalizing w with
  | nil => rfl
  | cons c cs ih => exact ih (w.setLm c.1 c.2)

/-- Half bytes of lane memory change lane memory alone. -/
theorem Wave.writeNibs_eq (w : Wave) (lane p n v : Nat) :
    w.writeNibs lane p n v = { w with lm := (w.writeNibs lane p n v).lm, lmBad := (w.writeNibs lane p n v).lmBad } := by
  unfold Wave.writeNibs
  split
  · rfl
  · exact w.writeLm_eq _

/-- Half bytes lie in the bytes from their place's up. -/
theorem Wave.readByte_writeNibs (w : Wave) {lane p n k : Nat} (v : Nat)
    (h : k < lmKey lane (p / 2) ∨ lmKey lane (p / 2) + (n + 1) / 2 ≤ k) : readByte (w.writeNibs lane p n v).lm k = readByte w.lm k := by
  unfold Wave.writeNibs
  split
  next hn =>
    subst hn
    exact (readByte_writeByte ..).trans (if_neg (by omega))
  next =>
    rw [Wave.writeLm_lm]
    refine readByte_writeCells_not_mem _ _ _ fun c hc => ?_
    have := leCells_range _ _ _ c hc
    omega

/-- A wave's lane memory after some cells of a plane are written, one after another. -/
def Wave.cellsAfter (w : Wave) (d : Desc) (es : List ((Nat × Nat × Nat) × FRes)) : Wave := es.foldl (fun x e => x.writeCell d e) w

theorem Wave.writeCell_eq (w : Wave) (d : Desc) (e : (Nat × Nat × Nat) × FRes) :
    w.writeCell d e = { w with lm := (w.writeCell d e).lm, lmBad := (w.writeCell d e).lmBad } := w.writeNibs_eq ..

theorem Wave.cellsAfter_eq (w : Wave) (d : Desc) (es : List ((Nat × Nat × Nat) × FRes)) :
    w.cellsAfter d es = { w with lm := (w.cellsAfter d es).lm, lmBad := (w.cellsAfter d es).lmBad } :=
  foldl_inv (P := fun x : Wave => x = { w with lm := x.lm, lmBad := x.lmBad }) (fun x e => x.writeCell d e) es w rfl fun x e hx =>
    (x.writeCell_eq d e).trans (by rw [hx])

/-- A byte of lane memory that no part of a cell lies in. -/
def Wave.outsideCell (w : Wave) (d : Desc) (c : Nat × Nat × Nat) (k : Nat) : Prop :=
  let q := w.place d c.1 c.2.1 c.2.2
  k < lmKey q.1 (q.2 / 2) ∨ lmKey q.1 (q.2 / 2) + (nibs d.fmt + 1) / 2 ≤ k

/-- No byte outside the cells written changes. -/
theorem Wave.readByte_cellsAfter {d : Desc} {k : Nat} {es : List ((Nat × Nat × Nat) × FRes)} {w : Wave}
    (h : ∀ e ∈ es, w.outsideCell d e.1 k) : readByte (w.cellsAfter d es).lm k = readByte w.lm k := by
  induction es generalizing w with
  | nil => rfl
  | cons e es ih =>
    have hrest : ∀ x ∈ es, (w.writeCell d e).outsideCell d x.1 k := by
      rw [w.writeCell_eq]
      exact fun x hx => h x (List.mem_cons_of_mem e hx)
    exact (ih hrest).trans (w.readByte_writeNibs _ (h e List.mem_cons_self))

/-- Step 6 that meets an error has written some of the cells, which ones being free (R146). -/
theorem State.someCells_eq (s : State) (d : Desc) (es : List ((Nat × Nat × Nat) × FRes)) :
    ∃ sub : List ((Nat × Nat × Nat) × FRes), sub.Sublist es ∧
      s.someCells d es = { s with w := s.w.cellsAfter d sub, free := (s.someCells d es).free } := by
  induction es generalizing s with
  | nil => exact ⟨[], .slnil, rfl⟩
  | cons e es ih =>
    have hfirst : s.someCells d (e :: es) =
        State.someCells (if s.choose.1 then s.choose.2.modW fun w => w.writeCell d e else s.choose.2) d es := rfl
    rw [hfirst]
    by_cases hnew : s.choose.1 = true
    · rw [if_pos hnew]
      obtain ⟨sub, hsub, heq⟩ := ih (s.choose.2.modW fun w => w.writeCell d e)
      exact ⟨e :: sub, hsub.cons_cons e, heq⟩
    · rw [if_neg hnew]
      obtain ⟨sub, hsub, heq⟩ := ih s.choose.2
      exact ⟨sub, hsub.cons e, heq⟩

/-! The steps of a plane word (R136, R139, R140, R146, R384). -/

/-- dD's own checks come first, in this order (R136, R146). -/
theorem Wave.descOk_reserved {w : Wave} {d : Desc} (fmt n : Nat) (h : d.resv ≠ 0) : w.descOk d fmt n = trap .desc (descFva d.num 0) :=
  error_bind (if_neg (by simpa using h))

theorem Wave.descOk_format {w : Wave} {d : Desc} (fmt n : Nat) (hr : d.resv = 0) (h : d.fmt = 0 ∨ 9 < d.fmt) :
    w.descOk d fmt n = trap .desc (descFva d.num 1) :=
  (need_bind (by simpa using hr)).trans (error_bind (if_neg (by simp; omega)))

theorem Wave.descOk_base {w : Wave} {d : Desc} (fmt n : Nat) (hr : d.resv = 0) (hlo : 1 ≤ d.fmt) (hhi : d.fmt ≤ 9) (h : d.base % 16 ≠ 0) :
    w.descOk d fmt n = trap .desc (descFva d.num 4) :=
  (need_bind (by simpa using hr)).trans ((need_bind (by simp [hlo, hhi])).trans (error_bind (if_neg (by simpa using h))))

/-- A fault of dD is met before any other descriptor is looked at (R146). -/
theorem PlaneOp.steps_of_descFault {p : PlaneOp} {s : State} {h : Halt} (hd : s.w.descOk p.dst p.fmt p.dst.n = .error h) :
    p.steps s = .error h :=
  error_bind (error_bind (error_bind hd))

/-- Steps 1 to 3 pass: each descriptor is valid, the shape rule holds, the pairs agree in fold, and every footprint lies in the window. -/
theorem PlaneOp.check_ok {p : PlaneOp} {w : Wave} (hdst : w.descOk p.dst p.fmt p.dst.n = .ok ())
    (hsrcs : ∀ y ∈ p.srcs, w.descOk y.1 y.2 p.dst.n = .ok ()) (hshape : ∀ k, p.shape k = true)
    (hpairs : ∀ x ∈ p.pairs, ∀ c ∈ x.2.2, w.agree x.1 c.1 x.2.1 c.2 = true)
    (hbound : ∀ y ∈ p.dst :: p.srcs.map Prod.fst, y.base + w.footprint y ≤ w.lambda) : p.check w = .ok () := by
  have hone (k : Nat) {y : Desc × Nat} (h : w.descOk y.1 y.2 p.dst.n = .ok ()) :
      (w.descOk y.1 y.2 p.dst.n >>= fun _ => need (p.shape k) .desc (descFva y.1.num 2)) = .ok () :=
    (ok_bind h).trans ((need_ok ..).mpr (hshape k))
  have hin (y : Desc) (h : y ∈ p.dst :: p.srcs.map Prod.fst) : w.boundCheck y = .ok () :=
    (need_ok ..).mpr (decide_eq_true (hbound y h))
  unfold PlaneOp.check
  refine (ok_bind (hone 0 (y := (p.dst, p.fmt)) hdst)).trans ?_
  refine (ok_bind (forM_eq_ok fun y hy => hone (y.2 + 1) (hsrcs y.1 (List.fst_mem_of_mem_zipIdx hy)))).trans ?_
  refine (ok_bind (forM_eq_ok fun x hx => forM_eq_ok fun c hc => (need_ok ..).mpr (hpairs x hx c hc))).trans ?_
  refine (ok_bind (hin p.dst List.mem_cons_self)).trans ?_
  exact forM_eq_ok fun y hy => hin y.1 (List.mem_cons_of_mem _ (List.mem_map_of_mem hy))

/-- Cells that hold what the word's rule gives are its results. -/
theorem PlaneOp.results_ok {p : PlaneOp} {w : Wave} {es : List ((Nat × Nat × Nat) × FRes)} (h : cellsWritten p.dst es p.elem w) :
    p.results w = .ok es := by
  obtain ⟨hcells, hval⟩ := h
  unfold PlaneOp.results
  rw [← hcells, List.mapM_map]
  refine (mapM_eq_ok (g := id) fun e he => ?_).trans (by rw [List.map_id])
  obtain ⟨hin, hpad⟩ := hval e he
  by_cases hc : e.1.2.1 < p.dst.h ∧ e.1.2.2 < p.dst.w
  · exact (if_pos hc).trans (by rw [hin hc]; rfl)
  · exact (if_neg hc).trans (by rw [← hpad hc]; rfl)

/-- Steps 1 to 5 come to the check of FPTRAP. -/
theorem PlaneOp.steps_eq {p : PlaneOp} {s : State} {es : List ((Nat × Nat × Nat) × FRes)} (hcheck : p.check s.w = .ok ())
    (hread : ∀ y ∈ p.srcs, s.sbWait (s.w.descGranules y.1) false = .ok ()) (hwrite : s.sbWait (s.w.descGranules p.dst) true = .ok ())
    (hes : p.results s.w = .ok es) :
    p.steps s = fptrapCheck (if p.counts = 0 then 0 else s.run.fptrap) (es.map (·.2.kinds)) >>= fun _ => .ok es :=
  (ok_bind hcheck).trans ((ok_bind (forM_eq_ok hread)).trans ((ok_bind hwrite).trans (ok_bind hes)))

/-- A word that counts in no format traps on no kind. -/
theorem fptrapCheck_zero (ks : List (BitVec 4)) : fptrapCheck 0 ks = .ok () := if_pos (by simp)

/-! How a plane word ends (R146). -/

theorem planeWord_traps {lw : LaneWord} {p : PlaneOp} {s : State} {c : Cause} {fva : DWord} (hc : c ≠ .eccUncorr)
    (h : p.steps s = trap c fva) : planeWord lw p s = .next (s.raise 1 c fva s.laneTarget s.laneBits) := by
  unfold planeWord
  rw [h]
  split
  next heq => exact absurd (by injection heq with heq; injection heq) hc
  next heq =>
    injection heq with heq
    subst heq
    rfl
  next heq => injection heq

/-- The state after step 6, before the slot ends: the cells are written, and their kinds counted where the word counts. -/
def State.planeWritten (s : State) (d : Desc) (counts : Nat) (es : List ((Nat × Nat × Nat) × FRes)) : State :=
  let t := s.modW fun w => w.cellsAfter d es
  if counts = 0 then t else t.modW fun w => w.addKinds counts (es.map (·.2.kinds))

theorem planeWord_writes {lw : LaneWord} {p : PlaneOp} {s t : State} {es : List ((Nat × Nat × Nat) × FRes)} (h : p.steps s = .ok es)
    (hecc : s.writeEcc p.dst = (none, t)) : planeWord lw p s = .next ((t.planeWritten p.dst p.counts es).laneNext lw.mark) := by
  unfold planeWord
  rw [h]
  dsimp only
  rw [hecc]
  rfl

theorem planeWord_meets {lw : LaneWord} {p : PlaneOp} {s t : State} {es : List ((Nat × Nat × Nat) × FRes)} {off : Nat} (h : p.steps s = .ok es)
    (hecc : s.writeEcc p.dst = (some off, t)) :
    planeWord lw p s = .next ((t.someCells p.dst es).raise 1 .eccUncorr (dw off) s.laneTarget s.laneBits) := by
  unfold planeWord
  rw [h]
  dsimp only
  rw [hecc]

/-- Where step 6 meets an error (log entry 15). -/
theorem State.writeEcc_clean {s : State} {d : Desc} (h : s.w.badCells d = []) : s.writeEcc d = (none, s) := by
  simp [State.writeEcc, h]

theorem State.writeEcc_half {s : State} {d : Desc} {off : Nat} {rest : List Nat} (h : s.w.badCells d = off :: rest) (hn : nibs d.fmt = 1) :
    s.writeEcc d = (some off, s) := by
  simp [State.writeEcc, h, hn]

theorem State.writeEcc_whole {s : State} {d : Desc} {off : Nat} {rest : List Nat} (h : s.w.badCells d = off :: rest) (hn : nibs d.fmt ≠ 1) :
    s.writeEcc d = (if Config.freeChoice s.free then some off else none, { s with free := s.free + 1 }) := by
  unfold State.writeEcc
  rw [h]
  exact if_neg hn

/-- The counts of a wave after a plane word. -/
def Wave.planeCounts (w : Wave) (counts : Nat) (es : List ((Nat × Nat × Nat) × FRes)) : Sparse Nat :=
  if counts = 0 then w.counts else (w.addKinds counts (es.map (·.2.kinds))).counts

theorem State.planeWritten_eq (s : State) (d : Desc) (counts : Nat) (es : List ((Nat × Nat × Nat) × FRes)) :
    s.planeWritten d counts es =
      { s with w := { s.w with lm := (s.w.cellsAfter d es).lm, lmBad := (s.w.cellsAfter d es).lmBad, counts := s.w.planeCounts counts es } } := by
  unfold State.planeWritten Wave.planeCounts
  extract_lets t
  have ht : t = { s with w := { s.w with lm := (s.w.cellsAfter d es).lm, lmBad := (s.w.cellsAfter d es).lmBad } } :=
    congrArg (fun x => ({ s with w := x } : State)) (s.w.cellsAfter_eq d es)
  rw [ht]
  split <;> rfl

/-! The words that follow those steps (R145 to R158). -/

/-- The model's data of a plane word say what its rule says. -/
structure PlaneOp.Follows (p : PlaneOp) (s : State) (w : LaneWord) (r : PlaneRule) : Prop where
  exec : exec r.instr s = planeWord w p s
  dst : p.dst = s.w.desc (w.fld 26 4).toNat
  fmt : p.fmt = w.ty
  srcs : p.srcs = r.srcs
  shape : r.shape = true → ∀ k, p.shape k = true
  pairs : p.pairs = r.pairs
  counts : p.counts = r.counts
  elem : ∀ o i j, p.elem o i j = r.elem o i j

section
variable {p : PlaneOp} {s : State} {w : LaneWord} {r : PlaneRule}

/-- What is left of lane memory and of the counts where no error is met. -/
theorem PlaneOp.Follows.done (h : p.Follows s w r) {es : List ((Nat × Nat × Nat) × FRes)} {n : Nat} (hes : p.steps s = .ok es)
    (hecc : s.writeEcc p.dst = (none, { s with free := n })) : PlaneDone s { s with free := n } w r (s.w.desc (w.fld 26 4).toNat) es := by
  have hexec := h.exec.trans (planeWord_writes hes hecc)
  rw [State.planeWritten_eq, h.dst, h.counts] at hexec
  exact ⟨_, hexec, rfl, fun k hk => Wave.readByte_cellsAfter hk, rfl⟩

/-- What is left where an error is met. -/
theorem PlaneOp.Follows.meetsError (h : p.Follows s w r) {es : List ((Nat × Nat × Nat) × FRes)} {n off : Nat} (hes : p.steps s = .ok es)
    (hecc : s.writeEcc p.dst = (some off, { s with free := n })) : PlaneMeetsError s r (s.w.desc (w.fld 26 4).toNat) es off := by
  have hexec := h.exec.trans (planeWord_meets hes hecc)
  obtain ⟨sub, hsub, heq⟩ := State.someCells_eq { s with free := n } p.dst es
  generalize State.someCells { s with free := n } p.dst es = u at hexec heq
  have hw : u.w = s.w.cellsAfter p.dst sub := by rw [heq]
  refine ⟨u, sub, hexec, hsub, h.dst ▸ congrArg Wave.lm hw, ?_⟩
  rw [hw, ← Wave.cellsAfter_eq]
  exact heq

theorem PlaneOp.Follows.completes (h : p.Follows s w r) : PlaneCompletes s w r := by
  unfold PlaneCompletes
  intro d es hdst hsrcs hshape hpairs hbound hread hwrite hcells ks
  have hd : p.dst = d := h.dst
  have hcheck : p.check s.w = .ok () := by
    refine PlaneOp.check_ok ?_ ?_ (h.shape hshape) ?_ ?_
    · rw [hd, h.fmt]; exact hdst
    · rw [hd, h.srcs]; exact hsrcs
    · rw [h.pairs]; exact hpairs
    · rw [hd, h.srcs]; exact hbound
  have hresults : p.results s.w = .ok es :=
    PlaneOp.results_ok (by rw [hd, funext₃ h.elem]; exact hcells)
  have hsteps := PlaneOp.steps_eq hcheck (by rw [h.srcs]; exact hread) (by rw [hd]; exact hwrite) hresults
  rw [h.counts] at hsteps
  refine ⟨fun hr hk => ?_, fun hk => ?_⟩
  · rw [if_neg hr, fptrapCheck_traps hk] at hsteps
    exact h.exec.trans (planeWord_traps (by decide) hsteps)
  · have hes : p.steps s = .ok es := by
      rw [hsteps]
      by_cases hr : r.counts = 0
      · rw [if_pos hr]
        exact ok_bind (fptrapCheck_zero _)
      · rw [if_neg hr]
        exact ok_bind (fptrapCheck_ok (hk.resolve_left hr))
    refine ⟨fun hbad => h.done hes (n := s.free) (State.writeEcc_clean (hd ▸ hbad)), fun off rest hbad => ⟨fun hmet => ?_, fun hn hfree => ?_⟩⟩
    · by_cases hn : nibs d.fmt = 1
      · exact h.meetsError hes (n := s.free) (State.writeEcc_half (hd ▸ hbad) (hd ▸ hn))
      · have hecc := State.writeEcc_whole hbad hn
        rw [hmet.resolve_left hn, ← hd] at hecc
        exact h.meetsError hes hecc
    · have hecc := State.writeEcc_whole hbad hn
      rw [hfree, ← hd] at hecc
      exact h.done hes hecc

/-- A fault of dD comes before every other. -/
theorem PlaneOp.Follows.descFaults (h : p.Follows s w r) : let d := s.w.desc (w.fld 26 4).toNat
    (d.resv ≠ 0 → LaneTraps r.instr s .desc (dw d.num)) ∧
    (d.resv = 0 → (d.fmt = 0 ∨ 9 < d.fmt) → LaneTraps r.instr s .desc (dw (d.num + 512))) ∧
    (d.resv = 0 → 1 ≤ d.fmt → d.fmt ≤ 9 → d.base % 16 ≠ 0 → LaneTraps r.instr s .desc (dw (d.num + 4 * 512))) := by
  intro d
  have htraps (reason : Nat) (hf : s.w.descOk d p.fmt d.n = trap .desc (descFva d.num reason)) :
      LaneTraps r.instr s .desc (descFva d.num reason) := by
    have hd : p.dst = d := h.dst
    exact h.exec.trans (planeWord_traps (by decide) (PlaneOp.steps_of_descFault (hd ▸ hf)))
  exact ⟨fun hr => htraps 0 (Wave.descOk_reserved _ _ hr), fun hr hf => htraps 1 (Wave.descOk_format _ _ hr hf),
    fun hr hlo hhi hb => htraps 4 (Wave.descOk_base _ _ hr hlo hhi hb)⟩

end

/-! What each plane word asks and computes (R148 to R158). -/

/-- Two operands are read one after another, and so are three. -/
theorem mapM_pair_bind {α β γ : Type} (f : α → Res β) (a b : α) (g : List β → Res γ) :
    ([a, b].mapM f >>= g) = f a >>= fun x => f b >>= fun y => g [x, y] := by
  simp [List.mapM_cons]

theorem mapM_triple_bind {α β γ : Type} (f : α → Res β) (a b c : α) (g : List β → Res γ) :
    ([a, b, c].mapM f >>= g) = f a >>= fun x => f b >>= fun y => f c >>= fun z => g [x, y, z] := by
  simp [List.mapM_cons]

theorem nth_pair (x y : Word) : nth [x, y] 0 = x ∧ nth [x, y] 1 = y := ⟨rfl, rfl⟩

/-- A shape rule that asks one thing of each source. -/
theorem sourceShape_of_all {ds : List Desc} {f : Desc → Bool} (h : ∀ x ∈ ds, f x = true) (k : Nat) :
    (k == 0 || ((ds[k - 1]?).map f).getD true) = true := by
  rw [Bool.or_eq_true]
  refine .inr ?_
  cases hk : ds[k - 1]? with
  | none => rfl
  | some x => exact h x (List.mem_of_getElem? hk)

/-- A shape rule judged at the sources alone. -/
theorem sourceShape {b : Bool} (h : b = true) (k : Nat) : (k == 0 || b) = true := by
  rw [h, Bool.or_true]

/-- Index along the axis and across it, as the rules write them. -/
theorem along_eq (col : Bool) (i j : Nat) : along col i j = (if col then j else i, if col then i else j) := by
  cases col <;> rfl

section
variable {s : State} {w : LaneWord} {i : Instr} {elem : Nat → Nat → Nat → Res FRes}

/-- A movement word (R149, R150). -/
theorem follows_moveOp {f : Desc → Nat → Nat → Nat → Res Nat} (hexec : exec i s = planeWord w (moveOp w s f) s)
    (helem : ∀ o y x, elem o y x = (f (s.w.desc (descA w)) o (if axisCol w then x else y) (if axisCol w then y else x)).map asIs) :
    (moveOp w s f).Follows s w
      { instr := i, srcs := [(s.w.desc (descA w), w.ty)]
        shape := (s.w.desc (descA w)).h == (s.w.desc (descD w)).h && (s.w.desc (descA w)).w == (s.w.desc (descD w)).w
        pairs := [(s.w.desc (descA w), s.w.desc (descD w), bothAxes)], counts := 0, elem := elem } where
  exec := hexec
  dst := rfl
  fmt := rfl
  srcs := rfl
  shape := sourceShape
  pairs := rfl
  counts := rfl
  elem o y x := by
    refine Eq.trans ?_ (helem o y x).symm
    unfold moveOp
    dsimp only
    rw [along_eq]

/-- A reduction word (R152, R154). -/
theorem follows_foldWord {f : List Nat → FRes} {fl : Bool} {fmt : Nat} (hexec : exec i s = foldWord f fl w s)
    (hfmt : (if fl then w.ty else 0) = fmt)
    (helem : ∀ o y x, elem o y x = (s.w.line (s.w.desc (descA w)) (axisCol w) o (if axisCol w then y else x)).map f) :
    ∃ p : PlaneOp, p.Follows s w
      { instr := i, srcs := [(s.w.desc (descA w), w.ty)]
        shape := (s.w.desc (descD w)).extent (axisCol w) == 1 &&
          (s.w.desc (descA w)).extent (!axisCol w) == (s.w.desc (descD w)).extent (!axisCol w)
        pairs := [(s.w.desc (descA w), s.w.desc (descD w), otherAxis (axisCol w))], counts := fmt, elem := elem } := by
  refine ⟨_, { exec := hexec, dst := rfl, fmt := rfl, srcs := rfl, shape := fun h k => ?_, pairs := rfl, counts := hfmt,
               elem := fun o y x => ?_ }⟩
  · obtain ⟨hone, hlevel⟩ := Bool.and_eq_true_iff.mp h
    by_cases hk : k = 0
    · exact (if_pos hk).trans hone
    · exact (if_neg hk).trans (beq_iff_eq.mpr (beq_iff_eq.mp hlevel).symm)
  · refine Eq.trans ?_ (helem o y x).symm
    dsimp only
    rw [along_eq]

/-- An elementwise word of some sources (R158). -/
theorem follows_planeArith {srcs : List Nat} {f : List Word → Res FRes} {ds : List Desc} {pairs : List FoldPair} {fmt : Nat} {shape : Bool}
    (hexec : exec i s = planeArith srcs f true w s) (hds : srcs.map s.w.desc = ds)
    (hpairs : ((ds.tail ++ [s.w.desc (descD w)]).map fun x => ((ds.head?).getD (s.w.desc (descD w)), x, bothAxes)) = pairs)
    (hshape : shape = true → ∀ x ∈ ds, (x.h == (s.w.desc (descD w)).h && x.w == (s.w.desc (descD w)).w) = true)
    (hfmt : (if 3 ≤ w.ty then w.ty else 0) = fmt)
    (helem : ∀ o y x, elem o y x = ds.mapM (fun d => s.w.readElem d o y x) >>= fun xs => f (xs.map (BitVec.ofNat 32))) :
    ∃ p : PlaneOp, p.Follows s w
      { instr := i, srcs := ds.map fun x => (x, w.ty), shape := shape, pairs := pairs, counts := fmt, elem := elem } := by
  subst hds
  exact ⟨_, { exec := hexec, dst := rfl, fmt := rfl, srcs := rfl, shape := fun h => sourceShape_of_all (hshape h), pairs := hpairs
              counts := (if_congr decide_eq_true_iff rfl rfl).trans hfmt, elem := fun o y x => (helem o y x).symm }⟩

/-- An elementwise word of two sources. -/
theorem follows_planeArith_pair {f : List Word → Res FRes} {fmt : Nat}
    (hexec : exec i s = planeArith [descA w, descB w] f true w s) (hfmt : (if 3 ≤ w.ty then w.ty else 0) = fmt)
    (helem : ∀ o y x, elem o y x = s.w.readElem (s.w.desc (descA w)) o y x >>= fun p => s.w.readElem (s.w.desc (descB w)) o y x >>= fun q =>
      f [BitVec.ofNat 32 p, BitVec.ofNat 32 q]) :
    ∃ p : PlaneOp, p.Follows s w
      { instr := i, srcs := [(s.w.desc (descA w), w.ty), (s.w.desc (descB w), w.ty)]
        shape := ((s.w.desc (descA w)).h == (s.w.desc (descD w)).h && (s.w.desc (descA w)).w == (s.w.desc (descD w)).w) &&
          ((s.w.desc (descB w)).h == (s.w.desc (descD w)).h && (s.w.desc (descB w)).w == (s.w.desc (descD w)).w)
        pairs := [(s.w.desc (descA w), s.w.desc (descB w), bothAxes), (s.w.desc (descA w), s.w.desc (descD w), bothAxes)], counts := fmt
        elem := elem } := by
  refine follows_planeArith hexec rfl rfl (fun h => ?_) hfmt fun o y x => ?_
  · obtain ⟨ha, hb⟩ := Bool.and_eq_true_iff.mp h
    exact List.forall_mem_cons.mpr ⟨ha, List.forall_mem_singleton.mpr hb⟩
  · rw [helem, List.map_cons, List.map_cons, List.map_nil, mapM_pair_bind]
    rfl

end

/-- Nothing is counted of the greatest and of the least of two elements (R127). -/
theorem maxFn_kinds (t : Nat) (a b : Word) : Res.Gives (if t ≤ 2 then maxFn t a b else fmaxFn t a b) fun y => y.kinds = 0 :=
  .ite (.ok rfl) (.ok rfl)

theorem minFn_kinds (t : Nat) (a b : Word) : Res.Gives (if t ≤ 2 then minFn t a b else fminFn t a b) fun y => y.kinds = 0 :=
  .ite (.ok rfl) (.ok rfl)

/-- The model's data of a plane word say what a rule says, but that they may count in a format where the rule counts nothing, its elements being
of no kind. -/
def PlaneRule.Followed (s : State) (w : LaneWord) (r : PlaneRule) : Prop :=
  ∃ fmt, (∃ p : PlaneOp, p.Follows s w { r with counts := fmt }) ∧
    (fmt = r.counts ∨ r.counts = 0 ∧ ∀ o i j, (r.elem o i j).Gives fun y => y.kinds = 0)

theorem PlaneRule.Followed.exact {s : State} {w : LaneWord} {r : PlaneRule} (h : ∃ p : PlaneOp, p.Follows s w r) : r.Followed s w :=
  ⟨r.counts, h, .inl rfl⟩

/-- Every plane word's rule is followed; only those of the greatest and of the least element count where the rule counts nothing. -/
theorem planeRules_followed (s : State) (w : LaneWord) : ∀ x ∈ planeRules s w, x.Followed s w := by
  simp only [planeRules, List.forall_mem_cons]
  refine ⟨.exact ⟨_, follows_moveOp rfl fun _ _ _ => rfl⟩, .exact ⟨_, follows_moveOp rfl fun _ _ _ => rfl⟩,
    .exact ⟨_, follows_moveOp rfl fun _ _ _ => rfl⟩, ?spread, .exact (follows_foldWord rfl (if_congr decide_eq_true_iff rfl rfl) fun _ _ _ => rfl),
    .exact (follows_foldWord rfl (if_congr decide_eq_true_iff rfl rfl) fun _ _ _ => rfl), .exact (follows_foldWord rfl (if_congr decide_eq_true_iff rfl rfl) fun _ _ _ => rfl),
    .exact (follows_foldWord rfl rfl fun _ _ _ => rfl), ?scan, ?refold, ?ptrans, ?pick, ?add,
    ?mul, ?max, ?min, ?fma, by simp⟩
  case add =>
    refine .exact (follows_planeArith_pair (show execPAdd w s = _ from rfl) rfl fun o y x => ?_)
    simp only [nth_pair]
    rfl
  case mul =>
    refine .exact (follows_planeArith_pair (show execPMul w s = _ from rfl) rfl fun o y x => ?_)
    simp only [nth_pair]
    rfl
  case max =>
    refine ⟨_, follows_planeArith_pair (show execPMax w s = _ from rfl) rfl fun o y x => ?_, .inr ⟨rfl, fun o i j => ?_⟩⟩
    · simp only [nth_pair]
      rfl
    · dsimp only
      exact .step fun p => .step fun q => maxFn_kinds w.ty _ _
  case min =>
    refine ⟨_, follows_planeArith_pair (show execPMin w s = _ from rfl) rfl fun o y x => ?_, .inr ⟨rfl, fun o i j => ?_⟩⟩
    · simp only [nth_pair]
      rfl
    · dsimp only
      exact .step fun p => .step fun q => minFn_kinds w.ty _ _
  case fma =>
    refine .exact (follows_planeArith (srcs := [descA w, descB w, descC w])
      (ds := [s.w.desc (descA w), s.w.desc (descB w), s.w.desc (descC w)]) (show execPFma w s = _ from rfl) rfl rfl (fun h => ?_) rfl fun o y x => ?_)
    · obtain ⟨hab, hc⟩ := Bool.and_eq_true_iff.mp h
      obtain ⟨ha, hb⟩ := Bool.and_eq_true_iff.mp hab
      exact List.forall_mem_cons.mpr ⟨ha, List.forall_mem_cons.mpr ⟨hb, List.forall_mem_singleton.mpr hc⟩⟩
    · rw [mapM_triple_bind]
      rfl
  case spread =>
    exact .exact ⟨_, { exec := rfl, dst := rfl, fmt := rfl, srcs := rfl, shape := sourceShape, pairs := rfl, counts := rfl
                       elem := fun o y x => by dsimp only; rw [along_eq]; rfl }⟩
  case scan =>
    exact .exact ⟨_, { exec := rfl, dst := rfl, fmt := rfl, srcs := rfl, shape := sourceShape, pairs := rfl, counts := rfl
                       elem := fun o y x => by dsimp only; rw [along_eq]; rfl }⟩
  case refold =>
    exact .exact ⟨_, { exec := rfl, dst := rfl, fmt := rfl, srcs := rfl, shape := sourceShape, pairs := rfl, counts := rfl
                       elem := fun _ _ _ => rfl }⟩
  case ptrans =>
    exact .exact ⟨_, { exec := rfl, dst := rfl, fmt := rfl, srcs := rfl, shape := sourceShape, pairs := rfl, counts := rfl
                       elem := fun _ _ _ => rfl }⟩
  case pick =>
    refine .exact ⟨_, { exec := rfl, dst := rfl, fmt := rfl, srcs := rfl, shape := fun h k => ?_, pairs := rfl, counts := rfl
                        elem := fun o y x => ?_ }⟩
    · obtain ⟨ha, hb⟩ := Bool.and_eq_true_iff.mp h
      dsimp only
      split
      · rfl
      · split
        · exact ha
        · exact hb
    · dsimp only
      rw [along_eq]
      rfl

/-! Counts to which nothing is added (R105). -/

/-- A map in canonical form holds nothing below its first key. -/
theorem look_and_drop_below {α : Type} [DecidableEq α] {d : α} {m : Sparse α} {a k : Nat} (h : wfFrom d (some a) m = true) (hk : k ≤ a) :
    look d m k = d ∧ drop m k = m := by
  induction m generalizing a with
  | nil => exact ⟨rfl, rfl⟩
  | cons e r ih =>
    obtain ⟨b, v⟩ := e
    simp only [wfFrom, Bool.and_eq_true, decide_eq_true_eq] at h
    obtain ⟨⟨hab, -⟩, hr⟩ := h
    have hne : b ≠ k := by omega
    obtain ⟨hlook, hdrop⟩ := ih hr (by omega)
    unfold drop at hdrop
    exact ⟨(if_neg hne).trans hlook, by simp [drop, hne, hdrop]⟩

/-- In a map in canonical form, the write of a value that is there changes nothing. -/
theorem put_look_of_wfFrom {α : Type} [DecidableEq α] {d : α} {m : Sparse α} {lo : Option Nat} (h : wfFrom d lo m = true) (k : Nat) :
    put d m k (look d m k) = m := by
  induction m generalizing lo with
  | nil => exact if_pos rfl
  | cons e r ih =>
    obtain ⟨b, v⟩ := e
    simp only [wfFrom, Bool.and_eq_true, decide_eq_true_eq] at h
    obtain ⟨⟨-, hv⟩, hr⟩ := h
    by_cases hb : b = k
    · subst hb
      have hdrop : drop ((b, v) :: r) b = r := by
        have hself := (look_and_drop_below hr le_rfl).2
        unfold drop at hself ⊢
        simpa using hself
      have hlook : look d ((b, v) :: r) b = v := if_pos rfl
      rw [hlook, put, if_neg hv, hdrop]
      cases r with
      | nil => rfl
      | cons e r =>
        simp only [wfFrom, Bool.and_eq_true, decide_eq_true_eq] at hr
        exact if_pos hr.1.1
    · have hlook : look d ((b, v) :: r) k = look d r k := if_neg hb
      have hdrop : drop ((b, v) :: r) k = (b, v) :: drop r k := by simp [drop, hb]
      have hrest := ih hr
      rw [hlook, put, hdrop]
      unfold put at hrest
      split
      next hd =>
        rw [if_pos hd] at hrest
        rw [hrest]
      next hd =>
        have hbk : ¬ k < b := fun hlt => hd (look_and_drop_below hr hlt.le).1
        rw [if_neg hd] at hrest
        rw [insertKey, if_neg hbk, hrest]

/-- Elements of no kind leave counts in canonical form as they are. -/
theorem Wave.addKinds_none {w : Wave} {ks : List (BitVec 4)} (fmt : Nat) (hwf : Sparse.wf 0 w.counts = true) (hks : ∀ k ∈ ks, k = 0) :
    (w.addKinds fmt ks).counts = w.counts := by
  refine foldl_inv (P := fun m => m = w.counts) _ _ w.counts rfl fun m k hm => ?_
  have hnone : (ks.countP fun x => x.getLsbD k) = 0 := List.countP_eq_zero.mpr fun x hx => by simp [hks x hx]
  subst hm
  dsimp only
  rw [hnone, Nat.add_zero]
  exact put_look_of_wfFrom hwf _

theorem kindsUnion_none {ks : List (BitVec 4)} (hks : ∀ k ∈ ks, k = 0) : kindsUnion ks = 0 := by
  induction ks with
  | nil => rfl
  | cons k ks ih =>
    obtain ⟨rfl, hrest⟩ := List.forall_mem_cons.mp hks
    exact ih hrest

theorem trappedKinds_none {s : State} {ks : List (BitVec 4)} (hks : ∀ k ∈ ks, k = 0) : trappedKinds s ks = 0 :=
  (congrArg (· &&& s.run.fptrap) (kindsUnion_none hks)).trans BitVec.zero_and

/-- Where a rule's elements are of no kind, none is written. -/
theorem cellsWritten_kinds {d : Desc} {es : List ((Nat × Nat × Nat) × FRes)} {elem : Nat → Nat → Nat → Res FRes} {w : Wave}
    (h : cellsWritten d es elem w) (hkinds : ∀ o i j, (elem o i j).Gives fun y => y.kinds = 0) : ∀ k ∈ es.map (fun e => e.2.kinds), k = 0 := by
  obtain ⟨-, hval⟩ := h
  refine List.forall_mem_map.mpr fun e he => ?_
  obtain ⟨hin, hpad⟩ := hval e he
  by_cases hc : e.1.2.1 < d.h ∧ e.1.2.2 < d.w
  · exact hkinds _ _ _ e.2 (hin hc)
  · rw [hpad hc]

/-! Every plane word, where the wave's counts are in canonical form. -/

/-- The format of a rule matters by the counts alone. -/
theorem PlaneDone.counting {s s0 : State} {w : LaneWord} {r : PlaneRule} {d : Desc} {es : List ((Nat × Nat × Nat) × FRes)} {fmt : Nat}
    (h : PlaneDone s s0 w { r with counts := fmt } d es) (hcounts : s.w.planeCounts fmt es = s.w.planeCounts r.counts es) :
    PlaneDone s s0 w r d es := by
  obtain ⟨u, hexec, hlm, hframe, hu⟩ := h
  refine ⟨u, hexec, hlm, hframe, ?_⟩
  show u = { s0 with w := { s0.w with lm := u.w.lm, lmBad := u.w.lmBad, counts := s.w.planeCounts r.counts es } }
  rw [← hcounts]
  exact hu

theorem PlaneCompletes.uncounted {s : State} {w : LaneWord} {r : PlaneRule} {fmt : Nat} (h : PlaneCompletes s w { r with counts := fmt })
    (hr : r.counts = 0) (hkinds : ∀ o i j, (r.elem o i j).Gives fun y => y.kinds = 0) (hwf : Sparse.wf 0 s.w.counts = true) :
    PlaneCompletes s w r := by
  unfold PlaneCompletes
  intro d es hdst hsrcs hshape hpairs hbound hread hwrite hcells ks
  have hks : ∀ k ∈ ks, k = 0 := cellsWritten_kinds hcells hkinds
  have hcounts : s.w.planeCounts fmt es = s.w.planeCounts r.counts es := by
    unfold Wave.planeCounts
    rw [if_pos hr]
    split
    · rfl
    · exact Wave.addKinds_none fmt hwf hks
  obtain ⟨-, hends⟩ := h es hdst hsrcs hshape hpairs hbound hread hwrite hcells
  obtain ⟨hclean, hbad⟩ := hends (.inr (trappedKinds_none hks))
  refine ⟨fun hne => absurd hr hne, fun _ => ⟨fun hd => (hclean hd).counting hcounts, fun off rest hd => ?_⟩⟩
  obtain ⟨hmet, hunmet⟩ := hbad off rest hd
  exact ⟨hmet, fun hn hfree => (hunmet hn hfree).counting hcounts⟩

/-- What R145 to R158 say of each plane word, and that the faults of dD come first: so it is in every state whose counts stand in canonical form. -/
theorem planeWordWritesItsDestination_of_wf (s : State) (w : LaneWord) (hwf : Sparse.wf 0 s.w.counts = true) :
    ∀ x ∈ planeRules s w, PlaneCompletes s w x ∧
      let d := s.w.desc (w.fld 26 4).toNat
      (d.resv ≠ 0 → LaneTraps x.instr s .desc (dw d.num)) ∧
      (d.resv = 0 → (d.fmt = 0 ∨ 9 < d.fmt) → LaneTraps x.instr s .desc (dw (d.num + 512))) ∧
      (d.resv = 0 → 1 ≤ d.fmt → d.fmt ≤ 9 → d.base % 16 ≠ 0 → LaneTraps x.instr s .desc (dw (d.num + 4 * 512))) := by
  intro x hx
  obtain ⟨fmt, ⟨p, hp⟩, hfmt⟩ := planeRules_followed s w x hx
  refine ⟨?_, hp.descFaults⟩
  rcases hfmt with rfl | ⟨hzero, hkinds⟩
  · exact hp.completes
  · exact hp.completes.uncounted hzero hkinds hwf

/-! Counts that do not stand in canonical form. -/

/-- The fields of `p.max.f32 d0, d0, d0`. -/
def maxOntoItself : LaneWord := ⟨false, 0, 0, .v 0, .v 0, .v 0, .v 0, 0x0C0000000⟩

/-- A wave of one lane, with a plane of one `f32` in d0. Its counts hold an entry of 0, as no write of a count leaves one. -/
def zeroCounted : State := { w := { d := [(0, 3 <<< 52)], counts := [(cntKey 0 3 0, 0)] } }

/-- Adding no kinds takes the entry away. -/
theorem exec_maxOntoItself : ∃ t, exec (.pMax maxOntoItself) zeroCounted = .next t ∧ t.w.counts = [] := ⟨_, rfl, rfl⟩

/-- The end of an unmarked word leaves the counts as they are. -/
theorem State.laneNext_counts {s : State} (h : (s.w.stepping && s.w.lstep) = false) : (s.laneNext false).w.counts = s.w.counts := by
  rw [State.laneNext_unmarked h, State.modW_w, Wave.popDone_eq]
  rfl

/-- Refutes O32: the rules of `p.max` and `p.min` count nothing, and the model adds no kinds in the word's format, which rewrites counts that
are not in canonical form. From `zeroCounted`, `p.max` of a plane of one element onto itself drops the entry of 0 that the rule keeps. With counts in
canonical form the statement holds (`planeWordWritesItsDestination_of_wf`). -/
theorem not_planeWordWritesItsDestination : ¬ Obligations.PlaneWordWritesItsDestination := by
  intro h
  obtain ⟨hcompletes, -⟩ := h zeroCounted maxOntoItself _ (List.mem_of_getElem? (i := 14) rfl)
  obtain ⟨-, hends⟩ := hcompletes [((0, 0, 0), ⟨0, 0⟩)] rfl (by decide) rfl (by decide) (by decide) (by decide) rfl ⟨rfl, by decide⟩
  obtain ⟨hdone, -⟩ := hends (.inl rfl)
  obtain ⟨u, hexec, -, -, hu⟩ := hdone rfl
  obtain ⟨t, ht, hcounts⟩ := exec_maxOntoItself
  have hend : u.laneNext false = t := Host.Outcome.next.inj (hexec.symm.trans ht)
  have hkept : u.w.counts = zeroCounted.w.counts := by rw [hu]; rfl
  have hstep : (u.w.stepping && u.w.lstep) = false := by rw [hu]; rfl
  rw [← hend, State.laneNext_counts hstep, hkept] at hcounts
  exact absurd hcounts (by decide)

end Sys2Proof.Machine

/-! SUPPORT. Accumulator planes and what the dot words leave of them (R160 to R164, R172, R173): the checks that the words of class 100 share, the
entries of some lanes as one write, and the promotions of a dot word. -/

namespace Sys2Proof.Machine

open Sys2Proof

/-! The checks of a word of class 100 (R160, R169). -/

/-- A word whose registers pass and whose planes are the wave's passes. -/
theorem State.accCheck_ok {s : State} {op : Nat} {w : LaneWord} {planes : List Nat} (hreg : s.regCheck op w false = .ok ())
    (hplanes : ∀ p ∈ planes, p < s.w.accPlanes) : s.accCheck op w planes = .ok () := by
  obtain ⟨_, hrange, hhazard⟩ := ok_of_bind hreg
  exact (ok_bind hrange).trans ((ok_bind (forM_eq_ok fun p hp => (need_ok ..).mpr (decide_eq_true (hplanes p hp)))).trans hhazard)

theorem State.accCheck_plane {s : State} {op : Nat} {w : LaneWord} {p : Nat} (hreg : s.regCheck op w false = .ok ()) (hp : planeReady s p) :
    s.accCheck op w [p] = .ok () := State.accCheck_ok hreg (List.forall_mem_singleton.mpr hp.1)

/-- Of two checks the one that a word makes passes, and what follows either follows. -/
theorem branch_bind {α : Type} {c : Prop} [Decidable c] {x y : Res Unit} {f : Unit → Res α} (h : (if c then x else y) = .ok ()) :
    (if c then x >>= f else y >>= f) = f () := by
  refine Eq.trans ?_ (ok_bind h)
  split <;> rfl

/-! What is written for each of the 64 entries of some lanes. -/

/-- Writes of one value for each entry of some lanes, under a key of the lane and the entry. -/
def gridWrites {α : Type} (lanes : List Nat) (key : Nat → Nat → Nat) (val : Nat → Nat → α) : List (Nat × α) :=
  lanes.flatMap fun L => (List.range 64).map fun e => (key L e, val L e)

theorem mem_gridWrites {α : Type} {lanes : List Nat} {key : Nat → Nat → Nat} {val : Nat → Nat → α} {x : Nat × α} :
    x ∈ gridWrites lanes key val ↔ ∃ L ∈ lanes, ∃ e < 64, x = (key L e, val L e) := by
  simp only [gridWrites, List.mem_flatMap, List.mem_map, List.mem_range, eq_comm]

/-- What is done for each entry of each lane, in turn, is done for each of those writes. -/
theorem foldl_gridWrites {α β : Type} (f : β → Nat × α → β) (lanes : List Nat) (key : Nat → Nat → Nat) (val : Nat → Nat → α) (b : β) :
    (gridWrites lanes key val).foldl f b = lanes.foldl (fun b L => (List.range 64).foldl (fun b e => f b (key L e, val L e)) b) b := by
  simp only [gridWrites, List.foldl_flatMap, List.foldl_map]

/-- A key that belongs to one entry of one lane reads that entry's value. -/
theorem look_gridWrites_mem {α : Type} [DecidableEq α] (d : α) (m : Sparse α) {lanes : List Nat} {key : Nat → Nat → Nat} (val : Nat → Nat → α)
    {L e : Nat} (hL : L ∈ lanes) (he : e < 64) (hinj : ∀ K ∈ lanes, ∀ j < 64, key K j = key L e → K = L ∧ j = e) :
    look d (putAll d m (gridWrites lanes key val)) (key L e) = val L e :=
  look_putAll_mem d (val L e) m ⟨_, mem_gridWrites.mpr ⟨L, hL, e, he, rfl⟩, rfl⟩ fun x hx hkey => by
    obtain ⟨K, hK, j, hj, rfl⟩ := mem_gridWrites.mp hx
    obtain ⟨rfl, rfl⟩ := hinj K hK j hj hkey
    rfl

/-- And a key of no entry of these lanes reads as before. -/
theorem look_gridWrites_not_mem {α : Type} [DecidableEq α] (d : α) (m : Sparse α) {lanes : List Nat} {key : Nat → Nat → Nat}
    (val : Nat → Nat → α) {k : Nat} (h : ∀ K ∈ lanes, ∀ j < 64, key K j ≠ k) : look d (putAll d m (gridWrites lanes key val)) k = look d m k :=
  look_putAll_not_mem d _ m k fun x hx => by
    obtain ⟨K, hK, j, hj, rfl⟩ := mem_gridWrites.mp hx
    exact h K hK j hj

/-! Entries of a plane (R160). -/

theorem accKey_inj {p q L K e j : Nat} (hL : L < 16384) (hK : K < 16384) (he : e < 64) (hj : j < 64) :
    accKey p L e = accKey q K j ↔ p = q ∧ L = K ∧ e = j := by
  unfold accKey
  omega

/-- The entries of a plane in some lanes, written at once. -/
def Wave.setEntries (w : Wave) (p : Nat) (lanes : List Nat) (val : Nat → Nat → AccEntry) : Wave :=
  { w with acc := putAll {} w.acc (gridWrites lanes (accKey p) val) }

/-- Entry by entry comes to the same. -/
theorem Wave.foldl_setEntry (w : Wave) (p : Nat) (lanes : List Nat) (val : Nat → Nat → AccEntry) :
    lanes.foldl (fun x L => (List.range 64).foldl (fun x e => x.setEntry p L e (val L e)) x) w = w.setEntries p lanes val := by
  refine (foldl_gridWrites (fun (x : Wave) e => { x with acc := put {} x.acc e.1 e.2 }) lanes (accKey p) val w).symm.trans ?_
  unfold Wave.setEntries
  generalize gridWrites lanes (accKey p) val = es
  induction es generalizing w with
  | nil => rfl
  | cons e es ih => exact ih _

theorem Wave.entry_setEntries (w : Wave) (p : Nat) {lanes : List Nat} (hlanes : ∀ L ∈ lanes, L < 16384) (val : Nat → Nat → AccEntry) (q : Nat)
    {L e : Nat} (hL : L < 16384) (he : e < 64) :
    (w.setEntries p lanes val).entry q L e = if q = p ∧ L ∈ lanes then val L e else w.entry q L e := by
  split
  next h =>
    obtain ⟨rfl, hmem⟩ := h
    exact look_gridWrites_mem {} w.acc val hmem he fun K hK j hj hkey => ((accKey_inj (hlanes K hK) hL hj he).mp hkey).2
  next h =>
    refine look_gridWrites_not_mem {} w.acc val fun K hK j hj hkey => h ?_
    obtain ⟨rfl, rfl, -⟩ := (accKey_inj (hlanes K hK) hL hj he).mp hkey
    exact ⟨rfl, hK⟩

/-! The dot words (R163, R164, R172, R173). -/

/-- The entry of a lane after some chunk sums are promoted, one after another (R163). -/
def Wave.promoted (w : Wave) (p ty : Nat) (f : Nat → Nat → Nat → List Val) (rows : Nat → Nat → Word) (tile : Nat → Word) (L e : Nat) : AccEntry :=
  (f L (e / 8) (e % 8)).foldl (fun x sg => x.promote (w.anchorOf p L) sg (rowScale ty (rows L (e / 8))) (rowScale ty (tile L))) (w.entry p L e)

/-- Each entry of the lanes is promoted from the state before the word. -/
theorem Wave.promoteAll_eq (w : Wave) (p : Nat) (lanes : List Nat) (ty : Nat) (f : Nat → Nat → Nat → List Val) (rows : Nat → Nat → Word)
    (tile : Nat → Word) : w.promoteAll p lanes ty f rows tile = w.setEntries p lanes (w.promoted p ty f rows tile) :=
  w.foldl_setEntry p lanes _

/-- Scale words whose tags all select elements of the type's width pass the check of tags (R164). -/
theorem tagCheck_ok {ty num : Nat} {rows tiles : List Word} (hrows : ∀ x ∈ rows, tagBad ty x = false) (htiles : ∀ x ∈ tiles, tagBad ty x = false) :
    tagCheck ty num rows tiles = .ok () := by
  have hnone {xs : List Word} (h : ∀ x ∈ xs, tagBad ty x = false) : (!(xs.any (tagBad ty))) = true := by simpa using h
  exact (need_bind (hnone hrows)).trans ((need_ok ..).mpr (hnone htiles))

/-- A dot word whose checks pass promotes into every entry of its plane in the active lanes. -/
theorem dotWord_promotes {s : State} {w : LaneWord} {op : Nat} {f : Nat → Nat → Nat → List Val} (hreg : s.regCheck op w false = .ok ())
    (hp : planeReady s (dstPlane w)) (htags : tagsFit s w) :
    dotWord op w f s = .next ((s.modW fun x => x.setEntries (dstPlane w) (s.w.active w.guard) (s.w.promoted (dstPlane w) w.ty f
      (fun L i => s.w.v32 ((w.fld 11 9).toNat + i) L) fun L => s.src 0 w.c L)).laneNext w.mark) := by
  have hcheck : (if w.ty ≤ 5 then .ok () else tagCheck w.ty 0 ((s.w.active w.guard).flatMap fun L =>
      (List.range 8).map fun i => s.w.v32 ((w.fld 11 9).toNat + i) L) ((s.w.active w.guard).map fun L => s.src 0 w.c L)) = .ok () := by
    split
    · rfl
    next hty =>
      have hfit := htags.resolve_left hty
      refine tagCheck_ok (fun x hx => ?_) (List.forall_mem_map.mpr fun L hL => (hfit L hL).2)
      obtain ⟨L, hL, hx⟩ := List.mem_flatMap.mp hx
      obtain ⟨i, hi, rfl⟩ := List.mem_map.mp hx
      exact (hfit L hL).1 i (List.mem_range.mp hi)
  unfold dotWord
  extract_lets p vr
  rw [ok_bind (State.accCheck_plane hreg hp), ok_bind hp.2, branch_bind hcheck]
  exact congrArg (fun x : Wave => finishLane w.mark s (.ok { s with w := x })) (s.w.promoteAll_eq ..)

/-- Both dot words, by the chunk sums that each adds. -/
theorem exec_dotWords (s : State) (w : LaneWord) : ∀ x ∈ [(Instr.dot w, 0x400, false), (.dotSp w, 0x401, true)],
    exec x.1 s = dotWord x.2.1 w (dotSums s w x.2.2) s := by
  simp only [List.forall_mem_cons]
  exact ⟨rfl, rfl, by simp⟩

/-- Settles O34: a dot word is one write of the entries of its plane, each promoted from the state before it. -/
theorem dotWordPromotesItsChunks : Obligations.DotWordPromotesItsChunks := by
  intro s w p hdst hready htags x hx hreg
  have hplane : dstPlane w = p.toNat := by rw [dstPlane, hdst]
  rw [← hplane] at hready ⊢
  refine ⟨_, (exec_dotWords s w x hx).trans (dotWord_promotes hreg hready htags), fun q L e hL he => ?_, rfl⟩
  refine (Wave.entry_setEntries _ _ (fun _ => Wave.lt_of_mem_active) _ q hL he).trans ?_
  split
  next h =>
    obtain ⟨rfl, -⟩ := h
    rfl
  next => rfl

end Sys2Proof.Machine

/-! SUPPORT. What registers and lane memory hold once a word has written a register or a block of bytes for each entry of a plane, or a bitmap over its
entries (R178 to R181), and numbers made of digits. -/

namespace Sys2Proof.Machine

open Sys2Proof

/-! A register for each entry (R178). -/

/-- A group of registers written at once in some lanes, a register for each entry. -/
def Wave.setGroup (w : Wave) (d : Nat) (lanes : List Nat) (val : Nat → Nat → Word) : Wave :=
  { w with v := putAll 0 w.v (gridWrites lanes (fun L e => vKey (d + e) L) val) }

theorem Wave.foldl_writeV (w : Wave) (d : Nat) (lanes : List Nat) (val : Nat → Nat → Word) :
    lanes.foldl (fun x L => (List.range 64).foldl (fun x e => x.writeV (d + e) [(L, val L e)]) x) w = w.setGroup d lanes val := by
  refine (foldl_gridWrites (fun (x : Wave) e => { x with v := put 0 x.v e.1 e.2 }) lanes (fun L e => vKey (d + e) L) val w).symm.trans ?_
  unfold Wave.setGroup
  generalize gridWrites lanes (fun L e => vKey (d + e) L) val = es
  induction es generalizing w with
  | nil => rfl
  | cons e es ih => exact ih _

theorem Wave.v32_setGroup (w : Wave) (d : Nat) {lanes : List Nat} (hlanes : ∀ L ∈ lanes, L < 16384) (val : Nat → Nat → Word) (r : Nat) {L : Nat}
    (hL : L < 16384) : (w.setGroup d lanes val).v32 r L = if L ∈ lanes ∧ d ≤ r ∧ r < d + 64 then val L (r - d) else w.v32 r L := by
  split
  next h =>
    obtain ⟨hmem, hlo, hhi⟩ := h
    obtain ⟨e, rfl⟩ := Nat.exists_eq_add_of_le hlo
    rw [Nat.add_sub_cancel_left]
    refine look_gridWrites_mem (key := fun L e => vKey (d + e) L) 0 w.v val hmem (by omega) fun K hK j _ hkey => ?_
    obtain ⟨hreg, hlane⟩ := (vKey_inj (hlanes K hK) hL).mp hkey
    exact ⟨hlane, by omega⟩
  next h =>
    refine look_gridWrites_not_mem 0 w.v val fun K hK j hj hkey => h ?_
    obtain ⟨rfl, rfl⟩ := (vKey_inj (hlanes K hK) hL).mp hkey
    exact ⟨hK, by omega, by omega⟩

/-! A block of lane memory for each entry (R178, R181). -/

/-- Of blocks that lie apart each reads its value once all are written. -/
theorem readLe_writeCells_blocks {n a v : Nat} {bs : List (Nat × Nat)} (m : Memory) (hmem : (a, v) ∈ bs)
    (hapart : ∀ b ∈ bs, b = (a, v) ∨ b.1 + n ≤ a ∨ a + n ≤ b.1) :
    readLe (writeCells m (bs.flatMap fun b => leCells b.1 n b.2)) a n = v % 256 ^ n := by
  induction bs generalizing m with
  | nil => simp at hmem
  | cons b bs ih =>
    rw [List.flatMap_cons, writeCells_append]
    by_cases hrest : (a, v) ∈ bs
    · exact ih _ hrest fun c hc => hapart c (List.mem_cons_of_mem b hc)
    · have hb : b = (a, v) := ((List.mem_cons.mp hmem).resolve_right hrest).symm
      rw [readLe_writeCells_of_apart, hb, readLe_writeCells_leCells]
      intro c hc
      obtain ⟨x, hx, hc⟩ := List.mem_flatMap.mp hc
      have hin := leCells_range _ _ _ c hc
      rcases hapart x (List.mem_cons_of_mem b hx) with rfl | hx
      · contradiction
      · omega

/-- A block of `n` bytes for each entry, from an offset up in the window of each of some lanes. -/
def Wave.setBlocks (w : Wave) (lanes : List Nat) (a n : Nat) (val : Nat → Nat → Nat) : Wave :=
  w.writeLm ((gridWrites lanes (fun L e => lmKey L (a + e * n)) val).flatMap fun b => leCells b.1 n b.2)

theorem Wave.foldl_writeLm (w : Wave) (lanes : List Nat) (a n : Nat) (val : Nat → Nat → Nat) :
    lanes.foldl (fun x L => (List.range 64).foldl (fun x e => x.writeLm (leCells (lmKey L (a + e * n)) n (val L e))) x) w =
      w.setBlocks lanes a n val := by
  rw [Wave.setBlocks, Wave.writeLm, List.foldl_flatMap]
  exact (foldl_gridWrites (fun (x : Wave) b => x.writeLm (leCells b.1 n b.2)) lanes _ val w).symm

theorem Wave.setBlocks_eq (w : Wave) (lanes : List Nat) (a n : Nat) (val : Nat → Nat → Nat) :
    w.setBlocks lanes a n val = { w with lm := (w.setBlocks lanes a n val).lm, lmBad := (w.setBlocks lanes a n val).lmBad } := w.writeLm_eq _

/-- An entry's block lies within those of its lane. -/
theorem block_le {a n e : Nat} (he : e < 64) : a + e * n + n ≤ a + 64 * n := apart_of_index_lt he

theorem Wave.readLe_setBlocks (w : Wave) {lanes : List Nat} {a n : Nat} (hin : a + 64 * n ≤ 4096) (val : Nat → Nat → Nat) {L e : Nat}
    (hL : L ∈ lanes) (he : e < 64) : readLe (w.setBlocks lanes a n val).lm (lmKey L (a + e * n)) n = val L e % 256 ^ n := by
  rw [Wave.setBlocks, Wave.writeLm_lm]
  refine readLe_writeCells_blocks w.lm (mem_gridWrites.mpr ⟨L, hL, e, he, rfl⟩) fun b hb => ?_
  obtain ⟨K, hK, j, hj, rfl⟩ := mem_gridWrites.mp hb
  have hblock := block_le (a := a) (n := n) he
  have hother := block_le (a := a) (n := n) hj
  unfold lmKey
  rcases Nat.lt_trichotomy K L with hlane | rfl | hlane
  · exact .inr (.inl (by omega))
  · rcases Nat.lt_trichotomy j e with hentry | rfl | hentry
    · have := apart_of_index_lt (x := a) (n := n) hentry
      exact .inr (.inl (by omega))
    · exact .inl rfl
    · have := apart_of_index_lt (x := a) (n := n) hentry
      exact .inr (.inr (by omega))
  · exact .inr (.inr (by omega))

theorem Wave.readByte_setBlocks (w : Wave) {lanes : List Nat} {a n : Nat} (val : Nat → Nat → Nat) {k : Nat}
    (h : ∀ L ∈ lanes, k < lmKey L a ∨ lmKey L a + 64 * n ≤ k) : readByte (w.setBlocks lanes a n val).lm k = readByte w.lm k := by
  rw [Wave.setBlocks, Wave.writeLm_lm]
  refine readByte_writeCells_not_mem _ _ _ fun c hc => ?_
  obtain ⟨b, hb, hc⟩ := List.mem_flatMap.mp hc
  obtain ⟨L, hL, e, he, rfl⟩ := mem_gridWrites.mp hb
  have hcell := leCells_range _ _ _ c hc
  have hout := h L hL
  have hblock := block_le (a := a) (n := n) he
  unfold lmKey at hcell hout
  omega

/-! A number made of digits, and a bitmap of entries (R174, R179). -/

/-- The number whose digits of `k` bits are given, the lowest first. -/
def digitSum (k : Nat) (x : Nat → Nat) (n : Nat) : Nat := (List.range n).foldl (fun acc i => acc + x i * 2 ^ (k * i)) 0

theorem digitSum_succ (k : Nat) (x : Nat → Nat) (n : Nat) : digitSum k x (n + 1) = digitSum k x n + x n * 2 ^ (k * n) := by
  simp [digitSum, List.range_succ]

theorem digitSum_lt {k : Nat} {x : Nat → Nat} {n : Nat} (h : ∀ i < n, x i < 2 ^ k) : digitSum k x n < 2 ^ (k * n) := by
  induction n with
  | zero => exact Nat.two_pow_pos _
  | succ n ih =>
    have hlow := ih fun i hi => h i (by omega)
    have hhigh : (x n + 1) * 2 ^ (k * n) ≤ 2 ^ k * 2 ^ (k * n) := Nat.mul_le_mul_right _ (h n (by omega))
    rw [Nat.succ_mul] at hhigh
    rw [digitSum_succ, Nat.mul_succ, Nat.add_comm (k * n), pow_add]
    omega

/-- Each digit reads back. -/
theorem digitSum_digit {k : Nat} {x : Nat → Nat} {n i : Nat} (h : ∀ j < n, x j < 2 ^ k) (hi : i < n) :
    digitSum k x n / 2 ^ (k * i) % 2 ^ k = x i := by
  induction n with
  | zero => omega
  | succ n ih =>
    rw [digitSum_succ]
    by_cases hin : i = n
    · subst hin
      rw [Nat.add_mul_div_right _ _ (Nat.two_pow_pos _), Nat.div_eq_of_lt (digitSum_lt fun j hj => h j (by omega)), Nat.zero_add,
        Nat.mod_eq_of_lt (h i (by omega))]
    · obtain ⟨m, rfl⟩ := Nat.exists_eq_add_of_lt (show i < n by omega)
      have hpow : x (i + m + 1) * 2 ^ (k * (i + m + 1)) = x (i + m + 1) * 2 ^ (k * m) * 2 ^ k * 2 ^ (k * i) := by ring
      rw [hpow, Nat.add_mul_div_right _ _ (Nat.two_pow_pos _), Nat.add_mul_mod_self_right]
      exact ih (fun j hj => h j (by omega)) (by omega)

/-- Word `h` of the bitmap over the entries of a lane. -/
def mapWord (f : Nat → Nat → Bool) (L h : Nat) : Word := BitVec.ofNat 32 (digitSum 1 (fun b => (f L (32 * h + b)).toNat) 32)

theorem mapWord_getLsbD (f : Nat → Nat → Bool) (L e : Nat) : (mapWord f L (e / 32)).getLsbD (e % 32) = f L e := by
  have hb : e % 32 < 32 := Nat.mod_lt _ (by decide)
  have hdigit := digitSum_digit (k := 1) (x := fun b => (f L (32 * (e / 32) + b)).toNat) (fun j _ => Bool.toNat_lt _) hb
  rw [Nat.div_add_mod, Nat.one_mul, pow_one] at hdigit
  rw [mapWord, BitVec.getLsbD_ofNat, decide_eq_true hb, Bool.true_and, Nat.testBit_eq_decide_div_mod_eq, hdigit]
  cases f L e <;> rfl

theorem Wave.writeMap_eq (w : Wave) (d : Nat) (lanes : List Nat) (f : Nat → Nat → Bool) : w.writeMap d lanes f =
    (w.writeV d (lanes.map fun L => (L, mapWord f L 0))).writeV (d + 1) (lanes.map fun L => (L, mapWord f L 1)) := by
  have hword (L h : Nat) : (List.range 32).foldl (fun acc b => if f L (32 * h + b) then acc + 2 ^ b else acc) 0 =
      digitSum 1 (fun b => (f L (32 * h + b)).toNat) 32 := by
    unfold digitSum
    congr 1
    funext acc b
    dsimp only
    cases f L (32 * h + b) <;> simp
  simp only [Wave.writeMap, hword]
  rfl

/-- Each active lane's two words hold the bits of its entries. -/
theorem Wave.v32_writeMap (w : Wave) (d : Nat) {lanes : List Nat} (hlanes : ∀ L ∈ lanes, L < 16384) (f : Nat → Nat → Bool) :
    (∀ L ∈ lanes, ∀ e < 64, ((w.writeMap d lanes f).v32 (d + e / 32) L).getLsbD (e % 32) = f L e) ∧
      ∀ r L, L < 16384 → (L ∉ lanes ∨ r < d ∨ d + 2 ≤ r) → (w.writeMap d lanes f).v32 r L = w.v32 r L := by
  rw [Wave.writeMap_eq]
  refine ⟨fun L hL e he => ?_, fun r L hL h => ?_⟩
  · rw [Wave.v32_writeV _ _ _ hlanes _ (hlanes L hL), Wave.v32_writeV _ _ _ hlanes _ (hlanes L hL), ← mapWord_getLsbD f L e]
    obtain hlow | hhigh : e / 32 = 0 ∨ e / 32 = 1 := by omega
    · rw [hlow, if_neg (by omega), if_pos ⟨by omega, hL⟩]
    · rw [hhigh, if_pos ⟨rfl, hL⟩]
  · rw [Wave.v32_writeV _ _ _ hlanes _ hL, Wave.v32_writeV _ _ _ hlanes _ hL, if_neg (by rintro ⟨rfl, hmem⟩; simp [hmem] at h),
      if_neg (by rintro ⟨rfl, hmem⟩; simp [hmem] at h)]

end Sys2Proof.Machine

/-! SUPPORT. Accumulator words (R178 to R183): each by its own equation, which stands at the last check that it makes. -/

namespace Sys2Proof.Machine

open Sys2Proof

/-! `ctl.fva` of ANCHOR and ACCWRAP (R168). -/

theorem accFva_plane (p : Nat) : accFva 0 0 (p == 1) = dw (if p = 1 then 16 else 0) := by
  by_cases h : p = 1
  · subst h; rfl
  · simp [accFva, h]

theorem accFva_dst : ∀ n : BitVec 1, accFva 0 0 (n.toNat == 1) = dw (if n = 1 then 16 else 0) := by decide

theorem accFva_dst_image : ∀ n : BitVec 1, accFva 0 1 (n.toNat == 1) = dw (512 + if n = 1 then 16 else 0) := by decide

/-! Anchors of the entries of the active lanes (R182, R183). -/

theorem anchors_agree {lanes : List Nat} {f g : Nat → Nat → BitVec 10} (h : ∀ L ∈ lanes, ∀ e < 64, f L e = g L e) :
    (lanes.all fun L => (List.range 64).all fun e => f L e == g L e) = true := by
  simpa using h

theorem anchors_differ {lanes : List Nat} {f g : Nat → Nat → BitVec 10} (h : ∃ L ∈ lanes, ∃ e < 64, f L e ≠ g L e) :
    (lanes.all fun L => (List.range 64).all fun e => f L e == g L e) = false := by
  simpa using h

/-! `resolve` (R178). -/

/-- An entry of the source plane converted to the word's format. -/
def State.resolved (s : State) (w : LaneWord) (L e : Nat) : FRes :=
  (s.w.entry (srcPlane w) L e).resolve (s.w.anchorOf (srcPlane w) L) w.ty (rndOf w) (satOf w)

/-- The kinds that the conversions meet. -/
def State.resolvedKinds (s : State) (w : LaneWord) : List (BitVec 4) :=
  (s.w.active w.guard).flatMap fun L => (List.range 64).map fun e => (s.resolved w L e).kinds

/-- The results where the word puts them. -/
def State.withResolved (s : State) (w : LaneWord) : Wave :=
  if w.bit 20 then s.w.setBlocks (s.w.active w.guard) (lmAddr s w) (tyBits w.ty / 8) fun L e => (s.resolved w L e).bits
  else s.w.setGroup (dstReg w.dst) (s.w.active w.guard) fun L e => BitVec.ofNat 32 (s.resolved w L e).bits

/-- A plane cleared in some lanes, where `.clr` asks for it. -/
def Wave.cleared (w : Wave) (clr : Bool) (p : Nat) (lanes : List Nat) : Wave := if clr then w.setEntries p lanes fun _ _ => {} else w

theorem Wave.entry_cleared (w : Wave) (clr : Bool) (p : Nat) {lanes : List Nat} (hlanes : ∀ L ∈ lanes, L < 16384) (q : Nat) {L e : Nat}
    (hL : L < 16384) (he : e < 64) :
    (w.cleared clr p lanes).entry q L e = if clr = true ∧ q = p ∧ L ∈ lanes then {} else w.entry q L e := by
  cases clr
  · simp [Wave.cleared]
  · simpa [Wave.cleared] using w.entry_setEntries p hlanes (fun _ _ => {}) q hL he

theorem Wave.addKinds_cleared (w : Wave) (clr : Bool) (p : Nat) (lanes : List Nat) (ty : Nat) (ks : List (BitVec 4)) :
    (w.cleared clr p lanes).addKinds ty ks =
      { w with acc := ((w.cleared clr p lanes).addKinds ty ks).acc, counts := (w.addKinds ty ks).counts } := by
  unfold Wave.cleared
  split <;> rfl

/-- The wave after `resolve`. -/
def State.resolveEnd (s : State) (w : LaneWord) : Wave :=
  ((s.withResolved w).cleared (w.bit 25) (srcPlane w) (s.w.active w.guard)).addKinds w.ty (s.resolvedKinds w)

/-- No entry has W, or `.wrap` takes it as it stands. -/
def State.unwrapped (s : State) (w : LaneWord) : Bool :=
  w.bit 26 || !((s.w.active w.guard).any fun L => (List.range 64).any fun e => (s.w.entry (srcPlane w) L e).w)

theorem State.unwrapped_iff {s : State} {w : LaneWord} :
    s.unwrapped w = true ↔ w.bit 26 = true ∨ ∀ L ∈ s.w.active w.guard, ∀ e < 64, (s.w.entry (srcPlane w) L e).w = false := by
  simp [State.unwrapped]

theorem State.unwrapped_false {s : State} {w : LaneWord} (hwrap : w.bit 26 = false)
    (h : ∃ L ∈ s.w.active w.guard, ∃ e < 64, (s.w.entry (srcPlane w) L e).w = true) : s.unwrapped w = false := by
  rw [← Bool.not_eq_true, State.unwrapped_iff, hwrap]
  obtain ⟨L, hL, e, he, hw⟩ := h
  rintro (hf | hf)
  · contradiction
  · rw [hf L hL e he] at hw
    contradiction

/-- The conversions of all entries, each with its lane and its place. -/
def State.resolvedAll (s : State) (w : LaneWord) : List (Nat × Nat × FRes) :=
  (s.w.active w.guard).flatMap fun L => (List.range 64).map fun e => (L, e, s.resolved w L e)

theorem State.resolvedAll_kinds (s : State) (w : LaneWord) : (s.resolvedAll w).map (·.2.2.kinds) = s.resolvedKinds w := by
  simp only [State.resolvedAll, List.map_flatMap, List.map_map]
  rfl

theorem State.resolvedAll_written (s : State) (w : LaneWord) : (s.resolvedAll w).foldl (fun x (L, e, r) =>
      if w.bit 20 then x.writeLm (leCells (lmKey L (lmAddr s w + e * (tyBits w.ty / 8))) (tyBits w.ty / 8) r.bits)
      else x.writeV (dstReg w.dst + e) [(L, BitVec.ofNat 32 r.bits)]) s.w = s.withResolved w := by
  simp only [State.resolvedAll, List.foldl_flatMap, List.foldl_map, State.withResolved]
  split
  · exact Wave.foldl_writeLm ..
  · exact Wave.foldl_writeV ..

theorem State.resolvedAll_cleared (s : State) (w : LaneWord) (x : Wave) :
    (if w.bit 25 then (s.resolvedAll w).foldl (fun x (L, e, _) => x.setEntry (srcPlane w) L e {}) x else x) =
      x.cleared (w.bit 25) (srcPlane w) (s.w.active w.guard) := by
  simp only [State.resolvedAll, List.foldl_flatMap, List.foldl_map, Wave.cleared]
  split
  · exact Wave.foldl_setEntry ..
  · rfl

section
variable {s : State} {w : LaneWord}

/-- Once its operand and its plane are ready, `resolve` checks W and then the kinds that it meets. -/
theorem exec_resolve_eq (hreg : s.regCheck 0x405 w false = .ok ())
    (hlm : w.bit 20 = true → lmCheck s w (64 * (tyBits w.ty / 8)) true (s.w.active w.guard) = .ok ()) (hp : planeReady s (srcPlane w)) :
    exec (.resolve w) s = finishLane w.mark s (need (s.unwrapped w) .accwrap (accFva 0 0 (srcPlane w == 1)) >>= fun _ =>
      fptrapCheck s.run.fptrap (s.resolvedKinds w) >>= fun _ => .ok { s with w := s.resolveEnd w }) := by
  have hoperand : (if w.bit 20 = true then lmCheck s w (64 * (tyBits w.ty / 8)) true (s.w.active w.guard) else .ok ()) = .ok () := by
    split
    next h => exact hlm h
    next => rfl
  show execResolve w s = _
  refine congrArg (finishLane w.mark s) ?_
  refine (ok_bind (State.accCheck_plane hreg hp)).trans ((branch_bind hoperand).trans ((ok_bind hp.2).trans ?_))
  refine congrArg₂ (fun ks x => need (s.unwrapped w) .accwrap (accFva 0 0 (srcPlane w == 1)) >>= fun _ =>
    fptrapCheck s.run.fptrap ks >>= fun _ => .ok { s with w := x }) (s.resolvedAll_kinds w) ?_
  exact congrArg₂ (fun x ks => Wave.addKinds x w.ty ks) ((s.resolvedAll_cleared w _).trans
    (congrArg (fun x : Wave => x.cleared (w.bit 25) (srcPlane w) (s.w.active w.guard)) (s.resolvedAll_written w))) (s.resolvedAll_kinds w)

theorem exec_resolve_completes (hreg : s.regCheck 0x405 w false = .ok ())
    (hlm : w.bit 20 = true → lmCheck s w (64 * (tyBits w.ty / 8)) true (s.w.active w.guard) = .ok ()) (hp : planeReady s (srcPlane w))
    (hw : w.bit 26 = true ∨ ∀ L ∈ s.w.active w.guard, ∀ e < 64, (s.w.entry (srcPlane w) L e).w = false)
    (hk : trappedKinds s (s.resolvedKinds w) = 0) : exec (.resolve w) s = .next (State.laneNext { s with w := s.resolveEnd w } w.mark) := by
  rw [exec_resolve_eq hreg hlm hp, need_bind (State.unwrapped_iff.mpr hw), ok_bind (fptrapCheck_ok hk)]
  rfl

theorem resolve_traps (hreg : s.regCheck 0x405 w false = .ok ())
    (hlm : w.bit 20 = true → lmCheck s w (64 * (tyBits w.ty / 8)) true (s.w.active w.guard) = .ok ()) (hp : planeReady s (srcPlane w)) :
    (w.bit 26 = false → (∃ L ∈ s.w.active w.guard, ∃ e < 64, (s.w.entry (srcPlane w) L e).w = true) →
      LaneTraps (.resolve w) s .accwrap (dw (if srcPlane w = 1 then 16 else 0))) ∧
    (w.bit 26 = true ∨ (∀ L ∈ s.w.active w.guard, ∀ e < 64, (s.w.entry (srcPlane w) L e).w = false) → trappedKinds s (s.resolvedKinds w) ≠ 0 →
      LaneTraps (.resolve w) s .fptrap ((trappedKinds s (s.resolvedKinds w)).setWidth 64)) := by
  refine ⟨fun hwrap hw => ?_, fun hw hk => ?_⟩
  · rw [LaneTraps, exec_resolve_eq hreg hlm hp, need_bind_false (State.unwrapped_false hwrap hw), ← accFva_plane]
    rfl
  · rw [LaneTraps, exec_resolve_eq hreg hlm hp, need_bind (State.unwrapped_iff.mpr hw), fptrapCheck_traps hk]
    rfl

/-- What `resolve` leaves of the planes, in either form. -/
theorem entry_resolveEnd (q : Nat) {L e : Nat} (hL : L < 16384) (he : e < 64) : (s.resolveEnd w).entry q L e =
    if w.bit 25 = true ∧ q = srcPlane w ∧ L ∈ s.w.active w.guard then {} else s.w.entry q L e := by
  have hkept : (s.withResolved w).entry q L e = s.w.entry q L e := by
    unfold State.withResolved
    split
    · rw [Wave.setBlocks_eq]; rfl
    · rfl
  rw [← hkept]
  exact Wave.entry_cleared _ _ _ (fun _ => Wave.lt_of_mem_active) q hL he

/-- The wave after `resolve`, by where its results are. -/
theorem resolveEnd_eq {x : Wave} (hx : s.withResolved w = x) (hset : x.cset = s.w.cset) (hcounts : x.counts = s.w.counts) :
    s.resolveEnd w = { x with acc := (s.resolveEnd w).acc, counts := (s.w.addKinds w.ty (s.resolvedKinds w)).counts } := by
  have hkinds : (x.addKinds w.ty (s.resolvedKinds w)).counts = (s.w.addKinds w.ty (s.resolvedKinds w)).counts := by
    simp only [Wave.addKinds, hset, hcounts]
  rw [State.resolveEnd, hx, Wave.addKinds_cleared, hkinds]

theorem resolveEnd_registers (h : w.bit 20 = false) : s.resolveEnd w = { s.w with
    v := (s.w.setGroup (dstReg w.dst) (s.w.active w.guard) fun L e => BitVec.ofNat 32 (s.resolved w L e).bits).v
    acc := (s.resolveEnd w).acc, counts := (s.w.addKinds w.ty (s.resolvedKinds w)).counts } :=
  resolveEnd_eq (if_neg (by simp [h])) rfl rfl

theorem resolveEnd_memory (h : w.bit 20 = true) :
    let x := s.w.setBlocks (s.w.active w.guard) (lmAddr s w) (tyBits w.ty / 8) fun L e => (s.resolved w L e).bits
    s.resolveEnd w = { s.w with lm := x.lm, lmBad := x.lmBad, acc := (s.resolveEnd w).acc
                                counts := (s.w.addKinds w.ty (s.resolvedKinds w)).counts } := by
  intro x
  have hx : s.withResolved w = { s.w with lm := x.lm, lmBad := x.lmBad } := (if_pos h).trans (s.w.setBlocks_eq ..)
  exact resolveEnd_eq hx rfl rfl

theorem resolve_registers {d : BitVec 9} (hd : w.dst = .v d) (hform : w.bit 20 = false) (hreg : s.regCheck 0x405 w false = .ok ())
    (hp : planeReady s (srcPlane w)) (hw : w.bit 26 = true ∨ ∀ L ∈ s.w.active w.guard, ∀ e < 64, (s.w.entry (srcPlane w) L e).w = false)
    (hk : trappedKinds s (s.resolvedKinds w) = 0) :
    ∃ u : State, exec (.resolve w) s = .next (u.laneNext w.mark) ∧
      (∀ r L, L < 16384 → u.w.v32 r L = if L ∈ s.w.active w.guard ∧ d.toNat ≤ r ∧ r < d.toNat + 64 then
        BitVec.ofNat 32 (s.resolved w L (r - d.toNat)).bits else s.w.v32 r L) ∧
      (∀ q L e, L < 16384 → e < 64 → u.w.entry q L e =
        if w.bit 25 = true ∧ q = srcPlane w ∧ L ∈ s.w.active w.guard then {} else s.w.entry q L e) ∧
      u = { s with w := { s.w with v := u.w.v, acc := u.w.acc, counts := (s.w.addKinds w.ty (s.resolvedKinds w)).counts } } := by
  have hend := resolveEnd_registers (s := s) hform
  have hdst : dstReg w.dst = d.toNat := by rw [hd]; rfl
  refine ⟨_, exec_resolve_completes hreg (fun h => by simp [hform] at h) hp hw hk, fun r L hL => ?_, fun q L e => entry_resolveEnd q, ?_⟩
  · dsimp only
    rw [hend, ← hdst]
    exact Wave.v32_setGroup _ _ (fun _ => Wave.lt_of_mem_active) _ r hL
  · have hv := congrArg Wave.v hend
    dsimp only at hv ⊢
    rw [hv]
    exact congrArg (fun x : Wave => { s with w := x }) hend

theorem resolve_memory (hform : w.bit 20 = true) (hreg : s.regCheck 0x405 w false = .ok ()) (hp : planeReady s (srcPlane w))
    (hlm : lmCheck s w (64 * (tyBits w.ty / 8)) true (s.w.active w.guard) = .ok ()) (hin : lmAddr s w + 64 * (tyBits w.ty / 8) ≤ 4096)
    (hw : w.bit 26 = true ∨ ∀ L ∈ s.w.active w.guard, ∀ e < 64, (s.w.entry (srcPlane w) L e).w = false)
    (hk : trappedKinds s (s.resolvedKinds w) = 0) :
    let n := tyBits w.ty / 8
    ∃ u : State, exec (.resolve w) s = .next (u.laneNext w.mark) ∧
      (∀ L ∈ s.w.active w.guard, ∀ e < 64, readLe u.w.lm (lmKey L (lmAddr s w + e * n)) n = (s.resolved w L e).bits % 2 ^ (8 * n)) ∧
      (∀ k, (∀ L ∈ s.w.active w.guard, k < lmKey L (lmAddr s w) ∨ lmKey L (lmAddr s w) + 64 * n ≤ k) → readByte u.w.lm k = readByte s.w.lm k) ∧
      (∀ q L e, L < 16384 → e < 64 → u.w.entry q L e =
        if w.bit 25 = true ∧ q = srcPlane w ∧ L ∈ s.w.active w.guard then {} else s.w.entry q L e) ∧
      u = { s with w := { s.w with lm := u.w.lm, lmBad := u.w.lmBad, acc := u.w.acc, counts := (s.w.addKinds w.ty (s.resolvedKinds w)).counts } } := by
  intro n
  have hend := resolveEnd_memory (s := s) hform
  have hlmEnd := congrArg Wave.lm hend
  refine ⟨_, exec_resolve_completes hreg (fun _ => hlm) hp hw hk, fun L hL e he => ?_, fun k hout => ?_, fun q L e => entry_resolveEnd q, ?_⟩
  · rw [pow_mul]
    exact (congrArg (readLe · _ _) hlmEnd).trans (Wave.readLe_setBlocks s.w hin _ hL he)
  · exact (congrArg (readByte · k) hlmEnd).trans (Wave.readByte_setBlocks s.w _ hout)
  · have hbad := congrArg Wave.lmBad hend
    dsimp only at hlmEnd hbad ⊢
    rw [hlmEnd, hbad]
    exact congrArg (fun x : Wave => { s with w := x }) hend

/-! `acc.cmp` and `acc.flags` (R179, R180). -/

theorem Wave.writeMap_registers (w : Wave) (d : Nat) (lanes : List Nat) (f : Nat → Nat → Bool) :
    ∃ v, w.writeMap d lanes f = { w with v := v } := ⟨_, rfl⟩

/-- A bitmap over the entries of the active lanes, and what its write leaves. -/
theorem bitmap_written {i : Instr} {d : BitVec 9} {f : Nat → Nat → Bool} (hd : w.dst = .v d)
    (he : exec i s = .next ((s.modW fun x => x.writeMap (dstReg w.dst) (s.w.active w.guard) f).laneNext w.mark)) :
    ∃ u : State, exec i s = .next (u.laneNext w.mark) ∧
      (∀ L ∈ s.w.active w.guard, ∀ e < 64, (u.w.v32 (d.toNat + e / 32) L).getLsbD (e % 32) = f L e) ∧
      (∀ r L, L < 16384 → (L ∉ s.w.active w.guard ∨ r < d.toNat ∨ d.toNat + 2 ≤ r) → u.w.v32 r L = s.w.v32 r L) ∧
      u = { s with w := { s.w with v := u.w.v } } := by
  obtain ⟨hmap, hframe⟩ := s.w.v32_writeMap d.toNat (lanes := s.w.active w.guard) (fun _ => Wave.lt_of_mem_active) f
  rw [hd] at he
  exact ⟨_, he, hmap, hframe, rfl⟩

/-- `acc.cmp` reads its anchors once its planes are ready. -/
theorem exec_accCmp_eq (hreg : s.regCheck 0x406 w false = .ok ()) (hp : planeReady s (srcPlane w))
    (hq : w.bit 20 = false → planeReady s (1 - srcPlane w)) :
    exec (.accCmp w) s = finishLane w.mark s (need (w.bit 20 ||
        (s.w.active w.guard).all fun L => s.w.anchorOf (srcPlane w) L == s.w.anchorOf (1 - srcPlane w) L) .anchor (accFva 0 0 (srcPlane w == 1)) >>=
      fun _ => .ok (s.modW fun x => x.writeMap (dstReg w.dst) (s.w.active w.guard) fun L e => condHolds (w.fld 21 3).toNat
        (accOrder (s.w.entry (srcPlane w) L e) (if w.bit 20 then {} else s.w.entry (1 - srcPlane w) L e)))) := by
  have hplanes : s.accCheck 0x406 w ([srcPlane w] ++ if w.bit 20 = true then [] else [1 - srcPlane w]) = .ok () := by
    refine State.accCheck_ok hreg fun r hr => ?_
    cases hform : w.bit 20
    · simp only [hform, List.mem_append, List.mem_singleton, Bool.false_eq_true, if_false] at hr
      rcases hr with rfl | rfl
      · exact hp.1
      · exact (hq hform).1
    · simp only [hform, List.append_nil, List.mem_singleton, if_true] at hr
      exact hr ▸ hp.1
  have hother : (if w.bit 20 = true then .ok () else s.planeWait (1 - srcPlane w)) = .ok () := by
    split
    · rfl
    next hform => exact (hq (by simpa using hform)).2
  show execAccCmp w s = _
  exact congrArg (finishLane w.mark s) ((ok_bind hplanes).trans ((ok_bind hp.2).trans (branch_bind hother)))

theorem accCmp_compares {d : BitVec 9} (hd : w.dst = .v d) (hreg : s.regCheck 0x406 w false = .ok ()) (hp : planeReady s (srcPlane w))
    (hq : w.bit 20 = true ∨ (planeReady s (1 - srcPlane w) ∧
      ∀ L ∈ s.w.active w.guard, s.w.anchorOf (srcPlane w) L = s.w.anchorOf (1 - srcPlane w) L)) :
    ∃ u : State, exec (.accCmp w) s = .next (u.laneNext w.mark) ∧
      (∀ L ∈ s.w.active w.guard, ∀ e < 64, (u.w.v32 (d.toNat + e / 32) L).getLsbD (e % 32) = condHolds (w.fld 21 3).toNat
        (accOrder (s.w.entry (srcPlane w) L e) (if w.bit 20 = true then {} else s.w.entry (1 - srcPlane w) L e))) ∧
      (∀ r L, L < 16384 → (L ∉ s.w.active w.guard ∨ r < d.toNat ∨ d.toNat + 2 ≤ r) → u.w.v32 r L = s.w.v32 r L) ∧
      u = { s with w := { s.w with v := u.w.v } } := by
  refine bitmap_written hd ?_
  rw [exec_accCmp_eq hreg hp fun hform => (hq.resolve_left (by simp [hform])).1, need_bind]
  · rfl
  · rcases hq with hform | ⟨-, hanchors⟩
    · simp [hform]
    · simpa using .inr hanchors

theorem accCmp_traps (hreg : s.regCheck 0x406 w false = .ok ()) (hp : planeReady s (srcPlane w)) (hq : planeReady s (1 - srcPlane w))
    (hform : w.bit 20 = false) (hne : ∃ L ∈ s.w.active w.guard, s.w.anchorOf (srcPlane w) L ≠ s.w.anchorOf (1 - srcPlane w) L) :
    LaneTraps (.accCmp w) s .anchor (dw (if srcPlane w = 1 then 16 else 0)) := by
  rw [LaneTraps, exec_accCmp_eq hreg hp fun _ => hq, need_bind_false, ← accFva_plane]
  · rfl
  · simpa [hform] using hne

/-- Whether `acc.flags` reads flag `k` of W, N, P and M (R180). -/
def flagSelected (w : LaneWord) (k : Nat) : Bool := (w.fld 21 3).toNat == k || (w.fld 21 3).toNat == 4

/-- The flags of an entry that `acc.flags` reads, in one bit. -/
def flagRead (w : LaneWord) (y : AccEntry) : Bool :=
  (flagSelected w 0 && y.w) || (flagSelected w 1 && y.n) || (flagSelected w 2 && y.p) || (flagSelected w 3 && y.m)

/-- The entry once they are cleared. -/
def flagsCleared (w : LaneWord) (y : AccEntry) : AccEntry :=
  { y with w := y.w && !flagSelected w 0, n := y.n && !flagSelected w 1, p := y.p && !flagSelected w 2, m := y.m && !flagSelected w 3 }

theorem flagRead_eq (w : LaneWord) (y : AccEntry) : flagRead w y = match (w.fld 21 3).toNat with
    | 0 => y.w
    | 1 => y.n
    | 2 => y.p
    | 3 => y.m
    | 4 => y.w || y.n || y.p || y.m
    | _ => false := by
  unfold flagRead flagSelected
  generalize (w.fld 21 3).toNat = f
  match f with
  | 0 | 1 | 2 | 3 | 4 => simp
  | _ + 5 => rfl

theorem flagsCleared_eq (w : LaneWord) (y : AccEntry) : let f := (w.fld 21 3).toNat
    flagsCleared w y = { y with w := y.w && f != 0 && f != 4, n := y.n && f != 1 && f != 4, p := y.p && f != 2 && f != 4
                                m := y.m && f != 3 && f != 4 } := by
  simp only [flagsCleared, flagSelected, Bool.not_or, ← Bool.and_assoc]
  rfl

/-- The wave after `acc.flags`. -/
def State.flagsEnd (s : State) (w : LaneWord) : Wave :=
  let x := s.w.writeMap (dstReg w.dst) (s.w.active w.guard) fun L e => flagRead w (s.w.entry (srcPlane w) L e)
  if w.bit 25 then x.setEntries (srcPlane w) (s.w.active w.guard) fun L e => flagsCleared w (s.w.entry (srcPlane w) L e) else x

theorem State.flagsEnd_eq (s : State) (w : LaneWord) : s.flagsEnd w = { s.w with v := (s.flagsEnd w).v, acc := (s.flagsEnd w).acc } := by
  obtain ⟨v, hv⟩ := s.w.writeMap_registers (dstReg w.dst) (s.w.active w.guard) fun L e => flagRead w (s.w.entry (srcPlane w) L e)
  rw [State.flagsEnd, hv]
  dsimp only
  split <;> rfl

theorem State.v32_flagsEnd (s : State) (w : LaneWord) (r L : Nat) : (s.flagsEnd w).v32 r L =
    (s.w.writeMap (dstReg w.dst) (s.w.active w.guard) fun L e => flagRead w (s.w.entry (srcPlane w) L e)).v32 r L := by
  refine congrArg (look 0 · (vKey r L)) ?_
  unfold State.flagsEnd
  split <;> rfl

theorem exec_accFlags_eq (hreg : s.regCheck 0x40A w false = .ok ()) (hp : planeReady s (srcPlane w)) :
    exec (.accFlags w) s = .next (State.laneNext { s with w := s.flagsEnd w } w.mark) := by
  have hclear (x : Wave) : (if w.bit 25 = true then (s.w.active w.guard).foldl (fun x L => (List.range 64).foldl (fun x e =>
        x.setEntry (srcPlane w) L e (flagsCleared w (s.w.entry (srcPlane w) L e))) x) x else x) =
      if w.bit 25 = true then x.setEntries (srcPlane w) (s.w.active w.guard) fun L e => flagsCleared w (s.w.entry (srcPlane w) L e) else x := by
    rw [Wave.foldl_setEntry]
  show execAccFlags w s = _
  refine (congrArg (finishLane w.mark s) ((ok_bind (State.accCheck_plane hreg hp)).trans (ok_bind hp.2))).trans ?_
  exact congrArg (fun x : Wave => finishLane w.mark s (.ok { s with w := x })) (hclear _)

theorem accFlags_reads {d : BitVec 9} (hd : w.dst = .v d) (hreg : s.regCheck 0x40A w false = .ok ()) (hp : planeReady s (srcPlane w)) :
    ∃ u : State, exec (.accFlags w) s = .next (u.laneNext w.mark) ∧
      (∀ L ∈ s.w.active w.guard, ∀ e < 64, (u.w.v32 (d.toNat + e / 32) L).getLsbD (e % 32) = flagRead w (s.w.entry (srcPlane w) L e)) ∧
      (∀ r L, L < 16384 → (L ∉ s.w.active w.guard ∨ r < d.toNat ∨ d.toNat + 2 ≤ r) → u.w.v32 r L = s.w.v32 r L) ∧
      (w.bit 25 = false → u.w.acc = s.w.acc) ∧
      (w.bit 25 = true → ∀ q L e, L < 16384 → e < 64 → u.w.entry q L e =
        if q = srcPlane w ∧ L ∈ s.w.active w.guard then flagsCleared w (s.w.entry q L e) else s.w.entry q L e) ∧
      u = { s with w := { s.w with v := u.w.v, acc := u.w.acc } } := by
  have hdst : dstReg w.dst = d.toNat := by rw [hd]; rfl
  obtain ⟨hmap, hframe⟩ := s.w.v32_writeMap (dstReg w.dst) (lanes := s.w.active w.guard) (fun _ => Wave.lt_of_mem_active)
    fun L e => flagRead w (s.w.entry (srcPlane w) L e)
  rw [← hdst]
  refine ⟨_, exec_accFlags_eq hreg hp, fun L hL e he => ?_, fun r L hL h => (s.v32_flagsEnd w r L).trans (hframe r L hL h), fun hclr => ?_,
    fun hclr q L e hL he => ?_, congrArg (fun x : Wave => { s with w := x }) (s.flagsEnd_eq w)⟩
  · exact (congrArg (BitVec.getLsbD · _) (s.v32_flagsEnd w _ L)).trans (hmap L hL e he)
  · dsimp only
    rw [State.flagsEnd, hclr]
    rfl
  · refine (congrArg (Wave.entry · q L e) (if_pos hclr)).trans ((Wave.entry_setEntries _ _ (fun _ => Wave.lt_of_mem_active) _ q hL he).trans ?_)
    split
    next h => rw [h.1]
    next => rfl

/-! Raw images (R90, R181 to R183). -/

theorem AccEntry.image_lt (e : AccEntry) (a : BitVec 10) : e.image a < 256 ^ 24 := by
  have hflag : ∀ x : Bool, (if x then 1 else 0) ≤ 1 := by decide
  have := hflag e.w
  have := hflag e.n
  have := hflag e.p
  have := hflag e.m
  have := e.s.isLt
  have := e.c.isLt
  have := e.t.isLt
  have := a.isLt
  simp only [AccEntry.image]
  omega

theorem accSave_writes (hreg : s.regCheck 0x408 w false = .ok ()) (hp : planeReady s (srcPlane w))
    (hlm : lmCheck s w 1536 true (s.w.active w.guard) = .ok ()) (hin : lmAddr s w + 1536 ≤ 4096) :
    ∃ u : State, exec (.accSave w) s = .next (u.laneNext w.mark) ∧
      (∀ L ∈ s.w.active w.guard, ∀ e < 64, u.w.lmImage L (lmAddr s w) e = (s.w.entry (srcPlane w) L e, s.w.anchorOf (srcPlane w) L)) ∧
      (∀ k, (∀ L ∈ s.w.active w.guard, k < lmKey L (lmAddr s w) ∨ lmKey L (lmAddr s w) + 1536 ≤ k) → readByte u.w.lm k = readByte s.w.lm k) ∧
      u = { s with w := { s.w with lm := u.w.lm, lmBad := u.w.lmBad } } := by
  let image (L e : Nat) : Nat := (s.w.entry (srcPlane w) L e).image (s.w.anchorOf (srcPlane w) L)
  have hfold := s.w.foldl_writeLm (s.w.active w.guard) (lmAddr s w) 24 image
  simp only [Nat.mul_comm _ 24] at hfold
  have hexec : exec (.accSave w) s =
      .next (State.laneNext { s with w := s.w.setBlocks (s.w.active w.guard) (lmAddr s w) 24 image } w.mark) := by
    show execAccSave w s = _
    refine (congrArg (finishLane w.mark s) ((ok_bind (State.accCheck_plane hreg hp)).trans ((ok_bind hlm).trans (ok_bind hp.2)))).trans ?_
    exact congrArg (fun x : Wave => finishLane w.mark s (.ok { s with w := x })) hfold
  refine ⟨_, hexec, fun L hL e he => ?_, fun k hk => Wave.readByte_setBlocks s.w _ hk, ?_⟩
  · have hread := Wave.readLe_setBlocks s.w (n := 24) hin image hL he
    rw [Nat.mul_comm e 24, Nat.mod_eq_of_lt (AccEntry.image_lt _ _)] at hread
    exact (congrArg imageEntry hread).trans (imageEntry_image _ _)
  · exact congrArg (fun x : Wave => { s with w := x }) (s.w.setBlocks_eq ..)

end

/-! Anchors (R160). -/

/-- The anchors of a plane in some lanes, written at once. -/
def Wave.setAnchors (w : Wave) (p : Nat) (lanes : List Nat) (val : Nat → BitVec 10) : Wave :=
  { w with anchor := putAll 0 w.anchor (lanes.map fun L => (vKey p L, val L)) }

theorem Wave.foldl_setAnchor (w : Wave) (p : Nat) (lanes : List Nat) (val : Nat → BitVec 10) :
    lanes.foldl (fun x L => x.setAnchor p L (val L)) w = w.setAnchors p lanes val := by
  induction lanes generalizing w with
  | nil => rfl
  | cons K lanes ih => exact ih _

theorem Wave.anchorOf_setAnchors (w : Wave) (p : Nat) {lanes : List Nat} (hlanes : ∀ L ∈ lanes, L < 16384) (val : Nat → BitVec 10) (q : Nat)
    {L : Nat} (hL : L < 16384) : (w.setAnchors p lanes val).anchorOf q L = if L ∈ lanes ∧ q = p then val L else w.anchorOf q L :=
  look_putAll_registers 0 w.anchor hlanes (fun _ => p) val q hL

theorem Wave.setEntries_cons (w : Wave) (p K : Nat) (lanes : List Nat) (val : Nat → Nat → AccEntry) :
    w.setEntries p (K :: lanes) val = (w.setEntries p [K] val).setEntries p lanes val := by
  simp only [← Wave.foldl_setEntry, List.foldl_cons, List.foldl_nil]

theorem Wave.setAnchors_cons (w : Wave) (p K : Nat) (lanes : List Nat) (val : Nat → BitVec 10) :
    w.setAnchors p (K :: lanes) val = (w.setAnchor p K (val K)).setAnchors p lanes val := rfl

theorem Wave.setEntries_setAnchor (w : Wave) (p K : Nat) (a : BitVec 10) (lanes : List Nat) (val : Nat → Nat → AccEntry) :
    (w.setAnchor p K a).setEntries p lanes val = (w.setEntries p lanes val).setAnchor p K a := rfl

/-- Lane by lane, anchor and entries, comes to the same as all entries and then all anchors. -/
theorem Wave.foldl_setPlane (w : Wave) (p : Nat) (lanes : List Nat) (val : Nat → Nat → AccEntry) (anchor : Nat → BitVec 10) :
    lanes.foldl (fun x L => (List.range 64).foldl (fun x e => x.setEntry p L e (val L e)) (x.setAnchor p L (anchor L))) w =
      (w.setEntries p lanes val).setAnchors p lanes anchor := by
  induction lanes generalizing w with
  | nil => rfl
  | cons K lanes ih =>
    have hlane := (w.setAnchor p K (anchor K)).foldl_setEntry p [K] val
    rw [List.foldl_cons, List.foldl_nil, Wave.setEntries_setAnchor] at hlane
    rw [List.foldl_cons, hlane, ih, w.setEntries_cons p K lanes val, Wave.setEntries_setAnchor, Wave.setAnchors_cons]

section
variable {s : State} {w : LaneWord}

/-! `acc.load` and `acc.merge` (R182, R183). -/

/-- The wave after `acc.load`. -/
def State.loadEnd (s : State) (w : LaneWord) : Wave :=
  (s.w.setEntries (dstPlane w) (s.w.active w.guard) fun L e => (s.w.lmImage L (lmAddr s w) e).1).setAnchors (dstPlane w) (s.w.active w.guard)
    fun L => (s.w.lmImage L (lmAddr s w) 0).2

theorem State.entry_loadEnd (s : State) (w : LaneWord) (q : Nat) {L e : Nat} (hL : L < 16384) (he : e < 64) : (s.loadEnd w).entry q L e =
    if q = dstPlane w ∧ L ∈ s.w.active w.guard then (s.w.lmImage L (lmAddr s w) e).1 else s.w.entry q L e :=
  Wave.entry_setEntries s.w _ (fun _ => Wave.lt_of_mem_active) _ q hL he

theorem State.anchorOf_loadEnd (s : State) (w : LaneWord) (q : Nat) {L : Nat} (hL : L < 16384) : (s.loadEnd w).anchorOf q L =
    if L ∈ s.w.active w.guard ∧ q = dstPlane w then (s.w.lmImage L (lmAddr s w) 0).2 else s.w.anchorOf q L :=
  Wave.anchorOf_setAnchors _ _ (fun _ => Wave.lt_of_mem_active) _ q hL

theorem State.loadEnd_eq (s : State) (w : LaneWord) : s.loadEnd w = { s.w with acc := (s.loadEnd w).acc, anchor := (s.loadEnd w).anchor } := rfl

/-- `acc.load` looks at the anchor copies once its operand and its plane are ready. -/
theorem exec_accLoad_eq (hreg : s.regCheck 0x409 w false = .ok ()) (hp : planeReady s (dstPlane w))
    (hlm : lmCheck s w 1536 false (s.w.active w.guard) = .ok ()) (hecc : lmEcc s.w (s.w.active w.guard) (lmAddr s w) 1536 = .ok ()) :
    exec (.accLoad w) s = finishLane w.mark s (need ((s.w.active w.guard).all fun L => (List.range 64).all fun e =>
        (s.w.lmImage L (lmAddr s w) e).2 == (s.w.lmImage L (lmAddr s w) 0).2) .anchor (accFva 0 1 (dstPlane w == 1)) >>= fun _ =>
      .ok { s with w := s.loadEnd w }) := by
  have hfold := s.w.foldl_setPlane (dstPlane w) (s.w.active w.guard) (fun L e => (s.w.lmImage L (lmAddr s w) e).1)
    fun L => (s.w.lmImage L (lmAddr s w) 0).2
  show execAccLoad w s = _
  refine congrArg (finishLane w.mark s) ?_
  refine (ok_bind (State.accCheck_plane hreg hp)).trans ((ok_bind hlm).trans ((ok_bind hp.2).trans ((ok_bind hecc).trans ?_)))
  exact congrArg (fun x : Wave => need ((s.w.active w.guard).all fun L => (List.range 64).all fun e =>
    (s.w.lmImage L (lmAddr s w) e).2 == (s.w.lmImage L (lmAddr s w) 0).2) .anchor (accFva 0 1 (dstPlane w == 1)) >>= fun _ =>
      .ok { s with w := x }) hfold

theorem accLoad_reads {n : BitVec 1} (hd : w.dst = .a n) (hreg : s.regCheck 0x409 w false = .ok ()) (hp : planeReady s n.toNat)
    (hlm : lmCheck s w 1536 false (s.w.active w.guard) = .ok ()) (hecc : lmEcc s.w (s.w.active w.guard) (lmAddr s w) 1536 = .ok ())
    (hsame : ∀ L ∈ s.w.active w.guard, ∀ e < 64, (s.w.lmImage L (lmAddr s w) e).2 = (s.w.lmImage L (lmAddr s w) 0).2) :
    ∃ u : State, exec (.accLoad w) s = .next (u.laneNext w.mark) ∧
      (∀ L ∈ s.w.active w.guard, ∀ e < 64, u.w.entry n.toNat L e = (s.w.lmImage L (lmAddr s w) e).1) ∧
      (∀ L ∈ s.w.active w.guard, u.w.anchorOf n.toNat L = (s.w.lmImage L (lmAddr s w) 0).2) ∧
      (∀ q L, L < 16384 → (q ≠ n.toNat ∨ L ∉ s.w.active w.guard) →
        u.w.anchorOf q L = s.w.anchorOf q L ∧ ∀ e < 64, u.w.entry q L e = s.w.entry q L e) ∧
      u = { s with w := { s.w with acc := u.w.acc, anchor := u.w.anchor } } := by
  have hplane : dstPlane w = n.toNat := by rw [dstPlane, hd]
  rw [← hplane] at hp ⊢
  have hexec : exec (.accLoad w) s = .next (State.laneNext { s with w := s.loadEnd w } w.mark) := by
    rw [exec_accLoad_eq hreg hp hlm hecc, need_bind (anchors_agree hsame)]
    rfl
  refine ⟨_, hexec, fun L hL e he => ?_, fun L hL => ?_, fun q L hL hout => ⟨?_, fun e he => ?_⟩, congrArg (fun x : Wave => { s with w := x })
    (s.loadEnd_eq w)⟩
  · exact (s.entry_loadEnd w _ (Wave.lt_of_mem_active hL) he).trans (if_pos ⟨rfl, hL⟩)
  · exact (s.anchorOf_loadEnd w _ (Wave.lt_of_mem_active hL)).trans (if_pos ⟨hL, rfl⟩)
  · exact (s.anchorOf_loadEnd w q hL).trans (if_neg (by tauto))
  · exact (s.entry_loadEnd w q hL he).trans (if_neg (by tauto))

theorem accLoad_traps {n : BitVec 1} (hd : w.dst = .a n) (hreg : s.regCheck 0x409 w false = .ok ()) (hp : planeReady s n.toNat)
    (hlm : lmCheck s w 1536 false (s.w.active w.guard) = .ok ()) (hecc : lmEcc s.w (s.w.active w.guard) (lmAddr s w) 1536 = .ok ())
    (hne : ∃ L ∈ s.w.active w.guard, ∃ e < 64, (s.w.lmImage L (lmAddr s w) e).2 ≠ (s.w.lmImage L (lmAddr s w) 0).2) :
    LaneTraps (.accLoad w) s .anchor (dw (512 + if n = 1 then 16 else 0)) := by
  have hplane : dstPlane w = n.toNat := by rw [dstPlane, hd]
  rw [← hplane] at hp
  rw [LaneTraps, exec_accLoad_eq hreg hp hlm hecc, need_bind_false (anchors_differ hne), hplane, accFva_dst_image]
  rfl

/-- The entry, with its anchor, that `acc.merge` adds: of plane aS, or of an image in lane memory. -/
def State.mergeSource (s : State) (w : LaneWord) (L e : Nat) : AccEntry × BitVec 10 :=
  if w.bit 20 then (s.w.entry (srcPlane w) L e, s.w.anchorOf (srcPlane w) L) else s.w.lmImage L (lmAddr s w) e

/-- What `acc.merge` reads is ready: its plane aS, or its lane-memory operand. -/
def mergeReady (s : State) (w : LaneWord) : Prop :=
  if w.bit 20 then planeReady s (srcPlane w)
  else lmCheck s w 1536 false (s.w.active w.guard) = .ok () ∧ lmEcc s.w (s.w.active w.guard) (lmAddr s w) 1536 = .ok ()

/-- The wave after `acc.merge`. -/
def State.mergeEnd (s : State) (w : LaneWord) : Wave :=
  s.w.setEntries (dstPlane w) (s.w.active w.guard) fun L e => (s.w.entry (dstPlane w) L e).rawAdd (s.mergeSource w L e).1

/-- `acc.merge` looks at the anchors once what it reads is ready. -/
theorem exec_accMerge_eq (hreg : s.regCheck 0x407 w false = .ok ()) (hp : planeReady s (dstPlane w)) (hsrc : mergeReady s w) :
    exec (.accMerge w) s = finishLane w.mark s (need ((s.w.active w.guard).all fun L => (List.range 64).all fun e =>
        (s.mergeSource w L e).2 == s.w.anchorOf (dstPlane w) L) .anchor (accFva 0 0 (dstPlane w == 1)) >>= fun _ =>
      .ok { s with w := s.mergeEnd w }) := by
  have hfold := s.w.foldl_setEntry (dstPlane w) (s.w.active w.guard) fun L e => (s.w.entry (dstPlane w) L e).rawAdd (s.mergeSource w L e).1
  have hplanes : s.accCheck 0x407 w ([dstPlane w] ++ if w.bit 20 = true then [srcPlane w] else []) = .ok () := by
    refine State.accCheck_ok hreg fun r hr => ?_
    unfold mergeReady at hsrc
    split at hsrc
    next hform =>
      simp only [hform, List.mem_append, List.mem_singleton, if_true] at hr
      rcases hr with rfl | rfl
      · exact hp.1
      · exact hsrc.1
    next hform =>
      simp only [hform, List.append_nil, List.mem_singleton, if_false, Bool.false_eq_true] at hr
      exact hr ▸ hp.1
  have hoperand : (if w.bit 20 = true then .ok () else lmCheck s w 1536 false (s.w.active w.guard)) = .ok () := by
    unfold mergeReady at hsrc
    split
    next => rfl
    next hform =>
      rw [if_neg hform] at hsrc
      exact hsrc.1
  have hwait : (if w.bit 20 = true then s.planeWait (srcPlane w) else lmEcc s.w (s.w.active w.guard) (lmAddr s w) 1536) = .ok () := by
    unfold mergeReady at hsrc
    split
    next hform =>
      rw [if_pos hform] at hsrc
      exact hsrc.2
    next hform =>
      rw [if_neg hform] at hsrc
      exact hsrc.2
  show execAccMerge w s = _
  refine congrArg (finishLane w.mark s) ?_
  refine (ok_bind hplanes).trans ((branch_bind hoperand).trans ((ok_bind hp.2).trans ((branch_bind hwait).trans ?_)))
  exact congrArg (fun x : Wave => need ((s.w.active w.guard).all fun L => (List.range 64).all fun e =>
    (s.mergeSource w L e).2 == s.w.anchorOf (dstPlane w) L) .anchor (accFva 0 0 (dstPlane w == 1)) >>= fun _ => .ok { s with w := x }) hfold

theorem accMerge_adds {n : BitVec 1} (hd : w.dst = .a n) (hreg : s.regCheck 0x407 w false = .ok ()) (hp : planeReady s n.toNat)
    (hsrc : mergeReady s w) (hsame : ∀ L ∈ s.w.active w.guard, ∀ e < 64, (s.mergeSource w L e).2 = s.w.anchorOf n.toNat L) :
    ∃ u : State, exec (.accMerge w) s = .next (u.laneNext w.mark) ∧
      (∀ q L e, L < 16384 → e < 64 → u.w.entry q L e = if q = n.toNat ∧ L ∈ s.w.active w.guard
        then (s.w.entry n.toNat L e).rawAdd (s.mergeSource w L e).1 else s.w.entry q L e) ∧
      u = { s with w := { s.w with acc := u.w.acc } } := by
  have hplane : dstPlane w = n.toNat := by rw [dstPlane, hd]
  rw [← hplane] at hp hsame ⊢
  have hexec : exec (.accMerge w) s = .next (State.laneNext { s with w := s.mergeEnd w } w.mark) := by
    rw [exec_accMerge_eq hreg hp hsrc, need_bind (anchors_agree hsame)]
    rfl
  exact ⟨_, hexec, fun q L e hL he => s.w.entry_setEntries _ (fun _ => Wave.lt_of_mem_active) _ q hL he, rfl⟩

theorem accMerge_traps {n : BitVec 1} (hd : w.dst = .a n) (hreg : s.regCheck 0x407 w false = .ok ()) (hp : planeReady s n.toNat)
    (hsrc : mergeReady s w) (hne : ∃ L ∈ s.w.active w.guard, ∃ e < 64, (s.mergeSource w L e).2 ≠ s.w.anchorOf n.toNat L) :
    LaneTraps (.accMerge w) s .anchor (dw (if n = 1 then 16 else 0)) := by
  have hplane : dstPlane w = n.toNat := by rw [dstPlane, hd]
  rw [← hplane] at hp hne
  rw [LaneTraps, exec_accMerge_eq hreg hp hsrc, need_bind_false (anchors_differ hne), hplane, accFva_dst]
  rfl

theorem mergeReady_memory (hform : w.bit 20 = false) (hlm : lmCheck s w 1536 false (s.w.active w.guard) = .ok ())
    (hecc : lmEcc s.w (s.w.active w.guard) (lmAddr s w) 1536 = .ok ()) : mergeReady s w := by
  rw [mergeReady, if_neg (by simp [hform])]
  exact ⟨hlm, hecc⟩

theorem mergeReady_plane (hform : w.bit 20 = true) (hp : planeReady s (srcPlane w)) : mergeReady s w := by
  rw [mergeReady, if_pos hform]
  exact hp

theorem mergeSource_memory (hform : w.bit 20 = false) (L e : Nat) : s.mergeSource w L e = s.w.lmImage L (lmAddr s w) e :=
  if_neg (by simp [hform])

theorem mergeSource_plane (hform : w.bit 20 = true) (L e : Nat) :
    s.mergeSource w L e = (s.w.entry (srcPlane w) L e, s.w.anchorOf (srcPlane w) L) := if_pos hform

end

/-- Settles O35: each word by its own equation, which stands at its last check; what it leaves is one write of registers, entries or lane
memory. -/
theorem accumulatorWords : Obligations.AccumulatorWords := by
  intro s w
  refine ⟨fun d => resolve_registers, fun hreg hlm hp => resolve_traps hreg hlm hp, fun hform hreg hp hlm hin => resolve_memory hform hreg hp hlm hin,
    fun d => accCmp_compares, accCmp_traps, fun d hd hreg hp => ?flags, accSave_writes, fun n => accLoad_reads, fun n => accLoad_traps,
    fun n hd hform hreg hp hlm hecc hsame => ?merge, fun n hd hreg hp => ⟨fun hform hlm hecc hne => ?mergeTraps, fun hform hq hne => ?planeTraps⟩,
    fun n hd hform hreg hp hq hsame => ?plane⟩
  case flags =>
    obtain ⟨u, hexec, hmap, hframe, hkept, hclear, hu⟩ := accFlags_reads hd hreg hp
    refine ⟨u, hexec, fun L hL e he => (hmap L hL e he).trans (flagRead_eq w _), hframe, hkept, fun hclr q L e hL he => ?_, hu⟩
    rw [hclear hclr q L e hL he, flagsCleared_eq]
    rfl
  case merge =>
    have hsource := mergeSource_memory (s := s) hform
    have hadds := accMerge_adds hd hreg hp (mergeReady_memory hform hlm hecc) fun L hL e he => by rw [hsource]; exact hsame L hL e he
    simp only [hsource] at hadds
    exact hadds
  case mergeTraps =>
    exact accMerge_traps hd hreg hp (mergeReady_memory hform hlm hecc) (by simpa only [mergeSource_memory hform] using hne)
  case planeTraps =>
    obtain ⟨L, hL, hanchor⟩ := hne
    refine accMerge_traps hd hreg hp (mergeReady_plane hform hq) ⟨L, hL, 0, by decide, ?_⟩
    rw [mergeSource_plane hform]
    exact hanchor
  case plane =>
    have hsource := mergeSource_plane (s := s) hform
    have hadds := accMerge_adds hd hreg hp (mergeReady_plane hform hq) fun L hL e _ => by rw [hsource]; exact hsame L hL
    simp only [hsource] at hadds
    exact hadds

end Sys2Proof.Machine

/-! SUPPORT. `spack` (R174): registers written in a row, the elements of a group that are kept, and the words of values and of indices. -/

namespace Sys2Proof.Machine

open Sys2Proof

/-! `spack` (R174). -/

/-- Some registers in a row, written one after another in some lanes. -/
def Wave.writeRegs (w : Wave) (d n : Nat) (lanes : List Nat) (val : Nat → Nat → Word) : Wave :=
  (List.range n).foldl (fun x k => x.writeV (d + k) (lanes.map fun L => (L, val L k))) w

theorem Wave.writeRegs_succ (w : Wave) (d n : Nat) (lanes : List Nat) (val : Nat → Nat → Word) :
    w.writeRegs d (n + 1) lanes val = (w.writeRegs d n lanes val).writeV (d + n) (lanes.map fun L => (L, val L n)) := by
  simp [Wave.writeRegs, List.range_succ]

theorem Wave.writeRegs_eq (w : Wave) (d n : Nat) (lanes : List Nat) (val : Nat → Nat → Word) :
    w.writeRegs d n lanes val = { w with v := (w.writeRegs d n lanes val).v } :=
  foldl_inv (P := fun x : Wave => x = { w with v := x.v }) _ _ w rfl fun x k hx => by
    rw [hx]
    rfl

theorem Wave.mBit_writeRegs (w : Wave) (d n : Nat) (lanes : List Nat) (val : Nat → Nat → Word) (k L : Nat) :
    (w.writeRegs d n lanes val).mBit k L = w.mBit k L := by
  have h := w.writeRegs_eq d n lanes val
  generalize w.writeRegs d n lanes val = x at h ⊢
  rw [h]
  rfl

theorem Wave.v32_writeRegs (w : Wave) (d n : Nat) {lanes : List Nat} (hlanes : ∀ L ∈ lanes, L < 16384) (val : Nat → Nat → Word) (r : Nat) {L : Nat}
    (hL : L < 16384) : (w.writeRegs d n lanes val).v32 r L = if L ∈ lanes ∧ d ≤ r ∧ r < d + n then val L (r - d) else w.v32 r L := by
  induction n with
  | zero => exact (if_neg (by omega)).symm
  | succ n ih =>
    rw [Wave.writeRegs_succ, Wave.v32_writeV _ _ _ hlanes _ hL, ih]
    by_cases hr : r = d + n
    · subst hr
      by_cases hmem : L ∈ lanes
      · rw [if_pos ⟨rfl, hmem⟩, if_pos ⟨hmem, by omega, by omega⟩, Nat.add_sub_cancel_left]
      · rw [if_neg (by tauto), if_neg (by tauto), if_neg (by tauto)]
    · rw [if_neg (by tauto)]
      exact if_congr (and_congr_right fun _ => and_congr_right fun _ => by omega) rfl rfl

/-- Four bits as a condition of an index. -/
def bitsAt (a b c d : Bool) (k : Nat) : Bool := [a, b, c, d].getD k false

theorem filter_bitsAt (nz : Nat → Bool) : (List.range 4).filter nz = (List.range 4).filter (bitsAt (nz 0) (nz 1) (nz 2) (nz 3)) :=
  List.filter_congr fun k hk => by
    have hk := List.mem_range.mp hk
    interval_cases k <;> rfl

/-- The elements of a group that are kept, and whether one is lost (R174). -/
theorem spKeep_eq (nz : Nat → Bool) :
    spKeep nz = ([(keptPair nz).1, (keptPair nz).2], decide (2 < ((List.range 4).filter nz).length)) ∧ (keptPair nz).1 < 4 ∧ (keptPair nz).2 < 4 := by
  have hbits : ∀ a b c d, (spKeep (bitsAt a b c d)).1 = [(keptPair (bitsAt a b c d)).1, (keptPair (bitsAt a b c d)).2] ∧
      (keptPair (bitsAt a b c d)).1 < 4 ∧ (keptPair (bitsAt a b c d)).2 < 4 := by decide
  have hkeep : spKeep nz = spKeep (bitsAt (nz 0) (nz 1) (nz 2) (nz 3)) := by simp only [spKeep, filter_bitsAt nz]
  have hpair : keptPair nz = keptPair (bitsAt (nz 0) (nz 1) (nz 2) (nz 3)) := by simp only [keptPair, filter_bitsAt nz]
  obtain ⟨hlist, hlt⟩ := hbits (nz 0) (nz 1) (nz 2) (nz 3)
  rw [← hkeep, ← hpair] at hlist
  rw [← hpair] at hlt
  exact ⟨Prod.ext hlist rfl, hlt⟩

section
variable (w : Wave) (ty base L : Nat)

/-- Byte `k` of group `g` of column `j` of a dense B (R174). -/
def denseByte (j g k : Nat) : Nat := byteAt (w.v32 (base + 4 * j + g) L) k

/-- Whether it is not zero. -/
def denseNonZero (j g k : Nat) : Bool := spNonZero ty (denseByte w base L j g k)

/-- The index that slot `t` of a group keeps. -/
def keptIndex (j g t : Nat) : Nat := if t = 0 then (keptPair (denseNonZero w ty base L j g)).1 else (keptPair (denseNonZero w ty base L j g)).2

theorem keptIndex_lt (j g t : Nat) : keptIndex w ty base L j g t < 4 := by
  obtain ⟨-, hfirst, hsecond⟩ := spKeep_eq (denseNonZero w ty base L j g)
  unfold keptIndex
  split
  · exact hfirst
  · exact hsecond

theorem byteAt_lt (x : Word) (k : Nat) : byteAt x k < 2 ^ 8 := Nat.mod_lt _ (by decide)

/-- The words of values and of indices that `spack` writes for a lane, by their digits, and whether an element was lost. -/
theorem spackLane_eq : spackLane w ty base L =
    (((List.range 16).map fun r => BitVec.ofNat 32 (digitSum 8 (fun b =>
        denseByte w base L (r / 2) (2 * (r % 2) + b / 2) (keptIndex w ty base L (r / 2) (2 * (r % 2) + b / 2) (b % 2))) 4)) ++
      ((List.range 4).map fun r => BitVec.ofNat 32 (digitSum 2 (fun x => keptIndex w ty base L (2 * r + x / 8) (x / 2 % 4) (x % 2)) 16)),
     (List.range 8).any fun j => (List.range 4).any fun g => decide (2 < ((List.range 4).filter (denseNonZero w ty base L j g)).length)) := by
  unfold spackLane
  extract_lets elem keep kept vals idx
  have helem (j g : Nat) {k : Nat} (hk : k < 4) : elem (4 * g + k) j = denseByte w base L j g k := by
    have hdiv : (4 * g + k) / 4 = g := by omega
    have hmod : (4 * g + k) % 4 = k := by omega
    simp only [elem, denseByte, hdiv, hmod]
  have hkeep (j g : Nat) : keep j g = ([(keptPair (denseNonZero w ty base L j g)).1, (keptPair (denseNonZero w ty base L j g)).2],
      decide (2 < ((List.range 4).filter (denseNonZero w ty base L j g)).length)) := by
    have hgroup : (List.range 4).filter (fun k => spNonZero ty (elem (4 * g + k) j)) = (List.range 4).filter (denseNonZero w ty base L j g) :=
      List.filter_congr fun k hk => by rw [helem j g (List.mem_range.mp hk), denseNonZero]
    rw [← (spKeep_eq _).1]
    simp only [keep, spKeep, hgroup]
  have hkept (j g b : Nat) : kept j g (b % 2) = keptIndex w ty base L j g (b % 2) := by
    simp only [kept, hkeep]
    rcases Nat.mod_two_eq_zero_or_one b with hb | hb <;> rw [hb] <;> rfl
  simp only [vals, idx, hkept, hkeep, helem _ _ (keptIndex_lt ..), digitSum]

/-- Word `r` of those that `spack` writes for a lane. -/
def packedWord (r : Nat) : Word := ((spackLane w ty base L).1[r]?).getD 0

/-- The kept values read back (R173). -/
theorem byteAt_packedWord {j g t : Nat} (hj : j < 8) (hg : g < 4) (ht : t < 2) :
    byteAt (packedWord w ty base L (2 * j + g / 2)) (2 * g % 4 + t) = denseByte w base L j g (keptIndex w ty base L j g t) := by
  have hdigits : ∀ b < 4, denseByte w base L ((2 * j + g / 2) / 2) (2 * ((2 * j + g / 2) % 2) + b / 2)
      (keptIndex w ty base L ((2 * j + g / 2) / 2) (2 * ((2 * j + g / 2) % 2) + b / 2) (b % 2)) < 2 ^ 8 := fun b _ => byteAt_lt _ _
  have hread := digitSum_digit hdigits (show 2 * g % 4 + t < 4 by omega)
  rw [packedWord, spackLane_eq, List.getElem?_append_left (by simp; omega), List.getElem?_map, List.getElem?_range (by omega), Option.map_some,
    Option.getD_some, byteAt, BitVec.toNat_ofNat, Nat.mod_eq_of_lt (digitSum_lt hdigits), hread]
  have hcol : (2 * j + g / 2) / 2 = j := by omega
  have hgroup : 2 * ((2 * j + g / 2) % 2) + (2 * g % 4 + t) / 2 = g := by omega
  have hslot : (2 * g % 4 + t) % 2 = t := by omega
  rw [hcol, hgroup, hslot]

/-- And so do their indices. -/
theorem index_packedWord {j g t : Nat} (hj : j < 8) (hg : g < 4) (ht : t < 2) :
    (packedWord w ty base L (16 + j / 2)).toNat / 2 ^ (16 * (j % 2) + 4 * g + 2 * t) % 4 = keptIndex w ty base L j g t := by
  have hdigits : ∀ x < 16, keptIndex w ty base L (2 * (j / 2) + x / 8) (x / 2 % 4) (x % 2) < 2 ^ 2 := fun x _ => keptIndex_lt ..
  have hread := digitSum_digit hdigits (show 8 * (j % 2) + 2 * g + t < 16 by omega)
  have hplace : 2 * (8 * (j % 2) + 2 * g + t) = 16 * (j % 2) + 4 * g + 2 * t := by omega
  rw [hplace] at hread
  rw [packedWord, spackLane_eq, List.getElem?_append_right (by simp), List.length_map, List.length_range, Nat.add_sub_cancel_left,
    List.getElem?_map, List.getElem?_range (by omega), Option.map_some, Option.getD_some, BitVec.toNat_ofNat,
    Nat.mod_eq_of_lt (digitSum_lt hdigits)]
  refine hread.trans ?_
  have hcol : 2 * (j / 2) + (8 * (j % 2) + 2 * g + t) / 8 = j := by omega
  have hgroup : (8 * (j % 2) + 2 * g + t) / 2 % 4 = g := by omega
  have hslot : (8 * (j % 2) + 2 * g + t) % 2 = t := by omega
  rw [hcol, hgroup, hslot]

/-- A lane loses an element where a group has more than two that are not zero. -/
theorem spackLane_lossy : (spackLane w ty base L).2 = true ↔
    ∃ j < 8, ∃ g < 4, 2 < ((List.range 4).filter (denseNonZero w ty base L j g)).length := by
  simp only [spackLane_eq, List.any_eq_true, List.mem_range, decide_eq_true_eq]

end

section
variable {s : State} {w : LaneWord}

/-- The wave after `spack`. -/
def State.spackEnd (s : State) (w : LaneWord) : Wave :=
  (s.w.writeRegs (dstReg w.dst) 20 (s.w.active w.guard) (packedWord s.w w.ty (srcReg w.a))).writeM (w.fld 21 3).toNat
    ((s.w.active w.guard).map fun L => (L, (spackLane s.w w.ty (srcReg w.a) L).2))

theorem exec_spack_eq (hreg : s.regCheck 0x404 w false = .ok ()) :
    exec (.spack w) s = .next (State.laneNext { s with w := s.spackEnd w } w.mark) := by
  have hend : (fun x : Wave => Wave.writeM ((List.range 20).foldl (fun x r => x.writeV (dstReg w.dst + r)
      (((s.w.active w.guard).map fun L => (L, spackLane s.w w.ty (srcReg w.a) L)).map fun e => (e.1, (e.2.1[r]?).getD 0))) x) (w.fld 21 3).toNat
      (((s.w.active w.guard).map fun L => (L, spackLane s.w w.ty (srcReg w.a) L)).map fun e => (e.1, e.2.2))) s.w = s.spackEnd w := by
    simp only [List.map_map]
    rfl
  show execSpack w s = _
  refine (congrArg (finishLane w.mark s) (ok_bind hreg)).trans ?_
  exact congrArg (fun x : Wave => finishLane w.mark s (.ok { s with w := x })) hend

theorem Wave.writeM_registers {x w : Wave} (h : x = { w with v := x.v }) (k : Nat) (es : List (Nat × Bool)) :
    x.writeM k es = { w with v := (x.writeM k es).v, m := (x.writeM k es).m } := by
  generalize x.v = v at h
  subst h
  rfl

theorem State.spackEnd_eq (s : State) (w : LaneWord) : s.spackEnd w = { s.w with v := (s.spackEnd w).v, m := (s.spackEnd w).m } :=
  Wave.writeM_registers (s.w.writeRegs_eq ..) _ _

theorem State.v32_spackEnd (s : State) (w : LaneWord) (r : Nat) {L : Nat} (hL : L < 16384) : (s.spackEnd w).v32 r L =
    if L ∈ s.w.active w.guard ∧ dstReg w.dst ≤ r ∧ r < dstReg w.dst + 20 then packedWord s.w w.ty (srcReg w.a) L (r - dstReg w.dst)
    else s.w.v32 r L :=
  (congrArg (look 0 · (vKey r L)) (Wave.writeM_v ..)).trans (s.w.v32_writeRegs _ 20 (fun _ => Wave.lt_of_mem_active) _ r hL)

theorem State.mBit_spackEnd (s : State) {w : LaneWord} (hk : (w.fld 21 3).toNat ≠ 0) (k : Nat) {L : Nat} (hL : L < 16384) :
    (s.spackEnd w).mBit k L =
      if k = (w.fld 21 3).toNat ∧ L ∈ s.w.active w.guard then (spackLane s.w w.ty (srcReg w.a) L).2 else s.w.mBit k L := by
  refine (Wave.mBit_writeM _ hk (fun _ => Wave.lt_of_mem_active) _ k hL).trans ?_
  rw [Wave.mBit_writeRegs]

theorem spack_packs {d : BitVec 9} (hd : w.dst = .v d) (hreg : s.regCheck 0x404 w false = .ok ()) (hk : (w.fld 21 3).toNat ≠ 0) :
    ∃ u : State, exec (.spack w) s = .next (u.laneNext w.mark) ∧
      (∀ r L, L < 16384 → (L ∉ s.w.active w.guard ∨ r < d.toNat ∨ d.toNat + 20 ≤ r) → u.w.v32 r L = s.w.v32 r L) ∧
      (∀ L ∈ s.w.active w.guard,
        (∀ j < 8, ∀ g < 4, ∀ t < 2,
          byteAt (u.w.v32 (d.toNat + 2 * j + g / 2) L) (2 * g % 4 + t) =
              denseByte s.w (srcReg w.a) L j g (keptIndex s.w w.ty (srcReg w.a) L j g t) ∧
            (u.w.v32 (d.toNat + 16 + j / 2) L).toNat / 2 ^ (16 * (j % 2) + 4 * g + 2 * t) % 4 = keptIndex s.w w.ty (srcReg w.a) L j g t) ∧
        (u.w.mBit (w.fld 21 3).toNat L = true ↔
          ∃ j < 8, ∃ g < 4, 2 < ((List.range 4).filter (denseNonZero s.w w.ty (srcReg w.a) L j g)).length)) ∧
      (∀ k L, L < 16384 → (k ≠ (w.fld 21 3).toNat ∨ L ∉ s.w.active w.guard) → u.w.mBit k L = s.w.mBit k L) ∧
      u = { s with w := { s.w with v := u.w.v, m := u.w.m } } := by
  have hdst : dstReg w.dst = d.toNat := by rw [hd]; rfl
  rw [← hdst]
  have hword {L k : Nat} (hL : L ∈ s.w.active w.guard) (hk : k < 20) :
      (s.spackEnd w).v32 (dstReg w.dst + k) L = packedWord s.w w.ty (srcReg w.a) L k := by
    rw [State.v32_spackEnd _ _ _ (Wave.lt_of_mem_active hL), if_pos ⟨hL, by omega, by omega⟩, Nat.add_sub_cancel_left]
  refine ⟨_, exec_spack_eq hreg, fun r L hL hout => ?_, fun L hL => ⟨fun j hj g hg t ht => ⟨?_, ?_⟩, ?_⟩, fun k L hL hout => ?_,
    congrArg (fun x : Wave => { s with w := x }) (s.spackEnd_eq w)⟩
  · exact (s.v32_spackEnd w r hL).trans (if_neg fun ⟨hmem, hlo, hhi⟩ => by
      have := hout.resolve_left (not_not_intro hmem)
      omega)
  · dsimp only
    rw [Nat.add_assoc, hword hL (by omega)]
    exact byteAt_packedWord _ _ _ _ hj hg ht
  · dsimp only
    rw [Nat.add_assoc, hword hL (by omega)]
    exact index_packedWord _ _ _ _ hj hg ht
  · dsimp only
    rw [State.mBit_spackEnd s hk _ (Wave.lt_of_mem_active hL), if_pos ⟨rfl, hL⟩]
    exact spackLane_lossy ..
  · exact (s.mBit_spackEnd hk k hL).trans (if_neg (by tauto))

end

end Sys2Proof.Machine

/-! SUPPORT. Sweeps and the accumulator commands (R170, R171, R175 to R177): a sweep from its issue to its completion, and the commands at the head of the
lane queue. -/

namespace Sys2Proof.Machine

open Sys2Proof

/-! One change of a core after another. -/

theorem drop_drop {α : Type} (m : Sparse α) (k : Nat) : drop (drop m k) k = drop m k := by simp [drop, List.filter_filter]

theorem drop_insertKey {α : Type} (m : Sparse α) (k : Nat) (v : α) : drop (insertKey m k v) k = drop m k := by
  induction m with
  | nil => simp [insertKey, drop]
  | cons e m ih =>
    unfold insertKey
    split
    · simp [drop]
    · unfold drop at ih ⊢
      rw [List.filter_cons, List.filter_cons, ih]

/-- Of two writes of one key the second counts. -/
theorem put_put {α : Type} [DecidableEq α] (d : α) (m : Sparse α) (k : Nat) (v v' : α) : put d (put d m k v) k v' = put d m k v' := by
  have hdrop : drop (put d m k v) k = drop m k := by
    unfold put
    split
    · exact drop_drop m k
    · rw [drop_insertKey, drop_drop]
  conv_lhs => rw [put, hdrop]
  rfl

theorem State.core_modCore (s : State) (f : Core → Core) : (s.modCore f).core = f s.core := look_put_self ..

/-- A change of the core that leaves it as it is changes nothing once the core has been written. -/
theorem State.modCore_again (s : State) {f g : Core → Core} {h : Wave → Wave} (hcore : (h s.w).core = s.w.core) (hf : ∀ c, f c = c) :
    ((s.modCore g).modW h).modCore f = (s.modCore g).modW h := by
  refine congrArg (fun c : Sparse Core => ({ s.modW h with cores := c } : State)) ?_
  show put {} (put {} s.cores s.w.core (g s.core)) (h s.w).core (f (look {} (put {} s.cores s.w.core (g s.core)) (h s.w).core)) =
    put {} s.cores s.w.core (g s.core)
  rw [hcore, hf, look_put_self, put_put]

section
variable {s : State} {w : LaneWord} {sp : Bool}

/-! A sweep at issue (R175 to R177). -/

/-- The descriptors of a sweep word, in the order of their checks. -/
def State.sweepPlanes (s : State) (w : LaneWord) (sp : Bool) : List SweepDesc :=
  sweepDescs s.w sp w.ty (s.w.desc (w.fld 16 4).toNat) (s.w.desc (w.fld 12 4).toNat) (s.w.desc (w.fld 8 4).toNat) (s.w.desc (w.fld 4 4).toNat)

/-- The sweep that an unbound word issues. -/
def State.sweepIssued (s : State) (w : LaneWord) (sp : Bool) : SweepOp :=
  { id := s.w.sweepId, sys := s.w.sys, sparse := sp, plane := dstPlane w, ty := w.ty, tile := s.uniform w.a
    da := s.w.dReg (w.fld 16 4).toNat, db := s.w.dReg (w.fld 12 4).toNat, ds := s.w.dReg (w.fld 8 4).toNat, dm := s.w.dReg (w.fld 4 4).toNat
    dsNum := (w.fld 8 4).toNat, bound := none, started := true, bad := none
    prior := (s.core.sb.filter fun e => e.owner == s.w.slot && !(e.kind == 1 && e.ref == s.w.sweepId)).map fun e => (e.kind, e.ref)
    foot := (s.sweepPlanes w sp).map fun y => s.w.interval y.d }

/-- Its scoreboard entries. -/
def State.sweepFoot (s : State) (w : LaneWord) (sp : Bool) : List SbEntry :=
  (s.sweepPlanes w sp).map fun y => s.w.sweepEntry s.w.sweepId y.d

/-- The state once they are recorded. -/
def State.sweepHeld (s : State) (w : LaneWord) (sp : Bool) : State :=
  (s.modCore fun c => { c with sb := c.sb ++ s.sweepFoot w sp }).modW fun x => { x with swTaken := true }

/-- What the word does then: it waits for its granules, and judges its tags (R176 steps 3 and 4). -/
def State.sweepStart (s : State) (w : LaneWord) (sp : Bool) : Res Unit :=
  (s.sweepHeld w sp).sbWait ((s.sweepPlanes w sp).flatMap fun y => s.w.descGranules y.d) false >>= fun _ => sweepTags s.w (s.sweepIssued w sp)

/-- The wave once the sweep is on its way. -/
def Wave.sweepTaken (x : Wave) (op : SweepOp) : Wave := { x with sweeps := x.sweeps ++ [op], sweepId := x.sweepId + 1, binder := none, swTaken := false }

/-- The checks of a sweep word pass, it is bound to no copy, and the scoreboard has room for its entries. -/
structure SweepIssues (s : State) (w : LaneWord) (sp : Bool) (op : Nat) : Prop where
  regs : s.regCheck op w false = .ok ()
  plane : planeReady s (dstPlane w)
  check : sweepCheck s.w sp w.ty (s.sweepPlanes w sp) (s.w.desc (w.fld 16 4).toNat).w (s.w.desc (w.fld 16 4).toNat).num = .ok ()
  unbound : s.w.binder = none
  first : s.w.swTaken = false
  waiting : s.core.sbWait = []
  room : s.sbUsed + (s.sweepFoot w sp).length ≤ 48
  ungranted : s.w.sbGrant ≠ (s.sweepFoot w sp).length

/-- Free entries that no earlier request waits for are taken (R237). -/
theorem State.takeEntries_of_room {s : State} {es : List SbEntry} (hes : es ≠ []) (hgrant : s.w.sbGrant ≠ es.length) (hwait : s.core.sbWait = [])
    (hroom : s.sbUsed + es.length ≤ 48) : s.takeEntries es = .ok (s.modCore fun c => { c with sb := c.sb ++ es }) :=
  (if_neg (by simpa using hes)).trans ((if_neg hgrant).trans (if_pos (by simp [hwait, hroom])))

theorem State.sweepFoot_ne_nil (s : State) (w : LaneWord) (sp : Bool) : s.sweepFoot w sp ≠ [] := by
  simp [State.sweepFoot, State.sweepPlanes, sweepDescs]

/-- A sweep word once its checks have passed: it is on its way, waits with its entries held, or traps and gives them up. -/
theorem sweepWord_issues {op : Nat} (h : SweepIssues s w sp op) :
    (s.sweepStart w sp = .ok () →
      sweepWord sp op w s = .next (((s.sweepHeld w sp).modW fun x => x.sweepTaken (s.sweepIssued w sp)).laneNext w.mark)) ∧
    (s.sweepStart w sp = .error .wait → sweepWord sp op w s = .next ((s.sweepHeld w sp).modW fun x => { x with laneBlocked := true })) ∧
    ∀ c fva, s.sweepStart w sp = trap c fva → sweepWord sp op w s =
      .next ((s.sweepHeld w sp).untakeSweep.raise 1 c fva (s.sweepHeld w sp).untakeSweep.laneTarget (s.sweepHeld w sp).untakeSweep.laneBits) := by
  unfold sweepWord
  extract_lets p num da db ds dm xs op' isCopy es merged recorded
  have hop : op' = s.sweepIssued w sp := by
    unfold op'
    rw [h.unbound]
    rfl
  have hcopy (e : SbEntry) : isCopy e = false := by simp [isCopy, h.unbound]
  have hmerged : es.filter (fun e => !merged e) = s.sweepFoot w sp := by
    rw [List.filter_eq_self.mpr fun e _ => by simp [merged, hcopy]]
    rfl
  have hrecorded : recorded = .ok (s.sweepHeld w sp) := by
    refine (ok_bind (State.accCheck_plane h.regs h.plane)).trans ((ok_bind h.check).trans ((ok_bind h.plane.2).trans ?_))
    refine (if_neg (by simp [h.first])).trans ?_
    rw [hmerged, ok_bind (State.takeEntries_of_room (s.sweepFoot_ne_nil w sp) h.ungranted h.waiting h.room)]
    refine congrArg Except.ok (s.modCore_again rfl fun c => ?_)
    simp [hcopy]
  have hstart : (if s.w.binder.isSome then .ok () else do
      (s.sweepHeld w sp).sbWait (xs.flatMap fun x => s.w.descGranules x.d) false
      sweepTags s.w op') = s.sweepStart w sp := by
    rw [hop]
    exact if_neg (by simp [h.unbound])
  rw [hrecorded]
  dsimp only
  rw [hstart, hop]
  refine ⟨fun hok => ?_, fun hwait => ?_, fun c fva htrap => ?_⟩
  · rw [hok]
    rfl
  · rw [hwait]
  · rw [htrap]
    rfl

theorem Wave.sweepTaken_eq {x : Wave} (hbinder : x.binder = none) (htaken : x.swTaken = false) (op : SweepOp) :
    ({ x with swTaken := true } : Wave).sweepTaken op = { x with sweeps := x.sweeps ++ [op], sweepId := x.sweepId + 1 } := by
  rw [Wave.sweepTaken, ← hbinder, ← htaken]

theorem State.core_sweepHeld (s : State) (w : LaneWord) (sp : Bool) :
    (s.sweepHeld w sp).core.sb = s.core.sb ++ s.sweepFoot w sp :=
  congrArg Core.sb (s.core_modCore fun c => { c with sb := c.sb ++ s.sweepFoot w sp })

/-- What a sweep word leaves once it is on its way. -/
theorem sweepWord_taken {op : Nat} (h : SweepIssues s w sp op) (hstart : s.sweepStart w sp = .ok ()) :
    ∃ u : State, sweepWord sp op w s = .next (u.laneNext w.mark) ∧ u.w.sweeps = s.w.sweeps ++ [s.sweepIssued w sp] ∧
      u.w.sweepId = s.w.sweepId + 1 ∧ u.core.sb = s.core.sb ++ s.sweepFoot w sp ∧
      u = { s with w := { s.w with sweeps := u.w.sweeps, sweepId := u.w.sweepId }, cores := u.cores } :=
  ⟨_, (sweepWord_issues h).1 hstart, rfl, rfl, s.core_sweepHeld w sp,
    congrArg (fun x : Wave => ({ s.sweepHeld w sp with w := x } : State)) (Wave.sweepTaken_eq h.unbound h.first _)⟩

/-! The completion of a sweep (R175, R176). -/

/-- The scale word of a row as the promotions of a sweep read it. -/
def rowScaleOf (w : Wave) (x : SweepOp) (r : Nat) : Word := ((w.rowScales x)[r]?).getD 0

/-- The chunk sums that a sweep adds to entry (i, j) of a lane. -/
def sweepChunks (w : Wave) (x : SweepOp) (L i j : Nat) : List Val :=
  sweepSums w x (rowFmt x.ty (rowScaleOf w x (8 * (L / w.cols) + i))) (rowFmt x.ty (x.tile.setWidth 32)) (8 * (L / w.cols) + i)
    (8 * (L % w.cols) + j)

/-- A sweep promotes the sums of R175 and R177 into every entry of its plane in every lane. -/
theorem sweepPromote_eq (w : Wave) (x : SweepOp) : w.sweepPromote x = w.setEntries x.plane (List.range w.lanes)
    (w.promoted x.plane x.ty (sweepChunks w x) (fun L i => rowScaleOf w x (8 * (L / w.cols) + i)) fun _ => x.tile.setWidth 32) := by
  unfold Wave.sweepPromote
  extract_lets da db dm scales tile row col scale a b ch sums
  have hsums : sums = sweepChunks w x := by
    funext L i j
    simp only [sums, sweepChunks, sweepSums]
    split <;> rfl
  rw [hsums]
  exact w.promoteAll_eq ..

/-- The scale word of a row of dS, where the type has scales. -/
theorem rowScaleOf_eq {w : Wave} {x : SweepOp} {r : Nat} (hty : ¬ x.ty ≤ 5) (hr : r < 8 * w.rows) :
    rowScaleOf w x r = BitVec.ofNat 32 (w.rawElem (descOf 0 x.ds) r 0) := by
  rw [rowScaleOf, Wave.rowScales]
  simp only [if_neg hty, List.getElem?_map, List.getElem?_range hr, Option.map_some, Option.getD_some]
  rfl

theorem promoted_eq_sweepEntry {w : Wave} (x : SweepOp) {L e : Nat} (hL : L < w.lanes) (he : e < 64) :
    w.promoted x.plane x.ty (sweepChunks w x) (fun L i => rowScaleOf w x (8 * (L / w.cols) + i)) (fun _ => x.tile.setWidth 32) L e =
      sweepEntry w x L e := by
  have hr : 8 * (L / w.cols) + e / 8 < 8 * w.rows := by
    have : L / w.cols < w.rows := Nat.div_lt_of_lt_mul (Nat.mul_comm w.rows w.cols ▸ hL)
    omega
  let row : Word := BitVec.ofNat 32 (w.rawElem (descOf 0 x.ds) (8 * (L / w.cols) + e / 8) 0)
  have hfmt : rowFmt x.ty (rowScaleOf w x (8 * (L / w.cols) + e / 8)) = rowFmt x.ty row := by
    by_cases hty : x.ty ≤ 5
    · rw [rowFmt, rowFmt, if_pos hty, if_pos hty]
    · rw [rowScaleOf_eq hty hr]
  have hscale : rowScale x.ty (rowScaleOf w x (8 * (L / w.cols) + e / 8)) = rowScale x.ty row := by
    by_cases hty : x.ty ≤ 5
    · rw [rowScale, rowScale, if_pos hty, if_pos hty]
    · rw [rowScaleOf_eq hty hr]
  rw [Wave.promoted, sweepChunks, hfmt, hscale]
  rfl

/-- The state once a sweep has left `x` of its wave: the sweep and its scoreboard entries are gone. -/
def State.sweepEnded (s : State) (op : SweepOp) (x : Wave) : State :=
  ((({ s with w := x } : State).dropSweep op.id).freeSweep op).modW fun w => { w with blocked := false, laneBlocked := false }

theorem State.sweepEnded_eq (s : State) (op : SweepOp) (x : Wave) :
    s.sweepEnded op x = { s with w := (s.sweepEnded op x).w, cores := (s.sweepEnded op x).cores } := rfl

theorem State.sweepEnded_sweeps (s : State) (op : SweepOp) (x : Wave) : ∀ y ∈ (s.sweepEnded op x).w.sweeps, y.id ≠ op.id := fun _ hy =>
  bne_iff_ne.mp (List.mem_filter.mp hy).2

theorem State.entry_sweepEnded (s : State) (op : SweepOp) (x : Wave) (q L e : Nat) : (s.sweepEnded op x).w.entry q L e = x.entry q L e := rfl

theorem sweepComplete_promotes {k : Nat} {op : SweepOp} (hk : s.w.sweeps[k]? = some op) (hstarted : op.started = true) (hbad : op.bad = none) :
    ∃ t, exec (.sweepComplete k) s = .next t ∧ (∀ y ∈ t.w.sweeps, y.id ≠ op.id) ∧
      (∀ q L e, L < 16384 → e < 64 → t.w.entry q L e =
        if q = op.plane ∧ L < s.w.lanes then sweepEntry s.w op L e else s.w.entry q L e) ∧ t = { s with w := t.w, cores := t.cores } := by
  have hexec : exec (.sweepComplete k) s = .next (s.sweepEnded op (s.w.sweepPromote op)) := by
    show execSweepComplete k s = _
    rw [execSweepComplete, hk]
    exact if_neg (by simp [hstarted, hbad])
  refine ⟨_, hexec, s.sweepEnded_sweeps op _, fun q L e hL he => ?_, s.sweepEnded_eq op _⟩
  rw [State.entry_sweepEnded, sweepPromote_eq, Wave.entry_setEntries _ _ (fun K hK => (List.mem_range.mp hK).trans_le s.w.lanes_le) _ _ hL he]
  simp only [List.mem_range]
  split
  next h =>
    obtain ⟨rfl, hlane⟩ := h
    exact promoted_eq_sweepEntry op hlane he
  next => rfl

/-! The accumulator commands (R170, R171). -/

/-- An accepted command leaves the queue, and nothing else of its end shows outside a single step (R245). -/
theorem finishCmd_ok {t : State} (h : (t.w.stepping && t.w.lstep) = false) : finishCmd s (.ok t) = .next (t.modW fun w =>
    { w with lq := w.lq.tail, laneBlocked := false, blocked := false, qused := w.qused || s.repro, qlw := w.qlw || s.repro }) :=
  congrArg Host.Outcome.next (if_neg (by simpa using h))

/-- A map without the keys that fail a test reads its default there, and as before elsewhere. -/
theorem look_filter_key {α : Type} (d : α) (m : Sparse α) (test : Nat → Bool) (k : Nat) :
    look d (m.filter fun e => test e.1) k = if test k = true then look d m k else d := by
  induction m with
  | nil => simp [look]
  | cons e m ih =>
    obtain ⟨a, v⟩ := e
    rw [List.filter_cons]
    by_cases hak : a = k
    · subst hak
      by_cases ht : test a = true
      · simp [ht, look]
      · simp [ht, ih]
    · by_cases ht : test a = true
      · simp [ht, look, hak, ih]
      · simp [ht, look, hak, ih]

theorem Wave.entry_clearPlane (w : Wave) (p r : Nat) {L e : Nat} (hL : L < 16384) (he : e < 64) :
    (w.clearPlane p).entry r L e = if r = p then {} else w.entry r L e := by
  have hplane : accKey r L e / 64 / 16384 = r := by unfold accKey; omega
  refine (look_filter_key {} w.acc (fun k => k / 64 / 16384 != p) _).trans ?_
  rw [hplane]
  by_cases h : r = p <;> simp [h, Wave.entry]

section
variable {p : Nat} {a : DWord} {wd : Word} {q : Nat} {rest : List Entry}

theorem accClr_applies (hq : s.w.lq = .cmd a wd q (.accClr p) :: rest) (hp : s.planeWait p = .ok ()) (hstep : (s.w.stepping && s.w.lstep) = false) :
    ∃ t, exec .accControlApply s = .next t ∧ t.w.lq = rest ∧ (∀ L e, L < 16384 → e < 64 → t.w.entry p L e = {}) ∧
      (∀ r L e, r ≠ p → L < 16384 → e < 64 → t.w.entry r L e = s.w.entry r L e) ∧ t.w.anchor = s.w.anchor ∧ t = { s with w := t.w } := by
  have hexec : exec .accControlApply s = finishCmd s (.ok (s.modW fun w => w.clearPlane p)) := by
    show execAccControlApply s = _
    unfold execAccControlApply
    rw [hq]
    exact congrArg (finishCmd s) (ok_bind hp)
  exact ⟨_, hexec.trans (finishCmd_ok hstep), congrArg List.tail hq, fun L e hL he => (s.w.entry_clearPlane p p hL he).trans (if_pos rfl),
    fun r L e hr hL he => (s.w.entry_clearPlane p r hL he).trans (if_neg hr), rfl, rfl⟩

theorem accAnc_applies {v : BitVec 10} (hq : s.w.lq = .cmd a wd q (.accAnc p v) :: rest) (hp : s.planeWait p = .ok ())
    (hstep : (s.w.stepping && s.w.lstep) = false) :
    ∃ t, exec .accControlApply s = .next t ∧ t.w.lq = rest ∧ (∀ L e, L < 16384 → e < 64 → t.w.entry p L e = {}) ∧
      (∀ L < s.w.lanes, t.w.anchorOf p L = v) ∧ t = { s with w := t.w } := by
  have hexec : exec .accControlApply s = finishCmd s (.ok { s with w := (s.w.clearPlane p).setAnchors p (List.range s.w.lanes) fun _ => v }) := by
    show execAccControlApply s = _
    unfold execAccControlApply
    rw [hq]
    refine (congrArg (finishCmd s) (ok_bind hp)).trans ?_
    exact congrArg (fun x : Wave => finishCmd s (.ok { s with w := x })) ((s.w.clearPlane p).foldl_setAnchor p (List.range s.w.lanes) fun _ => v)
  have hlanes : ∀ L ∈ List.range s.w.lanes, L < 16384 := fun L hL => (List.mem_range.mp hL).trans_le s.w.lanes_le
  refine ⟨_, hexec.trans (finishCmd_ok hstep), congrArg List.tail hq, fun L e hL he => (s.w.entry_clearPlane p p hL he).trans (if_pos rfl),
    fun L hL => ?_, rfl⟩
  exact ((s.w.clearPlane p).anchorOf_setAnchors p hlanes (fun _ => v) p (hL.trans_le s.w.lanes_le)).trans (if_pos ⟨List.mem_range.mpr hL, rfl⟩)

end
end

/-- Both sweep words, by the density of B. -/
theorem exec_sweepWords (s : State) (w : LaneWord) : ∀ x ∈ [(Instr.sweep w, 0x402, false), (.sweepSp w, 0x403, true)],
    exec x.1 s = sweepWord x.2.2 x.2.1 w s := by
  simp only [List.forall_mem_cons]
  exact ⟨rfl, rfl, by simp⟩

/-- Settles O36: `spack` by the digits of its words; a sweep at issue by how its start ends, and at completion as one write of its plane; each
command by what it does at the head of the queue. -/
theorem sweepAndAccumulatorControl : Obligations.SweepAndAccumulatorControl := by
  intro s w
  refine ⟨fun d => spack_packs, ?sweep, fun k op => sweepComplete_promotes, fun p a wd q rest => accClr_applies, fun p v a wd q rest => accAnc_applies⟩
  case sweep =>
    intro x hx n da xs op foot held hreg hp hcheck hbinder htaken hwait hroom hgrant
    have hissues : SweepIssues s w x.2.2 x.2.1 := ⟨hreg, hp, hcheck, hbinder, htaken, hwait, hroom, hgrant⟩
    obtain ⟨-, hwaits, htraps⟩ := sweepWord_issues hissues
    rw [exec_sweepWords s w x hx]
    refine ⟨fun hsb => ⟨fun htags => ?_, fun c fva htags => ?_⟩, fun hsb => ?_⟩
    · exact sweepWord_taken hissues ((ok_bind hsb).trans htags)
    · exact htraps c fva ((ok_bind hsb).trans htags)
    · exact hwaits (error_bind hsb)

end Sys2Proof.Machine
